-- ==== Sys2Proof/Word.lean ====
section
/-! DEFINITION. Word types and the sparse table type. Tick and step numbers, instants in ns, chip
numbers, addresses and lengths are `Nat`; what the manual treats as bits is a `BitVec`. -/

namespace Sys2Proof

/-- One byte (R2, R3). -/
abbrev Byte := BitVec 8
/-- A 32-bit word: an FP32 encoding, an instruction's IMM. -/
abbrev Word32 := BitVec 32
/-- A 64-bit word: a scalar register, a CSR slot. -/
abbrev Word64 := BitVec 64

/-- A sparse table: keys strictly rising, no entry equal to the table's default
(`Sys2Proof/Machine/Tab.lean` reads and writes it; memory is such a table of bytes). -/
abbrev Tab (α : Type) := List (Nat × α)

end Sys2Proof
end

