-- ==== Sys2Proof/Syntax.lean ====
section
/-! DEFINITION. The commands the block takes: one constructor of `Instr` for each row of the opcode table,
with the operands the manual gives the command or the environment supplies (an instant, a measured value,
an arriving carriage). Instants are ns since cold boot. -/

namespace Sys2Proof

/-- A unit of R433: kind and index. -/
structure UnitId where
  kind : Nat
  index : Nat
  deriving DecidableEq, Repr

/-- An ADMIN entry as the device read it, less its OWN byte (R329). `reserved` says whether a reserved byte is not zero;
`slot` is its ring slot. -/
structure AdminEntry where
  slot : Nat
  tag : Nat
  arg0 : Nat
  arg1 : Nat
  arg2 : Nat
  arg3 : Nat
  paramAddr : Nat
  paramBytes : Nat
  reserved : Bool
  deriving DecidableEq, Repr

/-- The fields of a Trelet instruction word below its opcode (R284). -/
structure Fields where
  d : BitVec 6
  a : BitVec 6
  b : BitVec 6
  c : BitVec 6
  imm : BitVec 32
  deriving DecidableEq, Repr

/-- What the header of an arriving carriage says at its link interface (R167). -/
structure Rx where
  li : Nat
  cls : Nat
  hops : Nat
  src : Nat
  seq : Nat
  ackSeq : Nat
  credPool : Nat
  credCount : Nat
  nak : Bool
  deriving DecidableEq, Repr

/-- The payload of a MARK carriage (R28). -/
structure MarkMsg where
  tickNum : Nat
  stepNum : Nat
  slot : Nat
  mkind : Nat
  stretched : Bool
  abandon : Bool
  handover : Bool
  lateOpen : Bool
  returnDone : Bool
  skipReq : Bool
  committed : Bool
  haltReq : Bool
  countdownNs : Nat
  stretchNs : Nat
  ttId : Nat
  sourceChip : Nat
  lateChip : Nat
  latenessNs : Nat
  nextChip : Nat
  hurdle : Nat
  lateKind : Nat
  deriving DecidableEq, Repr

/-- The payload of a PACE carriage (R160). -/
structure PaceMsg where
  tickNum : Nat
  slowChip : Nat
  kind : Nat
  pace : Nat
  hold : Nat
  deriving DecidableEq, Repr

/-- One entry of an IDX payload (R142). -/
structure IdxEntry where
  row : Nat
  table : Nat
  die : Nat
  deriving DecidableEq, Repr

/-- An IDX carriage's type field and payload (R142). -/
structure IdxMsg where
  tick16 : Nat
  leg : Nat
  firstSeq : Nat
  entries : List IdxEntry
  deriving DecidableEq, Repr

/-- A ROW carriage's type field and payload (R142). -/
structure RowMsg where
  tick16 : Nat
  leg : Nat
  rows : Nat
  firstSeq : Nat
  part : Nat
  zeroed : BitVec 16
  payload : List Byte
  deriving DecidableEq, Repr

/-- A GRAD carriage's type field and payload (R143). -/
structure GradMsg where
  step32 : Nat
  tick16 : Nat
  row : Nat
  table : Nat
  part : Nat
  bf16 : Bool
  payload : List Byte
  deriving DecidableEq, Repr

/-- A DENSE carriage's type field and payload (R143). `kind`: 0 leaf, 1 partial sum, 2 all-gather. -/
structure DenseMsg where
  step32 : Nat
  tick16 : Nat
  tensor : Nat
  group : Nat
  part : Nat
  kind : Nat
  fmt : Nat
  shear : Nat
  stage : Nat
  payload : List Byte
  deriving DecidableEq, Repr

/-- A BULK carriage's type field and payload (R168). -/
structure BulkMsg where
  bseq : Nat
  stream : Nat
  table : Nat
  slot : Nat
  chunk : Nat
  payload : List Byte
  deriving DecidableEq, Repr

/-- The PLAN_DIGEST payload (R168). `kind`: 0 report, 1 verdict. -/
structure PlanDigestMsg where
  digest : List Byte
  planId : Nat
  kind : Nat
  verdict : Nat
  chip : Nat
  deriving DecidableEq, Repr

/-- A digest query or the naming part of its reply (R194). -/
structure DigestNode where
  round : Nat
  region : Nat
  level : Nat
  node : Nat
  deriving DecidableEq, Repr

/-- REPAIR_ORDER (R194). -/
structure RepairOrderMsg where
  tick : Nat
  region : Nat
  block : Nat
  outlier : Nat
  reference : Nat
  deriving DecidableEq, Repr

/-- REPAIR_DATA (R194). -/
structure RepairDataMsg where
  region : Nat
  block : Nat
  chunk : Nat
  refDigest : Word64
  payload : List Byte
  deriving DecidableEq, Repr

/-- REPAIR_DONE (R194). -/
structure RepairDoneMsg where
  region : Nat
  block : Nat
  result : Nat
  digest : Word64
  deriving DecidableEq, Repr

/-- What a LINK carriage asks or reports beside its header (R171, R178): a lane dropped or restored by the peer receiver. -/
inductive LaneRequest where
  | none
  | drop (lane : Nat)
  | restore (lane : Nat)
  deriving DecidableEq, Repr

/-- What a carriage carries, by TYPE and, for CTRL, by SUBTYPE (R167, R168, R194). -/
inductive Body where
  | idx (m : IdxMsg)
  | row (m : RowMsg)
  | grad (m : GradMsg)
  | dense (m : DenseMsg)
  | mark (m : MarkMsg)
  | pace (m : PaceMsg)
  | bulk (m : BulkMsg)
  | link (lane : LaneRequest)
  | echoReq (timeNs : Nat)
  | echoRsp (timeNs : Nat)
  | linkId (chip li : Nat) (digest : List Byte)
  | linkState (li lastSeq : Nat)
  | accept (tick16 leg count : Nat)
  | planDigest (m : PlanDigestMsg)
  | digestRoot (round : Nat) (root : Word64) (void : Bool)
  | digestQuery (n : DigestNode)
  | digestReply (n : DigestNode) (digests : List (Nat × Word64))
  | repairOrder (m : RepairOrderMsg)
  | repairData (m : RepairDataMsg)
  | repairDone (m : RepairDoneMsg)
  | digestAbort (round : Nat)
  deriving DecidableEq, Repr

/-- How a transit carriage's crossing of the module turned out (R175, R311): clean, an ingress CRC failure, or a
byte-parity error with the number of failed attempts (1 or 2 before a resend passed, 3 when every resend failed). -/
inductive Crossing where
  | clean
  | crcFail
  | parity (failed : Nat)
  deriving DecidableEq, Repr

/-- Why a lane is dropped (R178, R182). -/
inductive LaneCause where
  | symbolErrors
  | cdrLock
  | laser
  | peerRequest
  deriving DecidableEq, Repr

/-- Where a security mailbox command came from (R391): the CSR mailbox, or a management path with its payload. -/
inductive MboxReq where
  | csr
  | mctp (endpoint : Nat) (payload : List Byte)
  deriving DecidableEq, Repr

/-- Measured values of a tick that the telemetry record and the learned leg powers need (R355, R364). -/
structure TickMeasure where
  avgW : Nat
  peakW : Nat
  /-- per leg: average measured W over the leg's interval, and the average applied bubble ratio in 1/64 -/
  legs : List (Nat × Nat)
  idleUs : List Nat
  deriving DecidableEq, Repr

/-- What a grazing slice got done (R318, R367). -/
structure SliceWork where
  /-- lines read, or where the pass stands in 1/1,024 -/
  amount : Nat
  /-- lines of the slice that failed every attempt, by number in the die -/
  bad : List Nat := []
  deriving DecidableEq, Repr

/-- The end of a self-test slice (R371, R374): what was run and how it came out. -/
structure BistOutcome where
  /-- 0 logic, 1 SRAM (R378) -/
  test : Nat
  /-- the failing pattern batch or march segment, or the last one run -/
  step : Nat
  /-- logic coverage of the pass so far, 0.01 % -/
  logicCov : Nat
  /-- SRAM cells marched in the pass so far, 0.01 % -/
  sramCov : Nat
  us : Nat
  /-- a first run failed -/
  firstFail : Bool
  /-- the rerun failed too -/
  rerunFail : Bool
  /-- the pass is complete with this slice -/
  passEnds : Bool
  deriving DecidableEq, Repr

/-- Outcome of a training attempt of a link: admitted transmit and receive lanes (R177, R179). -/
structure Training where
  txMask : BitVec 4
  rxMask : BitVec 4
  ok : Bool
  deriving DecidableEq, Repr

/-- The commands of the block, in the order of spec/opcode_table.json. -/
inductive Instr where
  -- ADMIN commands (R332)
  | planLoad (e : AdminEntry)
  | jobStart (now : Nat) (e : AdminEntry)
  | jobReset (now : Nat) (e : AdminEntry)
  | queueCreate (e : AdminEntry)
  | queueDelete (e : AdminEntry)
  | timetableLoad (e : AdminEntry)
  | timetableSwitch (e : AdminEntry)
  | bellwetherHandover (e : AdminEntry)
  | tileMapSwitch (e : AdminEntry)
  | descriptorLoad (e : AdminEntry)
  | programLoad (e : AdminEntry)
  | flockLoad (e : AdminEntry)
  | foldLoad (e : AdminEntry)
  | foldSwitch (e : AdminEntry)
  | rowRepair (e : AdminEntry)
  | commitRollback (e : AdminEntry)
  | handoverPrepare (e : AdminEntry)
  | handoverCopyDone (map : Nat)
  | handoverSwitch (e : AdminEntry)
  | snapshotStart (e : AdminEntry)
  | snapshotAbort (e : AdminEntry)
  | mapoutAdd (e : AdminEntry)
  | mapoutRemove (e : AdminEntry)
  | memReconfigure (e : AdminEntry)
  | bootConfig (e : AdminEntry)
  | rdmaMrRegister (e : AdminEntry)
  | rdmaMrDeregister (e : AdminEntry)
  | rdmaQpSet (e : AdminEntry)
  | nvmfAttach (e : AdminEntry)
  -- security mailbox (R391)
  | nonce (now : Nat) (r : MboxReq)
  | nonceExpiry (now : Nat)
  | unlock (now : Nat) (r : MboxReq)
  | key (r : MboxReq)
  | claim (r : MboxReq)
  | raiseSvn (r : MboxReq)
  -- register commands with behaviour of their own
  | linkCtlRetrain (now li : Nat)
  | linkCtlTakeDown (now li : Nat)
  | linkCtlBringUp (now li : Nat)
  | laserDrain (now lm : Nat)
  | laserDrainComplete (lm : Nat)
  | pcDrain (die pc : Nat)
  | pcDrainComplete (die pc : Nat) (retrained : Bool)
  | pcFence (die pc : Nat)
  | bistQueuePass (kind index : Nat)
  | privTest (inWindow : Bool) (pass : BitVec 3) (drivers : BitVec 12)
  | requalify (kind index : Nat) (outcome : BistOutcome)
  | fwGo (target image : Nat)
  | fwActivation (now : Nat)
  | fwRevert (now blackoutUs : Nat)
  | hqAttach (now path : Nat)
  | hqDetach (now : Nat)
  | hqHeartbeat (now beat : Nat)
  | heartbeatTimeout (now : Nat)
  | doorbell (now queue : Nat)
  | doorbellReread (now : Nat)
  | adminPoll (now : Nat)
  | staleDescriptorTimeout (now queue ms : Nat)
  | tileReset (tile : Nat)
  | tallyClear (offset value : Nat)
  | gscaleWrite (bank flock half : Nat) (value : Word64)
  | pwCapWrite (now watts : Nat)
  | hqRegionCtlWrite (n : Nat) (value : Word32)
  | registerWrite (now offset size : Nat) (value : Word64)
  -- Trelet scalar (R289)
  | add (tile : Nat) (f : Fields)
  | sub (tile : Nat) (f : Fields)
  | mul (tile : Nat) (f : Fields)
  | and (tile : Nat) (f : Fields)
  | or (tile : Nat) (f : Fields)
  | xor (tile : Nat) (f : Fields)
  | shl (tile : Nat) (f : Fields)
  | shr (tile : Nat) (f : Fields)
  | sra (tile : Nat) (f : Fields)
  | slt (tile : Nat) (f : Fields)
  | sltu (tile : Nat) (f : Fields)
  | addi (tile : Nat) (f : Fields)
  | muli (tile : Nat) (f : Fields)
  | andi (tile : Nat) (f : Fields)
  | ori (tile : Nat) (f : Fields)
  | xori (tile : Nat) (f : Fields)
  | shli (tile : Nat) (f : Fields)
  | shri (tile : Nat) (f : Fields)
  | srai (tile : Nat) (f : Fields)
  | slti (tile : Nat) (f : Fields)
  | sltiu (tile : Nat) (f : Fields)
  | lih (tile : Nat) (f : Fields)
  | ld (tile : Nat) (f : Fields)
  | st (tile : Nat) (f : Fields)
  -- Trelet branch and sync (R290)
  | jmp (tile : Nat) (f : Fields)
  | beq (tile : Nat) (f : Fields)
  | bne (tile : Nat) (f : Fields)
  | blt (tile : Nat) (f : Fields)
  | bge (tile : Nat) (f : Fields)
  | bltu (tile : Nat) (f : Fields)
  | bgeu (tile : Nat) (f : Fields)
  | jal (tile : Nat) (f : Fields)
  | jr (tile : Nat) (f : Fields)
  | waitTok (tile : Nat) (f : Fields)
  | waitLeg (now tile : Nat) (f : Fields)
  | hurdle (now tile : Nat) (f : Fields)
  | hurdleRelease (now h instanceDie : Nat)
  | engineStaggerStart (now tile engine : Nat)
  -- Trelet vector (R293)
  | vld (tile : Nat) (f : Fields)
  | vst (tile : Nat) (f : Fields)
  | vadd (tile : Nat) (f : Fields)
  | vsub (tile : Nat) (f : Fields)
  | vmul (tile : Nat) (f : Fields)
  | vfma (tile : Nat) (f : Fields)
  | vmin (tile : Nat) (f : Fields)
  | vmax (tile : Nat) (f : Fields)
  | vabs (tile : Nat) (f : Fields)
  | vneg (tile : Nat) (f : Fields)
  | vdiv (tile : Nat) (f : Fields)
  | vsqrt (tile : Nat) (f : Fields)
  | vrsqrt (tile : Nat) (f : Fields)
  | vexp2 (tile : Nat) (f : Fields)
  | vlog2 (tile : Nat) (f : Fields)
  | vcmpEq (tile : Nat) (f : Fields)
  | vcmpNe (tile : Nat) (f : Fields)
  | vcmpLt (tile : Nat) (f : Fields)
  | vcmpLe (tile : Nat) (f : Fields)
  | vsel (tile : Nat) (f : Fields)
  | vcvt (tile : Nat) (f : Fields)
  | vand (tile : Nat) (f : Fields)
  | vor (tile : Nat) (f : Fields)
  | vxor (tile : Nat) (f : Fields)
  | vshl (tile : Nat) (f : Fields)
  | vshr (tile : Nat) (f : Fields)
  | vsra (tile : Nat) (f : Fields)
  | vmov (tile : Nat) (f : Fields)
  | mand (tile : Nat) (f : Fields)
  | mor (tile : Nat) (f : Fields)
  | mxor (tile : Nat) (f : Fields)
  | vrsum (tile : Nat) (f : Fields)
  | vrmax (tile : Nat) (f : Fields)
  | vrmin (tile : Nat) (f : Fields)
  | rclr (tile : Nat) (f : Fields)
  | rread (tile : Nat) (f : Fields)
  | vfrd (tile : Nat) (f : Fields)
  | vfclr (tile : Nat) (f : Fields)
  -- Trelet matrix (R296 to R298)
  | mma (tile : Nat) (zero : Bool) (f : Fields)
  | mmaComplete (tile engine : Nat)
  | drain (tile : Nat) (f : Fields)
  | drainComplete (tile engine : Nat)
  -- Trelet drover and embedding (R299, R300)
  | dmv (tile : Nat) (f : Fields)
  | dmvComplete (tile index : Nat)
  | dmvDense (tile : Nat) (f : Fields)
  | embLook (tile : Nat) (f : Fields)
  | embLookComplete (tile batch : Nat)
  | embGrad (tile : Nat) (f : Fields)
  | embGradComplete (tile index : Nat)
  | embPost (now tile : Nat) (f : Fields)
  -- Trelet system (R301)
  | nop (tile : Nat) (f : Fields)
  | sysrd (now tile : Nat) (f : Fields)
  | trap (now tile : Nat) (f : Fields)
  | tileMoveComplete (now logical : Nat)
  -- tick unit (R19 to R43)
  | markSend (now : Nat)
  | markReceive (now : Nat) (rx : Rx) (m : MarkMsg)
  | tickStart (now : Nat) (meas : TickMeasure)
  | holdoverTick (now : Nat) (meas : TickMeasure)
  | stretchLimit (now : Nat)
  | jobFirstTick (now : Nat)
  | legStart (now leg : Nat)
  | applyStart (now : Nat)
  | legDeadline (now tick leg : Nat)
  | legComplete (now tick leg kind step : Nat)
  | unitWake (now : Nat) (u : UnitId)
  | unplannedWake (now : Nat) (u : UnitId)
  | ackReceive (now : Nat) (rx : Rx) (m : MarkMsg)
  | applyGoReceive (now : Nat) (rx : Rx) (m : MarkMsg)
  | applyEndReceive (now : Nat) (rx : Rx) (m : MarkMsg)
  | haltReceive (now : Nat) (rx : Rx) (m : MarkMsg)
  | paceReceive (now : Nat) (rx : Rx) (m : PaceMsg)
  | echoTimer (now : Nat)
  | echoReq (now : Nat) (rx : Rx) (timeNs : Nat)
  | echoRsp (now : Nat) (rx : Rx) (timeNs : Nat)
  | planDigest (now : Nat) (rx : Rx) (m : PlanDigestMsg)
  | planDigestTimeout (now : Nat)
  | planVerdictTimeout (now : Nat)
  | arrive (now : Nat) (rx : Rx) (m : MarkMsg)
  | release (now : Nat) (rx : Rx) (m : MarkMsg)
  -- exchange (R142 to R161)
  | idxReceive (now : Nat) (rx : Rx) (m : IdxMsg)
  | rowSend (now dest : Nat)
  | rowReceive (now : Nat) (rx : Rx) (m : RowMsg)
  | gradReceive (now : Nat) (rx : Rx) (m : GradMsg)
  | denseReceive (now : Nat) (rx : Rx) (lg : Nat) (m : DenseMsg)
  | acceptSend (now : Nat)
  | accept (now : Nat) (rx : Rx) (tick16 leg count : Nat)
  | bulkReceive (now : Nat) (rx : Rx) (m : BulkMsg)
  | transitCarriage (now : Nat) (rx : Rx) (dest lg : Nat) (body : Body) (crossing : Crossing)
  -- row unit (R85 to R114)
  | lookup (now die queue index : Nat)
  | serveRead (now die queue index : Nat)
  | accumulate (now die queue index : Nat)
  | apply (now die queue index : Nat)
  | ringIndexBlock (die : Nat)
  | migrate (now die queue index : Nat)
  | exportRow (now die queue index : Nat)
  | commit (now : Nat)
  -- folds, digests, snapshots (R184 to R210)
  | foldRelease (kind num : Nat)
  | digestRoundStart
  | digestSlice (now j : Nat) (inTime : Bool)
  | digestRoot (now : Nat) (rx : Rx) (round : Nat) (root : Word64) (void : Bool)
  | digestCompare (now : Nat)
  | digestQuery (now : Nat) (rx : Rx) (n : DigestNode)
  | digestReply (now : Nat) (rx : Rx) (n : DigestNode) (digests : List (Nat × Word64))
  | descentTimeout (now : Nat)
  | repairOrder (now : Nat) (rx : Rx) (m : RepairOrderMsg)
  | repairTick (now : Nat)
  | repairData (now : Nat) (rx : Rx) (m : RepairDataMsg)
  | repairDone (now : Nat) (rx : Rx) (m : RepairDoneMsg)
  | repairDeadline (now region block outlier : Nat)
  | digestAbort (now : Nat) (rx : Rx) (round : Nat)
  | snapshotTick (now : Nat)
  | snapshotWriteComplete (now extent mib : Nat)
  | snapshotTargetError (now extent : Nat)
  -- links and lasers (R162 to R183)
  | carriageCrcError (now li : Nat) (stomped : Bool)
  | nak (now : Nat) (rx : Rx)
  | nakRepeat (now li : Nat)
  | link (now : Nat) (rx : Rx) (lane : LaneRequest)
  | linkAckTimeout (now li : Nat)
  | retrainTimeout (now li : Nat)
  | retrainComplete (now li : Nat) (t : Training)
  | linkState (now : Nat) (rx : Rx) (peerLi lastSeq : Nat)
  | linkStateTimeout (now li : Nat)
  | linkTrainComplete (now li : Nat) (t : Training)
  | linkId (now : Nat) (rx : Rx) (chip peerLi : Nat) (digest : List Byte)
  | laneDrop (now li lane : Nat) (transmit : Bool) (cause : LaneCause) (ser : Nat)
  | cdrTrim (now : Nat) (passed : List (Nat × Nat)) (sers : List (Nat × Nat))
  | laserEol (now lm laser bias power : Nat)
  | laserFailure (now lm laser bias power : Nat) (overTemp : Bool)
  | laserModuleRemoved (now lm : Nat)
  | laserModuleInserted (now lm : Nat) (supported : Bool)
  -- host and external interfaces (R323 to R350)
  | windowRead (now offset length : Nat)
  | windowWrite (now offset : Nat) (data : List Byte)
  | rdmaWriteReceive (now qp rkey addr : Nat) (data : List Byte)
  | rdmaReadReceive (now qp rkey addr length : Nat)
  | rdmaSendReceive (now qp : Nat) (data : List Byte)
  | eventOverflowDrain (now : Nat)
  | pcieLinkLoss (now : Nat)
  | pciePerstN (now : Nat) (level : Bool)
  | ptpMessage (now port : Nat) (announce : Bool) (facilityNs : Nat)
  | ptpAnnounceTimeout (now : Nat)
  | ppsIn (now : Nat)
  | ppsTimeout (now : Nat)
  | tickIn (now : Nat)
  -- power and thermal (R351 to R366)
  | idleMeasure (now watts : Nat)
  | capLoopUpdate (now p10 : Nat)
  | ocpTrip (now : Nat)
  | ocpRecover (now : Nat)
  | ocpShutdown (now : Nat)
  | droopDetect (now die minMv cycles : Nat)
  | droopEnd (now die cycles : Nat)
  | thermalSample (now : Nat) (dieTemps stackTemps : List Int) (engine inlet : Int)
  | thermalTrip (now die : Nat) (temp : Int)
  -- grazing and self-test (R367 to R384)
  | grazeSlice (now task unit : Nat) (work : SliceWork)
  | forcedSlice (now task unit : Nat) (work : SliceWork) (lengthNs : Nat)
  | bistSlice (now : Nat) (kind index : Nat) (outcome : BistOutcome)
  | taskPeriodEnd (now task unit : Nat)
  | sensorCalibration (now die : Nat)
  | laserAgeingCompensation (now : Nat) (bias : List Nat)
  | norLogLevelling (now : Nat)
  | tileRotation (now : Nat)
  | refresh (now die : Nat)
  | parityRetry (now point : Nat) (u : UnitId) (addr failed content source : Nat) (sender : UnitId)
  -- power-up, reset, pins (R402 to R424)
  | pwrEnRise (now : Nat)
  | bootPhaseComplete (now : Nat) (failed : List UnitId) (images : BitVec 8)
  | bootPhaseTimeout (now : Nat)
  | pwrEnFall (now : Nat)
  | inputOutOfRange (now : Nat)
  | inputInRange (now : Nat)
  | modRstNFall (now : Nat)
  | watchdog (now : Nat) (images : BitVec 8)
  | modRstNRise (now : Nat) (images : BitVec 8)
  | hostRstN (now : Nat) (level : Bool)
  | jtagExtestEntry (now : Nat)
  | jtagScanExit (now : Nat)
  -- security and management protocols (R394 to R399)
  | getVersion (endpoint : Nat)
  | getCapabilities (endpoint : Nat)
  | negotiateAlgorithms (endpoint : Nat)
  | getDigests (endpoint : Nat)
  | getCertificate (endpoint slot offset length : Nat)
  | challenge (endpoint slot : Nat) (nonce : List Byte)
  | getMeasurements (endpoint : Nat) (signed : Bool) (nonce : List Byte)
  | spdmUnsupportedRequest (endpoint code : Nat)
  | requestUpdate (endpoint : Nat)
  | firmwareImageTransfer (component : Nat) (image : List Byte)
  | activateFirmware (now component : Nat)
  | pldmSetCap (now endpoint watts : Nat)
  | pldmSensorRead (endpoint sensor : Nat)
  -- completions and late rows of the table
  | foldLoadComplete (target num : Nat)
  | memReconfigureComplete
  | hqRegionCtlRead (n : Nat)
  | pluggableInsertion (port powerW : Nat)
  | dynamicAddressAssignment (address : Nat) (daa : Bool)
  | peerRetrain (now li : Nat)
  deriving DecidableEq, Repr

end Sys2Proof
end

