-- ==== Sys2Proof/Config.lean ====
section
/-! DEFINITION. What the manual leaves open, as constants with no body: a claim proved of the model
holds whatever these are. Log entries 3 to 8 name each. -/

namespace Sys2Proof.Config

/-- DESIGN CHOICE (log 3). The supply of free values: the n-th 64-bit value the manual leaves undefined
(an undefined read under R268, an overwritten operand under R230, ...), n being the state's counter. -/
opaque freeWord : Nat → BitVec 64

/-- DESIGN CHOICE (log 4). vexp2: "a fixed function of A, identical on every tile" (R250), within one unit in
the last place; its value for a finite operand is not given. -/
opaque exp2 : BitVec 32 → BitVec 32

/-- DESIGN CHOICE (log 4). vlog2 of a positive finite operand (R250). -/
opaque log2 : BitVec 32 → BitVec 32

/-- DESIGN CHOICE (log 5). Word w of the n-th 32-byte random nonce (R391). -/
opaque nonceWord : Nat → Nat → BitVec 64

/-- DESIGN CHOICE (log 6). The 384-byte signature that the identity key makes over a message (R393, R394):
the private key never leaves the block. -/
opaque identitySign : List (BitVec 8) → List (BitVec 8)

/-- DESIGN CHOICE (log 6). The certificate chain of slot 0 in DER form (R393): its bytes are not in the manual. -/
opaque certChain : List (BitVec 8)

/-- DESIGN CHOICE (log 7). The boot ROM's contents (R395 index 1). -/
opaque romBytes : List (BitVec 8)

/-- DESIGN CHOICE (log 8). The remote key that the n-th RDMA_MR_REGISTER returns (R332: "the remote key"). -/
opaque remoteKey : Nat → Nat

/-- DESIGN CHOICE (log 7). The device serial number, from the fuses (R385, R401). -/
opaque serial : Nat

/-- DESIGN CHOICE (log 7). The fused hash of the Svetilpel firmware root key (R385). -/
opaque rootKeyHash : List (BitVec 8)

/-- DESIGN CHOICE (log 7). The fused hash of the Svetilpel debug key (R385). -/
opaque debugKeyHash : List (BitVec 8)

/-- DESIGN CHOICE (log 7). The fuse configuration as R395 index 1 measures it: security version, lifecycle and owner key hash
(empty while blank); its layout is not in the manual. -/
opaque fuseBytes : Nat → List (BitVec 8) → List (BitVec 8)

/-- DESIGN CHOICE (log 7). The firmware image that NOR flash holds at manufacture, by 2 × component + image (R388). -/
opaque image : Nat → List (BitVec 8)

/-- DESIGN CHOICE (log 69). Parity symbol k of an RS(544,514) codeword, from its data symbols: R164 names the code and not its
generator. -/
opaque rsParity : List (BitVec 10) → Nat → BitVec 10

/-- DESIGN CHOICE (log 69). Bit n of the idle fill that completes a codeword (R164): its content is not given. -/
opaque idleBit : Nat → Bool

/-- DESIGN CHOICE (log 69). Byte k of the payload of a LINK carriage that asks for a lane: R178 gives the request and no place for
it, and R168 says the payload is ignored. The request is coded 4 × (0 drop, 1 restore) + lane. -/
opaque lanePayload : Nat → Nat → BitVec 8

end Sys2Proof.Config
end

