-- ==== Sys2Proof/Machine/Num.lean ====
section
/-! DEFINITION. Number formats, rounding, exception flags and conversions (R45 to R62), on exact dyadic values. -/

namespace Sys2Proof.Machine

/-- An exact value: NaN, an infinity, or (−1)^neg × m × 2^e. -/
inductive Fp where
  | nan
  | inf (neg : Bool)
  | fin (neg : Bool) (m : Nat) (e : Int)
  deriving DecidableEq, Repr

/-- Flags of R61, as the bits of VFLAGS: 0 invalid, 1 overflow, 2 underflow, 3 inexact, 4 NaN produced. -/
abbrev FpFlags := BitVec 5

def flInvalid : FpFlags := 1
def flOverflow : FpFlags := 2
def flUnderflow : FpFlags := 4
def flInexact : FpFlags := 8
def flNan : FpFlags := 16

/-- A floating format: exponent and fraction widths, bias, and whether it follows the narrow convention (R46, R48, R49). -/
structure FpFmt where
  ebits : Nat
  mbits : Nat
  bias : Nat
  narrow : Bool
  deriving DecidableEq, Repr

def fmtFp32 : FpFmt := { ebits := 8, mbits := 23, bias := 127, narrow := false }
def fmtFp16 : FpFmt := { ebits := 5, mbits := 10, bias := 15, narrow := false }
def fmtBf16 : FpFmt := { ebits := 8, mbits := 7, bias := 127, narrow := false }
def fmtE4m3 : FpFmt := { ebits := 4, mbits := 3, bias := 7, narrow := true }
def fmtE5m2 : FpFmt := { ebits := 5, mbits := 2, bias := 15, narrow := true }
def fmtE2m1 : FpFmt := { ebits := 2, mbits := 1, bias := 1, narrow := true }

/-- Width in bits of a format. -/
def fmtWidth (f : FpFmt) : Nat := 1 + f.ebits + f.mbits

/-- The canonical NaN (R47), or the single NaN code of a narrow format (R48). -/
def fmtNan (f : FpFmt) : Nat :=
  if f.narrow then 2 ^ (f.ebits + f.mbits)
  else (2 ^ f.ebits - 1) * 2 ^ f.mbits + 2 ^ (f.mbits - 1)

/-- The code of the largest finite magnitude. -/
def fmtMaxCode (f : FpFmt) : Nat :=
  if f.narrow then 2 ^ (f.ebits + f.mbits) - 1 else (2 ^ f.ebits - 1) * 2 ^ f.mbits - 1

def fmtSign (f : FpFmt) (neg : Bool) : Nat := if neg then 2 ^ (f.ebits + f.mbits) else 0

def fmtInf (f : FpFmt) (neg : Bool) : Nat := fmtSign f neg + (2 ^ f.ebits - 1) * 2 ^ f.mbits

/-- The value of a code (R46, R48, R49). -/
def fpDecode (f : FpFmt) (w : Nat) : Fp :=
  let neg := w / 2 ^ (f.ebits + f.mbits) % 2 = 1
  let ex := w / 2 ^ f.mbits % 2 ^ f.ebits
  let fr := w % 2 ^ f.mbits
  if f.narrow && neg && ex = 0 && fr = 0 then .nan
  else if !f.narrow && ex = 2 ^ f.ebits - 1 then (if fr = 0 then .inf neg else .nan)
  else if ex = 0 then .fin neg fr (1 - (f.bias : Int) - f.mbits)
  else .fin neg (2 ^ f.mbits + fr) ((ex : Int) - f.bias - f.mbits)

/-- A NaN encoding whose quiet bit is clear (R47). -/
def fpSignalling (f : FpFmt) (w : Nat) : Bool :=
  !f.narrow && (w / 2 ^ f.mbits % 2 ^ f.ebits = 2 ^ f.ebits - 1) && (w % 2 ^ f.mbits ≠ 0) &&
    (w / 2 ^ (f.mbits - 1) % 2 = 0)

def fpIsNan : Fp → Bool
  | .nan => true
  | _ => false

def fpIsZero : Fp → Bool
  | .fin _ m _ => m = 0
  | _ => false

def fpIsNeg : Fp → Bool
  | .nan => false
  | .inf n => n
  | .fin n _ _ => n

/-- Magnitude m × 2^e as an integer multiple of 2^q, truncated, with the remainder and its divisor. -/
def scaleTo (m : Nat) (e q : Int) : Nat × Nat × Nat :=
  if q ≤ e then (m * 2 ^ (e - q).toNat, 0, 1)
  else (m / 2 ^ (q - e).toNat, m % 2 ^ (q - e).toNat, 2 ^ (q - e).toNat)

/-- The 32 bits of the magnitude just below 2^q (R60). -/
def fracBits (m : Nat) (e q : Int) : Nat :=
  (scaleTo m e (q - 32)).1 % 2 ^ 32

/-- Rounding modes (R56): 0 RNE, 1 RTO, 2 SR with its draw. -/
def roundUnits (mode draw m : Nat) (e q : Int) : Nat × Bool :=
  let (t, r, d) := scaleTo m e q
  if r = 0 then (t, false)
  else if mode = 1 then (if t % 2 = 0 then t + 1 else t, true)
  else if mode = 2 then (if fracBits m e q + draw ≥ 2 ^ 32 then t + 1 else t, true)
  else if 2 * r > d || (2 * r = d && t % 2 = 1) then (t + 1, true) else (t, true)

/-- Round an exact value into a format (R48, R56 to R60), giving the code and the flags of R61 that rounding raises. DESIGN
CHOICE (log 66): a non-zero value that rounds to zero raises underflow too; R61 leaves open whether its "the result is
non-zero" means the exact or the delivered result. -/
def fpRound (f : FpFmt) (mode draw : Nat) : Fp → Nat × FpFlags
  | .nan => (fmtNan f, flNan)
  | .inf neg => if f.narrow then (fmtSign f neg + fmtMaxCode f, flOverflow ||| flInexact) else (fmtInf f neg, 0)
  | .fin neg m e =>
    if m = 0 then ((if f.narrow then 0 else fmtSign f neg), 0)
    else
      let emin : Int := 1 - f.bias
      let ev : Int := (Nat.log2 m : Int) + e
      let q : Int := max ev emin - f.mbits
      let (t, inex) := roundUnits mode draw m e q
      -- the largest finite magnitude, in units of 2^qmax
      let efmax : Int := (if f.narrow then (2 ^ f.ebits - 1 : Nat) else 2 ^ f.ebits - 2 : Nat)
      let qmax : Int := efmax - f.bias - f.mbits
      let tmax : Nat := 2 ^ (f.mbits + 1) - 1
      let ovf := (scaleTo t q qmax).1 > tmax
      let exactOver := let (a, r, _) := scaleTo m e qmax; a > tmax || (a = tmax && r ≠ 0)
      if ovf then
        let maxc := fmtSign f neg + fmtMaxCode f
        let c := if f.narrow then maxc
          else if mode = 0 then fmtInf f neg
          else if mode = 1 then maxc
          else if exactOver then fmtInf f neg else maxc
        (c, flOverflow ||| flInexact)
      else
        let carry := t = 2 ^ (f.mbits + 1)
        let code :=
          if t < 2 ^ f.mbits then t
          else
            let ex := (q + f.mbits + f.bias).toNat + (if carry then 1 else 0)
            ex * 2 ^ f.mbits + (if carry then 0 else t - 2 ^ f.mbits)
        let fl := if inex then flInexact ||| (if t < 2 ^ f.mbits then flUnderflow else 0) else 0
        if code = 0 && f.narrow then (0, fl) else (fmtSign f neg + code, fl)

/-! ## Exact arithmetic -/

def fpNeg : Fp → Fp
  | .nan => .nan
  | .inf n => .inf !n
  | .fin n m e => .fin (!n) m e

def fpAbs : Fp → Fp
  | .nan => .nan
  | .inf _ => .inf false
  | .fin _ m e => .fin false m e

/-- The signed integer s with s × 2^q equal to the value, for q at most its exponent. -/
def fpInt (neg : Bool) (m : Nat) (e q : Int) : Int :=
  let v : Int := m * 2 ^ (e - q).toNat
  if neg then -v else v

/-- Exact sum; an exact zero sum of unlike signs is +0. -/
def fpAdd : Fp → Fp → Fp
  | .nan, _ => .nan
  | _, .nan => .nan
  | .inf a, .inf b => if a = b then .inf a else .nan
  | .inf a, _ => .inf a
  | _, .inf b => .inf b
  | .fin na ma ea, .fin nb mb eb =>
    if ma = 0 && mb = 0 then .fin (na && nb) 0 ea
    else
      let q := min ea eb
      let s := fpInt na ma ea q + fpInt nb mb eb q
      .fin (s < 0) s.natAbs q

def fpMul : Fp → Fp → Fp
  | .nan, _ => .nan
  | _, .nan => .nan
  | .inf a, .inf b => .inf (a != b)
  | .inf a, .fin b m _ => if m = 0 then .nan else .inf (a != b)
  | .fin a m _, .inf b => if m = 0 then .nan else .inf (a != b)
  | .fin a ma ea, .fin b mb eb => .fin (a != b) (ma * mb) (ea + eb)

/-- Quotient to at least 64 significant bits, with any remainder folded into the last bit. -/
def fpDiv : Fp → Fp → Fp
  | .nan, _ => .nan
  | _, .nan => .nan
  | .inf _, .inf _ => .nan
  | .inf a, .fin b _ _ => .inf (a != b)
  | .fin a _ _, .inf b => .fin (a != b) 0 0
  | .fin a ma ea, .fin b mb eb =>
    if mb = 0 then (if ma = 0 then .nan else .inf (a != b))
    else if ma = 0 then .fin (a != b) 0 0
    else
      let k := 66 + Nat.log2 mb - Nat.log2 ma
      let n := ma * 2 ^ k
      .fin (a != b) (2 * (n / mb) + (if n % mb = 0 then 0 else 1)) (ea - eb - k - 1)

/-- Integer square root, bit by bit. -/
def isqrtStep (n : Nat) : Nat → Nat → Nat
  | 0, r => r
  | i + 1, r => isqrtStep n i (if (r + 2 ^ i) * (r + 2 ^ i) ≤ n then r + 2 ^ i else r)

def isqrt (n : Nat) : Nat := isqrtStep n (Nat.log2 n / 2 + 1) 0

/-- Square root to at least 64 significant bits with a sticky last bit. sqrt(−0) is −0. -/
def fpSqrt : Fp → Fp
  | .nan => .nan
  | .inf n => if n then .nan else .inf false
  | .fin n m e =>
    if m = 0 then .fin n 0 0
    else if n then .nan
    else
      let k : Nat := 140 + (if (e % 2 = 0) then 0 else 1)
      let x := m * 2 ^ k
      let r := isqrt x
      .fin false (2 * r + (if r * r = x then 0 else 1)) ((e - k) / 2 - 1)

/-- Reciprocal square root; rsqrt(±0) is ±infinity. -/
def fpRsqrt : Fp → Fp
  | .nan => .nan
  | .inf n => if n then .nan else .fin false 0 0
  | .fin n m e =>
    if m = 0 then .inf n
    else if n then .nan
    else
      let k : Nat := 2 * Nat.log2 m + 160 + (if (e % 2 = 0) then 0 else 1)
      let x := 2 ^ k
      let r := isqrt (x / m)
      .fin false (2 * r + (if r * r * m = x then 0 else 1)) ((-e - k) / 2 - 1)

/-- Order of two values that are not NaN: a < b, zeros equal. -/
def fpLt : Fp → Fp → Bool
  | .nan, _ => false
  | _, .nan => false
  | .inf a, .inf b => a && !b
  | .inf a, _ => a
  | _, .inf b => !b
  | .fin na ma ea, .fin nb mb eb =>
    let q := min ea eb
    fpInt na ma ea q < fpInt nb mb eb q

def fpEq : Fp → Fp → Bool
  | .nan, _ => false
  | _, .nan => false
  | a, b => !fpLt a b && !fpLt b a

/-- The lesser; NaN if either is NaN; min(−0, +0) = −0 (R121, R250). -/
def fpMin (a b : Fp) : Fp :=
  if fpIsNan a || fpIsNan b then .nan
  else if fpLt a b then a else if fpLt b a then b
  else if fpIsNeg a then a else b

def fpMax (a b : Fp) : Fp :=
  if fpIsNan a || fpIsNan b then .nan
  else if fpLt a b then b else if fpLt b a then a
  else if fpIsNeg a then b else a

/-- An unsigned integer as an exact value. -/
def fpNat (n : Nat) : Fp := .fin false n 0

/-! ## Operations on codes, with their flags -/

/-- The result of an operation on operands `ops` (as codes of `f`): its rounding, invalid, and division by zero. -/
def fpFinish (f : FpFmt) (ops : List Nat) (divZero : Bool) (exact : Fp) : Nat × FpFlags :=
  let anyNan := ops.any fun w => fpIsNan (fpDecode f w)
  let sig := ops.any fun w => fpSignalling f w
  let (c, fl) := fpRound f 0 0 exact
  let inv := if sig || (fpIsNan exact && !anyNan) then flInvalid else 0
  (c, fl ||| inv ||| (if divZero then flOverflow else 0))

def fpOp1 (f : FpFmt) (g : Fp → Fp) (a : Nat) : Nat × FpFlags :=
  fpFinish f [a] false (g (fpDecode f a))

def fpOp2 (f : FpFmt) (g : Fp → Fp → Fp) (a b : Nat) : Nat × FpFlags :=
  fpFinish f [a, b] false (g (fpDecode f a) (fpDecode f b))

def fpDivOp (f : FpFmt) (a b : Nat) : Nat × FpFlags :=
  let x := fpDecode f a
  let y := fpDecode f b
  let dz := match x with
    | .fin _ m _ => m ≠ 0 && fpIsZero y
    | _ => false
  fpFinish f [a, b] dz (fpDiv x y)

def fpFmaOp (f : FpFmt) (a b c : Nat) : Nat × FpFlags :=
  fpFinish f [a, b, c] false (fpAdd (fpMul (fpDecode f a) (fpDecode f b)) (fpDecode f c))

/-- FP32 shorthands without flags (update programs, reductions, pooling): round to nearest even. -/
def f32 (w : Word32) : Fp := fpDecode fmtFp32 w.toNat
def rne32 (x : Fp) : Word32 := BitVec.ofNat 32 (fpRound fmtFp32 0 0 x).1
def add32 (a b : Word32) : Word32 := rne32 (fpAdd (f32 a) (f32 b))
def sub32 (a b : Word32) : Word32 := rne32 (fpAdd (f32 a) (fpNeg (f32 b)))
def mul32 (a b : Word32) : Word32 := rne32 (fpMul (f32 a) (f32 b))
def div32 (a b : Word32) : Word32 := rne32 (fpDiv (f32 a) (f32 b))
def fma32 (a b c : Word32) : Word32 := rne32 (fpAdd (fpMul (f32 a) (f32 b)) (f32 c))
def isNan32 (a : Word32) : Bool := fpIsNan (f32 a)

/-- Sum by a balanced binary tree over a list whose length is a power of two, `levels` deep. -/
def pairUp (g : Word32 → Word32 → Word32) : List Word32 → List Word32
  | a :: b :: t => g a b :: pairUp g t
  | l => l

def treeFold (g : Word32 → Word32 → Word32) : Nat → List Word32 → List Word32
  | 0, l => l
  | n + 1, l => treeFold g n (pairUp g l)

/-! ## Stored vectors (R50, R52 to R54) -/

/-- Element width in bits of a format code (R45). -/
def codeBits (fmt : Nat) : Nat :=
  match fmt with
  | 0 => 32 | 1 => 16 | 2 => 16 | 3 => 8 | 4 => 8 | 5 => 4 | 6 => 8 | 7 => 8 | 8 => 4 | 9 => 1 | 10 => 2 | _ => 8

/-- The format carries a block scale per 32 elements. -/
def codeScaled (fmt : Nat) : Bool := 6 ≤ fmt && fmt ≤ 10

/-- The floating format of a code, for codes 0 to 8. -/
def codeFmt (fmt : Nat) : FpFmt :=
  match fmt with
  | 0 => fmtFp32 | 1 => fmtFp16 | 2 => fmtBf16 | 3 => fmtE4m3 | 4 => fmtE5m2 | 5 => fmtE2m1
  | 6 => fmtE4m3 | 7 => fmtE5m2 | _ => fmtE2m1

/-- EMAX of a block-scaled format (R53). -/
def codeEmax (fmt : Nat) : Int := match fmt with | 6 => 8 | 7 => 16 | _ => 2

/-- Bytes of the packed elements of a vector of n. -/
def elemBytes (fmt n : Nat) : Nat := (n * codeBits fmt + 7) / 8

/-- Stored size of a vector of n elements (R52). -/
def storedBytes (fmt n : Nat) : Nat := elemBytes fmt n + (if codeScaled fmt then (n + 31) / 32 else 0)

def byteAt (bs : List Byte) (i : Nat) : Nat := (bs.getD i 0).toNat

/-- Little-endian value of a byte list (R3). -/
def leNat : List Byte → Nat
  | [] => 0
  | b :: t => b.toNat + 256 * leNat t

def leBytes : Nat → Nat → List Byte
  | 0, _ => []
  | k + 1, n => BitVec.ofNat 8 n :: leBytes k (n / 256)

/-- Value of the field of `n` bytes at `off`. -/
def leAt (bs : List Byte) (off n : Nat) : Nat := leNat ((bs.drop off).take n)

/-- Code of element i of a packed vector (R50). -/
def elemCode (fmt : Nat) (bs : List Byte) (i : Nat) : Nat :=
  let w := codeBits fmt
  if 8 ≤ w then leAt bs (i * (w / 8)) (w / 8)
  else byteAt bs (i * w / 8) / 2 ^ (i * w % 8) % 2 ^ w

/-- Value of an E8M0 scale; none for the NaN code (R52). -/
def e8m0 (code : Nat) : Option Int := if code = 255 then none else some ((code : Int) - 127)

/-- Value of an element code, without its block scale (R48, R54, R62). -/
def elemValue (fmt code : Nat) : Fp :=
  if fmt = 9 then .fin (code = 1) 1 0
  else if fmt = 10 then (if code = 2 then .nan else .fin (code = 3) (code % 2) 0)
  else if fmt = 11 then (match e8m0 code with | none => .nan | some e => .fin false 1 e)
  else fpDecode (codeFmt fmt) code

def scaleBy (e : Int) : Fp → Fp
  | .fin n m x => .fin n m (x + e)
  | v => v

/-- Value of element i of a stored vector of n elements, block scale applied (R53). -/
def storedValue (fmt n : Nat) (bs : List Byte) (i : Nat) : Fp :=
  let v := elemValue fmt (elemCode fmt bs i)
  if codeScaled fmt then
    match e8m0 (byteAt bs (elemBytes fmt n + i / 32)) with
    | none => .nan
    | some e => scaleBy e v
  else v

/-- Decode a stored vector to FP32 words (R53; exact but for overflow). -/
def decode32 (fmt n : Nat) (bs : List Byte) : List Word32 :=
  (List.range n).map fun i => rne32 (storedValue fmt n bs i)

/-- floor(log2 |x|) of the largest finite magnitude of a block, none when it has no non-zero finite element. -/
def blockTop (xs : List Fp) : Option Int :=
  xs.foldl (fun acc x => match x with
    | .fin _ m e => if m = 0 then acc else
        let l : Int := (Nat.log2 m : Int) + e
        match acc with | none => some l | some a => some (max a l)
    | _ => acc) none

/-- Scale code chosen for a block (R53). -/
def blockScale (fmt : Nat) (xs : List Fp) : Nat :=
  match blockTop xs with
  | none => 0
  | some t => (max (-127) (min 127 (t - codeEmax fmt)) + 127).toNat

def packBits (w : Nat) : List Nat → Nat
  | [] => 0
  | c :: t => c + 2 ^ w * packBits w t

/-- Pack element codes little-endian within bytes (R50). -/
def packElems (fmt : Nat) (codes : List Nat) : List Byte :=
  leBytes (elemBytes fmt codes.length) (packBits (codeBits fmt) codes)

/-- Convert one value into a target format, raising "overflow" for an infinity into a narrow format (R61). -/
def convElem (f : FpFmt) (mode draw : Nat) (x : Fp) : Nat × FpFlags := fpRound f mode draw x

/-- Split into blocks of 32. -/
def blocks (n : Nat) (xs : List Fp) : List (List Fp) :=
  (List.range ((n + 31) / 32)).map fun b => (xs.drop (32 * b)).take 32

/-- Encode a vector into a format 0 to 8 with a rounding mode and a draw per element: stored bytes, element codes, flags. -/
def encodeVec (fmt mode : Nat) (draw : Nat → Nat) (xs : List Fp) : List Byte × List Nat × FpFlags :=
  let n := xs.length
  let f := codeFmt fmt
  if codeScaled fmt then
    let scales := (blocks n xs).map (blockScale fmt)
    let rs := xs.zipIdx.map fun (x, i) =>
      convElem f mode (draw i) (scaleBy (127 - (scales.getD (i / 32) 0 : Int)) x)
    (packElems fmt (rs.map (·.1)) ++ scales.map (BitVec.ofNat 8), rs.map (·.1),
      rs.foldl (fun a r => a ||| r.2) 0)
  else
    let rs := xs.zipIdx.map fun (x, i) => convElem f mode (draw i) x
    (packElems fmt (rs.map (·.1)), rs.map (·.1), rs.foldl (fun a r => a ||| r.2) 0)

/-- Stage a value through BF16 with round to odd (R58, R242, R248). -/
def stageBf16 (x : Fp) : Fp := fpDecode fmtBf16 (fpRound fmtBf16 1 0 x).1

/-- The stage changes the value. -/
def stageInexact (x : Fp) : Bool := (fpRound fmtBf16 1 0 x).2 &&& flInexact != 0

/-- The code's magnitude is below the format's minimum normal. -/
def belowNormal (f : FpFmt) (c : Nat) : Bool := c % 2 ^ (f.ebits + f.mbits) < 2 ^ f.mbits

/-- Flags of results whose stage was inexact: the delivered result then differs from the exact one, whatever the second step
does (R61). -/
def stageFlags (fmt : Nat) (xs : List Fp) (codes : List Nat) : FpFlags :=
  (xs.zip codes).foldl (fun a x =>
    if stageInexact x.1 then a ||| flInexact ||| (if belowNormal (codeFmt fmt) x.2 then flUnderflow else 0) else a) 0

/-- Encode through the 16-bit stage when the target has eight bits or fewer. -/
def encodeStaged (fmt mode : Nat) (draw : Nat → Nat) (xs : List Fp) : List Byte × List Nat × FpFlags :=
  if 3 ≤ fmt then
    let r := encodeVec fmt mode draw (xs.map stageBf16)
    (r.1, r.2.1, r.2.2 ||| stageFlags fmt xs r.2.1)
  else encodeVec fmt mode draw xs

/-! ## 2^A and log2 A within one unit in the last place (R250) -/

/-- FP32 code of a finite value rounded up or down. -/
def roundDir (up : Bool) (neg : Bool) (m : Nat) (e : Int) : Nat :=
  if m = 0 then 0
  else
    let q : Int := max ((Nat.log2 m : Int) + e) (-126) - 23
    let (t, r, _) := scaleTo m e q
    (fpRound fmtFp32 0 0 (.fin neg (if up != neg && r ≠ 0 then t + 1 else t) q)).1

/-- A code between two others, in order of value, stands; any other is replaced by the lower one. -/
def heldTo (lo hi c : Nat) : Nat :=
  let x := fpDecode fmtFp32 c
  if fpIsNan x || fpLt x (fpDecode fmtFp32 lo) || fpLt (fpDecode fmtFp32 hi) x then lo else c

/-- Fixed point with 224 fraction bits. -/
def onePoint : Nat := 2 ^ 224

/-- 2 to the fraction whose `n` bits are left in `f`, in fixed point, rounded all down or all up; `r` is the last root of two. -/
def exp2Bits (up : Bool) (f : Nat) : Nat → Nat → Nat → Nat
  | 0, _, acc => acc
  | n + 1, r, acc =>
    let r := isqrt (r * onePoint) + bitNatUp up
    exp2Bits up f n r (if f.testBit n then acc * r / onePoint + bitNatUp up else acc)
where
  bitNatUp (up : Bool) : Nat := if up then 1 else 0

def fracPow (up : Bool) (f : Nat) : Nat := exp2Bits up f 96 (2 * onePoint) onePoint

/-- The FP32 values next to 2^A below and above, A being k + (the fraction of 96 bits f, and more where `rest`). Where 2^A is
an FP32 value they are that one. -/
def exp2Bounds (k : Int) (f : Nat) (rest : Bool) : Nat × Nat :=
  let hi := if !rest then fracPow true f else if f + 1 = 2 ^ 96 then 2 * onePoint else fracPow true (f + 1)
  let hi := if f = 0 && !rest then onePoint else hi
  (roundDir false false (fracPow false f) (k - 224), roundDir true false hi (k - 224))

/-- 96 bits of log2 y for y of [1, 2] in fixed point, all roundings down or all up. -/
def log2Bits (up : Bool) : Nat → Nat → Nat
  | 0, _ => if up then 1 else 0
  | n + 1, y =>
    let sq := y * y / onePoint + (if up then 1 else 0)
    if 2 * onePoint ≤ sq then 2 ^ n + log2Bits up n (sq / 2 + (if up then 1 else 0)) else log2Bits up n sq

/-- The FP32 values next to log2 of m × 2^e below and above, m × 2^e being no power of two. -/
def log2Bounds (m : Nat) (e : Int) : Nat × Nat :=
  let k : Int := (Nat.log2 m : Int) + e
  let y := m * 2 ^ (224 - Nat.log2 m)
  let at_ := fun (up : Bool) =>
    let v : Int := k * 2 ^ 96 + log2Bits up 96 y
    roundDir up (v < 0) v.natAbs (-96)
  (at_ false, at_ true)

/-! ## Stochastic rounding (R60) -/

def w64 (n : Nat) : Nat := n % 2 ^ 64

/-- The draw of R60. -/
def srDraw (step d : Nat) : Nat :=
  let z := w64 (step + 0x9E3779B97F4A7C15 * (d + 1))
  let z := w64 ((z ^^^ (z / 2 ^ 30)) * 0xBF58476D1CE4E5B9)
  let z := w64 ((z ^^^ (z / 2 ^ 27)) * 0x94D049BB133111EB)
  (z ^^^ (z / 2 ^ 31)) / 2 ^ 32

/-- The key of an update site: site, table or tensor, row, element (R60). -/
def srKey (site table row elem : Nat) : Nat :=
  site * 2 ^ 62 + table % 2 ^ 12 * 2 ^ 50 + row % 2 ^ 40 * 2 ^ 10 + elem % 2 ^ 10

end Sys2Proof.Machine
end

