-- ==== Sys2Proof/Machine/Crypto.lean ====
section
/-! DEFINITION. CRC-64 (R188), CRC-32C (R169), SHA-256, and RSASSA-PSS verification under R386. -/

namespace Sys2Proof.Machine

/-! ## CRC -/

def crcBits64 : Nat → Word64 → Word64
  | 0, c => c
  | n + 1, c => crcBits64 n (if c.msb then (c <<< 1) ^^^ 0x42F0E1EBA9EA3693 else c <<< 1)

/-- CRC-64 with the parameters of R188: no reflection, initial value 0, no final XOR. -/
def crc64 (bs : List Byte) : Word64 :=
  bs.foldl (fun c b => crcBits64 8 (c ^^^ ((b.setWidth 64 : Word64) <<< (56 : Nat)))) (0 : Word64)

def crcBits32 : Nat → Word32 → Word32
  | 0, c => c
  | n + 1, c => crcBits32 n (if c.getLsbD 0 then (c >>> 1) ^^^ 0x82F63B78 else c >>> 1)

/-- CRC-32C, reflected, initial value and final XOR all ones (R169). -/
def crc32c (bs : List Byte) : Word32 :=
  ~~~ (bs.foldl (fun c b => crcBits32 8 (c ^^^ b.setWidth 32)) (0xFFFFFFFF : Word32))

/-! ## SHA-256 -/

def shaK0 : List Word32 := [0x428A2F98, 0x71374491, 0xB5C0FBCF, 0xE9B5DBA5, 0x3956C25B, 0x59F111F1, 0x923F82A4, 0xAB1C5ED5, 0xD807AA98, 0x12835B01, 0x243185BE, 0x550C7DC3, 0x72BE5D74, 0x80DEB1FE, 0x9BDC06A7, 0xC19BF174]
def shaK1 : List Word32 := [0xE49B69C1, 0xEFBE4786, 0x0FC19DC6, 0x240CA1CC, 0x2DE92C6F, 0x4A7484AA, 0x5CB0A9DC, 0x76F988DA, 0x983E5152, 0xA831C66D, 0xB00327C8, 0xBF597FC7, 0xC6E00BF3, 0xD5A79147, 0x06CA6351, 0x14292967]
def shaK2 : List Word32 := [0x27B70A85, 0x2E1B2138, 0x4D2C6DFC, 0x53380D13, 0x650A7354, 0x766A0ABB, 0x81C2C92E, 0x92722C85, 0xA2BFE8A1, 0xA81A664B, 0xC24B8B70, 0xC76C51A3, 0xD192E819, 0xD6990624, 0xF40E3585, 0x106AA070]
def shaK3 : List Word32 := [0x19A4C116, 0x1E376C08, 0x2748774C, 0x34B0BCB5, 0x391C0CB3, 0x4ED8AA4A, 0x5B9CCA4F, 0x682E6FF3, 0x748F82EE, 0x78A5636F, 0x84C87814, 0x8CC70208, 0x90BEFFFA, 0xA4506CEB, 0xBEF9A3F7, 0xC67178F2]
def shaK : List Word32 := shaK0 ++ shaK1 ++ shaK2 ++ shaK3
def shaInit : List Word32 := [0x6A09E667, 0xBB67AE85, 0x3C6EF372, 0xA54FF53A, 0x510E527F, 0x9B05688C, 0x1F83D9AB, 0x5BE0CD19]

def beNat (bs : List Byte) : Nat := bs.foldl (fun a b => a * 256 + b.toNat) 0

def beBytes (k n : Nat) : List Byte := (leBytes k n).reverse

def shaWord (w : List Word32) (i : Nat) : Word32 := w.getD i 0

/-- The message schedule, newest word first. -/
def shaExtend : Nat → List Word32 → List Word32
  | 0, w => w
  | n + 1, w =>
    let a := shaWord w 14
    let b := shaWord w 1
    let s0 := a.rotateRight 7 ^^^ a.rotateRight 18 ^^^ (a >>> 3)
    let s1 := b.rotateRight 17 ^^^ b.rotateRight 19 ^^^ (b >>> 10)
    shaExtend n ((shaWord w 15 + s0 + shaWord w 6 + s1) :: w)

def shaRound (h : List Word32) (kw : Word32) : List Word32 :=
  let a := shaWord h 0
  let e := shaWord h 4
  let s1 := e.rotateRight 6 ^^^ e.rotateRight 11 ^^^ e.rotateRight 25
  let ch := (e &&& shaWord h 5) ^^^ (~~~ e &&& shaWord h 6)
  let t1 := shaWord h 7 + s1 + ch + kw
  let s0 := a.rotateRight 2 ^^^ a.rotateRight 13 ^^^ a.rotateRight 22
  let mj := (a &&& shaWord h 1) ^^^ (a &&& shaWord h 2) ^^^ (shaWord h 1 &&& shaWord h 2)
  [t1 + (s0 + mj), a, shaWord h 1, shaWord h 2, shaWord h 3 + t1, e, shaWord h 5, shaWord h 6]

def shaBlock (h : List Word32) (b : List Byte) : List Word32 :=
  let w0 := (List.range 16).map fun i => BitVec.ofNat 32 (beNat ((b.drop (4 * i)).take 4))
  let w := (shaExtend 48 w0.reverse).reverse
  let h' := (shaK.zip w).foldl (fun h x => shaRound h (x.1 + x.2)) h
  (h.zip h').map fun x => x.1 + x.2

def shaBlocks : Nat → List Word32 → List Byte → List Word32
  | 0, h, _ => h
  | n + 1, h, bs => shaBlocks n (shaBlock h (bs.take 64)) (bs.drop 64)

/-- SHA-256. -/
def sha256 (m : List Byte) : List Byte :=
  let pad := m ++ [0x80] ++ List.replicate ((119 - m.length % 64) % 64) 0 ++ beBytes 8 (8 * m.length)
  (shaBlocks (pad.length / 64) shaInit pad).flatMap fun w => beBytes 4 w.toNat

/-! ## RSASSA-PSS (R386) -/

def sqMod (n : Nat) : Nat → Nat → Nat
  | 0, x => x
  | k + 1, x => sqMod n k (x * x % n)

/-- MGF1 with SHA-256. -/
def mgf1 (seed : List Byte) (n : Nat) : List Byte :=
  ((List.range ((n + 31) / 32)).flatMap fun c => sha256 (seed ++ beBytes 4 c)).take n

def xorBytes (a b : List Byte) : List Byte := (a.zip b).map fun x => x.1 ^^^ x.2

/-- EMSA-PSS-VERIFY with a 32-byte salt over a 384-byte encoded message of 3,071 bits. -/
def pssCheck (msg em : List Byte) : Bool :=
  let db := em.take 351
  let h := (em.drop 351).take 32
  let top := db.headD 0
  let raw := xorBytes db (mgf1 h 351)
  let clear := (raw.headD 0 &&& 0x7F) :: raw.drop 1
  let salt := clear.drop 319
  top.toNat < 128 && em.getLast? == some 0xBC && (clear.take 318).all (· == 0) && clear[318]? == some 1 &&
    sha256 (List.replicate 8 0 ++ sha256 msg ++ salt) == h

/-- A signature of 384 bytes verifies under an RSA-3072 modulus with public exponent 65,537. -/
def rsaVerify (modulus msg sig : List Byte) : Bool :=
  let n := beNat modulus
  let s := beNat sig
  modulus.length == 384 && sig.length == 384 && Nat.log2 n == 3071 && decide (s < n) &&
    pssCheck msg (beBytes 384 (sqMod n 16 s * s % n))

end Sys2Proof.Machine
end

