-- ==== Sys2Proof/Machine/Records.lean ====
section
/-! DEFINITION. The record types of the state, unit by unit: plain data, each field at its reset value by default.
Instants are ns since cold boot; `Tab` fields are sparse and list nothing at reset. -/

namespace Sys2Proof.Machine

/-! ## Events and what the module sends -/

/-- An event record with what its EVENT entry adds (R335). -/
structure Event where
  code : Nat
  severity : Nat
  unit : UnitId
  tick : Nat
  detail : List Byte
  seq : Nat
  timeNs : Nat
  overflow : Bool := false
  deriving DecidableEq, Repr

/-- An event waiting for the end of a boot or recovery: code, severity, unit, detail. -/
structure HeldEvent where
  code : Nat
  severity : Nat
  unit : UnitId
  detail : List Byte
  deriving DecidableEq, Repr

/-- A carriage as the originator sent it, with the hop count the next link carries (R167). -/
structure Carriage where
  cls : Nat
  hops : Nat
  loc : Bool
  dest : Nat
  lg : Nat
  src : Nat
  body : Body
  /-- for a MARK or RELEASE: the instant its countdown runs to, which each transmission turns into COUNTDOWN_NS (R29) -/
  dueAt : Nat := 0
  deriving DecidableEq, Repr

/-- An SPDM response (R394 to R396). -/
inductive SpdmReply where
  | version (v : Nat)
  | capabilities (cert chal measSig : Bool) (ctExponent : Nat)
  | algorithms (asym baseHash measHash measSpec : Nat)
  | digests (slotMask : Nat) (slot0 : List Byte)
  | certificate (portion : List Byte) (remainder : Nat)
  | challengeAuth (slot : Nat) (certHash signature : List Byte)
  | measurements (values : List (Nat × List Byte)) (signature : Option (List Byte))
  | errorBusy
  | errorInvalid
  | errorUnsupported (code : Nat)
  | errorUnexpected
  deriving DecidableEq, Repr

/-- What leaves the module, in the order it is sent. -/
inductive Out where
  | carriage (li seq ackSeq pool count : Nat) (nakFlag resent stomped : Bool) (c : Carriage)
  /-- a codeword's symbols, by transmit lane (R164) -/
  | codeword (li : Nat) (lanes : List (Nat × List (BitVec 10)))
  | hostWrite (addr : Nat) (data : List Byte)
  | completion (status : Nat) (poisoned : Bool) (data : List Byte)
  | interrupt (vector : Option Nat) (path : Nat)
  | rdmaWrite (qp port addr rkey : Nat) (data : List Byte)
  | rdmaReadData (qp : Nat) (data : List Byte)
  | rdmaAck (qp : Nat)
  | rdmaError (qp : Nat)
  | nvmeWrite (extent mib : Nat) (data : List Byte)
  | nvmeManifest (data : List Byte)
  | platformEvent (record : List Byte)
  | mailbox (endpoint code : Nat) (data : List Byte)
  | spdm (endpoint : Nat) (r : SpdmReply)
  | pldm (endpoint code : Nat) (value : Int)
  | tickOut (atNs : Nat)
  | csrRead (value : Word64)
  /-- a host core takes an access fault (R15, R311, R312, R320) -/
  | accessFault (core addr : Nat)
  | coreData (core : Nat) (data : List Byte)
  deriving DecidableEq, Repr

/-! ## Links and lasers -/

/-- A carriage waiting in a link's transmit queue, with the ingress buffer (LI, pool) it still holds in transit. -/
structure Waiting where
  c : Carriage
  holds : Option (Nat × Nat) := none
  deriving DecidableEq, Repr

/-- A handoff of R179 in progress: its LINK_DOWN cause, whether RETRAIN (0) or DOWN (1) follows, the replay entries it
still has to place, and the counts so far. -/
structure Handoff where
  cause : Nat
  next : Nat
  entries : List (Nat × Carriage)
  rerouted : Nat
  lost : Nat
  deriving DecidableEq, Repr

/-- One link interface (R170 to R183). STATE: 0 OFF, 1 TRAINING, 2 UP, 3 RETRAIN, 4 DOWN, 5 DRAINED. -/
structure Link where
  state : Nat := 0
  txMask : BitVec 4 := 0
  rxMask : BitVec 4 := 0
  peerLi : Nat := 0x7F
  peerChip : Nat := 0
  downCause : Nat := 0
  ser : List Nat := [0, 0, 0, 0]
  /-- lanes the current training admitted -/
  admitTx : BitVec 4 := 0
  admitRx : BitVec 4 := 0
  /-- receive lanes dropped and not yet restored -/
  dropped : BitVec 4 := 0
  txSeq : Nat := 0
  replay : List (Nat × Carriage) := []
  queue : List Waiting := []
  rxLast : Nat := 0xFFFF
  /-- NAK sent; discarding until the carriage after rxLast -/
  nakWait : Bool := false
  nakSeq : Nat := 0
  nakCount : Nat := 0
  freed : Tab Nat := []
  sent : Tab Nat := []
  peerFreed : Tab Nat := []
  reportPool : Nat := 0
  sinceTc2 : Nat := 0
  ackOwed : Bool := false
  handoff : Option Handoff := none
  /-- out of every live set by software or for a drain: stays down until brought up -/
  held : Bool := false
  /-- LINK_ID received in this training: chip, LI, exchange-plan digest -/
  peerId : Option (Nat × Nat × List Byte) := none
  /-- it has been UP since cold boot -/
  served : Bool := false
  /-- the next carriage sent carries NAK (R171) -/
  nakDue : Bool := false
  /-- when steps 1 to 4 of this training ended (R177) -/
  idAt : Nat := 0
  /-- a handoff ended without the peer's LINK_STATE, which may still come (R179) -/
  stateOwed : Bool := false
  /-- carriage bits that do not fill a codeword yet, and the place of the next symbol in the lanes' round (R164) -/
  txBits : List Bool := []
  txLane : Nat := 0
  deriving DecidableEq, Repr

/-- One laser module (R180, R181, R183). STATE: 0 ABSENT, 1 OK, 2 DRAINED, 3 FAULT. -/
structure Laser where
  state : Nat := 0
  ok : BitVec 8 := 0
  eol : BitVec 8 := 0
  bias : List Nat := []
  draining : Bool := false
  /-- an unresolved LASER_FAULT of severity DEGRADE (the blinking indicator, R427) -/
  fault : Bool := false
  deriving DecidableEq, Repr

/-- LG_ module state: chip number, the route table (entries that differ from 0x7F7F_7F7F), links, laser modules. -/
structure Lg where
  chip : Nat := 0
  route : Tab Nat := []
  links : Tab Link := []
  lasers : Tab Laser := []
  /-- optical engine controllers verified (R388); optical driver dies that failed their test (R377) -/
  opticsOk : Bool := true
  driverFail : List Nat := []
  deriving DecidableEq, Repr

/-! ## Timetable and tick unit -/

structure LegEnt where
  startNs : Nat
  budgetNs : Nat
  kind : Nat
  cls : Nat
  uset : Nat
  deriving DecidableEq, Repr

/-- A unit set (R20). -/
structure USet where
  tiles : BitVec 160
  mds : BitVec 4
  lgs : BitVec 12
  io : BitVec 2
  deriving DecidableEq, Repr

/-- An accepted timetable (R20) with its 1,088 bytes as loaded. -/
structure Timetable where
  raw : List Byte
  periodUs : Nat
  policy : Nat
  form : Nat
  ttId : Nat
  usets : List USet
  legs : List LegEnt
  deriving DecidableEq, Repr

/-- TK_SLOT_A or TK_SLOT_B with the timetable it holds; VALID is `tt.isSome`. -/
structure Slot where
  status : Nat := 0
  tt : Option Timetable := none
  deriving DecidableEq, Repr

/-- A gate on which a leg spends wait time (R35): APPLY_GO, units that an earlier late leg still holds, the APPLY of the step
before (R186), a hurdle of module or job scope, the move of a tile, and the stagger of an engine (R244, R264). -/
inductive Gate where
  | go
  | held
  | prev
  | hurdle (h : Nat)
  | move (logical : Nat)
  | stagger (engine : Nat)
  deriving DecidableEq, Repr

/-- An open occurrence of a leg: the tick unit's record of it (R35, R278). -/
structure LegOcc where
  leg : Nat
  tick : Nat
  step : Nat
  /-- the tick its step began in (R41) -/
  attempt : Nat
  kind : Nat
  cls : Nat
  startAt : Nat
  deadline : Nat
  uset : USet
  /-- logical tiles of the unit set that have finished their work (R279) -/
  finished : List Nat := []
  /-- its deadline passed while it was incomplete (R36) -/
  late : Bool := false
  /-- wait time so far; gates it is blocked on now, and the instant since which it is blocked on some gate -/
  waitNs : Nat := 0
  gates : List Gate := []
  blockedFrom : Nat := 0
  /-- the chip whose carriages the leg was last blocked on after its deadline (R35) -/
  remote : Option Nat := none
  /-- the policy has acted on its overrun (R40) -/
  acted : Bool := false
  /-- the instant its start was recorded (R18) -/
  recAt : Nat := 0
  abandoned : Bool := false
  /-- the leg overlapped an APPLY leg (R214) -/
  overlap : Bool := false
  /-- VIEW_STEP of a SERVE leg (R214) -/
  view : Option Nat := none
  /-- an earlier late leg held some of its tiles at its start (R35, R221) -/
  held : Bool := false
  /-- SERVE_LATE has been raised for it (R220) -/
  lateReply : Bool := false
  /-- a SERVE leg: the image current at its start, by region number (R223) -/
  images : List (Nat × Nat) := []
  /-- an APPLY leg: it has started (R37, R103) -/
  opened : Bool := false
  deriving DecidableEq, Repr

/-- What one module of the MARK tree has reported up (R36, R38, R42). -/
structure AckState where
  lateOpen : Bool := false
  latenessNs : Nat := 0
  lateChip : Nat := 0
  lateKind : Nat := 0
  /-- last step whose RETURN it reported done, with the tick of that RETURN; last it reported committed -/
  returnDone : Option (Nat × Nat) := none
  committed : Option Nat := none
  haltReq : Bool := false
  deriving DecidableEq, Repr

/-- The next tick as the last MARK gives it, or as the bellwether sent it. -/
structure NextTick where
  tick : Nat
  step : Nat
  startAt : Nat
  stretchNs : Nat
  stretched : Bool
  slot : Nat
  ttId : Nat
  deriving DecidableEq, Repr

/-- A hurdle instance (R275 to R277). `die` is 4 but for DIE scope. -/
structure HurdleInst where
  gen : Nat := 0
  arrived : List Nat := []
  childArrived : List Nat := []
  sentUp : Bool := false
  releaseAt : Option Nat := none
  deriving DecidableEq, Repr

/-- A pace in force for a leg kind (R160, R161). -/
structure Pace where
  slowChip : Nat
  pace : Nat
  fromTick : Nat
  hold : Nat
  deriving DecidableEq, Repr

/-- The last LEG_OVERRUN (TK_LAST_OVERRUN, R44). -/
structure LastOverrun where
  leg : Nat := 0
  kind : Nat := 0
  cause : Nat := 0
  remoteChip : Nat := 0
  latenessNs : Nat := 0
  deriving DecidableEq, Repr

/-- TK_ registers (R44) and pending switches (R24, R34, R264). STATE: 0 IDLE, 1 ARMED, 2 RUNNING, 3 HOLDOVER, 4 HALTED. -/
structure Tk where
  state : Nat := 0
  bellwether : Bool := false
  active : Nat := 0
  holdoverTicks : Nat := 0
  tick : Nat := 0
  step : Nat := 0
  epoch : Nat := 0
  slotA : Slot := {}
  slotB : Slot := {}
  periodUs : Nat := 1000
  leadNs : Nat := 5000
  timeSrc : Nat := 0
  parentLi : Nat := 0x7F
  parentChip : Nat := 0
  depth : Nat := 0
  latencyNs : Nat := 0
  alignErr : Nat := 0
  lastOverrun : LastOverrun := {}
  lastStretch : Nat := 0
  tickinOffset : Nat := 0
  tickinTick : Nat := 0
  tickinCount : Nat := 0
  tickinLast : Option Nat := none
  /-- pending timetable switch: effective tick and slot -/
  switch : Option (Nat × Nat) := none
  /-- pending bellwether handover: effective tick and chip -/
  handover : Option (Nat × Nat) := none
  deriving DecidableEq, Repr

/-- The tick unit's running record of the job: boundaries, legs, gates, merged acknowledgements. -/
structure TkRun where
  candidate : Nat := 0
  tickStartAt : Nat := 0
  next : Option NextTick := none
  /-- nominal start of the next tick -/
  nominal : Nat := 0
  legs : List LegOcc := []
  /-- legs of the current tick that have started -/
  legsStarted : List Nat := []
  /-- steps for which APPLY_GO (not abandoned) has arrived, abandoned steps with the tick they began in -/
  goSteps : List Nat := []
  abandoned : List (Nat × Nat) := []
  /-- the step of the APPLY leg that has started and not ended on this module, and the last one recorded ended -/
  applyStep : Option Nat := none
  applyEnded : Option Nat := none
  goWait : Bool := false
  /-- own and children's acknowledgement states; children by chip -/
  ownAck : AckState := {}
  acks : Tab AckState := []
  /-- merged RETURN_DONE and COMMITTED already forwarded or acted on -/
  sentDone : Option (Nat × Nat) := none
  sentCommit : Option Nat := none
  /-- abandon requests already forwarded (tick, step) -/
  skipSent : List (Nat × Nat) := []
  haltSent : Bool := false
  halting : Bool := false
  /-- bellwether: the boundary's MARK is held, the abandoned step is to repeat, lateness of the last four ticks -/
  markHeld : Bool := false
  repeatStep : Bool := false
  lateLog : List (Nat × Nat × Nat) := []
  /-- the tick, kind and chip of the training leg that the last merged LATE_OPEN named (R161) -/
  lateSeen : Option (Nat × Nat × Nat) := none
  /-- kind of the late leg while a MARK is held; own open work at the nominal tick end has been reported (R39) -/
  heldKind : Nat := 0
  overran : Bool := false
  /-- legs of the tick that were abandoned or idle (R41, R355) -/
  spoiled : List Nat := []
  /-- tick and step before the current one, in this run of the job -/
  prev : Option (Nat × Nat) := none
  paces : Tab Pace := []
  deriving DecidableEq, Repr

/-- Digest reports and start of JOB_START (R138, R410). -/
structure StartCheck where
  /-- JOB_START accepted at, its first tick and step, whether a verdict of match came -/
  startedAt : Option Nat := none
  firstTick : Nat := 0
  firstStep : Nat := 0
  reports : Tab (List Byte) := []
  matched : Bool := false
  resume : Bool := false
  deriving DecidableEq, Repr

/-! ## Plan and job -/

/-- A replica region entry (R187). -/
structure RegionEnt where
  kind : Nat
  bytes : Nat
  base0 : Nat
  base1 : Nat
  writers : BitVec 160
  deriving DecidableEq, Repr

/-- A model entry of the serve section (R211). -/
structure Model where
  featBytes : Nat
  maxIndices : Nat
  outCount : Nat
  outFormat : Nat
  entry : Nat
  deriving DecidableEq, Repr

/-- A hurdle entry (R275). -/
structure HurdleEnt where
  scope : Nat
  mask : BitVec 160
  deriving DecidableEq, Repr

/-- The job header (R261). -/
structure JobHeader where
  nanTrap : BitVec 8 := 0
  tickAtomic : Bool := true
  digestInterval : Nat := 1024
  chip : Nat := 0
  poolBase : List Nat := []
  poolSize : Nat := 0
  ringSize : Nat := 0
  ringBase : List Nat := []
  regions : List RegionEnt := []
  rings : List Nat := []
  models : List Model := []
  hurdles : List HurdleEnt := []
  deriving DecidableEq, Repr

/-- A tile entry of the code section (R262), with the container addresses of its images (address, bytes). -/
structure TileEnt where
  code : Option (Nat × Nat)
  data : Option (Nat × Nat)
  entry : Nat
  deriving DecidableEq, Repr

/-- A position of an owner map (R139). -/
structure Pos where
  chip : Nat
  die : Nat
  slotBase : Nat
  deriving DecidableEq, Repr

/-- An owner map (R139). -/
structure OwnerMap where
  stripeLog2 : Nat
  rowSpan : Nat
  pos : List Pos
  deriving DecidableEq, Repr

/-- A dense tensor (R140). -/
structure Tensor where
  num : Nat
  wFormat : Nat
  flock : Nat
  gradFormat : Nat
  shear : Nat
  shearK : Nat
  elements : Nat
  wBase : Nat
  residBase : Nat
  stateBase : Nat
  treeSet : Nat
  partialFormat : Nat
  deriving DecidableEq, Repr

/-- A child entry of a tree set: a leaf chip or a node index. -/
inductive Child where
  | leaf (chip : Nat)
  | node (index : Nat)
  deriving DecidableEq, Repr

/-- A node of a tree set (R439). -/
structure Node where
  chip : Nat
  lg : Nat
  parent : Option Nat
  children : List Child
  deriving DecidableEq, Repr

/-- A tree set: the first node and node count of each shard, and the nodes. -/
structure TreeSet where
  shards : List (Nat × Nat)
  nodes : List Node
  deriving DecidableEq, Repr

/-- A module's place in the MARK tree of one candidate (R439). -/
structure MarkPlace where
  parent : Nat
  altParent : Nat
  depth : Nat
  children : BitVec 96
  deriving DecidableEq, Repr

/-- The exchange plan as this module holds it (R138, R439). -/
structure Exchange where
  digest : List Byte := []
  chips : Nat := 0
  candidates : List Nat := []
  maps : List OwnerMap := []
  tensors : List Tensor := []
  trees : List TreeSet := []
  /-- peer chip and peer LI (0x7F not wired) of each link -/
  wiring : List (Nat × Nat) := []
  marks : List MarkPlace := []
  /-- greatest depth of each candidate's MARK tree -/
  treeDepth : List Nat := []
  deriving DecidableEq, Repr

/-- The loaded job. JOB (R348): 0 none, 1 loaded, 2 running, 3 halted. -/
structure Job where
  state : Nat := 0
  planId : Nat := 0
  container : Nat := 0
  header : JobHeader := {}
  tiles : List TileEnt := []
  exchange : Exchange := {}
  /-- SHA-256 of the container up to the signature section (measurement 6) -/
  measure : List Byte := []
  firstStep : Nat := 0
  startAt : Nat := 0
  /-- a JOB_RESET is required before JOB_START (R409) -/
  needReset : Bool := false
  /-- the first PLAN_LOAD after a warm reset has been seen; a walk of R112 is owed -/
  reloaded : Bool := true
  deriving DecidableEq, Repr

/-- The job record of always-on SRAM (R406). -/
structure JobRecord where
  valid : Bool := false
  planId : Nat := 0
  poolBase : List Nat := []
  poolSize : Nat := 0
  ringBase : List Nat := []
  ringSize : Nat := 0
  tickAtomic : Bool := false
  current : List (Nat × Nat) := []
  effBase : List (Nat × Nat × Nat) := []
  lastTick : Nat := 0
  epoch : Nat := 0
  timeSrc : Nat := 0
  deriving DecidableEq, Repr

/-! ## Tables, programs, flocks -/

/-- A table descriptor (R69). -/
structure Desc where
  raw : List Byte
  mode : Nat
  width : Nat
  wFormat : Nat
  states : List Nat
  poolMode : Nat
  outFormat : Nat
  gradExp : Int
  flock : Nat
  promoteAt : Nat
  rowCount : Nat
  indexLimit : Nat
  hashA : Nat
  hashB : Nat
  compM : Nat
  compQ : Nat
  compR : Nat
  combine : Nat
  sLog2 : Nat
  ownerMap : Nat
  foldA : List Nat
  foldB : List Nat
  localRows : List Nat
  paddock : List Nat
  deriving DecidableEq, Repr

/-- A loaded table: its descriptor and folds (R197 to R200). -/
structure Table where
  desc : Desc
  current : Nat
  /-- the non-current fold has been loaded since the last switch -/
  foldLoaded : Bool := false
  deriving DecidableEq, Repr

/-- An update operation (R120). -/
structure UpOp where
  op : Nat
  dst : Nat
  a : Nat
  b : Nat
  c : Nat
  md : Nat
  deriving DecidableEq, Repr

/-- A program table entry (R127). -/
structure Prog where
  raw : List Byte
  ops : List UpOp
  deriving DecidableEq, Repr

/-- A flock table entry (R130). -/
structure Flock where
  raw : List Byte
  program : Nat
  round : List Nat
  states : List Nat
  gscaleDefault : Word32
  k : List Word32
  deriving DecidableEq, Repr

/-- A GSCALE entry: step tag, FP32 scale, WRITTEN (R133). -/
structure Gscale where
  tag : Word32 := 0
  scale : Word32 := 0
  written : Bool := false
  deriving DecidableEq, Repr

/-- A latch of GSCALE for a step: scale per flock (R133). -/
structure Latch where
  step : Nat
  scales : Tab Word32
  deriving DecidableEq, Repr

structure Tables where
  tables : Tab Table := []
  /-- contents of each entry with the tick they take effect at, newest first (R129) -/
  programs : Tab (List (Nat × Prog)) := []
  flocks : Tab (List (Nat × Flock)) := []
  gscale : Tab Gscale := []
  latches : List Latch := []
  /-- step counters: dies 0 to 3, then link groups 0 to 11 at 4 (R135) -/
  counters : Tab Nat := []
  deriving DecidableEq, Repr

/-- A fold target: kind 0 table, 1 dense tensor, 2 FROZEN region. -/
structure FoldTarget where
  kind : Nat
  num : Nat
  deriving DecidableEq, Repr

/-- The fold of a tensor or region waiting for its switch (R202): new base and new state base. -/
structure LoadedBase where
  base : Nat
  stateBase : Nat
  deriving DecidableEq, Repr

/-- A FOLD_LOAD that has started (R197, R202). -/
structure FoldJob where
  slot : Nat
  tag : Nat
  target : FoldTarget
  dieMask : BitVec 4
  init : Bool
  words : List Nat
  /-- records that a failed check of POINT 3 leaves as they are (R311) -/
  kept : List Nat := []
  deriving DecidableEq, Repr

/-- Effective base and image of a dense tensor or replica region (R185, R202, R432). -/
structure EffBase where
  base : Nat := 0
  image : Nat := 0
  present : Bool := false
  deriving DecidableEq, Repr

structure Folds where
  /-- MM_EFF_BASE by region number (R188) -/
  eff : Tab EffBase := []
  /-- state base of the tensors this module roots, by tensor number -/
  stateBase : Tab Nat := []
  /-- loaded and not switched, by region number -/
  loaded : Tab LoadedBase := []
  loading : List FoldJob := []
  switch : Option (Nat × List FoldTarget) := none
  /-- old folds not yet released: target and effective tick -/
  releases : List (FoldTarget × Nat) := []
  deriving DecidableEq, Repr

/-! ## Row units -/

/-- The operations of a row home queue (R85), the repair of R203 and the copy of R157 among them. -/
inductive OpKind where
  | lookup
  | serveRead
  | accumulate
  | apply
  | promote (way : Nat)
  | demote (way : Nat) (thenPromote : Option (Nat × Nat))
  | exportOp
  | repair (source : Nat)
  | handoverCopy
  deriving DecidableEq, Repr

/-- One operation of a row home queue. -/
structure RowOp where
  kind : OpKind
  table : Nat
  row : Nat
  slot : Nat
  cls : Nat := 0
  /-- the tick and leg of the leg it belongs to, the fold that leg uses (R199), the step of a contribution -/
  tick : Nat := 0
  leg : Nat := 0
  fold : Nat := 0
  step : Nat := 0
  /-- consumer chip and sequence number of a read; batch and unique slot of a local one -/
  src : Nat := 0
  seq : Nat := 0
  batch : Option (Nat × Nat) := none
  /-- the instant it reached its queue, or began to wait at the row unit's input (R88) -/
  since : Nat := 0
  /-- a contribution: index of its first element and its FP32 elements -/
  first : Nat := 0
  elems : List Word32 := []
  /-- APPLY: number of its entry; the writes due once the batch's index block is accepted; the paddock tag entry to mark
  DIRTY then; whether the record is written (APPLIED of R115) -/
  entry : Nat := 0
  busy : Bool := false
  staged : List (Nat × List Byte) := []
  dirties : Option Nat := none
  applied : Bool := false
  deriving DecidableEq, Repr

/-- A touched-list entry (R101). -/
structure Touched where
  row : Nat
  table : Nat
  slot : Nat
  nan : Bool
  guard : Nat
  slotOff : Nat
  tick : Nat
  deriving DecidableEq, Repr

/-- One generation of a die's accumulator pool (R99, R100). -/
structure Gen where
  step : Option Nat := none
  tick : Nat := 0
  used : Nat := 0
  ringRsv : Nat := 0
  touched : List Touched := []
  full : Bool := false
  ringFull : Bool := false
  deriving DecidableEq, Repr

/-- A batch of the pre-image ring being written (R105, R106): its ring offset in bytes, the number of its first entry, and
per entry the ring offset, record address and bytes, table, and whether the pre-image has been accepted. -/
structure RingBatch where
  base : Nat
  first : Nat
  rows : List (Nat × Nat × Nat × Nat × Bool)
  deriving DecidableEq, Repr

/-- One memory-side die's row unit (R115). STATE: 0 IDLE, 1 ACCUMULATE, 2 APPLY, 3 RECOVER. -/
structure RowUnit where
  state : Nat := 0
  gen : Nat := 0
  poolBase : Nat := 0
  poolSize : Nat := 0x0200000000
  hwm : Nat := 0
  ringBase : Nat := 0
  ringSize : Nat := 0x0080000000
  wptr : Nat := 0
  lastSeg : Nat := 0
  touched : Nat := 0
  applied : Nat := 0
  satRow : Nat := 0
  satTable : Nat := 0
  recResult : Nat := 0
  recRows : Nat := 0
  gens : List Gen := [{}, {}]
  age : Nat := 0
  queues : Tab (List RowOp) := []
  /-- operations held at the input because their queue is full (R88) -/
  input : List RowOp := []
  /-- promotions held until the commit (R84) -/
  heldMig : List RowOp := []
  batches : List RingBatch := []
  applyLeft : Nat := 0
  done : Bool := false
  /-- first-per-tick event flags: torn, poisoned, saturated, NaN; torn rows of the tick -/
  seen : BitVec 4 := 0
  tornTick : Nat := 0
  /-- sort-unique entries used this tick (R77) -/
  suUsed : Nat := 0
  deriving DecidableEq, Repr

/-- The commit record (R107). -/
structure Commit where
  step : Nat := 0
  tick : Nat := 0
  seq : Nat := 0
  openStep : Nat := 2 ^ 64 - 1
  openSeq : Nat := 0
  ringMark : List Nat := [0, 0, 0, 0]
  prevMark : List Nat := [0, 0, 0, 0]
  tickAtomic : Bool := false
  valid : Bool := false
  rollbackOk : Bool := false
  /-- steps committed since the job load (R152), and the tensors and regions whose image the last commit flipped (R185) -/
  count : Nat := 0
  flipped : List Nat := []
  deriving DecidableEq, Repr

/-! ## Exchange -/

/-- A unique row of a batch (R77). -/
structure Uniq where
  chip : Nat
  die : Nat
  table : Nat
  row : Nat
  slot : Nat
  deriving DecidableEq, Repr

/-- A returned row: its stored weight vector and whether it read as zeros. -/
structure Got where
  bytes : List Byte
  zeroed : Bool
  parts : Nat
  deriving DecidableEq, Repr

/-- One end of a drover transfer, or an operand region of an embedding instruction (R269, R272, R342). -/
inductive End where
  | own (addr : Nat)
  | tile (logical addr : Nat)
  | dev (addr : Nat)
  /-- host rows as the region table resolved them at issue: entry, external, address -/
  | host (rows : List (Nat × Bool × Nat))
  deriving DecidableEq, Repr

/-- A look-up batch in the embedding engine (R76, R272). `index` holds, per index position, its unique slots (none when
dropped, two for a composed table). -/
structure Batch where
  id : Nat
  tile : Nat
  die : Nat
  table : Nat
  handle : Nat
  offsets : List Nat
  index : List (List Nat)
  unique : List Uniq
  got : Tab Got := []
  place : End
  tok : Option Nat
  serve : Bool
  tick : Nat
  leg : Nat
  step : Nat
  fold : Nat
  ready : Bool := false
  written : Bool := false
  usedBy : Bool := false
  deriving DecidableEq, Repr

/-- A reply awaited: leg tag, owner chip and sequence number, its batch and unique slot (R144). -/
structure Reply where
  tick16 : Nat
  leg : Nat
  chip : Nat
  seq : Nat
  batch : Nat
  slot : Nat
  cls : Nat
  deriving DecidableEq, Repr

/-- A ROW carriage being packed at an owner (R145). -/
structure OpenRow where
  dest : Nat
  cls : Nat
  tick16 : Nat
  leg : Nat
  table : Nat
  firstSeq : Nat
  rows : Nat
  zeroed : BitVec 16
  payload : List Byte
  startNs : Nat
  deriving DecidableEq, Repr

/-- A dense contribution staged in a link group, by child position of its node (R150); `left`: parts still missing. -/
structure Staged where
  lg : Nat
  tensor : Nat
  group : Nat
  node : Nat
  child : Nat
  step : Nat
  tick : Nat
  fmt : Nat
  shear : Nat
  left : Nat
  bytes : List Byte
  deriving DecidableEq, Repr

/-- An all-gather part whose write is held back (R186). -/
structure HeldPart where
  tick : Nat
  step : Nat
  tensor : Nat
  group : Nat
  part : Nat
  bytes : List Byte
  deriving DecidableEq, Repr

/-- The dense work of the RETURN of one tick: groups this module's tiles have sent (tensor, group), nodes forwarded (tensor,
group, node), all-gather parts that nodes here have passed on (tensor, group, part, node) and that are in (tensor, group, part). -/
structure ReturnRun where
  tick : Nat
  step : Nat
  sent : List (Nat × Nat) := []
  forwarded : List (Nat × Nat × Nat) := []
  passed : List (Nat × Nat × Nat × Nat) := []
  gathered : List (Nat × Nat × Nat) := []
  deriving DecidableEq, Repr

/-- A tensor that the RETURN of a tick has updated here (R185). -/
structure UpdatedTensor where
  tick : Nat
  step : Nat
  tensor : Nat
  deriving DecidableEq, Repr

/-- The exchange of this module (R142 to R153). -/
structure Ex where
  batches : List Batch := []
  nextBatch : Nat := 0
  replies : List Reply := []
  /-- next sequence number by (tick16, leg, chip) -/
  seqs : List (Nat × Nat × Nat × Nat) := []
  /-- carriages held at an end-to-end window, in order (R147) -/
  heldOut : List Carriage := []
  openRows : List OpenRow := []
  /-- GRAD and DENSE sent and accepted, by (chip, TICK16); accepted here from a source, and reported to it -/
  sentCnt : List (Nat × Nat × Nat) := []
  accCnt : List (Nat × Nat × Nat) := []
  gotCnt : List (Nat × Nat × Nat) := []
  toldCnt : List (Nat × Nat × Nat) := []
  /-- dense: contributions staged, and own ones that wait for room in the staging of their link group (R150) -/
  staging : List Staged := []
  ownWait : List Staged := []
  /-- DENSE carriages not accepted while their link group's staging is full: source, link group (R150) -/
  denseWait : List (Nat × Nat × DenseMsg) := []
  gatherHeld : List HeldPart := []
  returns : List ReturnRun := []
  updated : List UpdatedTensor := []
  nanSeen : BitVec 12 := 0
  deriving DecidableEq, Repr

/-- A shard handover (R156 to R159). -/
structure Handover where
  map : Nat
  pos : Nat
  newChip : Nat
  newDie : Nat
  newBase : Nat
  oldChip : Nat
  oldDie : Nat
  oldBase : Nat
  entry : Option (Nat × Nat) := none
  copying : Bool := false
  copied : List (Nat × Nat) := []
  prepared : Bool := false
  switchTick : Option Nat := none
  switched : Bool := false
  released : Bool := false
  deriving DecidableEq, Repr

/-- BULK streams (R168): next BSEQ sent per destination; next BSEQ due and carriages held back per source. -/
structure Bulk where
  nextOut : Tab Nat := []
  nextIn : Tab Nat := []
  early : List (Nat × BulkMsg) := []
  /-- follow copies of the APPLY leg: destination and BSEQ (R157) -/
  follow : List (Nat × Nat) := []
  deriving DecidableEq, Repr

/-! ## Digests and snapshots -/

/-- A located block awaiting repair, as the bellwether, the reference or the outlier holds it (R193). -/
structure Repair where
  tick : Nat
  region : Nat
  block : Nat
  outlier : Nat
  reference : Nat
  before : Option Word64 := none
  refDigest : Word64 := 0
  chunks : List Nat := []
  started : Bool := false
  deriving DecidableEq, Repr

/-- A query outstanding at the bellwether, with the replies of outlier and reference (R192). -/
structure Query where
  round : Nat
  outlier : Nat
  reference : Nat
  region : Nat
  level : Nat
  node : Nat
  fromOutlier : Option (List (Nat × Word64)) := none
  fromRef : Option (List (Nat × Word64)) := none
  deriving DecidableEq, Repr

structure Digest where
  round : Option Nat := none
  void : Bool := false
  /-- slices done, leaves by (region, block), of this round and of the one before -/
  slices : Nat := 0
  /-- images current at the boundary of the tick whose slice is still to be read (R190) -/
  sliceImages : List (Nat × Nat) := []
  /-- images current at this tick's boundary, while a repair is ordered (R193) -/
  boundary : List (Nat × Nat) := []
  leaves : List (Nat × Nat × Word64) := []
  prevRound : Option Nat := none
  prevLeaves : List (Nat × Nat × Word64) := []
  /-- bellwether: root of each chip, none when void; the round's roots have been compared -/
  roots : List (Nat × Option Word64) := []
  compared : Bool := false
  queries : List Query := []
  outliers : Nat := 0
  majority : Nat := 0
  /-- blocks located in this round: outlier, region, block -/
  located : List (Nat × Nat × Nat) := []
  repairs : List Repair := []
  deriving DecidableEq, Repr

/-- A snapshot extent (R204). -/
structure Extent where
  port : Nat
  handle : Nat
  nsid : Nat
  lba : Nat
  lbas : Nat
  deriving DecidableEq, Repr

/-- A section of the snapshot stream (R207, R208). -/
structure Section where
  kind : Nat
  die : Nat
  num : Nat
  offset : Nat
  length : Nat
  deriving DecidableEq, Repr

/-- The snapshot of always-on SRAM and the work area (R204 to R209). -/
structure Snapshot where
  id : Nat
  tick : Nat
  slot : Nat
  tag : Nat
  extents : List Extent
  workBase : Nat
  workSize : Nat
  started : Bool := false
  commitStep : Nat := 0
  planDigest : List Byte := []
  bellwether : Bool := false
  /-- exported (table, die, slot); captures ahead of a write, and records walked, by (table, die, slot) -/
  exported : List (Nat × Nat × Nat) := []
  early : List (Nat × Nat × Nat × List Byte) := []
  walked : List (Nat × Nat × Nat × List Byte) := []
  /-- image of each region current at the boundary of S, for the copies of R206; whether they have been made -/
  images : List (Nat × Nat) := []
  /-- steps committed at the boundary of S: which residual copy is read -/
  count : Nat := 0
  copied : Bool := false
  /-- contents of the descriptor, flock and program sections, by section number -/
  tables : List (Nat × List Byte) := []
  /-- the copies in the work area: section number, address, bytes -/
  copies : List (Nat × Nat × Nat) := []
  sections : List Section := []
  walkDone : BitVec 4 := 0
  /-- stream MiB whose writes have been issued, and those whose writes the target has completed; whether the manifest is out -/
  issued : List Nat := []
  doneMib : List Nat := []
  manifestOut : Bool := false
  /-- per die, how many MiB of its sections have completed without a gap (R209) -/
  cursors : List Nat := [0, 0, 0, 0]
  paused : Bool := false
  rebound : Nat := 0
  deriving DecidableEq, Repr

/-! ## Tiles -/

/-- Rows of tile memory that an instruction reads or writes. -/
structure Rgn where
  base : Nat
  stride : Int
  rows : Nat
  bytes : Nat
  deriving DecidableEq, Repr

/-- What a queued matrix-engine instruction does (R231, R241). -/
inductive EngOp where
  | mma (zero : Bool) (fmtA fmtB kg aBase aStride bBase bStride : Nat)
  | drain (dBase dStride fuse tBase tStride tfmt rm : Nat) (clear : Bool) (target : Nat) (key : Word64)
  deriving DecidableEq, Repr

/-- An instruction in a matrix engine's queue. `order` is its issue order; `dirty`: an operand was overwritten (R230). -/
structure EngEnt where
  order : Nat
  acc : Nat
  op : EngOp
  tok : Option Nat
  addr : Nat
  opcode : Nat
  reads : List Rgn
  writes : List Rgn
  dirty : Bool := false
  deriving DecidableEq, Repr

/-- A queued drover transfer or hand-over of dense groups (R269, R270). -/
inductive MoveOp where
  | copy (src dst : End) (rows rowBytes : Nat) (sStride dStride : Int)
  | dense (tensor first count base : Nat)
  deriving DecidableEq, Repr

structure MoveEnt where
  order : Nat
  op : MoveOp
  tok : Option Nat
  addr : Nat
  opcode : Nat
  tick : Nat
  leg : Nat
  step : Nat
  reads : List Rgn
  writes : List Rgn
  dirty : Bool := false
  deriving DecidableEq, Repr

/-- A queued embedding instruction: a look-up batch, a gradient hand-over or a result post. -/
inductive EmbOp where
  | look (batch : Nat)
  | grad (batch : Nat) (src : End) (fmt : Nat)
  | post
  deriving DecidableEq, Repr

structure EmbEnt where
  order : Nat
  op : EmbOp
  /-- the step of its training tag, none under a SERVE tag -/
  step : Option Nat
  /-- the tick of its leg tag -/
  tick : Nat
  tok : Option Nat
  addr : Nat
  opcode : Nat
  reads : List Rgn
  writes : List Rgn
  dirty : Bool := false
  deriving DecidableEq, Repr

/-- Bytes that an instruction with no awaited token has written or will write (R268). -/
structure Unseen where
  order : Nat
  tok : Option Nat
  rgns : List Rgn
  deriving DecidableEq, Repr

/-- A leg tag (R278). -/
structure LegTag where
  tick : Nat
  leg : Nat
  kind : Nat
  step : Nat
  startAt : Nat
  abandoned : Bool
  /-- its step was abandoned after wait.leg returned (R280) -/
  dropped : Bool := false
  deriving DecidableEq, Repr

/-- What a tile is blocked on. -/
inductive Blocked where
  | no
  /-- on the start of leg `l` of the tick given; `dreg` receives the tag word -/
  | leg (l dreg tick : Nat)
  | hurdle (h : Nat)
  deriving DecidableEq, Repr

/-- A state lane of a reduction channel (R253). -/
structure ChanLane where
  n : Nat := 0
  mean : Word32 := 0
  m2 : Word32 := 0
  sum : Word32 := 0
  sq : Word32 := 0
  deriving DecidableEq, Repr

/-- A trap record (R282). -/
structure TrapRec where
  cause : Nat
  engine : Nat
  logical : Nat
  physical : Nat
  instrAddr : Nat
  tick : Nat
  leg : Nat
  opcode : Nat
  addr : Nat
  detail : List Byte
  deriving DecidableEq, Repr

/-- A claim on a tile's claim list (R339): position, ring queue and slot, first eligible leg, answered. -/
structure Claim where
  position : Nat
  queue : Nat
  slot : Nat
  header : Nat
  answered : Bool := false
  deriving DecidableEq, Repr

/-- The claims of a tile in one SERVE leg. -/
structure ClaimList where
  leg : Nat
  tick : Nat
  claims : List Claim
  deriving DecidableEq, Repr

/-- One physical tile's sequencer and register files (R245, R246, R253, R265, R266). -/
structure Tile where
  sreg : Tab Word64 := []
  vreg : Tab (BitVec 2048) := []
  mreg : Tab (BitVec 256) := []
  vflags : BitVec 5 := 0
  chans : Tab ChanLane := []
  acc : Tab Word32 := []
  imem : Tab Word64 := []
  tmem : Tab Byte := []
  pc : Nat := 0
  tag : Option LegTag := none
  blocked : Blocked := .no
  issuing : Bool := false
  trap : Option TrapRec := none
  engines : Tab (List EngEnt) := []
  moves : List MoveEnt := []
  embs : List EmbEnt := []
  unseen : List Unseen := []
  order : Nat := 0
  /-- engines held in their stagger until the instant given (R244) -/
  stagger : Tab Nat := []
  handles : Tab Nat := []
  /-- claim lists of the SERVE legs it has not finished, the newest first -/
  claims : List ClaimList := []
  deriving DecidableEq, Repr

/-- Tiles, the active and pending tile maps, hurdles. The maps list the physical tile of each logical tile. -/
structure Tiles where
  tile : Tab Tile := []
  map : Tab Nat := []
  /-- pending switch: tick, map, whether rotation issued it -/
  pendMap : Option (Nat × Tab Nat × Bool) := none
  /-- logical tiles being moved to new physical tiles: logical, old, new -/
  moving : List (Nat × Nat × Nat) := []
  parked : Tab Tile := []
  hurdles : Tab HurdleInst := []
  deriving DecidableEq, Repr

/-! ## Memory -/

/-- One pseudo-channel's MM_PC_STATE (R319, R322). STATE: 0 ACTIVE, 1 DRAINING, 2 FENCED, 3 MAPPED_OUT. `errs`: the lines
that recorded PARITY_MEM with their instants, newest first. -/
structure PcState where
  state : Nat := 0
  errs : List (Nat × Nat) := []
  retrainFails : Nat := 0
  deriving DecidableEq, Repr

/-- MM_ registers of one die (R322). -/
structure MmDie where
  hbmPeriodH : Nat := 4
  lpPeriodH : Nat := 12
  errAddr : Nat := 0
  errMemory : Nat := 0
  errSource : Nat := 0
  errPc : Nat := 0
  pcs : Tab PcState := []
  deriving DecidableEq, Repr

/-- Memory contents, poison markers, configuration in force (R303 to R322). -/
structure Mm where
  bytes : Tab Byte := []
  /-- poisoned 64-byte lines, by address div 64, rising -/
  poison : List Nat := []
  spread : Nat := 12
  carveout : Nat := 16
  dies : Tab MmDie := []
  selfRefresh : Bool := false
  /-- training values saved in always-on SRAM -/
  trained : Bool := false
  reconfig : Option (Nat × Nat × Nat) := none
  /-- refresh at twice the base rate, by stack -/
  doubleRefresh : BitVec 12 := 0
  deriving DecidableEq, Repr

/-! ## Host queues and interfaces -/

/-- A queue (R324, R333). -/
structure Queue where
  kind : Nat
  role : Nat
  log2 : Nat
  intr : Bool
  vector : Nat
  base : Nat
  slotBytes : Nat
  pos : Nat := 0
  stale : Bool := false
  deriving DecidableEq, Repr

/-- An eligible or claimed entry of an INGEST or SERVE ring (R217, R218, R338). -/
structure RingEnt where
  queue : Nat
  slot : Nat
  firstLeg : Nat
  firstTick : Nat
  firstStart : Nat
  /-- claimed by: leg, tick, step -/
  claimed : Option (Nat × Nat × Nat) := none
  position : Option (Nat × Nat) := none
  retried : Bool := false
  /-- a serve leg left it unclaimed at the claim limit in L1, in L2 -/
  limited : BitVec 2 := 0
  zeroed : Bool := false
  dropped : Bool := false
  /-- the 64-byte request header as claimed, and its bags: table and indices -/
  hdr : List Byte := []
  bags : List (Nat × List Nat) := []
  /-- the deadline of R220, once its leg's tick has started -/
  due : Option Nat := none
  deriving DecidableEq, Repr

/-- The attach record (R348) but for what other units hold. STATE: 0 NEVER, 1 ATTACHED, 2 LOST. -/
structure Attach where
  generation : Nat := 0
  state : Nat := 0
  path : Nat := 0
  lostTick : Nat := 0
  log : List (Nat × Nat × Nat) := []
  deriving DecidableEq, Repr

/-- A region table entry (R342, R350). -/
structure HqRegion where
  base : Nat := 0
  size : Nat := 0
  xlat : Nat := 0
  valid : Bool := false
  read : Bool := false
  write : Bool := false
  target : Bool := false
  deriving DecidableEq, Repr

/-- A read of HQ_REGION_CTL that waits for the accesses resolved through its entry: a register read, or a window read of `len`
bytes at offset `off` of the register's slot (R342). -/
structure CtlRead where
  entry : Nat
  window : Bool
  off : Nat
  len : Nat
  deriving DecidableEq, Repr

/-- An ADMIN command started and not complete (R330): ring slot, tag, opcode. -/
structure Started where
  slot : Nat
  tag : Nat
  opcode : Nat
  deriving DecidableEq, Repr

/-- HQ_ registers and the queue engine (R324 to R350). -/
structure Hq where
  adminBase : Nat := 0
  log2 : Nat := 4
  enable : Bool := false
  adminPos : Nat := 0
  adminStale : Bool := false
  rereads : Nat := 0
  beat : Nat := 0
  hbMs : Nat := 100
  beatAt : Nat := 0
  beatTick : Nat := 0
  windowHi : Nat := 0
  ovfBase : Nat := 0
  ptpPort : Nat := 0
  ptpEn : Bool := false
  attach : Attach := {}
  regions : Tab HqRegion := []
  /-- accesses resolved through a region entry and not complete, by entry -/
  inFlight : Tab Nat := []
  ctlReads : List CtlRead := []
  queues : Tab Queue := []
  ovf : List Event := []
  ovfIndex : Nat := 0
  nextSeq : Nat := 0
  /-- records waiting at attach still to deliver, with the SEQ kept for HOST_ATTACHED; how many have been delivered -/
  attachLeft : Option (Nat × Nat) := none
  attachSent : Nat := 0
  started : List Started := []
  entries : List RingEnt := []
  deriving DecidableEq, Repr

/-- A RoCEv2 queue pair (R332). -/
structure Qp where
  port : Nat
  remoteGid : List Byte
  remoteQp : Nat
  sendPsn : Nat
  recvPsn : Nat
  mtu : Nat
  dscp : Nat
  ready : Bool
  deriving DecidableEq, Repr

/-- A registered region (R332, R344). -/
structure Mr where
  base : Nat
  bytes : Nat
  read : Bool
  write : Bool
  deriving DecidableEq, Repr

/-- Ethernet, RDMA, PTP, PPS, PCIe endpoint (R343 to R345, R424, R427). -/
structure Net where
  qps : Tab Qp := []
  mrs : Tab Mr := []
  nextMr : Nat := 0
  handles : Tab (Nat × Nat) := []
  nextHandle : Nat := 0
  /-- per cage: pluggable present, low-power mode -/
  cages : Tab (Bool × Bool) := []
  received : List (Nat × List Byte) := []
  ptpLast : Option Nat := none
  ptpHold : Bool := false
  /-- facility time: (facility ns, local ns) of the last synchronisation -/
  facility : Option (Nat × Nat) := none
  /-- facility and local time between the last two synchronisations (R33) -/
  rate : Option (Nat × Nat) := none
  ppsLast : Option Nat := none
  ppsSeconds : Nat := 0
  ppsHold : Bool := false
  ppsFirst : Bool := true
  pcieUp : Bool := false
  perstN : Bool := true
  deriving DecidableEq, Repr

/-! ## Power and thermal -/

/-- What the controller learns of a leg (R355, R366). -/
structure LegPower where
  learned : Nat := 3000
  samples : List Nat := []
  meas : Nat := 0
  bubble : Nat := 0
  cause : BitVec 5 := 0
  deriving DecidableEq, Repr

/-- A die's droop state (R359). -/
structure Droop where
  active : Bool := false
  cycles : Nat := 0
  raised : Bool := false
  warned : Bool := false
  minMv : Nat := 0
  deriving DecidableEq, Repr

/-- PW_ registers and the power controller (R351 to R366). The internal b of R357 is `bNum`/`bDen`. -/
structure Pw where
  cap : Nat := 3000
  capSrc : Nat := 0
  standby : Bool := false
  lat : List Nat := [10, 2, 1000, 100]
  ocpLimit : Nat := 0x7D
  idleW : Nat := 0
  p10 : Nat := 0
  temps : List Int := List.replicate 16 0
  legs : Tab LegPower := []
  bNum : Nat := 0
  bDen : Nat := 1
  capRatio : Nat := 0
  capWritten : Bool := false
  /-- instant of the last PLDM write (R354) -/
  pldmAt : Option Nat := none
  unmetSince : Option Nat := none
  capUnmet : Bool := false
  ocpTrip : Bool := false
  ocpSince : Nat := 0
  moduleState : Nat := 0
  /-- thermal ratio in 1/64 by unit: dies 0 to 8, stacks at 16 -/
  thermal : Tab Nat := []
  stackTemps : List Int := []
  droop : Tab Droop := []
  causeTick : BitVec 5 := 0
  droopTick : Nat := 0
  /-- idle state of each unit, by kind and index of R433 as 256 × kind + index -/
  idle : Tab Nat := []
  deriving DecidableEq, Repr

/-! ## Grazing -/

/-- Progress of a leg-bound task on a unit (R369). D is in 1/1,024. -/
structure TaskUnit where
  done : Nat := 0
  /-- tasks 0 and 1: die offset of the next line, in lines; task 6: the next pseudo-channel of the pass -/
  pos : Nat := 0
  startAt : Nat := 0
  passes : Nat := 0
  starved : Bool := false
  forcedNs : Nat := 0
  /-- tick and leg of its last forced slice -/
  forcedIn : Option (Nat × Nat) := none
  /-- task 6: tick and leg of its last drain (R367) -/
  drainedIn : Option (Nat × Nat) := none
  deriving DecidableEq, Repr

/-- GZ_BIST_TILE or GZ_BIST_UNIT (R384). -/
structure BistReg where
  logicCov : Nat := 0
  sramCov : Nat := 0
  result : Nat := 0
  usUsed : Nat := 0
  /-- the pass these values belong to is complete -/
  ended : Bool := false
  deriving DecidableEq, Repr

structure Gz where
  rotateEn : Bool := true
  bistEn : Bool := true
  bistPeriodH : Nat := 1
  retrainMin : Nat := 10
  retrainDc : Nat := 5
  privStatus : Nat := 0
  privPass : BitVec 4 := 0
  tasks : Tab TaskUnit := []
  bistTile : Tab BistReg := []
  bistUnit : Tab BistReg := []
  /-- self-tests queued: kind, index, origin of R378 -/
  queued : List (Nat × Nat × Nat) := []
  /-- units out of use until a cold boot passes them (R375) -/
  failed : List (Nat × Nat) := []
  fwTarget : Nat := 0
  fwImage : Nat := 0
  fwTick : Nat := 0
  fwPending : Option (Nat × Nat × Nat) := none
  fwState : Nat := 0
  fwSince : Nat := 0
  fwCode : Nat := 0
  shImage : Nat := 0
  hostImage : Nat := 0
  /-- events held in the hardware buffer of a blackout (R382) -/
  blackout : Bool := false
  buffer : List Event := []
  /-- temperature of each stack at its last retraining (R367) -/
  retrainTemps : List Int := []
  /-- address ranges that get one scrub pass (R193) -/
  scrubs : List (Nat × Nat) := []
  deriving DecidableEq, Repr

/-! ## Security, fuses, flash, boot -/

/-- A plan key slot (R390, R401). STATE: 0 empty, 1 valid, 2 revoked. -/
structure KeySlot where
  state : Nat := 0
  modulus : List Byte := []
  keyId : List Byte := []
  deriving DecidableEq, Repr

/-- Fuses and NOR flash: what every reset keeps (R385, R402). -/
structure Nor where
  svn : Nat := 0
  ownerHash : Option (List Byte) := none
  slots : Tab KeySlot := []
  enrollCtr : Nat := 0
  /-- images written since manufacture, by 2 × component + image; bit 2 × component + image: it passed its last verification;
  the boot image of each component -/
  images : Tab (List Byte) := []
  verified : BitVec 8 := 0
  bootImage : Tab Nat := []
  bootConfig : Option Nat := none
  mapout : List (Nat × Nat) := []
  quarTiles : BitVec 160 := 0
  quarEngines : BitVec 32 := 0
  /-- a thermal trip not yet reported: die, temperature, tick -/
  trip : Option (Nat × Int × Nat) := none
  deriving DecidableEq, Repr

/-- SC_ registers and protocol state (R391 to R401). -/
structure Sc where
  debug : Bool := false
  debugAuth : Nat := 0
  lockout : Bool := false
  zeroized : Bool := false
  bootResult : Nat := 0
  nonce : Option (List Byte × Nat) := none
  nonceCount : Nat := 0
  failures : Nat := 0
  mboxState : Nat := 0
  mboxCode : Nat := 0
  mbox : Tab Byte := []
  /-- SPDM negotiation reached per endpoint: 1 version, 2 capabilities, 3 algorithms -/
  spdm : Tab Nat := []
  /-- endpoint of the firmware update in progress -/
  updating : Option Nat := none
  /-- management address: I3C dynamic address, or none (SMBus 0x5A) -/
  i3c : Option Nat := none
  mgmtPending : Nat := 0
  deriving DecidableEq, Repr

/-- Power, boot and pins (R402 to R424). -/
structure Boot where
  phase : Nat := 0
  failCode : Nat := 0
  cause : Nat := 0
  warmCount : Nat := 0
  powered : Bool := false
  pwrEn : Bool := false
  inputOk : Bool := false
  pgood : Bool := false
  modRstN : Bool := true
  hostRstN : Bool := true
  thermtripN : Bool := true
  alertN : Bool := true
  /-- the reset in progress is a warm one -/
  warm : Bool := false
  hostRunning : Bool := false
  cachesValid : Bool := false
  scan : Bool := false
  /-- the boot ended in recovery mode (R388) -/
  recovery : Bool := false
  /-- cause of the cold reset that the next PWR_EN or return reports -/
  nextCause : Nat := 0
  /-- instant the phase began -/
  phaseAt : Nat := 0
  /-- laser modules plugged in -/
  bays : BitVec 6 := 0x3F
  /-- events of a boot or recovery in progress, raised in the order of R414 once it is over -/
  heldEvents : List HeldEvent := []
  deriving DecidableEq, Repr

/-- Tallies (R436, R437): module tallies by offset ÷ 8; per-table tallies by 4,096 × block + table. -/
structure Tallies where
  module : Tab Nat := []
  table : Tab Nat := []
  deriving DecidableEq, Repr

end Sys2Proof.Machine
end

