-- ==== Sys2Proof/Machine/State.lean ====
section
/-! DEFINITION. The block's state, the reasons a command can stop, and the state at cold reset. -/

namespace Sys2Proof.Machine

/-- Why a command stops with a fault. -/
inductive Fault where
  /-- A command names a unit that the module does not have (R6): a tile above 159, a link interface above 95, a die
  above 3, a matrix engine above 15. Raised by the guard of every meaning that takes a unit number. Safe. -/
  | noSuchUnit
  deriving DecidableEq, Repr

/-- Why a command is refused. No meaning refuses. -/
inductive Refusal where
  /-- An arm of `exec` with no meaning yet. Safe. -/
  | notModelled (mnemonic : String)
  deriving DecidableEq, Repr

/-- Everything the manual gives the module. `out` is what it has sent, newest first; `freeCtr` is the model's own counter
of free values (log 3); `pending` is the queue of waiting commands, first in, first out. -/
structure State where
  now : Nat := 0
  boot : Boot := {}
  nor : Nor := {}
  sc : Sc := {}
  mm : Mm := {}
  hq : Hq := {}
  net : Net := {}
  tk : Tk := {}
  run : TkRun := {}
  start : StartCheck := {}
  job : Job := {}
  record : JobRecord := {}
  tb : Tables := {}
  folds : Folds := {}
  ru : Tab RowUnit := []
  commit : Commit := {}
  ex : Ex := {}
  handovers : List Handover := []
  bulk : Bulk := {}
  lg : Lg := {}
  digest : Digest := {}
  snap : Option Snapshot := none
  repairsDue : List (Nat × Nat × Nat) := []
  tiles : Tiles := {}
  pw : Pw := {}
  gz : Gz := {}
  tallies : Tallies := {}
  out : List Out := []
  freeCtr : Nat := 0
  pending : List Instr := []
  deriving DecidableEq, Repr

/-- The module at cold reset, before its power stages are enabled: each register at the Reset column of its table. -/
def State.reset : State := {}

end Sys2Proof.Machine
end

