-- ==== Sys2Proof/Machine/Tab.lean ====
section
/-! DEFINITION. Reading and writing sparse tables. A table with a default (`tabGet`, `tabSet`) lists no entry equal to it;
a table of present entries (`tabFind`, `tabPut`, `tabDel`) lists what is present. Keys rise strictly in both. -/

namespace Sys2Proof.Machine

variable {α : Type}

/-- The entry at a key, or the default. -/
def tabGet (d : α) : Tab α → Nat → α
  | [], _ => d
  | (k, v) :: t, n => if n = k then v else tabGet d t n

/-- The entry at a key, if any. -/
def tabFind : Tab α → Nat → Option α
  | [], _ => none
  | (k, v) :: t, n => if n = k then some v else tabFind t n

/-- Put an entry, replacing the one at its key. -/
def tabPut : Tab α → Nat → α → Tab α
  | [], n, v => [(n, v)]
  | (k, w) :: t, n, v =>
    if n < k then (n, v) :: (k, w) :: t
    else if n = k then (n, v) :: t
    else (k, w) :: tabPut t n v

/-- Remove the entry at a key. -/
def tabDel : Tab α → Nat → Tab α
  | [], _ => []
  | (k, w) :: t, n => if n = k then tabDel t n else (k, w) :: tabDel t n

/-- The keys listed. -/
def tabKeys (t : Tab α) : List Nat := t.map (·.1)

/-- Set the value at a key, keeping no entry equal to the default. -/
def tabSet [DecidableEq α] (d : α) (t : Tab α) (n : Nat) (v : α) : Tab α :=
  if v = d then tabDel t n else tabPut t n v

/-- Update the value at a key. -/
def tabMod [DecidableEq α] (d : α) (t : Tab α) (n : Nat) (f : α → α) : Tab α :=
  tabSet d t n (f (tabGet d t n))

/-- Insert before the first element that `x` does not come after. -/
def insertBy (le : α → α → Bool) (x : α) : List α → List α
  | [] => [x]
  | y :: ys => if le x y then x :: y :: ys else y :: insertBy le x ys

/-- Sort, keeping the order of equal elements. -/
def sortBy (le : α → α → Bool) : List α → List α
  | [] => []
  | x :: xs => insertBy le x (sortBy le xs)

/-- Canonical form of a table with a default: keys strictly rising, no entry equal to the default. -/
def tabWf [DecidableEq α] (d : α) : Tab α → Bool
  | [] => true
  | [(_, v)] => decide (v ≠ d)
  | (k, v) :: (k', v') :: t => decide (v ≠ d) && decide (k < k') && tabWf d ((k', v') :: t)

/-- Increment a saturating counter held in a table of numbers (R8). -/
def tabBump (limit : Nat) (t : Tab Nat) (n by_ : Nat) : Tab Nat :=
  tabSet 0 t n (min limit (tabGet 0 t n + by_))

end Sys2Proof.Machine
end

