-- ==== Sys2Proof/Machine/Mem.lean ====
section
/-! DEFINITION. The physical address space (R13, R303 to R309), memory contents and poison markers (R312, R320). -/

namespace Sys2Proof.Machine

/-- 2.25 GiB: an HBM3E pseudo-channel (R303). -/
def hbmPcBytes : Nat := 0x90000000
/-- 28 GiB: the data of an LPDDR5X pseudo-channel (R303). -/
def lpPcBytes : Nat := 0x700000000
def gib16 : Nat := 0x400000000
def lpBase : Nat := 0x040000000000
def lpEnd : Nat := 0x078000000000
def csrBase : Nat := 0x0F0000000000
def csrEnd : Nat := 0x0F0100000000
/-- Size of the event overflow ring (R309, R336). -/
def ovfBytes : Nat := 0x4000000

def mmDie (m : Mm) (d : Nat) : MmDie := tabGet {} m.dies d
def mmPc (m : Mm) (d p : Nat) : PcState := tabGet {} (mmDie m d).pcs p

/-- Mapped-out pseudo-channels of a die with numbers in [lo, hi), ascending. -/
def mappedOut (m : Mm) (d lo hi : Nat) : List Nat :=
  ((mmDie m d).pcs.filter fun e => lo ≤ e.1 && e.1 < hi && e.2.state == 3).map (·.1)

/-- P_d and Q_d of R303. -/
def activeHbm (m : Mm) (d : Nat) : Nat := 96 - (mappedOut m d 0 96).length
def activeLp (m : Mm) (d : Nat) : Nat := 32 - (mappedOut m d 96 128).length

/-- The n-th active pseudo-channel of a die from `lo` on, ascending. -/
def nthActive (m : Mm) (d lo hi n : Nat) : Nat :=
  (mappedOut m d lo hi).foldl (fun p k => if k ≤ p then p + 1 else p) (lo + n)

def spreadBytes (m : Mm) : Nat := m.spread * gib16
/-- L[d] of R304. -/
def localLen (m : Mm) (d : Nat) : Nat := hbmPcBytes * activeHbm m d - spreadBytes m / 4
/-- LB[d] of R304; LB[4] is the first address above populated HBM3E. -/
def localBase (m : Mm) : Nat → Nat
  | 0 => spreadBytes m
  | d + 1 => localBase m d + localLen m d
def hbmTop (m : Mm) : Nat := localBase m 4
/-- Where the overflow ring stands (R309). -/
def ovfRing (m : Mm) : Nat := hbmTop m - ovfBytes

def carveBytes (m : Mm) : Nat := m.carveout * gib16
def carveBase (m : Mm) : Nat := lpEnd - carveBytes m
/-- PA_d and PB_d of R307. -/
def pastureLen (m : Mm) (d : Nat) : Nat := lpPcBytes * activeLp m d - carveBytes m / 4
def pastureBase (m : Mm) : Nat → Nat
  | 0 => lpBase
  | d + 1 => pastureBase m d + pastureLen m d

/-- Where an address decodes to: a die, a pseudo-channel and its address there; a CSR offset; or an error. -/
inductive Place where
  | mem (die pc addr : Nat)
  | csr (offset : Nat)
  | error
  deriving DecidableEq, Repr

/-- Interleave of a die offset over active pseudo-channels (R304). -/
def interleave (m : Mm) (d o lo hi cnt : Nat) : Place :=
  let n := o / 256
  if cnt = 0 then .error else .mem d (nthActive m d lo hi (n % cnt)) (n / cnt * 256 + o % 256)

/-- The die whose range holds `a`, given the bases. -/
def dieOf (base : Nat → Nat) (a : Nat) : Nat :=
  if a < base 1 then 0 else if a < base 2 then 1 else if a < base 3 then 2 else 3

/-- Decode of an HBM3E address (R304). -/
def decodeHbm (m : Mm) (a : Nat) : Place :=
  if a < spreadBytes m then
    let g := a / 4096
    interleave m (g % 4) (g / 4 * 4096 + a % 4096) 0 96 (activeHbm m (g % 4))
  else if a < hbmTop m then
    let d := dieOf (localBase m) a
    interleave m d (spreadBytes m / 4 + (a - localBase m d)) 0 96 (activeHbm m d)
  else .error

/-- Decode of an LPDDR5X data address (R307). -/
def decodeLp (m : Mm) (a : Nat) : Place :=
  if carveBase m ≤ a then
    let g := (a - carveBase m) / 4096
    let d := g % 4
    interleave m d (pastureLen m d + g / 4 * 4096 + a % 4096) 96 128 (activeLp m d)
  else if a < pastureBase m 4 then
    let d := dieOf (pastureBase m) a
    interleave m d (a - pastureBase m d) 96 128 (activeLp m d)
  else .error

/-- Decode of a physical address (R13). -/
def decodeAddr (m : Mm) (a : Nat) : Place :=
  if a < 0x010000000000 then decodeHbm m a
  else if lpBase ≤ a && a < lpEnd then decodeLp m a
  else if csrBase ≤ a && a < csrEnd then .csr (a - csrBase)
  else .error

/-- Every byte of [a, a + n) is HBM3E below the overflow ring, or LPDDR5X data: what an agent other than the host queue
engine reaches without a decode error (R15, R309), the CSR space apart. -/
def devOk (m : Mm) (a n : Nat) : Bool :=
  a + n ≤ ovfRing m || (lpBase ≤ a && a + n ≤ pastureBase m 4) || (carveBase m ≤ a && a + n ≤ lpEnd) ||
    (pastureBase m 4 == carveBase m && lpBase ≤ a && a + n ≤ lpEnd)

/-- [a, a + n) lies in die d's local HBM3E range, below the overflow ring (R306). -/
def inLocal (m : Mm) (d a n : Nat) : Bool :=
  localBase m d ≤ a && a + n ≤ localBase m (d + 1) && a + n ≤ ovfRing m

/-- [a, a + n) lies in HBM3E (R306). -/
def inHbm (m : Mm) (a n : Nat) : Bool := a + n ≤ ovfRing m

/-- [a, a + n) lies in die d's pasture range (R307). -/
def inPasture (m : Mm) (d a n : Nat) : Bool := pastureBase m d ≤ a && a + n ≤ pastureBase m (d + 1)

/-- The line is backed by a FENCED pseudo-channel (R320). -/
def lineFenced (m : Mm) (line : Nat) : Bool :=
  match decodeAddr m (line * 64) with
  | .mem d p _ => (mmPc m d p).state == 2
  | _ => false

/-- The line reads as poisoned (R312, R320). -/
def linePoisoned (m : Mm) (line : Nat) : Bool := m.poison.contains line || lineFenced m line

/-- Lines touched by [a, a + n). -/
def linesOf (a n : Nat) : List Nat := if n = 0 then [] else (List.range ((a + n - 1) / 64 - a / 64 + 1)).map (a / 64 + ·)

/-- Address of the first poisoned line in [a, a + n). -/
def poisonIn (m : Mm) (a n : Nat) : Option Nat := ((linesOf a n).find? (linePoisoned m)).map (· * 64)

/-- One byte of memory; a byte nothing has written since the zero-fill reads zero (R315). -/
def memByte (m : Mm) (a : Nat) : Byte := tabGet 0 m.bytes a

def memRead (m : Mm) (a n : Nat) : List Byte := (List.range n).map fun i => memByte m (a + i)

def memNat (m : Mm) (a n : Nat) : Nat := leNat (memRead m a n)

/-- Insert into a rising list. -/
def insertSorted (x : Nat) : List Nat → List Nat
  | [] => [x]
  | y :: t => if x < y then x :: y :: t else if x = y then y :: t else y :: insertSorted x t

/-- Bytes written one by one, but for those of fenced lines, which are discarded (R320). -/
def putBytes (m : Mm) : Tab Byte → Nat → List Byte → Tab Byte
  | t, _, [] => t
  | t, a, b :: bs => putBytes m (if lineFenced m (a / 64) then t else tabSet 0 t a b) (a + 1) bs

/-- A write: whole lines lose their poison marker, partial lines keep it (R312). -/
def memWrite (m : Mm) (a : Nat) (bs : List Byte) : Mm :=
  { m with
    bytes := putBytes m m.bytes a bs
    poison := m.poison.filter fun l => !(a ≤ l * 64 && l * 64 + 64 ≤ a + bs.length) }

def memPoison (m : Mm) (line : Nat) : Mm := { m with poison := insertSorted line m.poison }

/-- Zero with clear markers throughout HBM3E (R315, R321). -/
def zeroHbm (m : Mm) : Mm :=
  { m with bytes := m.bytes.filter (fun e => lpBase ≤ e.1), poison := m.poison.filter (fun l => lpBase ≤ l * 64) }

/-- Zero with clear markers throughout HBM3E and LPDDR5X data (R315). -/
def zeroAll (m : Mm) : Mm := { m with bytes := [], poison := [] }

/-- The canonical form of memory. -/
def Memory.wf (m : Mm) : Bool := tabWf 0 m.bytes && decide (m.poison.Pairwise (· < ·))

end Sys2Proof.Machine
end

