-- ==== Sys2Proof/Machine/Names.lean ====
section
/-! DEFINITION. Names of the module tallies (R437: their offsets in the tally page), event codes (R434) and severities (R335). -/

namespace Sys2Proof.Machine

/-! ## Tallies -/

def tlMarkLate : Nat := 0x000
def tlMarkHoldover : Nat := 0x008
def tlLegWaited : Nat := 0x010
def tlTickStretched : Nat := 0x018
def tlStepSkipped : Nat := 0x020
def tlSamplesRetried : Nat := 0x028
def tlServeLate : Nat := 0x030
def tlServeBad : Nat := 0x038
def tlServeNoreply : Nat := 0x040
def tlNanResult : Nat := 0x048
def tlNanSuppressed : Nat := 0x050
def tlNanRows : Nat := 0x058
def tlTileTrap : Nat := 0x060
def tlSuOverflow : Nat := 0x068
def tlHqFull : Nat := 0x070
def tlPromoteAbandoned : Nat := 0x078
def tlAccSaturated : Nat := 0x080
def tlGradStale : Nat := 0x088
def tlRowTorn : Nat := 0x090
def tlRowPoisoned : Nat := 0x098
def tlStateNan : Nat := 0x0A0
def tlFlockMismatch : Nat := 0x0A8
def tlGscaleDefault : Nat := 0x0B0
def tlFoldTorn : Nat := 0x0B8
def tlFoldDiscard : Nat := 0x0C8
def tlRowStale : Nat := 0x0D0
def tlExchForwarded : Nat := 0x0D8
def tlExchMisrouted : Nat := 0x0E0
def tlCrcError : Nat := 0x0E8
def tlLinkRetry : Nat := 0x0F0
def tlLinkLost : Nat := 0x0F8
def tlRouteHops : Nat := 0x100
def tlRouteNone : Nat := 0x108
def tlDigestRounds : Nat := 0x110
def tlDigestLate : Nat := 0x118
def tlDigestDeferred : Nat := 0x120
def tlParityPath : Nat := 0x128
def tlParityMem : Nat := 0x130
def tlDroopCycles : Nat := 0x138
def tlGrazeForced : Nat := 0x140
def tlGrazeMissed : Nat := 0x148
def tlBistSlices : Nat := 0x150
def tlBistRetry : Nat := 0x158
def tlEarlyDoorbell : Nat := 0x160
def tlEventDropped : Nat := 0x168
def tlTelemetryDropped : Nat := 0x170
def tlPtpHoldover : Nat := 0x178
def tlPpsHoldover : Nat := 0x180
def tlSecurityViolation : Nat := 0x188

/-! ## Event codes -/

def evTickOverrun : Nat := 0x0101
def evLegOverrun : Nat := 0x0102
def evMarkLost : Nat := 0x0103
def evServeLate : Nat := 0x0201
def evStepSkew : Nat := 0x0301
def evReplicaDiverged : Nat := 0x0302
def evParityPath : Nat := 0x0401
def evParityMem : Nat := 0x0402
def evRowPoisoned : Nat := 0x0403
def evRowTorn : Nat := 0x0404
def evAccSaturated : Nat := 0x0405
def evAccPoolFull : Nat := 0x0406
def evNanTrap : Nat := 0x0501
def evStaleDescriptor : Nat := 0x0601
def evLinkDegraded : Nat := 0x0701
def evLinkDown : Nat := 0x0702
def evLaserFault : Nat := 0x0703
def evGrazeStarved : Nat := 0x0801
def evBistFail : Nat := 0x0802
def evTileQuarantined : Nat := 0x0803
def evChannelMappedOut : Nat := 0x0804
def evPowerCapLimited : Nat := 0x0901
def evDroop : Nat := 0x0902
def evThermalThrottle : Nat := 0x0903
def evThermtrip : Nat := 0x0904
def evHostLost : Nat := 0x0A01
def evHostAttached : Nat := 0x0A02
def evSnapshotAborted : Nat := 0x0B01
def evFoldSwitched : Nat := 0x0B02
def evFirmwareActivated : Nat := 0x0C01
def evSecurityViolation : Nat := 0x0C02

/-! ## Severities -/

def sevInfo : Nat := 0
def sevWarn : Nat := 1
def sevDegrade : Nat := 2
def sevFault : Nat := 3
def sevFatal : Nat := 4

/-! ## Leg kinds (R20) -/

def kFree : Nat := 0
def kIngest : Nat := 1
def kGather : Nat := 2
def kDense : Nat := 3
def kReturn : Nat := 4
def kApply : Nat := 5
def kServe : Nat := 6
def kGraze : Nat := 7

end Sys2Proof.Machine
end

