-- ==== Sys2Proof/Machine/Ops.lean ====
section
/-! DEFINITION. Operations every unit shares: the outcome of a command, time, tallies (R436), free values, the region table
(R342), the host queue engine's accesses (R400), and raising an event (R334 to R336). -/

namespace Sys2Proof.Machine

/-- The outcome type of every meaning. -/
abbrev Res := Host.Outcome State Fault Refusal

/-- The command's effect, if the unit it names exists (R6). -/
def onUnit (ok : Bool) (s : State) : Res := if ok then .next s else .fault .noSuchUnit

/-- Instants only advance. -/
def atTime (now : Nat) (s : State) : State := { s with now := max s.now now }

def emit (o : Out) (s : State) : State := { s with out := o :: s.out }

/-! ## Tallies -/

/-- Count in a module tally, at its offset ÷ 8 (R437). -/
def tallyBy (off by_ : Nat) (s : State) : State :=
  { s with tallies := { s.tallies with module := tabBump (2 ^ 64 - 1) s.tallies.module (off / 8) by_ } }

def tally (off : Nat) (s : State) : State := tallyBy off 1 s

/-- Count in a per-table tally: block 0 IDX_MISSING, 1 IDX_INVALID, 2 BAG_EMPTY, 3 ACC_UNDERFLOW (R437). -/
def tableTally (block table by_ : Nat) (s : State) : State :=
  { s with tallies := { s.tallies with table := tabBump (2 ^ 32 - 1) s.tallies.table (4096 * block + table) by_ } }

/-! ## Free values -/

/-- The next free word (log 3). -/
def freeWord (s : State) : Word64 × State := (Config.freeWord s.freeCtr, { s with freeCtr := s.freeCtr + 1 })

/-- `n` free bytes. -/
def freeBytes (n : Nat) (s : State) : List Byte × State :=
  ((List.range n).map (fun i => (Config.freeWord (s.freeCtr + i)).setWidth 8), { s with freeCtr := s.freeCtr + n })

/-! ## The region table (R342) -/

def hostBit : Nat := 2 ^ 63

def bitNat (b : Bool) : Nat := if b then 1 else 0

/-- The lowest-numbered valid entry that covers [a, a + n) and grants the direction; `a` is bits [62:0]. -/
def regionEntry (h : Hq) (a n : Nat) (write : Bool) : Option (Nat × HqRegion) :=
  h.regions.find? fun e => e.2.valid && (if write then e.2.write else e.2.read) && e.2.base ≤ a && a + n ≤ e.2.base + e.2.size

/-- Where a host address leads. -/
inductive HostPlace where
  | refused
  | external
  | carve (addr : Nat)
  deriving DecidableEq, Repr

def hostPlace (h : Hq) (addr n : Nat) (write : Bool) : HostPlace :=
  let a := addr % hostBit
  match regionEntry h a n write with
  | none => .refused
  | some (_, e) => if e.target then .carve (e.xlat + (a - e.base)) else .external

/-! ## Events -/

def uModule : UnitId := ⟨0, 0⟩
def uTile (t : Nat) : UnitId := ⟨1, t⟩
def uMd (d : Nat) : UnitId := ⟨3, d⟩
def uXd : UnitId := ⟨4, 0⟩
def uLi (l : Nat) : UnitId := ⟨5, l⟩
def uLg (k : Nat) : UnitId := ⟨6, k⟩
def uLm (j : Nat) : UnitId := ⟨8, j⟩
def uHq : UnitId := ⟨0x0D, 0⟩

/-- Pad or cut to a length. -/
def padTo (n : Nat) (bs : List Byte) : List Byte := (bs ++ List.replicate (n - bs.length) 0).take n

/-- TIME_NS of an event (R335). -/
def eventTime (s : State) : Nat :=
  if s.tk.timeSrc = 0 then s.now
  else match s.net.facility with
    | some (f, l) => f + (s.now - l)
    | none => s.now

def unitWord (u : UnitId) : Nat := u.kind * 2 ^ 24 + u.index

/-- The 64-byte EVENT entry but for OWN, which is 0 here (R335). -/
def eventBytes (e : Event) : List Byte :=
  leBytes 2 e.code ++ leBytes 1 e.severity ++ [0] ++ leBytes 4 (unitWord e.unit) ++ leBytes 8 e.tick ++
    padTo 16 e.detail ++ leBytes 8 e.seq ++ leBytes 8 e.timeNs ++ [if e.overflow then 1 else 0] ++ List.replicate 15 0

/-- An event of severity DEGRADE or above goes out as a PlatformEventMessage too, host or no host (R398). -/
def platformEvent (e : Event) (s : State) : State :=
  if sevDegrade ≤ e.severity then
    emit (.platformEvent ((eventBytes e).take 32)) { s with sc := { s.sc with mgmtPending := s.sc.mgmtPending + 1 } }
  else s

/-- The event with its tick, time and SEQ; SEQ is consumed. -/
def stampEvent (code sev : Nat) (u : UnitId) (detail : List Byte) (s : State) : Event × State :=
  let e : Event :=
    { code, severity := sev, unit := u, tick := s.tk.tick, detail := padTo 16 detail, seq := s.hq.nextSeq, timeNs := eventTime s }
  (e, platformEvent e { s with hq := { s.hq with nextSeq := s.hq.nextSeq + 1 } })

/-- Records the overflow ring holds, and those kept for DEGRADE and above (R336). -/
def ovfCapacity : Nat := 2097152
def ovfKept : Nat := 4096

/-- Write an event into the overflow ring, or discard it (R336). -/
def pushOvf (e : Event) (s : State) : State :=
  if s.hq.ovf.length < (if sevDegrade ≤ e.severity then ovfCapacity else ovfCapacity - ovfKept) then
    { s with hq := { s.hq with ovf := s.hq.ovf ++ [{ e with overflow := true }] } }
  else tally tlEventDropped s

/-- The EVENT (1) or TELEMETRY (2) queue, with its number. -/
def queueOfKind (s : State) (k : Nat) : Option (Nat × Queue) := s.hq.queues.find? fun e => e.2.kind == k

def slotAddr (q : Queue) (n : Nat) : Nat := q.base + n % 2 ^ q.log2 * q.slotBytes

/-- Detail of SECURITY_VIOLATION (R400). -/
def secDetail (cause code index addr : Nat) : List Byte :=
  leBytes 1 cause ++ leBytes 1 code ++ leBytes 2 index ++ leBytes 4 0 ++ leBytes 8 addr

/-- A refusal met while an event is being delivered: its SECURITY_VIOLATION follows that event into the overflow ring. -/
def violationIntoOvf (queue addr : Nat) (s : State) : State :=
  let (e, s) := stampEvent evSecurityViolation sevWarn uModule (secDetail 1 0 queue addr) (tally tlSecurityViolation s)
  pushOvf e s

/-- Read through the host queue engine: the bytes, or none when refused or unreachable. The external host's own
memory gives free bytes (log 9). -/
def rawRead (addr n : Nat) (s : State) : Option (List Byte) × State :=
  if addr < hostBit then
    (if devOk s.mm addr n then some (memRead s.mm addr n) else none, s)
  else match hostPlace s.hq addr n false with
    | .refused => (none, s)
    | .carve a => (some (memRead s.mm a n), s)
    | .external => let (b, s) := freeBytes n s; (some b, s)

/-- The access is refused by the region table. -/
def hostRefused (addr n : Nat) (write : Bool) (s : State) : Bool :=
  decide (hostBit ≤ addr) && decide (hostPlace s.hq addr n write = .refused)

/-- Write through the host queue engine; a refused or unreachable write is discarded. -/
def rawWrite (addr : Nat) (bs : List Byte) (s : State) : State :=
  if addr < hostBit then
    if devOk s.mm addr bs.length then { s with mm := memWrite s.mm addr bs } else s
  else match hostPlace s.hq addr bs.length true with
    | .refused => s
    | .carve a => { s with mm := memWrite s.mm a bs }
    | .external => emit (.hostWrite (addr % hostBit) bs) s

/-- Write one event into a free EVENT slot and advance: the entry, then OWN, then the interrupt (R340, R343). -/
def writeEventSlot (q : Nat) (qu : Queue) (e : Event) (s : State) : State :=
  let a := slotAddr qu qu.pos
  let s := rawWrite (a + 63) [1] (rawWrite a ((eventBytes e).take 63) s)
  let s := { s with hq := { s.hq with queues := tabPut s.hq.queues q { qu with pos := (qu.pos + 1) % 2 ^ qu.log2, stale := false } } }
  if qu.intr then emit (.interrupt (some qu.vector) s.hq.attach.path) s else s

/-- OWN of the next slot of a device-to-host queue as read: none when refused (R400). -/
def readOwn (a : Nat) (s : State) : Option Byte × State :=
  let (r, s) := rawRead (a + 63) 1 s
  (r.map fun b => b.headD 0, s)

/-- Deliver an event: into the EVENT queue, or the overflow ring (R336). -/
def deliver (e : Event) (s : State) : State :=
  if s.hq.attach.state = 2 || !s.hq.ovf.isEmpty then pushOvf e s
  else match queueOfKind s 1 with
    | none => pushOvf e s
    | some (q, qu) =>
      let a := slotAddr qu qu.pos
      if hostRefused a 64 true s || hostRefused a 64 false s then violationIntoOvf q a (pushOvf e s)
      else
        let (own, s) := readOwn a s
        if own = some 0 then writeEventSlot q qu e s else pushOvf e s

/-- Records the hardware buffer holds in a blackout (R382). -/
def bufferCapacity : Nat := 4096

/-- A boot or recovery is in progress: its events wait for its end (R414). -/
def booting (s : State) : Bool := (1 ≤ s.boot.phase && s.boot.phase ≤ 6) || s.boot.phase == 8

/-- Raise an event. -/
def raise (code sev : Nat) (u : UnitId) (detail : List Byte) (s : State) : State :=
  if booting s then { s with boot := { s.boot with heldEvents := s.boot.heldEvents ++ [{ code, severity := sev, unit := u, detail }] } }
  else
  let (e, s) := stampEvent code sev u detail s
  if s.gz.blackout then
    if s.gz.buffer.length < bufferCapacity then { s with gz := { s.gz with buffer := s.gz.buffer ++ [e] } }
    else pushOvf e s
  else deliver e s

/-- Raise SECURITY_VIOLATION and count it (R400). -/
def securityViolation (cause code index addr : Nat) (s : State) : State :=
  raise evSecurityViolation (if cause = 0 then sevFault else sevWarn) (if cause = 0 then uTile index else uModule)
    (secDetail cause code index addr) (tally tlSecurityViolation s)

/-- A read by the host queue engine for a queue; a refusal raises SECURITY_VIOLATION. -/
def hqRead (queue addr n : Nat) (s : State) : Option (List Byte) × State :=
  if hostRefused addr n false s then (none, securityViolation 1 0 queue addr s) else rawRead addr n s

/-- A write by the host queue engine for a queue. -/
def hqWrite (queue addr : Nat) (bs : List Byte) (s : State) : State :=
  if hostRefused addr bs.length true s then securityViolation 1 0 queue addr s else rawWrite addr bs s

end Sys2Proof.Machine
end

