-- ==== Sys2Proof/WellFormed.lean ====
section
/-! DEFINITION. Which operands a command may carry: the units, links, dies and entries that the module has (R6), header fields of
their width (R167), ADMIN arguments of theirs (R329). -/

namespace Sys2Proof

/-- The fields of an ADMIN entry have their width (R329). -/
def entryOk (e : AdminEntry) : Bool :=
  decide (e.slot < 2 ^ 16 ∧ e.tag < 2 ^ 32 ∧ e.arg0 < 2 ^ 64 ∧ e.arg1 < 2 ^ 64 ∧ e.arg2 < 2 ^ 64 ∧ e.arg3 < 2 ^ 64 ∧
    e.paramAddr < 2 ^ 64 ∧ e.paramBytes < 2 ^ 32)

/-- The header of a carriage on one of the 96 links: its fields have their width, its pool is one of 13 (R167, R170). -/
def rxOk (rx : Rx) : Bool :=
  decide (rx.li < 96 ∧ rx.cls < 4 ∧ rx.hops < 3 ∧ rx.src < 4096 ∧ rx.seq < 2 ^ 16 ∧ rx.ackSeq < 2 ^ 16 ∧ rx.credPool < 13 ∧
    rx.credCount < 4096)

/-- A unit of R433. -/
def unitOk (u : UnitId) : Bool :=
  decide (u.index < [1, 160, 4, 4, 1, 96, 12, 12, 6, 12, 32, 32, 4, 1, 16, 4, 4].getD u.kind 0)

/-- A unit of R378 by test kind: tile, apply engine, embedding engine, link group. -/
def testOk (kind index : Nat) : Bool := decide (index < [160, 32, 4, 12].getD kind 0)

/-- A leg-bound task of R367 and one of its units. -/
def taskOk (task unit : Nat) : Bool :=
  match task with
  | 0 => decide (unit < 4)
  | 1 => decide (unit < 4)
  | 6 => decide (unit < 4)
  | 12 => decide (unit < 160)
  | 13 => decide (unit < 4)
  | 14 => decide (unit < 12)
  | _ => false

/-! ## Carriages: every field has its width and range -/

/-- A MARK payload (R28). -/
def markOk (m : MarkMsg) : Bool :=
  decide (m.tickNum < 2 ^ 64 ∧ m.stepNum < 2 ^ 64 ∧ m.slot < 2 ∧ m.mkind < 7 ∧ m.countdownNs < 2 ^ 32 ∧ m.stretchNs < 2 ^ 32 ∧
    m.ttId < 2 ^ 32 ∧ m.sourceChip < 2 ^ 16 ∧ m.lateChip < 2 ^ 16 ∧ m.latenessNs < 2 ^ 32 ∧ m.nextChip < 2 ^ 16 ∧ m.hurdle < 64 ∧
    m.lateKind < 8) && !(m.committed && m.skipReq)

/-- A PACE payload (R160). -/
def paceOk (m : PaceMsg) : Bool :=
  decide (m.tickNum < 2 ^ 64 ∧ m.slowChip < 2 ^ 16 ∧ m.kind < 8 ∧ 512 ≤ m.pace ∧ m.pace ≤ 1024 ∧ 1 ≤ m.hold ∧ m.hold ≤ 1024)

/-- An IDX carriage (R142). -/
def idxOk (m : IdxMsg) : Bool :=
  decide (m.tick16 < 2 ^ 16 ∧ m.leg < 32 ∧ m.firstSeq < 2 ^ 32 ∧ 1 ≤ m.entries.length ∧ m.entries.length ≤ 32) &&
    m.entries.all fun e => decide (e.row < 2 ^ 40 ∧ e.table < 4096 ∧ e.die < 4)

/-- A ROW carriage (R142). -/
def rowOk (m : RowMsg) : Bool :=
  decide (m.tick16 < 2 ^ 16 ∧ m.leg < 32 ∧ 1 ≤ m.rows ∧ m.rows ≤ 16 ∧ m.firstSeq < 2 ^ 32 ∧ m.part < 16 ∧ m.payload.length = 256)

/-- A GRAD carriage (R143). -/
def gradOk (m : GradMsg) : Bool :=
  decide (m.step32 < 2 ^ 32 ∧ m.tick16 < 2 ^ 16 ∧ m.row < 2 ^ 40 ∧ m.table < 2 ^ 16 ∧ m.part < 16 ∧ m.payload.length = 256)

/-- A DENSE carriage (R143). -/
def denseOk (m : DenseMsg) : Bool :=
  decide (m.step32 < 2 ^ 32 ∧ m.tick16 < 2 ^ 16 ∧ m.tensor < 2 ^ 16 ∧ m.group < 2 ^ 32 ∧ m.part < 16 ∧ m.kind < 3 ∧ m.fmt < 16 ∧
    m.shear < 3 ∧ m.stage < 256 ∧ m.payload.length = 256)

/-- A BULK carriage (R168). -/
def bulkOk (m : BulkMsg) : Bool :=
  decide (m.bseq < 2 ^ 32 ∧ m.stream = 0 ∧ m.table < 2 ^ 16 ∧ m.slot < 2 ^ 40 ∧ m.chunk < 2 ^ 16 ∧ 1 ≤ m.payload.length ∧
    m.payload.length ≤ 256)

def planDigestOk (m : PlanDigestMsg) : Bool :=
  decide (m.digest.length = 32 ∧ m.planId < 2 ^ 64 ∧ m.kind < 2 ∧ m.verdict < 3 ∧ m.chip < 2 ^ 16)

/-- The naming part of a digest query and its reply (R194). -/
def nodeOk (n : DigestNode) : Bool := decide (n.round < 2 ^ 64 ∧ n.region < 2 ^ 16 ∧ n.level < 256 ∧ n.node < 2 ^ 32)

def laneOk (r : LaneRequest) : Bool := match r with
  | .none => true
  | .drop n => decide (n < 4)
  | .restore n => decide (n < 4)

/-- What a carriage may carry (R28, R142, R143, R160, R168, R194). -/
def bodyOk (b : Body) : Bool := match b with
  | .idx m => idxOk m
  | .row m => rowOk m
  | .grad m => gradOk m
  | .dense m => denseOk m
  | .mark m => markOk m
  | .pace m => paceOk m
  | .bulk m => bulkOk m
  | .link r => laneOk r
  | .echoReq t => decide (t < 2 ^ 64)
  | .echoRsp t => decide (t < 2 ^ 64)
  | .linkId chip li digest => decide (chip < 4096 ∧ li < 96 ∧ digest.length = 32)
  | .linkState li seq => decide (li < 96 ∧ seq < 2 ^ 16)
  | .accept t leg n => decide (t < 2 ^ 16 ∧ leg < 32 ∧ n < 2 ^ 64)
  | .planDigest m => planDigestOk m
  | .digestRoot round _ _ => decide (round < 2 ^ 64)
  | .digestQuery n => nodeOk n
  | .digestReply n ds => nodeOk n && decide (ds.length ≤ if n.region = 0xFFFF then 8 else 16) && ds.all fun d => decide (d.1 < 2 ^ 16)
  | .repairOrder m => decide (m.tick < 2 ^ 64 ∧ m.region < 2 ^ 16 ∧ m.block < 2 ^ 32 ∧ m.outlier < 2 ^ 16 ∧ m.reference < 2 ^ 16)
  | .repairData m => decide (m.region < 2 ^ 16 ∧ m.block < 2 ^ 32 ∧ m.chunk < 274 ∧ m.payload.length ≤ 240)
  | .repairDone m => decide (m.region < 2 ^ 16 ∧ m.block < 2 ^ 32 ∧ m.result < 256)
  | .digestAbort round => decide (round < 2 ^ 64)

/-- The class a type must travel at: TC3 for MARK, PACE and CTRL (R167, R168). -/
def classOk (b : Body) (cls : Nat) : Bool := match b with
  | .idx _ => true
  | .row _ => true
  | .grad _ => true
  | .dense _ => true
  | .bulk _ => true
  | _ => cls == 3

/-- A carriage that arrives. -/
def arrives (rx : Rx) (b : Body) : Bool := rxOk rx && bodyOk b && classOk b rx.cls

/-- A command whose operands name what the module has. -/
def wellFormed : Instr → Bool
  | .planLoad e => entryOk e
  | .jobStart _ e => entryOk e
  | .jobReset _ e => entryOk e
  | .queueCreate e => entryOk e
  | .queueDelete e => entryOk e
  | .timetableLoad e => entryOk e
  | .timetableSwitch e => entryOk e
  | .bellwetherHandover e => entryOk e
  | .tileMapSwitch e => entryOk e
  | .descriptorLoad e => entryOk e
  | .programLoad e => entryOk e
  | .flockLoad e => entryOk e
  | .foldLoad e => entryOk e
  | .foldSwitch e => entryOk e
  | .rowRepair e => entryOk e
  | .commitRollback e => entryOk e
  | .handoverPrepare e => entryOk e
  | .handoverCopyDone _ => true
  | .handoverSwitch e => entryOk e
  | .snapshotStart e => entryOk e
  | .snapshotAbort e => entryOk e
  | .mapoutAdd e => entryOk e
  | .mapoutRemove e => entryOk e
  | .memReconfigure e => entryOk e
  | .bootConfig e => entryOk e
  | .rdmaMrRegister e => entryOk e
  | .rdmaMrDeregister e => entryOk e
  | .rdmaQpSet e => entryOk e
  | .nvmfAttach e => entryOk e
  | .nonce _ _ => true
  | .nonceExpiry _ => true
  | .unlock _ _ => true
  | .key _ => true
  | .claim _ => true
  | .raiseSvn _ => true
  | .linkCtlRetrain _ li => decide (li < 96)
  | .linkCtlTakeDown _ li => decide (li < 96)
  | .linkCtlBringUp _ li => decide (li < 96)
  | .laserDrain _ lm => decide (lm < 6)
  | .laserDrainComplete lm => decide (lm < 6)
  | .pcDrain die pc => decide (die < 4 ∧ pc < 128)
  | .pcDrainComplete die pc _ => decide (die < 4 ∧ pc < 128)
  | .pcFence die pc => decide (die < 4 ∧ pc < 128)
  | .bistQueuePass kind index => testOk kind index
  | .privTest _ _ _ => true
  | .requalify kind index _ => testOk kind index
  | .fwGo target image => decide (target < 2 ∧ image < 2)
  | .fwActivation _ => true
  | .fwRevert _ _ => true
  | .hqAttach _ path => decide (path < 2)
  | .hqDetach _ => true
  | .hqHeartbeat _ _ => true
  | .heartbeatTimeout _ => true
  | .doorbell _ queue => decide (queue < 1024)
  | .doorbellReread _ => true
  | .adminPoll _ => true
  | .staleDescriptorTimeout _ queue _ => decide (queue < 1024)
  | .tileReset tile => decide (tile < 160)
  | .tallyClear _ _ => true
  | .gscaleWrite bank flock half _ => decide (bank < 2 ∧ flock < 256 ∧ half < 3)
  | .pwCapWrite _ _ => true
  | .hqRegionCtlWrite n _ => decide (n < 16)
  | .registerWrite _ offset size _ => decide (offset % 4 = 0 ∧ (size = 4 ∨ size = 8))
  | .add tile _ => decide (tile < 160)
  | .sub tile _ => decide (tile < 160)
  | .mul tile _ => decide (tile < 160)
  | .and tile _ => decide (tile < 160)
  | .or tile _ => decide (tile < 160)
  | .xor tile _ => decide (tile < 160)
  | .shl tile _ => decide (tile < 160)
  | .shr tile _ => decide (tile < 160)
  | .sra tile _ => decide (tile < 160)
  | .slt tile _ => decide (tile < 160)
  | .sltu tile _ => decide (tile < 160)
  | .addi tile _ => decide (tile < 160)
  | .muli tile _ => decide (tile < 160)
  | .andi tile _ => decide (tile < 160)
  | .ori tile _ => decide (tile < 160)
  | .xori tile _ => decide (tile < 160)
  | .shli tile _ => decide (tile < 160)
  | .shri tile _ => decide (tile < 160)
  | .srai tile _ => decide (tile < 160)
  | .slti tile _ => decide (tile < 160)
  | .sltiu tile _ => decide (tile < 160)
  | .lih tile _ => decide (tile < 160)
  | .ld tile _ => decide (tile < 160)
  | .st tile _ => decide (tile < 160)
  | .jmp tile _ => decide (tile < 160)
  | .beq tile _ => decide (tile < 160)
  | .bne tile _ => decide (tile < 160)
  | .blt tile _ => decide (tile < 160)
  | .bge tile _ => decide (tile < 160)
  | .bltu tile _ => decide (tile < 160)
  | .bgeu tile _ => decide (tile < 160)
  | .jal tile _ => decide (tile < 160)
  | .jr tile _ => decide (tile < 160)
  | .waitTok tile _ => decide (tile < 160)
  | .waitLeg _ tile _ => decide (tile < 160)
  | .hurdle _ tile _ => decide (tile < 160)
  | .hurdleRelease _ h instanceDie => decide (h < 64 ∧ instanceDie < 5)
  | .engineStaggerStart _ tile engine => decide (tile < 160 ∧ engine < 16)
  | .vld tile _ => decide (tile < 160)
  | .vst tile _ => decide (tile < 160)
  | .vadd tile _ => decide (tile < 160)
  | .vsub tile _ => decide (tile < 160)
  | .vmul tile _ => decide (tile < 160)
  | .vfma tile _ => decide (tile < 160)
  | .vmin tile _ => decide (tile < 160)
  | .vmax tile _ => decide (tile < 160)
  | .vabs tile _ => decide (tile < 160)
  | .vneg tile _ => decide (tile < 160)
  | .vdiv tile _ => decide (tile < 160)
  | .vsqrt tile _ => decide (tile < 160)
  | .vrsqrt tile _ => decide (tile < 160)
  | .vexp2 tile _ => decide (tile < 160)
  | .vlog2 tile _ => decide (tile < 160)
  | .vcmpEq tile _ => decide (tile < 160)
  | .vcmpNe tile _ => decide (tile < 160)
  | .vcmpLt tile _ => decide (tile < 160)
  | .vcmpLe tile _ => decide (tile < 160)
  | .vsel tile _ => decide (tile < 160)
  | .vcvt tile _ => decide (tile < 160)
  | .vand tile _ => decide (tile < 160)
  | .vor tile _ => decide (tile < 160)
  | .vxor tile _ => decide (tile < 160)
  | .vshl tile _ => decide (tile < 160)
  | .vshr tile _ => decide (tile < 160)
  | .vsra tile _ => decide (tile < 160)
  | .vmov tile _ => decide (tile < 160)
  | .mand tile _ => decide (tile < 160)
  | .mor tile _ => decide (tile < 160)
  | .mxor tile _ => decide (tile < 160)
  | .vrsum tile _ => decide (tile < 160)
  | .vrmax tile _ => decide (tile < 160)
  | .vrmin tile _ => decide (tile < 160)
  | .rclr tile _ => decide (tile < 160)
  | .rread tile _ => decide (tile < 160)
  | .vfrd tile _ => decide (tile < 160)
  | .vfclr tile _ => decide (tile < 160)
  | .mma tile _ _ => decide (tile < 160)
  | .mmaComplete tile engine => decide (tile < 160 ∧ engine < 16)
  | .drain tile _ => decide (tile < 160)
  | .drainComplete tile engine => decide (tile < 160 ∧ engine < 16)
  | .dmv tile _ => decide (tile < 160)
  | .dmvComplete tile _ => decide (tile < 160)
  | .dmvDense tile _ => decide (tile < 160)
  | .embLook tile _ => decide (tile < 160)
  | .embLookComplete tile _ => decide (tile < 160)
  | .embGrad tile _ => decide (tile < 160)
  | .embGradComplete tile _ => decide (tile < 160)
  | .embPost _ tile _ => decide (tile < 160)
  | .nop tile _ => decide (tile < 160)
  | .sysrd _ tile _ => decide (tile < 160)
  | .trap _ tile _ => decide (tile < 160)
  | .tileMoveComplete _ logical => decide (logical < 160)
  | .markSend _ => true
  | .markReceive _ rx m => arrives rx (.mark m)
  | .tickStart _ _ => true
  | .holdoverTick _ _ => true
  | .stretchLimit _ => true
  | .jobFirstTick _ => true
  | .legStart _ leg => decide (leg < 32)
  | .applyStart _ => true
  | .legDeadline _ _ leg => decide (leg < 32)
  | .legComplete _ _ leg kind _ => decide (leg < 32) && decide (kind < 8)
  | .unitWake _ u => unitOk u
  | .unplannedWake _ u => unitOk u
  | .ackReceive _ rx m => arrives rx (.mark m)
  | .applyGoReceive _ rx m => arrives rx (.mark m)
  | .applyEndReceive _ rx m => arrives rx (.mark m)
  | .haltReceive _ rx m => arrives rx (.mark m)
  | .paceReceive _ rx m => arrives rx (.pace m)
  | .echoTimer _ => true
  | .echoReq _ rx t => arrives rx (.echoReq t)
  | .echoRsp _ rx t => arrives rx (.echoRsp t)
  | .planDigest _ rx m => arrives rx (.planDigest m)
  | .planDigestTimeout _ => true
  | .planVerdictTimeout _ => true
  | .arrive _ rx m => arrives rx (.mark m)
  | .release _ rx m => arrives rx (.mark m)
  | .idxReceive _ rx m => arrives rx (.idx m)
  | .rowSend _ _ => true
  | .rowReceive _ rx m => arrives rx (.row m)
  | .gradReceive _ rx m => arrives rx (.grad m)
  | .denseReceive _ rx lg m => arrives rx (.dense m) && decide (lg < 12)
  | .acceptSend _ => true
  | .accept _ rx t leg n => arrives rx (.accept t leg n)
  | .bulkReceive _ rx m => arrives rx (.bulk m)
  | .transitCarriage _ rx dest lg body _ => arrives rx body && decide (dest < 4096 ∧ lg < 12)
  | .lookup _ die _ _ => decide (die < 4)
  | .serveRead _ die _ _ => decide (die < 4)
  | .accumulate _ die _ _ => decide (die < 4)
  | .apply _ die _ _ => decide (die < 4)
  | .ringIndexBlock die => decide (die < 4)
  | .migrate _ die _ _ => decide (die < 4)
  | .exportRow _ die _ _ => decide (die < 4)
  | .commit _ => true
  | .foldRelease _ _ => true
  | .digestRoundStart => true
  | .digestSlice _ _ _ => true
  | .digestRoot _ rx round root void => arrives rx (.digestRoot round root void)
  | .digestCompare _ => true
  | .digestQuery _ rx n => arrives rx (.digestQuery n)
  | .digestReply _ rx n ds => arrives rx (.digestReply n ds)
  | .descentTimeout _ => true
  | .repairOrder _ rx m => arrives rx (.repairOrder m)
  | .repairTick _ => true
  | .repairData _ rx m => arrives rx (.repairData m)
  | .repairDone _ rx m => arrives rx (.repairDone m)
  | .repairDeadline _ _ _ _ => true
  | .digestAbort _ rx round => arrives rx (.digestAbort round)
  | .snapshotTick _ => true
  | .snapshotWriteComplete _ _ _ => true
  | .snapshotTargetError _ _ => true
  | .carriageCrcError _ li _ => decide (li < 96)
  | .nak _ rx => rxOk rx
  | .nakRepeat _ li => decide (li < 96)
  | .link _ rx r => arrives rx (.link r)
  | .linkAckTimeout _ li => decide (li < 96)
  | .retrainTimeout _ li => decide (li < 96)
  | .retrainComplete _ li _ => decide (li < 96)
  | .linkState _ rx li seq => arrives rx (.linkState li seq)
  | .linkStateTimeout _ li => decide (li < 96)
  | .linkTrainComplete _ li _ => decide (li < 96)
  | .linkId _ rx chip li digest => arrives rx (.linkId chip li digest)
  | .laneDrop _ li lane _ _ _ => decide (li < 96 ∧ lane < 4)
  | .cdrTrim _ _ _ => true
  | .laserEol _ lm laser _ _ => decide (lm < 6 ∧ laser < 8)
  | .laserFailure _ lm laser _ _ _ => decide (lm < 6 ∧ laser < 8)
  | .laserModuleRemoved _ lm => decide (lm < 6)
  | .laserModuleInserted _ lm _ => decide (lm < 6)
  | .windowRead _ _ _ => true
  | .windowWrite _ _ _ => true
  | .rdmaWriteReceive _ _ _ _ _ => true
  | .rdmaReadReceive _ _ _ _ _ => true
  | .rdmaSendReceive _ _ _ => true
  | .eventOverflowDrain _ => true
  | .pcieLinkLoss _ => true
  | .pciePerstN _ _ => true
  | .ptpMessage _ port _ _ => decide (port < 4)
  | .ptpAnnounceTimeout _ => true
  | .ppsIn _ => true
  | .ppsTimeout _ => true
  | .tickIn _ => true
  | .idleMeasure _ _ => true
  | .capLoopUpdate _ _ => true
  | .ocpTrip _ => true
  | .ocpRecover _ => true
  | .ocpShutdown _ => true
  | .droopDetect _ die _ _ => decide (die < 9)
  | .droopEnd _ die _ => decide (die < 9)
  | .thermalSample _ ds ks _ _ => decide (ds.length = 9 ∧ ks.length = 12)
  | .thermalTrip _ die _ => decide (die < 9)
  | .grazeSlice _ task unit _ => taskOk task unit
  | .forcedSlice _ task unit _ _ => taskOk task unit
  | .bistSlice _ kind index _ => testOk kind index
  | .taskPeriodEnd _ task unit => taskOk task unit
  | .sensorCalibration _ die => decide (die < 9)
  | .laserAgeingCompensation _ _ => true
  | .norLogLevelling _ => true
  | .tileRotation _ => true
  | .refresh _ die => decide (die < 4)
  | .parityRetry _ point u _ _ _ _ _ => decide (unitOk u ∧ point < 8)
  | .pwrEnRise _ => true
  | .bootPhaseComplete _ _ _ => true
  | .bootPhaseTimeout _ => true
  | .pwrEnFall _ => true
  | .inputOutOfRange _ => true
  | .inputInRange _ => true
  | .modRstNFall _ => true
  | .watchdog _ _ => true
  | .modRstNRise _ _ => true
  | .hostRstN _ _ => true
  | .jtagExtestEntry _ => true
  | .jtagScanExit _ => true
  | .getVersion _ => true
  | .getCapabilities _ => true
  | .negotiateAlgorithms _ => true
  | .getDigests _ => true
  | .getCertificate _ _ _ _ => true
  | .challenge _ _ _ => true
  | .getMeasurements _ _ _ => true
  | .spdmUnsupportedRequest _ _ => true
  | .requestUpdate _ => true
  | .firmwareImageTransfer _ _ => true
  | .activateFirmware _ _ => true
  | .pldmSetCap _ _ _ => true
  | .pldmSensorRead _ _ => true
  | .foldLoadComplete _ _ => true
  | .memReconfigureComplete => true
  | .hqRegionCtlRead n => decide (n < 16)
  | .pluggableInsertion port _ => decide (port < 4)
  | .dynamicAddressAssignment _ _ => true
  | .peerRetrain _ li => decide (li < 96)

end Sys2Proof
end

