-- ==== Sys2Proof/Machine/Wire.lean ====
section
/-! DEFINITION. Carriages as bytes (R3, R28, R142, R143, R160, R167 to R169, R194): header, type field, payload and CRC, written
and read; and the stream of RS(544,514) codewords that carries them over a link's lanes (R164). -/

namespace Sys2Proof.Machine

/-! ## TYPE and SUBTYPE (R167, R168, R194) -/

def typeCode : Body → Nat
  | .idx _ => 0
  | .row _ => 1
  | .grad _ => 2
  | .dense _ => 3
  | .mark _ => 4
  | .pace _ => 5
  | .bulk _ => 7
  | _ => 6

def subtypeCode : Body → Nat
  | .link _ => 0
  | .echoReq _ => 1
  | .echoRsp _ => 2
  | .linkId _ _ _ => 3
  | .linkState _ _ => 4
  | .accept _ _ _ => 5
  | .planDigest _ => 6
  | .digestRoot _ _ _ => 8
  | .digestQuery _ => 9
  | .digestReply _ _ => 10
  | .repairOrder _ => 11
  | .repairData _ => 12
  | .repairDone _ => 13
  | .digestAbort _ => 14
  | _ => 0

def bit (b : Bool) (i : Nat) : Nat := if b then 2 ^ i else 0

/-! ## Writing -/

/-- FLAGS of a MARK payload (R28). -/
def markFlags (m : MarkMsg) : Nat :=
  bit m.stretched 0 + bit m.abandon 1 + bit m.handover 2 + bit m.lateOpen 3 + bit m.returnDone 4 + bit m.skipReq 5 + bit m.committed 6 +
    bit m.haltReq 7

def markBytes (m : MarkMsg) : List Byte :=
  leBytes 8 m.tickNum ++ leBytes 8 m.stepNum ++ leBytes 1 m.slot ++ leBytes 1 m.mkind ++ leBytes 2 (markFlags m) ++
    leBytes 4 m.countdownNs ++ leBytes 4 m.stretchNs ++ leBytes 4 m.ttId ++ leBytes 2 m.sourceChip ++ leBytes 2 m.lateChip ++
    leBytes 4 m.latenessNs ++ leBytes 2 m.nextChip ++ leBytes 1 m.hurdle ++ leBytes 1 m.lateKind

def paceBytes (m : PaceMsg) : List Byte :=
  leBytes 8 m.tickNum ++ leBytes 2 m.slowChip ++ leBytes 1 m.kind ++ leBytes 1 0 ++ leBytes 2 m.pace ++ leBytes 2 m.hold

/-- An 8-byte IDX entry (R142). -/
def idxWord (e : IdxEntry) : Nat := e.row % 2 ^ 40 + 2 ^ 40 * (e.table % 4096) + 2 ^ 52 * (e.die % 4)

/-- PART and KIND bytes of GRAD and DENSE (R143). -/
def gradPart (m : GradMsg) : Nat := m.part % 16 + bit m.bf16 4
def denseKind (m : DenseMsg) : Nat := m.kind % 4 + 4 * (m.fmt % 16) + 64 * (m.shear % 4)

/-- The 16 bytes of TYPE_FIELD (R142, R143, R168). -/
def typeField (b : Body) : List Byte :=
  padTo 16 (match b with
    | .idx m => leBytes 2 m.tick16 ++ leBytes 1 m.leg ++ leBytes 1 m.entries.length ++ leBytes 4 m.firstSeq
    | .row m => leBytes 2 m.tick16 ++ leBytes 1 m.leg ++ leBytes 1 m.rows ++ leBytes 4 m.firstSeq ++ leBytes 1 m.part ++ leBytes 1 0 ++
        leBytes 2 m.zeroed.toNat
    | .grad m => leBytes 4 m.step32 ++ leBytes 2 m.tick16 ++ leBytes 5 m.row ++ leBytes 2 m.table ++ leBytes 1 (gradPart m)
    | .dense m => leBytes 4 m.step32 ++ leBytes 2 m.tick16 ++ leBytes 2 m.tensor ++ leBytes 4 m.group ++ leBytes 1 m.part ++
        leBytes 1 (denseKind m) ++ leBytes 1 m.stage
    | .mark _ => []
    | .pace _ => []
    | .bulk m => leBytes 4 m.bseq ++ leBytes 1 m.stream ++ leBytes 1 (m.payload.length - 1) ++ leBytes 2 m.table ++ leBytes 5 m.slot ++
        leBytes 2 m.chunk
    | .accept t leg _ => leBytes 1 5 ++ leBytes 1 leg ++ leBytes 2 t
    | b => leBytes 1 (subtypeCode b))

def nodeBytes (n : DigestNode) : List Byte := leBytes 8 n.round ++ leBytes 2 n.region ++ leBytes 2 n.level ++ leBytes 4 n.node

/-- Digests of a reply, or pairs of region number and root (R194). -/
def digestReplyBytes (n : DigestNode) (ds : List (Nat × Word64)) : List Byte :=
  nodeBytes n ++ leBytes 8 ds.length ++
    ds.flatMap fun d => if n.region = 0xFFFF then leBytes 8 d.1 ++ leBytes 8 d.2.toNat else leBytes 8 d.2.toNat

/-- Code of a lane request in `Config.lanePayload`. -/
def laneCode : LaneRequest → Nat
  | .none => 0
  | .drop n => n % 4
  | .restore n => 4 + n % 4

/-- The 256 bytes of the payload. -/
def payloadBytes (b : Body) : List Byte :=
  padTo 256 (match b with
    | .idx m => m.entries.flatMap fun e => leBytes 8 (idxWord e)
    | .row m => m.payload
    | .grad m => m.payload
    | .dense m => m.payload
    | .mark m => markBytes m
    | .pace m => paceBytes m
    | .bulk m => m.payload
    | .link .none => []
    | .link r => (List.range 256).map (Config.lanePayload (laneCode r))
    | .echoReq t => leBytes 8 t
    | .echoRsp t => leBytes 8 t
    | .linkId chip li digest => leBytes 2 chip ++ leBytes 2 li ++ digest
    | .linkState li seq => leBytes 2 li ++ leBytes 2 seq
    | .accept _ _ n => leBytes 8 n
    | .planDigest m => padTo 32 m.digest ++ leBytes 8 m.planId ++ leBytes 1 m.kind ++ leBytes 1 m.verdict ++ leBytes 2 m.chip
    | .digestRoot round root void => leBytes 8 round ++ leBytes 8 root.toNat ++ leBytes 1 (bit void 0)
    | .digestQuery n => nodeBytes n
    | .digestReply n ds => digestReplyBytes n ds
    | .repairOrder m => leBytes 8 m.tick ++ leBytes 2 m.region ++ leBytes 4 m.block ++ leBytes 2 m.outlier ++ leBytes 2 m.reference
    | .repairData m => leBytes 2 m.region ++ leBytes 4 m.block ++ leBytes 2 m.chunk ++ leBytes 8 m.refDigest.toNat ++ m.payload
    | .repairDone m => leBytes 2 m.region ++ leBytes 4 m.block ++ leBytes 2 m.result ++ leBytes 8 m.digest.toNat
    | .digestAbort round => leBytes 8 round)

/-- The header fields that belong to one hop (R167). -/
structure Hop where
  seq : Nat
  ackSeq : Nat
  pool : Nat
  count : Nat
  nak : Bool
  resent : Bool
  deriving DecidableEq, Repr

/-- Bytes 0 to 27 of a carriage. -/
def headerBytes (h : Hop) (c : Carriage) : List Byte :=
  leBytes 1 (typeCode c.body + 8 * (c.cls % 4) + 32 * (c.hops % 4) + bit c.loc 7) ++ leBytes 1 (bit h.nak 0 + bit h.resent 1) ++
    leBytes 2 (c.dest % 4096 + 4096 * (c.lg % 16)) ++ leBytes 2 (c.src % 4096) ++ leBytes 2 h.seq ++ leBytes 2 h.ackSeq ++
    leBytes 2 (h.pool % 16 + 16 * (h.count % 4096)) ++ typeField c.body

/-- CRC over bytes 0 to 27 and 32 to 287 (R169). -/
def carriageCrc (head payload : List Byte) : Nat := (crc32c (head ++ payload)).toNat

/-- The 288 bytes of a carriage, byte 0 first; a stomped one carries the complement of its CRC (R169). -/
def carriageBytes (h : Hop) (stomped : Bool) (c : Carriage) : List Byte :=
  let head := headerBytes h c
  let body := payloadBytes c.body
  let crc := carriageCrc head body
  head ++ leBytes 4 (if stomped then 2 ^ 32 - 1 - crc else crc) ++ body

/-! ## Reading -/

/-- What a receiver finds in the CRC field (R169). -/
inductive CrcState where
  | good
  | stomped
  | bad
  deriving DecidableEq, Repr

def crcState (bs : List Byte) : CrcState :=
  let crc := carriageCrc (bs.take 28) (bs.drop 32)
  let got := leAt bs 28 4
  if got = crc then .good else if got = 2 ^ 32 - 1 - crc then .stomped else .bad

def hasBit (n i : Nat) : Bool := n.testBit i

def readMark (p : List Byte) : MarkMsg :=
  let f := leAt p 18 2
  { tickNum := leAt p 0 8, stepNum := leAt p 8 8, slot := byteAt p 16, mkind := byteAt p 17, stretched := hasBit f 0, abandon := hasBit f 1
    handover := hasBit f 2, lateOpen := hasBit f 3, returnDone := hasBit f 4, skipReq := hasBit f 5, committed := hasBit f 6
    haltReq := hasBit f 7, countdownNs := leAt p 20 4, stretchNs := leAt p 24 4, ttId := leAt p 28 4, sourceChip := leAt p 32 2
    lateChip := leAt p 34 2, latenessNs := leAt p 36 4, nextChip := leAt p 40 2, hurdle := byteAt p 42 % 64, lateKind := byteAt p 43 % 8 }

def readIdx (f p : List Byte) : IdxMsg :=
  { tick16 := leAt f 0 2, leg := byteAt f 2 % 32, firstSeq := leAt f 4 4
    entries := (List.range (byteAt f 3)).map fun k =>
      let w := leAt p (8 * k) 8
      { row := w % 2 ^ 40, table := w / 2 ^ 40 % 4096, die := w / 2 ^ 52 % 4 } }

def readNode (p : List Byte) : DigestNode := { round := leAt p 0 8, region := leAt p 8 2, level := byteAt p 10, node := leAt p 12 4 }

def readReply (p : List Byte) : List (Nat × Word64) :=
  let pairs := leAt p 8 2 == 0xFFFF
  (List.range (byteAt p 16)).map fun i =>
    if pairs then (leAt p (24 + 16 * i) 2, BitVec.ofNat 64 (leAt p (32 + 16 * i) 8)) else (0, BitVec.ofNat 64 (leAt p (24 + 8 * i) 8))

/-- The body of a CTRL carriage by SUBTYPE; 7 and 15 are reserved. -/
def readCtrl (f p : List Byte) : Option Body :=
  match byteAt f 0 with
  | 0 => some (.link .none)
  | 1 => some (.echoReq (leAt p 0 8))
  | 2 => some (.echoRsp (leAt p 0 8))
  | 3 => some (.linkId (leAt p 0 2) (byteAt p 2) ((p.drop 4).take 32))
  | 4 => some (.linkState (byteAt p 0) (leAt p 2 2))
  | 5 => some (.accept (leAt f 2 2) (byteAt f 1 % 32) (leAt p 0 8))
  | 6 => some (.planDigest { digest := p.take 32, planId := leAt p 32 8, kind := byteAt p 40, verdict := byteAt p 41, chip := leAt p 42 2 })
  | 8 => some (.digestRoot (leAt p 0 8) (BitVec.ofNat 64 (leAt p 8 8)) (hasBit (byteAt p 16) 0))
  | 9 => some (.digestQuery (readNode p))
  | 10 => some (.digestReply (readNode p) (readReply p))
  | 11 => some (.repairOrder { tick := leAt p 0 8, region := leAt p 8 2, block := leAt p 10 4, outlier := leAt p 14 2, reference := leAt p 16 2 })
  | 12 => some (.repairData { region := leAt p 0 2, block := leAt p 2 4, chunk := leAt p 6 2, refDigest := BitVec.ofNat 64 (leAt p 8 8)
                              payload := (p.drop 16).take (if leAt p 6 2 = 273 then 16 else 240) })
  | 13 => some (.repairDone { region := leAt p 0 2, block := leAt p 2 4, result := byteAt p 6, digest := BitVec.ofNat 64 (leAt p 8 8) })
  | 14 => some (.digestAbort (leAt p 0 8))
  | _ => none

/-- The body of a carriage, by TYPE. -/
def readType (type : Nat) (f p : List Byte) : Option Body :=
  match type with
    | 0 => some (.idx (readIdx f p))
    | 1 => some (.row { tick16 := leAt f 0 2, leg := byteAt f 2 % 32, rows := byteAt f 3, firstSeq := leAt f 4 4, part := byteAt f 8
                        zeroed := BitVec.ofNat 16 (leAt f 10 2), payload := p })
    | 2 => some (.grad { step32 := leAt f 0 4, tick16 := leAt f 4 2, row := leAt f 6 5, table := leAt f 11 2, part := byteAt f 13 % 16
                         bf16 := hasBit (byteAt f 13) 4, payload := p })
    | 3 => some (.dense { step32 := leAt f 0 4, tick16 := leAt f 4 2, tensor := leAt f 6 2, group := leAt f 8 4, part := byteAt f 12
                          kind := byteAt f 13 % 4, fmt := byteAt f 13 / 4 % 16, shear := byteAt f 13 / 64, stage := byteAt f 14, payload := p })
    | 4 => some (.mark (readMark p))
    | 5 => some (.pace { tickNum := leAt p 0 8, slowChip := leAt p 8 2, kind := byteAt p 10, pace := leAt p 12 2, hold := leAt p 14 2 })
    | 6 => readCtrl f p
    | _ => some (.bulk { bseq := leAt f 0 4, stream := byteAt f 4, table := leAt f 6 2, slot := leAt f 8 5, chunk := leAt f 13 2
                         payload := p.take (byteAt f 5 + 1) })

/-- The body of a carriage; none where a field is out of its range or reserved. -/
def readBody (type : Nat) (f p : List Byte) : Option Body := (readType type f p).filter bodyOk

/-- Read 288 bytes whose CRC is good. -/
def readCarriage (bs : List Byte) : Option (Hop × Carriage) :=
  let t := byteAt bs 0
  let d := leAt bs 2 2
  let cr := leAt bs 10 2
  (readBody (t % 8) ((bs.drop 12).take 16) ((bs.drop 32).take 256)).map fun b =>
    ({ seq := leAt bs 6 2, ackSeq := leAt bs 8 2, pool := cr % 16, count := cr / 16, nak := hasBit (byteAt bs 1) 0, resent := hasBit (byteAt bs 1) 1 },
     { cls := t / 8 % 4, hops := t / 32 % 4, loc := hasBit t 7, dest := d % 4096, lg := d / 4096, src := leAt bs 4 2 % 4096, body := b })

/-! ## The codeword stream of a link direction (R164) -/

def codeData : Nat := 514
def codeSymbols : Nat := 544
def symbolBits : Nat := 10

/-- The bits of bytes, lowest first (log 69). -/
def bitsOf (bs : List Byte) : List Bool := bs.flatMap fun b => (List.range 8).map b.getLsbD

/-- The n symbols of a run of bits. -/
def symbolsOf (bits : List Bool) (n : Nat) : List (BitVec 10) :=
  (List.range n).map fun k => BitVec.ofNat 10 (((List.range symbolBits).map fun i => bit (bits.getD (symbolBits * k + i) false) i).sum)

/-- RS(544,514): the data symbols, then 30 parity symbols. -/
def codeword (data : List (BitVec 10)) : List (BitVec 10) := data ++ (List.range (codeSymbols - codeData)).map (Config.rsParity data)

/-- The lanes that are active, ascending. -/
def liveLanes (m : BitVec 4) : List Nat := (List.range 4).filter m.getLsbD

/-- Deal symbols round robin over the lanes, the first to place `at_` of the round. -/
def dealLanes (lanes : List Nat) (at_ : Nat) (syms : List (BitVec 10)) : List (Nat × List (BitVec 10)) :=
  lanes.zipIdx.map fun l => (l.1, (syms.zipIdx.filter fun x => (at_ + x.2) % lanes.length == l.2).map (·.1))

/-- Gather dealt symbols again: the receive side of `dealLanes`. -/
def gatherLanes (dealt : List (Nat × List (BitVec 10))) (at_ n : Nat) : List (BitVec 10) :=
  (List.range n).map fun i =>
    let k := dealt.length
    let j := (at_ + i) % k
    let before := (List.range i).countP fun x => (at_ + x) % k == j
    ((dealt.getD j (0, [])).2).getD before 0

/-- The transmit lanes in force: those admitted while LINK_ID is exchanged, and in service those of TX_MASK. -/
def sendMask (l : Link) : BitVec 4 := if l.state = 1 then l.admitTx else l.txMask

/-- Emit the codeword that the first 5,140 bits of the direction's stream fill. -/
def sendCodeword (li : Nat) (l : Link) (bits : List Bool) (s : State) : Link × State :=
  let lanes := liveLanes (sendMask l)
  ({ l with txBits := bits.drop (symbolBits * codeData), txLane := if lanes.length = 0 then 0 else (l.txLane + codeSymbols) % lanes.length },
   emit (.codeword li (dealLanes lanes l.txLane (codeword (symbolsOf bits codeData)))) s)

/-- Carriage bytes go end to end into the stream; a full codeword is sent. A carriage is shorter than a codeword. -/
def feedLink (li : Nat) (bs : List Byte) (l : Link) (s : State) : Link × State :=
  let bits := l.txBits ++ bitsOf bs
  if symbolBits * codeData ≤ bits.length then sendCodeword li l bits s else ({ l with txBits := bits }, s)

/-- No carriage follows: idle fill completes the codeword. The receiver discards it. -/
def fillLink (li : Nat) (l : Link) (s : State) : Link × State :=
  if l.txBits.isEmpty then (l, s)
  else sendCodeword li l (l.txBits ++ (List.range (symbolBits * codeData - l.txBits.length)).map Config.idleBit) s

end Sys2Proof.Machine
end

