-- ==== Sys2Proof/Machine/Links.lean ====
section
/-! DEFINITION. The Voxlink link interfaces: codeword streams (R164), credits and pools (R170), retry (R171), routing (R173, R174), priority (R148),
and what the header of an arriving carriage does. -/

namespace Sys2Proof.Machine

def getLink (s : State) (li : Nat) : Link := tabGet {} s.lg.links li
def setLink (li : Nat) (l : Link) (s : State) : State := { s with lg := { s.lg with links := tabPut s.lg.links li l } }
def modLink (li : Nat) (f : Link → Link) (s : State) : State := setLink li (f (getLink s li)) s

def laneCount (m : BitVec 4) : Nat := (List.range 4).countP fun i => m.getLsbD i

/-- The link carries carriages: UP with at least one transmit lane. -/
def linkUp (l : Link) : Bool := l.state == 2 && l.txMask != 0

/-- A hop is live when its link is UP with at least one transmit lane (R173); a drain takes it out at once (R181). -/
def linkLive (l : Link) : Bool := linkUp l && !l.held

/-- The carriages of pool 0: MARK, PACE and LOCAL (R170). -/
def bodyLocal : Body → Bool
  | .link _ => true
  | .echoReq _ => true
  | .echoRsp _ => true
  | .linkId _ _ _ => true
  | _ => false

def bodyTree : Body → Bool
  | .mark _ => true
  | .pace _ => true
  | _ => false

def bodySpecial (b : Body) : Bool := bodyLocal b || bodyTree b

/-- Credit pool of a carriage (R170). -/
def poolOf (b : Body) (cls hops : Nat) : Nat := if bodySpecial b then 0 else 1 + 3 * cls + hops

def poolSize (p : Nat) : Nat := if p = 0 then 16 else if p ≤ 3 then 192 else if p ≤ 6 then 96 else 32

/-- The transmitter holds a credit in the pool: counts are modulo 4,096 (R167, R170). -/
def creditOk (l : Link) (p : Nat) : Bool :=
  (tabGet 0 l.sent p + 4096 - tabGet 0 l.peerFreed p) % 4096 < poolSize p

/-- Order of R148: MARK and PACE, TC1, TC3, TC0, TC2. -/
def sendRank (c : Carriage) : Nat :=
  if bodyTree c.body then 0 else match c.cls with | 1 => 1 | 3 => 2 | 0 => 3 | _ => 4

/-- The body as a transmission at `now` writes it: a MARK or RELEASE carries its remaining countdown (R29, R277). -/
def bodyOnWire (now : Nat) (c : Carriage) : Body :=
  match c.body with
  | .mark m => if m.mkind = 0 || m.mkind = 5 then .mark { m with countdownNs := c.dueAt - now } else .mark m
  | b => b

/-- A buffer of pool `p` is freed at a link's receive side (R170). -/
def freeBuffer (li p : Nat) (s : State) : State :=
  modLink li (fun l => { l with freed := tabSet 0 l.freed p ((tabGet 0 l.freed p + 1) % 4096) }) s

def freeHeld (h : Option (Nat × Nat)) (s : State) : State :=
  match h with
  | some (li, p) => freeBuffer li p s
  | none => s

/-- The header fields that a transmission of a link writes: the next pool report (R170), NAK once per request (R171). -/
def hopOf (l : Link) (seq : Nat) (resent : Bool) : Hop :=
  { seq, ackSeq := l.rxLast, pool := l.reportPool, count := tabGet 0 l.freed l.reportPool, nak := l.nakDue, resent }

/-- Send a carriage over a link: its bytes go into the direction's codeword stream (R164, R167). -/
def sendBytes (li : Nat) (h : Hop) (stomped : Bool) (c : Carriage) (l : Link) (s : State) : State :=
  let (l, s) := feedLink li (carriageBytes h stomped c) l
    (emit (.carriage li h.seq h.ackSeq h.pool h.count h.nak h.resent stomped c) s)
  setLink li l s

/-- One transmission of a carriage. -/
def putOnWire (li seq : Nat) (resent : Bool) (c : Carriage) (s : State) : State :=
  let l := getLink s li
  sendBytes li (hopOf l seq resent) false { c with body := bodyOnWire s.now c }
    { l with reportPool := (l.reportPool + 1) % 13, ackOwed := false, nakDue := false } s

/-- Idle fill ends the codeword when no carriage follows (R164). -/
def idleFill (li : Nat) (s : State) : State :=
  if (getLink s li).txBits.isEmpty then s
  else
    let (l, s) := fillLink li (getLink s li) s
    setLink li l s

/-- Transmit a carriage: it takes a SEQ, a credit and a replay entry; a buffer it held in transit is freed. -/
def transmit (li : Nat) (w : Waiting) (s : State) : State :=
  let l := getLink s li
  let p := poolOf w.c.body w.c.cls w.c.hops
  let s := setLink li { l with
    txSeq := (l.txSeq + 1) % 65536
    replay := l.replay ++ [(l.txSeq, w.c)]
    sent := tabSet 0 l.sent p ((tabGet 0 l.sent p + 1) % 4096)
    sinceTc2 := if sendRank w.c = 4 || !(l.queue.any fun w => sendRank w.c == 4) then 0 else l.sinceTc2 + 1 } s
  freeHeld w.holds (putOnWire li l.txSeq false w.c s)

/-- The first waiting carriage of a rank that has a credit. -/
def firstOfRank (l : Link) (r : Nat) : Option Nat :=
  l.queue.findIdx? fun w => sendRank w.c == r && creditOk l (poolOf w.c.body w.c.cls w.c.hops)

/-- What the link sends next (R148): TC2 gets at least one slot in 16 while it waits. -/
def nextToSend (l : Link) : Option Nat :=
  match (if 15 ≤ l.sinceTc2 then firstOfRank l 4 else none) with
  | some i => some i
  | none => (List.range 5).findSome? (firstOfRank l)

/-- Send what waits while the link is live, has credits, and its replay buffer of 256 has room. -/
def pumpFuel (li : Nat) : Nat → State → State
  | 0, s => s
  | n + 1, s =>
    let l := getLink s li
    if linkUp l && decide (l.replay.length < 256) then
      match nextToSend l with
      | none => s
      | some i =>
        match l.queue[i]? with
        | none => s
        | some w => pumpFuel li n (transmit li w (setLink li { l with queue := l.queue.eraseIdx i } s))
    else s

def pump (li : Nat) (s : State) : State := idleFill li (pumpFuel li (getLink s li).queue.length s)

/-- Hand a carriage to a link. -/
def enqueue (li : Nat) (w : Waiting) (s : State) : State :=
  pump li (modLink li (fun l => { l with queue := l.queue ++ [w] }) s)

/-- A carriage of the tree or a LOCAL one; a link that is not UP discards it (R179). -/
def sendOn (li : Nat) (c : Carriage) (s : State) : State :=
  if linkUp (getLink s li) then enqueue li { c } s else s

/-- A copy whose CRC is stomped: no sequence number, no credit. It goes out only where its transmission would have begun: the link
up, a credit free, and nothing waiting that R148 sends before it (R169, R175). -/
def sendStomped (li : Nat) (c : Carriage) (s : State) : State :=
  let l := getLink s li
  if linkUp l && creditOk l (poolOf c.body c.cls c.hops) && decide (l.replay.length < 256) &&
      !(l.queue.any fun w => decide (sendRank w.c ≤ sendRank c)) then
    idleFill li (sendBytes li (hopOf l l.txSeq false) true c { l with reportPool := (l.reportPool + 1) % 13, nakDue := false } s)
  else s

/-- The hops of a route entry: link and FALLBACK (R173). -/
def routeHops (s : State) (dst : Nat) : List (Nat × Bool) :=
  let e := tabGet 0x7F7F7F7F s.lg.route dst
  (List.range 4).map fun h => (e / 2 ^ (8 * h) % 128, e / 2 ^ (8 * h + 7) % 2 = 1)

def liveHops (s : State) (dst : Nat) (fallback : Bool) : List Nat :=
  ((routeHops s dst).filter fun h => h.2 == fallback && h.1 != 0x7F && linkLive (getLink s h.1)).map (·.1)

def pickHop (s : State) : List Nat → Nat → Option Nat
  | [], _ => none
  | li :: t, p => let n := laneCount (getLink s li).txMask; if p < n then some li else pickHop s t (p - n)

/-- next_hop of R174. -/
def nextHop (s : State) (src dst cls : Nat) : Option Nat :=
  let live := if (liveHops s dst false).isEmpty then liveHops s dst true else liveHops s dst false
  let total := (live.map fun li => laneCount (getLink s li).txMask).sum
  if live.isEmpty then none
  else
    let h := ((src * 2 ^ 16) ^^^ (dst * 4) ^^^ cls) * 0x9E3779B1 % 2 ^ 32 / 2 ^ 16
    pickHop s live (h % total)

/-- Send towards another chip, or discard it (R174). `holds`: the ingress buffer of a carriage in transit. -/
def route (c : Carriage) (holds : Option (Nat × Nat)) (s : State) : State :=
  match nextHop s c.src c.dest c.cls with
  | some li => enqueue li { c, holds } s
  | none => freeHeld holds (tally tlRouteNone s)

/-- Originate a carriage for another chip. -/
def originate (cls dest : Nat) (lg : Nat) (body : Body) (s : State) : State :=
  route { cls, hops := 0, loc := false, dest, lg, src := s.lg.chip, body } none s

/-- A LOCAL CTRL carriage of this module. -/
def localCarriage (s : State) (body : Body) : Carriage :=
  { cls := 3, hops := 0, loc := true, dest := 0, lg := 0, src := s.lg.chip, body }

/-- A MARK or PACE carriage of this module (R28, R160). -/
def treeCarriage (s : State) (body : Body) (dueAt : Nat) : Carriage :=
  { cls := 3, hops := 0, loc := false, dest := 0, lg := 0, src := s.lg.chip, body, dueAt }

/-! ## The receive side -/

/-- Discard replay entries up to the acknowledged SEQ (R171). -/
def ackReplay (seq : Nat) (l : Link) : Link :=
  match l.replay.findIdx? fun e => e.1 == seq with
  | some i => { l with replay := l.replay.drop (i + 1) }
  | none => l

/-- Resend everything still in the replay buffer, with RESENT set (R171). -/
def resendAll (li : Nat) (s : State) : State :=
  (getLink s li).replay.foldl (fun s e => putOnWire li e.1 true e.2 s) s

/-- LINK_DOWN (R182). -/
def linkDown (li cause next rerouted lost : Nat) (s : State) : State :=
  let l := getLink s li
  raise evLinkDown (if 4 ≤ cause then sevInfo else sevDegrade) (uLi li)
    (leBytes 1 li ++ leBytes 1 cause ++ leBytes 2 l.peerChip ++ leBytes 1 l.peerLi ++ leBytes 1 next ++
      leBytes 2 (min rerouted 0xFFFF) ++ leBytes 2 (min lost 0xFFFF)) s

/-- The handoff has ended: LINK_DOWN. -/
def endHandoff (li : Nat) (s : State) : State :=
  match (getLink s li).handoff with
  | none => s
  | some h => linkDown li h.cause h.next h.rerouted h.lost (modLink li (fun l => { l with handoff := none }) s)

/-- A handoff ends without the peer's LINK_STATE: its entries are discarded and counted (R179). -/
def dropHandoff (li : Nat) (s : State) : State :=
  match (getLink s li).handoff with
  | none => s
  | some h =>
    let n := h.entries.length
    endHandoff li (modLink li (fun l => { l with handoff := some { h with entries := [], lost := h.lost + n }, stateOwed := true })
      (tallyBy tlLinkLost n s))

/-- LINK_STATE goes to the peer, routed through other links (R179). -/
def sendLinkState (li : Nat) (s : State) : State :=
  let l := getLink s li
  originate 3 l.peerChip 0 (.linkState li l.rxLast) s

def reroutable (c : Carriage) : Bool := !bodySpecial c.body

/-- What waits on a link goes to next_hop with its HOPS unchanged; tree and LOCAL carriages are discarded (R179). -/
def rerouteQueue (li : Nat) (s : State) : State :=
  let l := getLink s li
  l.queue.foldl (fun s w => if reroutable w.c then route w.c w.holds s else freeHeld w.holds s) (setLink li { l with queue := [] } s)

/-- Leave every live set: the queue is rerouted, and the handoff of the replay buffer begins (R179); one still open from an
earlier absence ends first. `next`: 0 RETRAIN, 1 DOWN. -/
def leaveLive (li cause next : Nat) (s : State) : State :=
  let s := dropHandoff li s
  let l := getLink s li
  let s := setLink li { l with
    state := if next = 0 then 3 else 4
    replay := []
    handoff := some { cause, next, entries := l.replay, rerouted := 0, lost := l.queue.countP fun w => !reroutable w.c }
    downCause := cause } s
  sendLinkState li (rerouteQueue li s)

/-- Enter RETRAIN after a retry limit (R172), if the link is up. -/
def enterRetrain (li cause : Nat) (s : State) : State :=
  if (getLink s li).state = 2 then leaveLive li cause 0 s else s

/-- A NAK counts; the eighth for one SEQ retrains the link (R171, R172). -/
def onNak (li ackSeq : Nat) (s : State) : State :=
  let s := tally tlLinkRetry s
  let l := getLink s li
  let n := if l.nakSeq = ackSeq && 0 < l.nakCount then l.nakCount + 1 else 1
  let s := setLink li { l with nakSeq := ackSeq, nakCount := n } s
  if 8 ≤ n then enterRetrain li 1 s else resendAll li s

/-- The fields of an arriving header other than SEQ: ACK_SEQ, CREDIT, NAK. -/
def rxReports (rx : Rx) (s : State) : State :=
  let s := modLink rx.li (fun l =>
    let l := ackReplay rx.ackSeq l
    { l with peerFreed := tabSet 0 l.peerFreed rx.credPool (rx.credCount % 4096) }) s
  let s := if rx.nak then onNak rx.li rx.ackSeq s else s
  pump rx.li s

/-- Send a LOCAL carriage on a link that is UP, or that exchanges LINK_ID. -/
def sendLocal (li : Nat) (b : Body) (s : State) : State :=
  let l := getLink s li
  if l.state = 1 && l.admitTx != 0 then idleFill li (transmit li { c := localCarriage s b } s) else sendOn li (localCarriage s b) s

/-- Ask once for the carriage after the last received in order: NAK in the next carriage, a LINK carriage at the latest (R171). -/
def sendNak (li : Nat) (s : State) : State :=
  sendLocal li (.link .none) (modLink li (fun l => { l with nakWait := true, nakDue := true }) s)

/-- A bad CRC counts and asks for the carriage again (R169, R171). -/
def crcError (li : Nat) (s : State) : State :=
  let l := getLink s li
  if l.state = 1 || l.state = 2 then
    let s := tally tlCrcError s
    if l.nakWait then s else sendNak li s
  else s

/-- Send ECHO_REQ to the tree parent (R30). -/
def sendEcho (s : State) : State :=
  if s.tk.parentLi = 0x7F then s else sendOn s.tk.parentLi (localCarriage s (.echoReq s.now)) s

/-- The header of an arriving carriage: false when the carriage is discarded (a gap, a duplicate, a link not up). A carriage in
order is accepted before its reports act. -/
def rxHeader (rx : Rx) (s : State) : Bool × State :=
  let l := getLink s rx.li
  let want := (l.rxLast + 1) % 65536
  if l.state ≠ 2 then (false, s)
  else if rx.seq = want then
    (true, rxReports rx (modLink rx.li (fun l => { l with rxLast := rx.seq, nakWait := false, nakDue := false, ackOwed := true }) s))
  else if (rx.seq + 65536 - want) % 65536 < 32768 && !l.nakWait then (false, sendNak rx.li (rxReports rx s))
  else (false, rxReports rx s)

/-- Receive a carriage delivered here: its buffer is freed, and `f` is its effect. -/
def deliverRx (now : Nat) (rx : Rx) (b : Body) (f : State → State) (s : State) : State :=
  let (ok, s) := rxHeader rx (atTime now s)
  if ok then pump rx.li (f (freeBuffer rx.li (poolOf b rx.cls rx.hops) s)) else s

end Sys2Proof.Machine
end

