-- ==== Sys2Proof/Machine/Queues.lean ====
section
/-! DEFINITION. Completion of ADMIN commands (R330, R340, R347) and replies to serve requests (R214 to R221). -/

namespace Sys2Proof.Machine

/-! ## ADMIN completion -/

/-- Address of an ADMIN ring slot. -/
def adminSlot (s : State) (n : Nat) : Nat := s.hq.adminBase + n % 2 ^ s.hq.log2 * 64

/-- ADMIN_LOG: the last 16 completed commands, newest first (R348). -/
def logAdmin (tag opcode status : Nat) (s : State) : State :=
  { s with hq := { s.hq with attach := { s.hq.attach with log := ((tag, opcode, status) :: s.hq.attach.log).take 16 } } }

/-- Complete a command: ARG results and STATUS, then OWN, then the interrupt; in place of the entry write, only the
attach record when the host is lost (R330, R343, R347). -/
def adminComplete (slot tag opcode status : Nat) (args : List (Nat × Nat)) (s : State) : State :=
  let s := logAdmin tag opcode status s
  if s.hq.attach.state = 2 then s
  else
    let a := adminSlot s slot
    let s := args.foldl (fun s r => hqWrite 0 (a + 8 + 8 * r.1) (leBytes 8 r.2) s) s
    let s := hqWrite 0 (a + 52) (leBytes 2 status) s
    emit (.interrupt none s.hq.attach.path) (hqWrite 0 (a + 63) [1] s)

/-- Complete a command that is held as started. -/
def finishStarted (c : Started) (status : Nat) (args : List (Nat × Nat)) (s : State) : State :=
  adminComplete c.slot c.tag c.opcode status args { s with hq := { s.hq with started := s.hq.started.erase c } }

def startedOp (s : State) (opcode : Nat) : Option Started := s.hq.started.find? fun c => c.opcode == opcode

/-! ## Serve replies -/

def legOcc (s : State) (leg tick : Nat) : Option LegOcc := s.run.legs.find? fun o => o.leg == leg && o.tick == tick

def modOcc (leg tick : Nat) (f : LegOcc → LegOcc) (s : State) : State :=
  { s with run := { s.run with legs := s.run.legs.map fun o => if o.leg = leg && o.tick = tick then f o else o } }

/-! ## Wait time (R35) -/

/-- Wait time of a leg up to now. -/
def waitOf (s : State) (o : LegOcc) : Nat := o.waitNs + (if o.gates.isEmpty then 0 else s.now - o.blockedFrom)

/-- The leg is blocked on a gate from `since` on. -/
def blockLeg (g : Gate) (since : Nat) (o : LegOcc) : LegOcc :=
  if o.gates.contains g then o
  else { o with gates := g :: o.gates, blockedFrom := if o.gates.isEmpty then since else o.blockedFrom }

/-- The leg is not blocked on a gate any more. -/
def unblockLeg (now : Nat) (g : Gate) (o : LegOcc) : LegOcc :=
  if o.gates.contains g then
    let rest := o.gates.erase g
    { o with gates := rest, waitNs := if rest.isEmpty then o.waitNs + (now - o.blockedFrom) else o.waitNs }
  else o

/-- No leg is blocked on a gate any more. -/
def openGate (g : Gate) (s : State) : State :=
  { s with run := { s.run with legs := s.run.legs.map (unblockLeg s.now g) } }

def ringModel (s : State) (n : Nat) : Option Model := s.job.header.models[n]?

/-- CAUSE of SERVE_LATE (R221). -/
def lateCause (s : State) (e : RingEnt) (o : LegOcc) : Nat :=
  if e.limited = 3 then 0 else if o.held then 2 else if o.deadline < s.now then 1 else 3

/-- The first late reply of a leg raises SERVE_LATE; every late one counts (R220). -/
def serveLate (e : RingEnt) (o : LegOcc) (due : Nat) (s : State) : State :=
  let s := tally tlServeLate s
  if o.lateReply then s
  else
    let s := modOcc o.leg o.tick (fun o => { o with lateReply := true }) s
    raise evServeLate sevWarn uHq
      (leBytes 1 ((s.job.header.rings.idxOf e.queue) % 16) ++ leBytes 1 e.firstLeg ++ leBytes 1 o.leg ++
        leBytes 1 (lateCause s e o) ++ leBytes 4 e.slot ++ leBytes 4 (min (s.now - due) 0xFFFFFFFF)) s

/-- The reply's 64-byte header with OWN 0 (R214). -/
def replyHeader (s : State) (status : Nat) (e : RingEnt) (o : LegOcc) (late : Bool) : List Byte :=
  let m := ringModel s (byteAt e.hdr 2)
  let ok := status = 0
  let flags := (if late then 1 else 0) + (if e.zeroed then 2 else 0) + (if e.dropped then 4 else 0) + (if o.overlap then 8 else 0)
  leBytes 8 (leAt e.hdr 8 8) ++ leBytes 8 o.tick ++ leBytes 8 (o.view.getD (2 ^ 64 - 1)) ++ leBytes 1 status ++
    leBytes 1 flags ++ leBytes 1 o.leg ++ [0] ++ leBytes 4 (min (s.now - e.firstStart) 0xFFFFFFFF) ++
    leBytes 2 (if ok then (m.map (·.outCount)).getD 0 else 0) ++ leBytes 1 ((m.map (·.outFormat)).getD 0) ++ List.replicate 29 0

def padTo64 (bs : List Byte) : List Byte := padTo ((bs.length + 63) / 64 * 64) bs

/-- Write a reply where the request asks: every byte but OWN, then OWN (R215). -/
def writeReply (hdr bytes : List Byte) (s : State) : State :=
  let addr := leAt hdr 16 8
  if byteAt hdr 3 = 0 then
    let s := { s with mm := memWrite s.mm addr (bytes.take 63) }
    let s := { s with mm := memWrite s.mm (addr + 64) (bytes.drop 64) }
    { s with mm := memWrite s.mm (addr + 63) [1] }
  else
    let qp := leAt hdr 24 4 % 2 ^ 24
    let port := byteAt hdr 27 % 4
    let key := leAt hdr 28 4
    emit (.rdmaWrite qp port (addr + 63) key [1]) (emit (.rdmaWrite qp port addr key bytes) s)

/-- Set the request's OWN to free. -/
def freeSlot (queue slot : Nat) (s : State) : State :=
  match tabFind s.hq.queues queue with
  | some q => hqWrite queue (slotAddr q slot + 63) [0] s
  | none => s

def dropEntry (queue slot : Nat) (s : State) : State :=
  { s with hq := { s.hq with entries := s.hq.entries.filter fun x => !(x.queue == queue && x.slot == slot) } }

/-- Answer a claimed request; `vals` are the result bytes. -/
def answer (status : Nat) (vals : List Byte) (e : RingEnt) (s : State) : State :=
  match e.claimed with
  | none => s
  | some (leg, tick, _) =>
    match legOcc s leg tick with
    | none => s
    | some o =>
      let late := match e.due with
        | some d => decide (d < s.now)
        | none => false
      let s' := writeReply e.hdr (replyHeader s status e o late ++ padTo64 vals) s
      let s' := freeSlot e.queue e.slot s'
      let s' := dropEntry e.queue e.slot s'
      if late then serveLate e o (e.due.getD 0) s' else s'

/-- Entries of the serve rings claimed by a leg and not answered. -/
def openRequests (s : State) : List RingEnt :=
  s.hq.entries.filter fun e => e.claimed.isSome && (match tabFind s.hq.queues e.queue with
    | some q => q.role == 2
    | none => false)

end Sys2Proof.Machine
end

