-- ==== Sys2Proof/Machine/TileBase.lean ====
section
/-! DEFINITION. Tiles as the other units see them: the tile map (R263), work in flight, leaving a leg (R279), and the tile
memory with its open operands and results (R230, R268). -/

namespace Sys2Proof.Machine

/-- Bytes of tile memory (R281). -/
def tmemBytes : Nat := 0x200000
/-- Bytes of instruction memory (R265). -/
def imemBytes : Nat := 0x40000

def getTile (s : State) (p : Nat) : Tile := tabGet {} s.tiles.tile p
def setTile (p : Nat) (t : Tile) (s : State) : State := { s with tiles := { s.tiles with tile := tabPut s.tiles.tile p t } }
def modTile (p : Nat) (f : Tile → Tile) (s : State) : State := setTile p (f (getTile s p)) s

def physicalOf (s : State) (logical : Nat) : Option Nat := tabFind s.tiles.map logical

def logicalOf (s : State) (p : Nat) : Option Nat := (s.tiles.map.find? fun e => e.2 == p).map (·.1)

/-- A logical tile is being moved to another physical tile (R264). -/
def isMoving (s : State) (logical : Nat) : Bool := s.tiles.moving.any fun m => m.1 == logical

/-- The physical tile of a logical tile under the map in force: where a move takes it, if one is in progress. -/
def placeOf (s : State) (l : Nat) : Nat :=
  match s.tiles.moving.find? fun m => m.1 == l with
  | some m => m.2.2
  | none => (physicalOf s l).getD 0xFF

/-- Change the contents of a logical tile, wherever it stands: in its place, or lifted for a move (R264). -/
def modLogical (l : Nat) (f : Tile → Tile) (s : State) : State :=
  match physicalOf s l with
  | some p => modTile p f s
  | none => match tabFind s.tiles.parked l with
    | some t => { s with tiles := { s.tiles with parked := tabPut s.tiles.parked l (f t) } }
    | none => s

/-- Logical tiles in use, those being moved among them. -/
def logicalTiles (s : State) : List Nat :=
  (sortBy (fun a b => decide (a ≤ b)) (tabKeys s.tiles.map ++ s.tiles.moving.map (·.1))).dedup

/-- An instruction of the tile is in flight: a token, named or not, is not free (R267). -/
def outstanding (t : Tile) : Bool := t.engines.any (fun e => !e.2.isEmpty) || !t.moves.isEmpty || !t.embs.isEmpty

/-- A token is busy from issue until its instruction completes (R267). -/
def tokBusy (t : Tile) (k : Nat) : Bool :=
  t.engines.any (fun e => e.2.any fun x => x.tok == some k) || t.moves.any (fun x => x.tok == some k) ||
    t.embs.any (fun x => x.tok == some k)

/-! ## Claims -/

/-- Answer every request of a tile's claim lists, those of the legs that `which` picks, that has no reply (R216). -/
def answerClaims (p status : Nat) (count : Bool) (which : ClaimList → Bool) (s : State) : State :=
  let t := getTile s p
  let left := (t.claims.filter which).flatMap fun c => c.claims.filter fun c => !c.answered
  let s := left.foldl (fun s c =>
    match s.hq.entries.find? fun e => e.queue == c.queue && e.slot == c.slot with
    | some e => answer status [] e (if count then tally tlServeBad s else s)
    | none => s) s
  modTile p (fun t => { t with claims := t.claims.filter fun c => !which c }) s

/-! ## Leaving a leg -/

/-- A tile has finished its work in a leg (R279): unanswered claims of a SERVE leg get STATUS 5, a RETURN frees the batch
handles (R273). -/
def finishLeg (p : Nat) (tag : LegTag) (s : State) : State :=
  let s := match logicalOf s p with
    | some l => modOcc tag.leg tag.tick (fun o => { o with finished := insertSorted l o.finished }) s
    | none => s
  let s := if tag.kind = kServe then answerClaims p 5 true (fun c => c.leg == tag.leg && c.tick == tag.tick) s else s
  if tag.kind = kReturn then modTile p (fun t => { t with handles := [] }) s else s

/-! ## Timetables in force -/

/-- The slot that governs a tick: the pending switch applies from its tick on (R24). -/
def governingSlot (s : State) (tick : Nat) : Nat :=
  match s.tk.switch with
  | some (t, sl) => if t ≤ tick then sl else s.tk.active
  | none => s.tk.active

def slotTimetable (s : State) (n : Nat) : Option Timetable := if n = 0 then s.tk.slotA.tt else s.tk.slotB.tt

def governing (s : State) (tick : Nat) : Option Timetable := slotTimetable s (governingSlot s tick)

/-- The leg of a tick's governing timetable. -/
def legEntry (s : State) (tick leg : Nat) : Option LegEnt :=
  match governing s tick with
  | some t => t.legs[leg]?
  | none => none

/-- (start, leg) comes after (start', leg') in the order of R278. -/
def laterLeg (start leg start' leg' : Nat) : Bool := start' < start || (start == start' && leg' < leg)

def tagOf (o : LegOcc) : LegTag :=
  { tick := o.tick, leg := o.leg, kind := o.kind, step := o.step, startAt := o.startAt, abandoned := o.abandoned }

/-- Where the occurrence of leg `l` of a tick starts: one that is open, or one of this tick. -/
def startOfLeg (s : State) (tick l : Nat) : Option Nat :=
  match legOcc s l tick with
  | some o => some o.startAt
  | none => if tick = s.tk.tick then (legEntry s tick l).map fun e => s.run.tickStartAt + e.startNs else none

/-- The tile's last wait.leg names an occurrence that comes after `o` (R278, R279): it has no work in `o` any more. -/
def passedLeg (s : State) (t : Tile) (o : LegOcc) : Bool :=
  match t.blocked, t.tag with
  | .leg l _ tick, _ =>
    if tick ≠ o.tick then decide (o.tick < tick)
    else match startOfLeg s tick l with
      | some a => laterLeg a l o.startAt o.leg
      | none => false
  | _, some g => laterLeg g.startAt g.leg o.startAt o.leg
  | _, none => false

/-- Open legs whose unit set holds the tile and that it has passed without being finished so far. -/
def passedLegs (s : State) (p : Nat) : List LegTag :=
  match logicalOf s p with
  | some l => (s.run.legs.filter fun o =>
      o.uset.tiles.getLsbD l && !o.finished.contains l && passedLeg s (getTile s p) o).map tagOf
  | none => []

/-- A tile finishes the legs it has passed once every token is free (R279). -/
def settleTile (p : Nat) (s : State) : State :=
  if outstanding (getTile s p) then s else (passedLegs s p).foldl (fun s tag => finishLeg p tag s) s

/-! ## Regions of tile memory -/

def rgnOne (a n : Nat) : Rgn := { base := a, stride := 0, rows := 1, bytes := n }

/-- Address of row i. -/
def rgnRow (r : Rgn) (i : Nat) : Int := r.base + r.stride * i

/-- The rows of `r` meet [a, a + n). -/
def rgnHits (r : Rgn) (a n : Nat) : Bool :=
  (List.range r.rows).any fun i => rgnRow r i < (a : Int) + n && (a : Int) < rgnRow r i + r.bytes

def rgnsMeet (x y : Rgn) : Bool :=
  (List.range x.rows).any fun i => 0 ≤ rgnRow x i && rgnHits y (rgnRow x i).toNat x.bytes

/-- The region holds bytes that an instruction not yet awaited writes (R268). -/
def rgnUnseen (t : Tile) (r : Rgn) : Bool := t.unseen.any fun u => u.rgns.any fun y => rgnsMeet r y

/-- Mark instructions in flight whose operands meet a region that is written (R230). -/
def soil (rs : List Rgn) (t : Tile) : Tile :=
  let hit := fun (reads : List Rgn) => reads.any fun x => rs.any fun y => rgnsMeet x y
  { t with
    engines := t.engines.map fun e => (e.1, e.2.map fun x => if hit x.reads then { x with dirty := true } else x)
    moves := t.moves.map fun x => if hit x.reads then { x with dirty := true } else x
    embs := t.embs.map fun x => if hit x.reads then { x with dirty := true } else x }

def putTmem : Tab Byte → Nat → List Byte → Tab Byte
  | m, _, [] => m
  | m, a, b :: bs => putTmem (tabSet 0 m a b) (a + 1) bs

/-- Write bytes into the memory of a tile. -/
def tileFill (a : Nat) (bs : List Byte) (t : Tile) : Tile := { soil [rgnOne a bs.length] t with tmem := putTmem t.tmem a bs }

/-- Write tile memory. -/
def tileWrite (p a : Nat) (bs : List Byte) (s : State) : State := modTile p (tileFill a bs) s

def tmemBytesAt (t : Tile) (a n : Nat) : List Byte := (List.range n).map fun i => tabGet 0 t.tmem (a + i)

/-- Read tile memory; bytes of a result not yet awaited are undefined (R268). -/
def tileRead (p a n : Nat) (s : State) : List Byte × State :=
  let t := getTile s p
  if rgnUnseen t (rgnOne a n) then
    let (fs, s) := freeBytes n s
    ((tmemBytesAt t a n).zipIdx.zip fs |>.map fun x => if rgnUnseen t (rgnOne (a + x.1.2) 1) then x.2 else x.1.1, s)
  else (tmemBytesAt t a n, s)

/-! ## Accesses through the region table (R342, R350) -/

def regionAt (s : State) (n : Nat) : HqRegion := tabGet {} s.hq.regions n

def regionCtl (r : HqRegion) : Nat := bitNat r.valid + 2 * bitNat r.read + 4 * bitNat r.write + 8 * bitNat r.target

/-- Accesses resolved through an entry whose VALID has been cleared are still open. -/
def regionBusy (s : State) (n : Nat) : Bool := !(regionAt s n).valid && decide (0 < tabGet 0 s.hq.inFlight n)

/-- Answer a read of HQ_REGION_CTL. -/
def answerCtlRead (r : CtlRead) (s : State) : State :=
  let v := regionCtl (regionAt s r.entry)
  emit (if r.window then .completion 0 false (((leBytes 8 v).drop r.off).take r.len) else .csrRead (BitVec.ofNat 64 v)) s

/-- Read HQ_REGION_CTL: at once, or once no access resolved through the entry is open (R342). -/
def readRegionCtl (r : CtlRead) (s : State) : State :=
  if regionBusy s r.entry then { s with hq := { s.hq with ctlReads := s.hq.ctlReads ++ [r] } } else answerCtlRead r s

/-- Reads that waited for their entry return. -/
def releaseCtlReads (s : State) : State :=
  let due := s.hq.ctlReads.filter fun r => !regionBusy s r.entry
  due.foldl (fun s r => answerCtlRead r s)
    { s with hq := { s.hq with ctlReads := s.hq.ctlReads.filter fun r => regionBusy s r.entry } }

/-- Accesses through region entries open and close (R350). -/
def bumpInFlight (add : Bool) (e : End) (s : State) : State :=
  match e with
  | .host rows => releaseCtlReads { s with hq := { s.hq with inFlight := rows.foldl (fun t r =>
      tabSet 0 t r.1 (if add then tabGet 0 t r.1 + 1 else tabGet 0 t r.1 - 1)) s.hq.inFlight } }
  | _ => s

/-- The operand region through which an embedding instruction in flight accesses memory. -/
def embPlace (s : State) (x : EmbEnt) : End := match x.op with
  | .look id => ((s.ex.batches.find? fun b => b.id == id).map (·.place)).getD (.own 0)
  | .grad _ src _ => src
  | .post => .own 0

/-- An embedding instruction is dropped: its access through the region table is over. -/
def closeEmb (s : State) (x : EmbEnt) : State := bumpInFlight false (embPlace s x) s

/-- A drover transfer is dropped. -/
def closeMove (s : State) (m : MoveEnt) : State := match m.op with
  | .copy src dst _ _ _ _ => bumpInFlight false src (bumpInFlight false dst s)
  | .dense _ _ _ _ => s

/-- The batches of a tile are gone; the replies they await still count in their windows until they arrive (R147). -/
def dropBatches (p : Nat) (s : State) : State := { s with ex := { s.ex with batches := s.ex.batches.filter fun b => b.tile != p } }

/-- A tile reset (R412): registers, VFLAGS, channels, tokens, handles, accumulators and trap record clear, no leg tag; the
program counter and both memories stay. Work in flight is dropped with its tokens. -/
def clearTile (t : Tile) : Tile := { imem := t.imem, tmem := t.tmem, pc := t.pc, order := t.order }

def resetTile (p : Nat) (s : State) : State :=
  let t := getTile s p
  modTile p clearTile (dropBatches p (t.embs.foldl closeEmb (t.moves.foldl closeMove s)))

/-- Every tile with contents is reset. -/
def resetTiles (s : State) : State := (tabKeys s.tiles.tile).foldl (fun s p => resetTile p s) s

end Sys2Proof.Machine
end

