-- ==== Sys2Proof/Machine/Ticks.lean ====
section
/-! DEFINITION. The MARK tree (R28 to R43), acknowledgements and their merging, abandon (R41) and halt (R42, R408). -/

namespace Sys2Proof.Machine

/-- A job of this module is running: RUNNING or HOLDOVER. -/
def running (s : State) : Bool := s.tk.state == 2 || s.tk.state == 3

/-- The value of OPEN_STEP and VIEW_STEP for none. -/
def allOnes : Nat := 2 ^ 64 - 1

/-- The step comes after COMMIT_STEP, which is all ones before a job's step 0 (R107). -/
def afterCommit (s : State) (st : Nat) : Bool :=
  let d := (st + 2 ^ 64 - s.commit.step) % 2 ^ 64
  1 ≤ d && d < 2 ^ 63

/-- The step before `step` has committed here or was abandoned (R186). -/
def prevDone (s : State) (step : Nat) : Bool :=
  s.commit.openStep == allOnes && ((s.commit.step + 1) % 2 ^ 64 == step || !afterCommit s step ||
    s.run.abandoned.any fun a => a.1 + 1 == step)

/-! ## The tree -/

def markPlace (s : State) : MarkPlace :=
  s.job.exchange.marks.getD s.run.candidate { parent := 0x7F, altParent := 0x7F, depth := 0, children := 0 }

/-- Links to the children of this module in the MARK tree (R439). -/
def childLinks (s : State) : List Nat := (List.range 96).filter fun i => (markPlace s).children.getLsbD i

def wiredChip (s : State) (li : Nat) : Nat := ((s.job.exchange.wiring[li]?).map (·.1)).getD 0

def childChips (s : State) : List Nat := (childLinks s).map (wiredChip s)

/-- The link towards the parent; the alternate parent while the parent link is down (R31). -/
def upLink (s : State) : Option Nat :=
  let p := markPlace s
  if p.parent = 0x7F then none
  else if linkLive (getLink s p.parent) then some p.parent
  else if p.altParent ≠ 0x7F && linkLive (getLink s p.altParent) then some p.altParent
  else none

def sendUp (m : MarkMsg) (s : State) : State :=
  match upLink s with
  | some li => sendOn li (treeCarriage s (.mark m) 0) s
  | none => s

def sendDown (m : MarkMsg) (dueAt : Nat) (s : State) : State :=
  (childLinks s).foldl (fun s li => sendOn li (treeCarriage s (.mark m) dueAt) s) s

/-! ## The timetable in force -/

def activeTt (s : State) : Option Timetable := slotTimetable s s.tk.active

def ttIdOf (t : Option Timetable) : Nat := (t.map (·.ttId)).getD 0

def policyOf (s : State) : Nat := ((activeTt s).map (·.policy)).getD 0

def formOf (s : State) : Nat := ((activeTt s).map (·.form)).getD 0

def periodNs (s : State) : Nat := s.tk.periodUs * 1000

def isTraining (k : Nat) : Bool := 1 ≤ k && k ≤ 5

/-- The timetable trains: it has training legs (R26). -/
def trains (t : Option Timetable) : Bool := match t with
  | some t => t.legs.any fun l => isTraining l.kind
  | none => false

/-- The step number of the next tick (R26): one more, the same after an abandon or with a serve-only timetable. -/
def predictedStep (s : State) : Nat :=
  if s.tk.state = 1 then s.start.firstStep
  else if s.run.repeatStep || !trains (activeTt s) then s.tk.step else s.tk.step + 1

/-- The index of the RETURN leg that governs a tick. -/
def returnLeg (s : State) (tick : Nat) : Nat :=
  match governing s tick with
  | some t => (t.legs.findIdx? fun l => l.kind == kReturn).getD 0
  | none => 0

/-! ## Acknowledgements -/

/-- A MARK payload of this module with every flag clear (R28). -/
def markMsg (s : State) (mkind tick step : Nat) : MarkMsg :=
  let sl := governingSlot s s.tk.tick
  { tickNum := tick, stepNum := step, slot := sl, mkind, stretched := false, abandon := false, handover := false,
    lateOpen := false, returnDone := false, skipReq := false, committed := false, haltReq := false, countdownNs := 0,
    stretchNs := 0, ttId := ttIdOf (slotTimetable s sl), sourceChip := s.lg.chip, lateChip := 0, latenessNs := 0,
    nextChip := 0, hurdle := 0, lateKind := 0 }

/-- Lateness so far of an open leg, wait time taken off (R35). -/
def lateSoFar (s : State) (o : LegOcc) : Nat := s.now - o.deadline - waitOf s o

/-- The open late leg of greatest lateness; of equals, the one that started first. -/
def worstLate (s : State) : Option LegOcc :=
  (s.run.legs.filter (·.late)).foldl (fun b o => match b with
    | some x => if lateSoFar s x < lateSoFar s o then some o else some x
    | none => some o) none

/-- This module's acknowledgement state now: the greatest lateness of the boundary so far with the kind of that leg, an open
one before a closed one of the same lateness (R28, R36; log 30). -/
def ownState (s : State) : AckState :=
  match worstLate s with
  | some o =>
    let a := { s.run.ownAck with lateOpen := true, lateChip := s.lg.chip }
    if lateSoFar s o < s.run.ownAck.latenessNs then a else { a with latenessNs := lateSoFar s o, lateKind := o.kind }
  | none => { s.run.ownAck with lateOpen := false, lateChip := s.lg.chip }

def ackBefore (b a : AckState) : Bool :=
  a.latenessNs < b.latenessNs || (a.latenessNs == b.latenessNs && b.lateOpen && !a.lateOpen)

/-- The merged state of this module and its children (R36): lateness, chip and kind together from the greatest. -/
def mergedAck (s : State) : AckState :=
  let all := ownState s :: s.run.acks.map (·.2)
  let top := all.foldl (fun a b => if ackBefore b a then b else a) (ownState s)
  { top with lateOpen := all.any (·.lateOpen), haltReq := all.any (·.haltReq) }

/-- Send an ACK with the merged state (R36). `lateOpen` forces LATE_OPEN for a halt request (R283). -/
def sendAck (tick step : Nat) (f : MarkMsg → MarkMsg) (s : State) : State :=
  let a := mergedAck s
  sendUp (f { markMsg s 1 tick step with
    lateOpen := a.lateOpen, haltReq := a.haltReq, lateChip := a.lateChip, latenessNs := min a.latenessNs 0xFFFFFFFF,
    lateKind := if a.lateOpen then a.lateKind else 0 }) s

def ackNow (s : State) : State := sendAck s.tk.tick s.tk.step id s

/-! ## Discarding a step's work -/

/-- Empty a generation of every die (R102, R408). -/
def emptyGens (p : Gen → Bool) (s : State) : State :=
  { s with ru := s.ru.map fun e => (e.1, { e.2 with gens := e.2.gens.map fun g => if p g then { } else g }) }

/-- Discard the staged dense results and contributions of a RETURN that began in a tick, for a step (R41, R136, R152). -/
def discardDense (mine : Nat → Nat → Bool) (s : State) : State :=
  { s with ex := { s.ex with
      staging := s.ex.staging.filter fun c => !mine c.tick c.step
      ownWait := s.ex.ownWait.filter fun c => !mine c.tick c.step
      gatherHeld := s.ex.gatherHeld.filter fun h => !mine h.tick h.step
      returns := s.ex.returns.filter fun r => !mine r.tick r.step
      updated := s.ex.updated.filter fun u => !mine u.tick u.step } }

/-- Return a step's claimed samples to their rings, to be claimed first (R41, R338). -/
def returnSamples (p : Nat → Bool) (count : Bool) (s : State) : State :=
  let mine := fun (e : RingEnt) => (match e.claimed with
      | some (_, _, st) => p st
      | none => false) && (match tabFind s.hq.queues e.queue with
      | some q => q.role == 1
      | none => false)
  let n := s.hq.entries.countP mine
  let back := fun (e : RingEnt) => if mine e then { e with claimed := none, position := none, retried := true } else e
  let s := { s with hq := { s.hq with entries := s.hq.entries.map back } }
  if count then tallyBy tlSamplesRetried n s else s

/-- Free every tile's batch handles (R273). -/
def freeHandles (s : State) : State :=
  { s with tiles := { s.tiles with tile := s.tiles.tile.map fun e => (e.1, { e.2 with handles := [] }) } }

/-- Instructions issued under a training tag of an abandoned step complete at once with no effect (R280), and its carriages that
are held at a window are not sent. Entries already sent still count in their window until they are answered (R147). -/
def dropTileWork (step : Nat) (s : State) : State :=
  let dense := fun (m : MoveEnt) => m.step == step && (match m.op with
    | .dense _ _ _ _ => true
    | .copy _ _ _ _ _ _ => false)
  let drop := fun (t : Tile) => { t with
    embs := t.embs.filter fun e => e.step ≠ some step
    moves := t.moves.filter fun m => !dense m
    tag := t.tag.map fun g => if g.step = step && isTraining g.kind && g.kind ≠ kApply then { g with dropped := true } else g }
  let gone := (s.ex.batches.filter fun b => !b.serve && b.step == step).map (·.id)
  let held := fun (c : Carriage) => match c.body with
    | .idx m => s.ex.replies.any fun r =>
        gone.contains r.batch && r.tick16 == m.tick16 && r.leg == m.leg && r.chip == c.dest && r.seq == m.firstSeq
    | .grad m => m.step32 == step % 2 ^ 32
    | .dense m => m.step32 == step % 2 ^ 32
    | _ => false
  let unsent := fun (r : Reply) => s.ex.heldOut.any fun c => held c && (match c.body with
    | .idx m => r.tick16 == m.tick16 && r.leg == m.leg && r.chip == c.dest && decide (m.firstSeq ≤ r.seq) &&
        decide (r.seq < m.firstSeq + m.entries.length)
    | _ => false)
  let lost := s.tiles.tile.flatMap fun e => e.2.embs.filter fun x => x.step == some step
  let s := lost.foldl closeEmb s
  let s := { s with
    tiles := { s.tiles with tile := s.tiles.tile.map fun e => (e.1, drop e.2) }
    ex := { s.ex with
      batches := s.ex.batches.filter fun b => !gone.contains b.id
      replies := s.ex.replies.filter fun r => !unsent r
      heldOut := s.ex.heldOut.filter fun c => !held c } }
  (tabKeys s.tiles.tile).foldl (fun s p => settleTile p s) s

/-! ## Open work at a tick's end -/

/-- Detail of TICK_OVERRUN (R435). -/
def overrunDetail (stretch chip kind : Nat) (halted : Bool) (late : Nat) : List Byte :=
  leBytes 4 (min stretch 0xFFFFFFFF) ++ leBytes 2 chip ++ leBytes 1 kind ++ [if halted then 1 else 0] ++ leBytes 4 (min late 0xFFFFFFFF)

/-- TICK_OVERRUN of a module whose own work is open at its nominal tick end (R39), once a tick. -/
def noteOverrun (s : State) : State :=
  if s.run.overran || s.run.nominal > s.now || !running s then s
  else match s.run.legs.find? fun o => o.tick ≤ s.tk.tick with
    | none => s
    | some o =>
      let o := (worstLate s).getD o
      raise evTickOverrun sevWarn uModule (overrunDetail 0 s.lg.chip o.kind false (lateSoFar s o))
        { s with run := { s.run with overran := true } }

/-! ## Halt -/

/-- The contents of an entry that govern a tick (R7, R129). -/
def versionAt {α : Type} (tick : Nat) (vs : List (Nat × α)) : Option α := (vs.find? fun v => v.1 ≤ tick).map (·.2)

/-- Changes that had not taken effect are cancelled; what is in force stays (R408). -/
def collapse {α : Type} (tick : Nat) (t : Tab (List (Nat × α))) : Tab (List (Nat × α)) :=
  t.filterMap fun e => (versionAt tick e.2).map fun v => (e.1, [(0, v)])

def collapseTables (tick : Nat) (t : Tables) : Tables :=
  { t with programs := collapse tick t.programs, flocks := collapse tick t.flocks }

/-- Quarantined tiles leave the active tile map (R374). -/
def dropQuarantined (s : State) : State :=
  { s with tiles := { s.tiles with map := s.tiles.map.filter fun e => !s.nor.quarTiles.getLsbD e.2 } }

/-- The module enters I4: links idle, HBM3E and LPDDR5X in self-refresh, contents kept (R317, R352). The manual allows I4 while no
job is running and names no moment; the model enters it when a JOB_RESET completes (DESIGN CHOICE, log 72). -/
def enterI4 (s : State) : State :=
  { s with pw := { s.pw with moduleState := 4 }, mm := { s.mm with selfRefresh := true } }

/-- Unplanned work wakes the module at once (R353). -/
def rouse (s : State) : State :=
  if s.pw.moduleState = 4 then { s with pw := { s.pw with moduleState := 0 }, mm := { s.mm with selfRefresh := false } } else s

/-- What a JOB_RESET does at its end (R408). -/
def endJobReset (s : State) : State := enterI4 (resetTiles { s with job := { s.job with needReset := false } })

/-- A JOB_RESET that waited for the halt resets the tiles and completes (R408). -/
def finishJobReset (s : State) : State :=
  match startedOp s 0x0003 with
  | some c => finishStarted c 0 [] (endJobReset s)
  | none => s

/-- A pending shepherd activation is cancelled; one in its blackout goes on (R382, R408). -/
def cancelFw (g : Gz) : Gz :=
  match g.fwPending with
  | some (0, _, _) => if g.blackout then g else { g with fwPending := none, fwState := 0 }
  | _ => g

/-- A row operation that a halt leaves: reads and copies in flight complete, work on the step does not (R408). -/
def outlivesHalt (o : RowOp) : Bool := match o.kind with
  | .accumulate => false
  | .apply => false
  | .repair _ => false
  | _ => true

/-- A row unit as a halt leaves it. -/
def haltUnit (r : RowUnit) : RowUnit :=
  { r with
    queues := r.queues.filterMap fun q => match q.2.filter outlivesHalt with
      | [] => none
      | l => some (q.1, l)
    input := r.input.filter outlivesHalt, batches := [], state := 0, applyLeft := 0, done := false }

/-- What a halted module keeps of the merging of acknowledgements: COMMITTED still goes up (R38). -/
def committedOnly (a : AckState) : AckState := { committed := a.committed }

/-- Units stop and the job is HALTED: steps 2 to 6 of R408, an APPLY that had started having committed. Instructions in
flight complete later. -/
def finishHalt (s : State) : State :=
  let s := emptyGens (fun _ => true) s
  let s := { s with ru := s.ru.map fun (e : Nat × RowUnit) => (e.1, haltUnit e.2) }
  let s := discardDense (fun _ _ => true) { s with ex := { s.ex with denseWait := [] } }
  let s := (openRequests s).foldl (fun s e => answer 3 [] e s) s
  let s := returnSamples (fun _ => true) false s
  let cancelled := s.hq.started.filter fun c => c.opcode == 0x0030
  let s := cancelled.foldl (fun s c => let (w, s) := freeWord s; finishStarted c (w.toNat % 65536) [] s) s
  let s := dropQuarantined s
  finishJobReset { s with
    tk := { s.tk with state := 4, switch := none, handover := none, holdoverTicks := 0 }
    run := { s.run with legs := [], legsStarted := [], next := none, halting := false, applyStep := none, goWait := false,
                        markHeld := false, repeatStep := false, abandoned := [], goSteps := [], paces := [],
                        ownAck := committedOnly s.run.ownAck, acks := s.run.acks.map (fun (e : Nat × AckState) => (e.1, committedOnly e.2)),
                        sentDone := none, skipSent := [], haltSent := false,
                        lateLog := [], lateSeen := none, prev := none, overran := false }
    tb := collapseTables s.tk.tick s.tb
    folds := { s.folds with switch := none }
    handovers := s.handovers.filter fun h => h.switched
    tiles := { s.tiles with pendMap := none, tile := s.tiles.tile.map fun e => (e.1, { e.2 with issuing := false }) }
    gz := cancelFw s.gz
    job := { s.job with state := 3, needReset := true } }

/-- Stop the job on this module; an APPLY that has started completes and commits first (R42, R43, R408). -/
def beginHalt (s : State) : State :=
  if s.tk.state = 1 || running s then
    let s := noteOverrun s
    let s := { s with run := { s.run with halting := true } }
    if s.commit.openStep = allOnes then finishHalt s else s
  else s

/-- HALT goes down the tree at once and this module halts (R42). -/
def haltTree (s : State) : State :=
  if s.run.halting then s else beginHalt (sendDown (markMsg s 3 s.tk.tick s.tk.step) 0 s)

/-- Request a halt of the job: the bellwether halts it, any other module asks by an ACK with HALT_REQ and LATE_OPEN
(R42, R283). -/
def requestHalt (s : State) : State :=
  if s.tk.state = 1 || running s then
    if s.tk.bellwether then haltTree s
    else if s.run.haltSent then s
    else
      let s := { s with run := { s.run with haltSent := true, ownAck := { s.run.ownAck with haltReq := true } } }
      sendAck s.tk.tick s.tk.step (fun m => { m with lateOpen := true }) s
  else s

/-! ## Abandon -/

/-- An abandoned step on this module (R41): its generation and staged results are discarded, its samples returned, its
handles freed; the next MARK repeats the step number. A MARK that has already gone out stands: when the next tick has begun
under it, no MARK repeats the abandoned number (DESIGN CHOICE, log 51: the manual does not say which MARK would). -/
def onAbandon (tick step : Nat) (s : State) : State :=
  let s := emptyGens (fun g => g.step = some step) s
  let s := discardDense (fun t st => t == tick && st == step) s
  let s := returnSamples (· = step) true s
  let s := dropTileWork step (freeHandles s)
  let s := tally tlStepSkipped s
  let s := { s with run := { s.run with abandoned := (step, tick) :: s.run.abandoned } }
  let dropped := fun (o : LegOcc) => o.step == step && o.attempt == tick && isTraining o.kind && !o.opened
  let clear := fun (a : AckState) => if a.returnDone = some (step, tick) then { a with returnDone := none } else a
  { s with run := { s.run with
      goWait := s.run.goWait && !(s.run.legs.any fun o => o.kind == kApply && o.step == step && !o.opened)
      repeatStep := s.run.repeatStep || decide (step = s.tk.step)
      spoiled := ((s.run.legs.filter fun o => dropped o && o.tick == s.tk.tick).map (·.leg)) ++ s.run.spoiled
      legs := s.run.legs.map fun o =>
        let o := if prevDone s o.step then unblockLeg s.now .prev o else o
        if dropped o then unblockLeg s.now .go { o with abandoned := true } else o
      ownAck := clear s.run.ownAck
      acks := s.run.acks.map fun e => (e.1, clear e.2)
      sentDone := if s.run.sentDone = some (step, tick) then none else s.run.sentDone
      skipSent := s.run.skipSent.filter fun x => x.2 ≠ step } }

/-- The bellwether abandons a step, unless it has sent APPLY_GO for it (R41). -/
def abandonStep (tick step : Nat) (s : State) : State :=
  if s.run.goSteps.contains step || s.run.abandoned.contains (step, tick) then s
  else onAbandon tick step (sendDown { markMsg s 2 tick step with abandon := true } 0 s)

/-- Request that a step be abandoned (R41): one ACK with SKIP_REQ for each step, `kind` giving its LATE_KIND. -/
def requestSkipAs (kind : MarkMsg → Nat) (tick step : Nat) (s : State) : State :=
  if s.tk.bellwether then abandonStep tick step s
  else if s.run.skipSent.contains (tick, step) then s
  else sendAck tick step (fun m => { m with skipReq := true, lateKind := kind m })
    { s with run := { s.run with skipSent := (tick, step) :: s.run.skipSent } }

def requestSkip (tick step : Nat) (s : State) : State := requestSkipAs (·.lateKind) tick step s

/-! ## RETURN_DONE and COMMITTED -/

/-- Every module of this module's subtree has reported `f` of a step. -/
def allReported {α : Type} [DecidableEq α] (f : AckState → Option α) (x : α) (s : State) : Bool :=
  f s.run.ownAck == some x && (childChips s).all fun c => f (tabGet {} s.run.acks c) == some x

/-- The bellwether sends APPLY_GO for the step begun in a tick (R37). -/
def applyGo (tick step : Nat) (s : State) : State :=
  if s.run.goSteps.contains step then s
  else
    let s := sendDown (markMsg s 2 tick step) 0 s
    { s with run := { s.run with goSteps := step :: s.run.goSteps } }

/-- The APPLY legs that have started or committed and not been recorded as ended (R18, R214). -/
def applyPending (s : State) : Bool :=
  s.commit.openStep != allOnes || (match s.run.ownAck.committed with
    | some c => s.run.applyEnded != some c
    | none => false)

/-- The APPLY leg of a step is recorded as ended (R18, R38). A SERVE leg whose start was recorded in the same tick-unit cycle
comes after it (R18): its view and overlap are taken again. -/
def recordApplyEnd (step : Nat) (s : State) : State :=
  if s.run.applyEnded = some step then s
  else
    let s := { s with run := { s.run with applyEnded := some step } }
    let again := fun (o : LegOcc) =>
      if o.kind = kServe && o.recAt = s.now then { o with view := some step, overlap := applyPending s } else o
    { s with run := { s.run with legs := s.run.legs.map again } }

/-- Forward RETURN_DONE of the step begun in a tick once the subtree holds it; the bellwether answers with APPLY_GO (R36,
R37). -/
def checkReturnDone (tick step : Nat) (s : State) : State :=
  if s.run.sentDone ≠ some (step, tick) && allReported (·.returnDone) (step, tick) s then
    let s := { s with run := { s.run with sentDone := some (step, tick) } }
    if s.tk.bellwether then applyGo tick step s
    else sendAck tick step (fun m => { m with returnDone := true }) s
  else s

/-- Forward COMMITTED of a step; the bellwether records the end and sends APPLY_END (R38). -/
def checkCommitted (step : Nat) (s : State) : State :=
  if s.run.sentCommit ≠ some step && allReported (·.committed) step s then
    let s := { s with run := { s.run with sentCommit := some step } }
    if s.tk.bellwether then sendDown (markMsg s 6 s.tk.tick step) 0 (recordApplyEnd step s)
    else sendAck s.tk.tick step (fun m => { m with committed := true }) s
  else s

/-! ## Boundaries at the bellwether -/

/-- Lateness is reported per boundary: forget it once the MARK of the next tick has gone out. -/
def clearLateness (s : State) : State :=
  { s with run := { s.run with
      ownAck := { s.run.ownAck with latenessNs := 0 }
      acks := s.run.acks.map fun e => (e.1, { e.2 with latenessNs := 0 }) } }

/-- The candidate whose MARK tree serves a tick. -/
def candidateFor (s : State) (tick : Nat) : Nat :=
  match s.tk.handover with
  | some (n, c) => if n ≤ tick then s.job.exchange.candidates.idxOf c else s.run.candidate
  | none => s.run.candidate

/-- An effect over the MARK tree of a candidate. -/
def underTree (k : Nat) (f : State → State) (s : State) : State :=
  let k0 := s.run.candidate
  let s := f { s with run := { s.run with candidate := k } }
  { s with run := { s.run with candidate := k0 } }

/-- The next tick's number. -/
def nextTickNum (s : State) : Nat := if s.tk.state = 1 then s.start.firstTick else s.tk.tick + 1

/-- Send the MARK of the next tick, which starts at `due` (R29), with its stretch (R39) and a handover flag (R34). -/
def sendMark (due stretch : Nat) (s : State) : State :=
  let tick := if s.tk.state = 1 then s.start.firstTick else s.tk.tick + 1
  let step := predictedStep s
  let sl := governingSlot s tick
  let ho := match s.tk.handover with
    | some (n, c) => if n = tick + 1 then some c else none
    | none => none
  let m := { markMsg s 0 tick step with
    slot := sl, ttId := ttIdOf (slotTimetable s sl), stretched := decide (0 < stretch), stretchNs := stretch,
    handover := ho.isSome, nextChip := ho.getD 0 }
  let s := sendDown m due s
  clearLateness { s with run := { s.run with
      next := some { tick, step, startAt := due, stretchNs := stretch, stretched := decide (0 < stretch), slot := sl, ttId := m.ttId }
      markHeld := false } }

/-- A held MARK goes once no late leg is open anywhere (R39), with the normal countdown. -/
def releaseHeld (s : State) : State :=
  let a := mergedAck s
  if s.run.markHeld && !s.run.halting then
    if a.lateOpen then { s with run := { s.run with heldKind := a.lateKind } }
    else
      let due := s.now + s.tk.leadNs
      let stretch := due - s.run.nominal
      underTree (candidateFor s (nextTickNum s)) (sendMark due stretch)
        (raise evTickOverrun sevWarn uModule (overrunDetail stretch a.lateChip s.run.heldKind false a.latenessNs) s)
  else s

/-- What follows a change of the merged state: the bellwether halts; the module that holds a MARK, the bellwether or the one
that the MARK makes bellwether (R34), sends it (R39, R42). -/
def actOnMerged (s : State) : State :=
  if s.tk.bellwether && (mergedAck s).haltReq then haltTree s else releaseHeld s

end Sys2Proof.Machine
end

