-- ==== Sys2Proof/Machine/Tile.lean ====
section
/-! DEFINITION. The sequencer: issue (R265, R287), traps (R281 to R283), NaN results (R65, R67, R257), waking a tile. -/

namespace Sys2Proof.Machine

/-! ## Trap causes (R281) and engines (R282) -/

def tcNan : Nat := 1
def tcEncoding : Nat := 2
def tcAlign : Nat := 3
def tcAddress : Nat := 4
def tcDecode : Nat := 5
def tcRegion : Nat := 6
def tcLeg : Nat := 7
def tcHurdle : Nat := 8
def tcExchange : Nat := 9
def tcParity : Nat := 10
def tcSoftware : Nat := 11

def enVector : Nat := 16
def enReduce : Nat := 17
def enDrover : Nat := 18
def enEmbed : Nat := 19
def enSequencer : Nat := 20

/-! ## Instruction words -/

/-- The 64-bit word of an instruction (R284). -/
def encodeWord (op : Nat) (f : Fields) : Word64 :=
  BitVec.ofNat 64 (op * 2 ^ 56 + f.d.toNat * 2 ^ 50 + f.a.toNat * 2 ^ 44 + f.b.toNat * 2 ^ 38 + f.c.toNat * 2 ^ 32 + f.imm.toNat)

/-- The opcodes in use (R285). -/
def listedOpcode (op : Nat) : Bool :=
  (0x01 ≤ op && op ≤ 0x0B) || op == 0x11 || (0x13 ≤ op && op ≤ 0x1E) || (0x21 ≤ op && op ≤ 0x2C) || (0x41 ≤ op && op ≤ 0x5F) ||
    (0x61 ≤ op && op ≤ 0x67) || (0x81 ≤ op && op ≤ 0x83) || (0xA1 ≤ op && op ≤ 0xA2) || (0xC1 ≤ op && op ≤ 0xC3) ||
    (0xE1 ≤ op && op ≤ 0xE3)

def fetchWord (t : Tile) : Word64 := tabGet 0 t.imem (t.pc / 8)

def opcodeOf (w : Word64) : Nat := w.toNat / 2 ^ 56

/-! ## Scalar registers -/

/-- s0 reads as zero (R266). -/
def readS (t : Tile) (r : BitVec 6) : Word64 := if r = 0 then 0 else tabGet 0 t.sreg r.toNat

/-- A write to s0 is discarded (R284). -/
def writeS (r : BitVec 6) (v : Word64) (t : Tile) : Tile :=
  if r = 0 then t else { t with sreg := tabSet 0 t.sreg r.toNat v }

/-! ## Traps -/

/-- TICK and LEG of a record: those of the leg tag; undefined while the tile has none. -/
def trapTag (t : Tile) (s : State) : (Nat × Nat) × State :=
  match t.tag with
  | some g => ((g.tick, g.leg + 32 * g.kind), s)
  | none =>
    let (a, s) := freeWord s
    let (b, s) := freeWord s
    ((a.toNat, b.toNat % 256), s)

/-- Record the first trap of a tile, stop it, and request a halt (R281 to R283). -/
def trapAs (p cause engine instr opcode addr : Nat) (detail : List Byte) (s : State) : State :=
  let s := tally tlTileTrap s
  let t := getTile s p
  if t.trap.isSome then s
  else
    let ((tick, leg), s) := trapTag t s
    let r : TrapRec := {
      cause, engine, logical := (logicalOf s p).getD 0xFF, physical := p, instrAddr := instr, tick, leg, opcode, addr, detail }
    requestHalt (modTile p (fun t => { t with trap := some r, blocked := .no }) s)

/-- A trap of the instruction at the program counter. -/
def trapHere (p cause engine addr : Nat) (detail : List Byte) (s : State) : State :=
  let t := getTile s p
  let s := trapAs p cause engine t.pc (opcodeOf (fetchWord t)) addr detail s
  if cause = tcRegion && t.trap.isNone then securityViolation 0 0 p addr s else s

/-! ## Issue -/

/-- The tile issues: started, not trapped, not blocked, in place. -/
def canIssue (s : State) (p : Nat) : Bool :=
  let t := getTile s p
  t.issuing && t.trap.isNone && (t.blocked == .no) && (logicalOf s p).isSome

/-- A program counter outside instruction memory, or at a word whose opcode is not listed, traps (R265, R287, R288). -/
def checkPc (p : Nat) (s : State) : State :=
  let t := getTile s p
  if imemBytes ≤ t.pc then trapHere p tcAddress enSequencer t.pc [] s
  else if listedOpcode (opcodeOf (fetchWord t)) then s
  else trapHere p tcEncoding enSequencer 0 [] s

def jumpTo (p target : Nat) (s : State) : State := checkPc p (modTile p (fun t => { t with pc := target }) s)

/-- Go on with the next instruction, unless the tile has trapped or no longer issues. -/
def advance (p : Nat) (s : State) : State :=
  let t := getTile s p
  if t.trap.isSome || !t.issuing then s else jumpTo p (t.pc + 8) s

/-- Issue an instruction on a physical tile: it does so where the word at its program counter is this one (log 10). A
reserved encoding traps (R287). -/
def issue (p op : Nat) (f : Fields) (legal : Bool) (run : State → State) (s : State) : Res :=
  onUnit (decide (p < 160))
    (let t := getTile s p
     if canIssue s p && decide (t.pc < imemBytes) && fetchWord t == encodeWord op f then
       (if legal then run s else trapHere p tcEncoding enSequencer 0 [] s)
     else s)

/-- Issue, then go on with the next instruction. -/
def issueNext (p op : Nat) (f : Fields) (legal : Bool) (run : State → State) (s : State) : Res :=
  issue p op f legal (fun s => advance p (run s)) s

/-! ## NaN results -/

/-- A NaN result: its position, and whether a source was NaN. -/
abbrev NanAt := Nat × Bool

/-- The tile detail of R67. -/
def nanDetail (instr opcode engine leg fmt : Nat) (src : Bool) (pos acc : Nat) : List Byte :=
  leBytes 4 instr ++ leBytes 1 opcode ++ leBytes 1 engine ++ leBytes 1 leg ++ leBytes 1 (fmt + (if src then 16 else 0)) ++
    leBytes 2 pos ++ leBytes 1 acc ++ List.replicate 5 0

/-- NaN results of one instruction on an engine (R65). The first on a tile from an enabled engine answers the requests the tile
has claimed with STATUS 4 and traps it, which halts the job (R216, R283). DESIGN CHOICE (log 60): a NaN result of an engine
whose bit is clear counts in TALLY_NAN_RESULT on a tile that has trapped too. -/
def noteNans (p engine instr opcode fmt acc : Nat) (nans : List NanAt) (s : State) : State :=
  match nans with
  | [] => s
  | (pos, src) :: rest =>
    if s.job.header.nanTrap.getLsbD (if engine < 16 then 0 else 1) then
      let t := getTile s p
      if t.trap.isSome then tallyBy tlNanSuppressed nans.length s
      else
        let ((_, leg), s) := trapTag t s
        let d := nanDetail instr opcode engine leg fmt src pos acc
        let s := tallyBy tlNanSuppressed rest.length (raise evNanTrap sevFault (uTile p) d s)
        trapAs p tcNan engine instr opcode 0 d (answerClaims p 4 false (fun _ => true) s)
    else tallyBy tlNanResult nans.length s

/-- OR flags into VFLAGS (R256). -/
def orFlags (p : Nat) (fl : FpFlags) (s : State) : State := modTile p (fun t => { t with vflags := t.vflags ||| fl }) s

/-! ## Release points and waking -/

/-- Instants in thirteenths of a nanosecond: a 1.3 GHz clock is ten of them. -/
def ticks13 (ns : Nat) : Nat := 13 * ns

/-- Engine e of tile t belongs to release group (16 × t + e) mod 64 (R244). -/
def releaseGroup (p e : Nat) : Nat := (16 * p + e) % 64

/-- An engine is held in its stagger. -/
def staggered (now e : Nat) (t : Tile) : Bool :=
  match tabFind t.stagger e with
  | some r => decide (ticks13 now < r)
  | none => false

/-- An earlier instruction on the same output tile has not completed (R232). -/
def accBehind (t : Tile) (x : EngEnt) : Bool := t.engines.any fun q => q.2.any fun y => y.acc == x.acc && y.order < x.order

/-- An engine works on the instruction at its head. -/
def engineBusy (now e : Nat) (t : Tile) : Bool :=
  match tabGet [] t.engines e with
  | [] => false
  | x :: _ => !staggered now e t && !accBehind t x

/-- The gate on which a leg waits for an engine that is held in its stagger (R35, R244). -/
def staggerGate (p e : Nat) : Gate := .stagger (16 * p + e)

/-- The instruction at the head of an engine waits for the end of its stagger: hurdle wait of the tile's leg (R244). -/
def noteStagger (p e : Nat) (s : State) : State :=
  let t := getTile s p
  match t.tag with
  | some g =>
    if staggered s.now e t && !(tabGet [] t.engines e).isEmpty then modOcc g.leg g.tick (blockLeg (staggerGate p e) s.now) s
    else s
  | none => s

/-- A release point of a tile: its engines that are not busy start no earlier than 8 × g clocks after it (R244). -/
def releasePoint (p : Nat) (s : State) : State :=
  let idle := (List.range 16).filter fun e => !engineBusy s.now e (getTile s p)
  let s := modTile p (fun t => { t with
    stagger := idle.foldl (fun m e => tabPut m e (ticks13 s.now + 80 * releaseGroup p e)) t.stagger }) s
  idle.foldl (fun s e => noteStagger p e s) s

/-! ## Transfers to or from a tile under a move -/

/-- The tile an end names is in place: mapped, and not being moved (R264). -/
def endReady (s : State) (e : End) : Bool :=
  match e with
  | .tile l _ => (physicalOf s l).isSome && !isMoving s l
  | _ => true

/-- A transfer to or from a tile under a move waits for it; its leg's wait time runs (R35, R264). -/
def noteMoving (e : End) (leg tick : Nat) (s : State) : State :=
  match e with
  | .tile l _ => if isMoving s l then modOcc leg tick (blockLeg (.move l) s.now) s else s
  | _ => s

/-- Give a tile the tag of an occurrence and the tag word (R278). -/
def tagWord (o : LegOcc) : Word64 :=
  BitVec.ofNat 64 (o.leg + 32 * o.kind + (if o.abandoned then 256 else 0) + o.tick % 2 ^ 48 * 65536)

end Sys2Proof.Machine
end

