-- ==== Sys2Proof/Machine/Operands.lean ====
section
/-! DEFINITION. Operand forms of the Trelet classes (R284 to R301): which fields an encoding may hold, and what they give. -/

namespace Sys2Proof.Machine

/-! ## Fields -/

/-- Bits [lo + n − 1 : lo] of IMM. -/
def immF (f : Fields) (lo n : Nat) : Nat := f.imm.toNat / 2 ^ lo % 2 ^ n

/-- IMM sign-extended to 64 bits (R289). -/
def immS (f : Fields) : Word64 := f.imm.signExtend 64

/-- A code of a scalar or vector register. -/
def isSV (r : BitVec 6) : Bool := r.toNat < 32
/-- A code of a mask register. -/
def isM (r : BitVec 6) : Bool := 32 ≤ r.toNat && r.toNat < 40
/-- A code of a mask register that may be written (R246). -/
def isMDest (r : BitVec 6) : Bool := 32 < r.toNat && r.toNat < 40
def isZ (r : BitVec 6) : Bool := r == 0

def codes (f : Fields) (d a b c : BitVec 6 → Bool) : Bool := d f.d && a f.a && b f.b && c f.c

/-! ## Scalar and branch classes (R289, R290) -/

def okRRR (f : Fields) : Bool := codes f isSV isSV isSV isZ && f.imm == 0
def okRRI (f : Fields) : Bool := codes f isSV isSV isZ isZ
def okShiftI (f : Fields) : Bool := okRRI f && immF f 6 26 == 0
def okStore (f : Fields) : Bool := codes f isZ isSV isSV isZ
def okTarget (f : Fields) : Bool := immF f 0 3 == 0
def okJmp (f : Fields) : Bool := codes f isZ isZ isZ isZ && okTarget f
def okBranch (f : Fields) : Bool := codes f isZ isSV isSV isZ && okTarget f
def okJal (f : Fields) : Bool := codes f isSV isZ isZ isZ && okTarget f
def okJr (f : Fields) : Bool := codes f isZ isSV isZ isZ && f.imm == 0
def okWaitTok (f : Fields) : Bool := codes f isZ isZ isZ isZ && immF f 16 16 == 0 && immF f 0 16 != 0
def okWaitLeg (f : Fields) : Bool := codes f isSV isZ isZ isZ && immF f 5 27 == 0
def okHurdle (f : Fields) : Bool := codes f isZ isZ isZ isZ && immF f 6 26 == 0

/-! ## Vector classes (R292 to R295) -/

def vMask (f : Fields) : Nat := immF f 29 3
def vView (f : Fields) : Nat := immF f 26 3
def vRm (f : Fields) : Nat := immF f 24 2
def vMfmt (f : Fields) : Nat := immF f 20 4
def vHalf (f : Fields) : Nat := immF f 19 1
def vMode (f : Fields) : Nat := immF f 18 1
def vTap (f : Fields) : Bool := immF f 17 1 == 1
def vChan (f : Fields) : Nat := immF f 15 2
/-- OFFSET, signed (R292). -/
def vOffset (f : Fields) : Int := if immF f 14 1 = 1 then (immF f 0 15 : Int) - 32768 else immF f 0 15

/-- Lane width, lane count and, for a float view, the format of a view (R245, R286). -/
def viewBits (v : Nat) : Nat := match v with | 0 => 32 | 1 => 16 | 2 => 16 | 3 => 32 | 4 => 16 | _ => 8
def viewLanes (v : Nat) : Nat := 2048 / viewBits v
def viewFmt (v : Nat) : FpFmt := match v with | 0 => fmtFp32 | 1 => fmtFp16 | _ => fmtBf16
def isFloat (v : Nat) : Bool := v ≤ 2
def isInt (v : Nat) : Bool := 3 ≤ v && v ≤ 5
def isAnyView (v : Nat) : Bool := v ≤ 5

/-- RM, MFMT, HALF, MODE and OFFSET are zero. -/
def plainVec (f : Fields) : Bool := immF f 18 8 == 0 && immF f 0 15 == 0

/-- TAP and CHAN zero, or TAP set where it is allowed. -/
def tapField (allowed : Bool) (f : Fields) : Bool := if vTap f then allowed else vChan f == 0

/-- An element-wise operation with views `vs`; `tap`: it may carry TAP with a float view. -/
def okVec (vs : Nat → Bool) (tap : Bool) (f : Fields) : Bool :=
  plainVec f && vs (vView f) && tapField (tap && isFloat (vView f)) f

def okV3 (vs : Nat → Bool) (tap : Bool) (f : Fields) : Bool := codes f isSV isSV isSV isZ && okVec vs tap f
def okV2 (vs : Nat → Bool) (tap : Bool) (f : Fields) : Bool := codes f isSV isSV isZ isZ && okVec vs tap f
def okVfma (f : Fields) : Bool := codes f isSV isSV isSV isSV && okVec isFloat true f
def okVcmp (f : Fields) : Bool := codes f isMDest isSV isSV isZ && okVec isAnyView false f
def okVsel (f : Fields) : Bool := codes f isSV isSV isSV isM && okVec isAnyView false f
def okMaskOp (f : Fields) : Bool := codes f isMDest isM isM isZ && f.imm == 0
def isFp32 (v : Nat) : Bool := v == 0

/-- A register code used only under a condition, and zero otherwise. -/
def regIf (c : Bool) (r : BitVec 6) : Bool := if c then isSV r else isZ r

/-- Formats of a STRIDED access (R247). -/
def stridedFmt (m : Nat) : Bool := m ≤ 4 || m == 11

/-- MFMT of a load or store in a view (R294). -/
def loadPair (v m : Nat) : Bool :=
  match v with
  | 0 => m ≤ 11
  | 1 => m == 1 || (3 ≤ m && m ≤ 5)
  | 2 => 2 ≤ m && m ≤ 11
  | _ => m == 0
def storePair (v m : Nat) : Bool := if isFloat v then m ≤ 8 else m == 0

/-- The format moved is the view's own: nothing converts (R248, R294). -/
def ownFormat (v m : Nat) : Bool := isInt v || v == m

def okVld (f : Fields) : Bool :=
  let str := vMode f == 1
  codes f isSV isSV (regIf str) isZ && isAnyView (vView f) && loadPair (vView f) (vMfmt f) && vRm f == 0 && vHalf f == 0 &&
    (!str || isInt (vView f) || stridedFmt (vMfmt f)) && tapField true f

def okVst (f : Fields) : Bool :=
  let str := vMode f == 1
  codes f isSV isSV (regIf str) (regIf (vRm f == 2)) && isAnyView (vView f) && storePair (vView f) (vMfmt f) && vRm f != 3 &&
    vHalf f == 0 && (!str || isInt (vView f) || stridedFmt (vMfmt f)) && (!str || f.b != 0) &&
    (!ownFormat (vView f) (vMfmt f) || vRm f == 0) && tapField false f

/-- Source view of a vcvt. -/
def cvtSrc (f : Fields) : Nat := immF f 20 3

def okVcvt (f : Fields) : Bool :=
  let src := cvtSrc f
  let dst := vView f
  let narrow := src == 0 && (dst == 1 || dst == 2)
  let widen := (src == 1 || src == 2) && dst == 0
  codes f isSV isSV (regIf (narrow && vRm f == 2)) isZ && (narrow || widen) && immF f 23 1 == 0 && vRm f != 3 &&
    (narrow || vRm f == 0) && vMode f == 0 && immF f 0 15 == 0 && tapField true f

def okVred (f : Fields) : Bool := codes f isSV isSV isZ isZ && immF f 0 29 == 0
def okRclr (f : Fields) : Bool := codes f isZ isZ isZ isZ && immF f 17 15 == 0 && immF f 0 15 == 0
def okRread (f : Fields) : Bool :=
  codes f isSV isZ isZ isZ && immF f 17 15 == 0 && immF f 3 12 == 0 && immF f 0 3 != 7
def okVfrd (f : Fields) : Bool := codes f isSV isZ isZ isZ && f.imm == 0
def okVfclr (f : Fields) : Bool := codes f isZ isSV isZ isZ && f.imm == 0

/-! ## Tokens (R286) -/

/-- The five-bit token field at [19:15] is well-formed. -/
def okTok (f : Fields) : Bool := immF f 19 1 == 1 || immF f 15 4 == 0

def tokOf (f : Fields) : Option Nat := if immF f 19 1 = 1 then some (immF f 15 4) else none

/-- The named token is busy: issue stalls (R265). -/
def tokStall (t : Tile) (f : Fields) : Bool := match tokOf f with
  | some k => tokBusy t k
  | none => false

/-! ## Matrix class (R296 to R298) -/

/-- Legal operand pairs (R297). -/
def mmaPair (a b : Nat) : Bool :=
  let fp8 := fun x : Nat => x == 3 || x == 4 || x == 6 || x == 7
  if a == 9 || a == 10 then fp8 b || b == 2
  else if a == 5 || a == 8 then b == 5 || b == 8
  else if fp8 a then fp8 b
  else a ≤ 2 && a == b

def okMma (f : Fields) : Bool := codes f isZ isSV isSV isZ && okTok f && mmaPair (immF f 4 4) (immF f 0 4)

def okDrain (f : Fields) : Bool :=
  let fuse := immF f 13 2
  codes f isZ isSV (regIf (fuse != 0)) (regIf (immF f 9 2 == 2)) && okTok f && fuse != 3 && immF f 11 2 != 3 &&
    (fuse != 0 || immF f 11 2 == 0) && immF f 9 2 != 3 && immF f 4 4 ≤ 8 && immF f 0 4 == 0

/-- BASE and STRIDE of an operand descriptor (R296). -/
def descBase (w : Word64) : Nat := w.toNat % 2 ^ 21
def descStride (w : Word64) : Nat := w.toNat / 2 ^ 32 % 2 ^ 21
def descReserved (w : Word64) : Bool := w.toNat / 2 ^ 21 % 2 ^ 11 != 0 || w.toNat / 2 ^ 53 != 0

/-- What a descriptor for rows of `n` stored bytes breaks, if anything: the lowest cause (R228, R281, R296). -/
def descFault (w : Word64) (n : Nat) : Option (Nat × Nat) :=
  if descBase w % 64 ≠ 0 || descStride w % 64 ≠ 0 || descStride w < n then some (tcAlign, descBase w)
  else if descReserved w || tmemBytes ≤ descBase w + 31 * descStride w + n then some (tcAddress, descBase w)
  else none

def descRgn (w : Word64) (n : Nat) : Rgn := { base := descBase w, stride := descStride w, rows := 32, bytes := n }

/-! ## Drover, embedding and system classes (R299 to R301) -/

def okDmv (f : Fields) : Bool :=
  let sk := immF f 30 2
  let dk := immF f 28 2
  let one := sk == 1 || dk == 1
  codes f isSV isSV isSV isSV && okTok f && immF f 0 15 == 0 && sk != 3 && dk != 3 && (sk == 0 || dk == 0) &&
    immF f 20 8 < 160 && (one || immF f 20 8 == 0)

def okDense (f : Fields) : Bool := codes f isZ isSV isSV isSV && okTok f && immF f 0 15 == 0
def okLook (f : Fields) : Bool := codes f isSV isSV isSV isSV && okTok f && immF f 4 5 == 0 && immF f 0 1 == 0
def okGrad (f : Fields) : Bool :=
  codes f isZ isSV isZ isZ && okTok f && (immF f 4 4 == 0 || immF f 4 4 == 2) && immF f 20 12 == 0 && immF f 8 3 == 0 &&
    immF f 2 2 == 0 && immF f 0 1 == 0
def okPost (f : Fields) : Bool :=
  codes f isZ isSV isSV isZ && okTok f && immF f 20 12 == 0 && immF f 2 13 == 0 && immF f 0 1 == 0
def okNop (f : Fields) : Bool := codes f isZ isZ isZ isZ && f.imm == 0
def okSysrd (f : Fields) : Bool := codes f isSV isZ isZ isZ && f.imm.toNat ≤ 6
def okTrap (f : Fields) : Bool := codes f isZ isZ isZ isZ

end Sys2Proof.Machine
end

