-- ==== Sys2Proof/Machine/Flags.lean ====
section
/-! DEFINITION. Lane results, VFLAGS, NaN results and the reduction unit's state lanes (R246, R253 to R257). -/

namespace Sys2Proof.Machine

/-! ## Vector and mask registers -/

def readV (t : Tile) (r : BitVec 6) : BitVec 2048 := tabGet 0 t.vreg (r.toNat % 32)
def writeV (r : BitVec 6) (v : BitVec 2048) (t : Tile) : Tile := { t with vreg := tabSet 0 t.vreg (r.toNat % 32) v }

/-- m0 reads as all ones (R246). -/
def readMask (t : Tile) (m : Nat) : BitVec 256 := if m = 0 then BitVec.allOnes 256 else tabGet 0 t.mreg m
def writeMask (m : Nat) (v : BitVec 256) (t : Tile) : Tile := { t with mreg := tabSet 0 t.mreg m v }

/-- Lanes of a register in a view (R245). -/
def lanesOf (v : Nat) (r : BitVec 2048) : List Nat :=
  (List.range (viewLanes v)).map fun l => r.toNat / 2 ^ (viewBits v * l) % 2 ^ viewBits v

def ofLanes (v : Nat) (cs : List Nat) : BitVec 2048 := BitVec.ofNat 2048 (packBits (viewBits v) cs)

def vLanes (t : Tile) (v : Nat) (r : BitVec 6) : List Nat := lanesOf v (readV t r)

/-! ## Lane results -/

/-- A lane's result: its code, its flags (R61), whether it is a NaN result (R257), whether a source was NaN (R67). -/
structure LaneRes where
  code : Nat
  flags : FpFlags := 0
  nan : Bool := false
  src : Bool := false
  deriving DecidableEq, Repr

/-- A floating result on operands in the same format. -/
def floatRes (f : FpFmt) (ops : List Nat) (r : Nat × FpFlags) : LaneRes :=
  { code := r.1, flags := r.2, nan := fpIsNan (fpDecode f r.1), src := ops.any fun w => fpIsNan (fpDecode f w) }

/-- A conversion of a code between IEEE formats (R47, R61, R62). -/
def convRes (a b : FpFmt) (mode draw w : Nat) : LaneRes :=
  let x := fpDecode a w
  let (c, fl) := fpRound b mode draw x
  { code := c, flags := fl ||| (if fpSignalling a w then flInvalid else 0), nan := fpIsNan x, src := fpIsNan x }

/-- The active lanes with their results; `base` is the number of the first lane. -/
def activeLanes (m : BitVec 256) (base : Nat) (rs : List LaneRes) : List (Nat × LaneRes) :=
  (rs.zipIdx.map fun x => (base + x.2, x.1)).filter fun x => m.getLsbD x.1

/-- The codes of a register after active lanes take their results and the others keep their old values (R246). -/
def mergeLanes (old : List Nat) (act : List (Nat × LaneRes)) : List Nat :=
  old.zipIdx.map fun x => match act.find? fun a => a.1 == x.2 with
    | some a => a.2.code
    | none => x.1

def orAll (act : List (Nat × LaneRes)) : FpFlags := act.foldl (fun a x => a ||| x.2.flags) 0

def nansOf (act : List (Nat × LaneRes)) : List NanAt := (act.filter fun x => x.2.nan).map fun x => (x.1, x.2.src)

/-! ## The reduction unit (R253, R254) -/

def n32 (r : Nat × FpFlags) : Word32 := BitVec.ofNat 32 r.1

/-- A count as FP32. -/
def floatOf (n : Nat) : Nat × FpFlags := fpRound fmtFp32 0 0 (fpNat n)

def addF (a b : Word32) : Nat × FpFlags := fpOp2 fmtFp32 fpAdd a.toNat b.toNat
def subF (a b : Word32) : Nat × FpFlags := fpOp2 fmtFp32 (fun x y => fpAdd x (fpNeg y)) a.toNat b.toNat
def mulF (a b : Word32) : Nat × FpFlags := fpOp2 fmtFp32 fpMul a.toNat b.toNat
def divF (a b : Word32) : Nat × FpFlags := fpDivOp fmtFp32 a.toNat b.toNat
def fmaF (a b c : Word32) : Nat × FpFlags := fpFmaOp fmtFp32 a.toNat b.toNat c.toNat

/-- The last count a state lane reaches (R254). -/
def chanMax : Nat := 16777215

/-- One value fed to a state lane: the lane, the flags, the NaN results (R254, R257). -/
def tapLane (c : ChanLane) (x : Word32) : ChanLane × FpFlags × List Bool :=
  if c.n = chanMax then (c, flInvalid, [])
  else
    let n := c.n + 1
    let d := subF x c.mean
    let q := divF (n32 d) (n32 (floatOf n))
    let mean := addF c.mean (n32 q)
    let e := subF x (n32 mean)
    let m2 := fmaF (n32 d) (n32 e) c.m2
    let sum := addF c.sum x
    let sq := fmaF x x c.sq
    let nan := fun (r : Nat × FpFlags) (old : Word32) => if isNan32 (n32 r) then [isNan32 x || isNan32 old] else []
    ({ n, mean := n32 mean, m2 := n32 m2, sum := n32 sum, sq := n32 sq },
      d.2 ||| q.2 ||| mean.2 ||| e.2 ||| m2.2 ||| sum.2 ||| sq.2,
      nan mean c.mean ++ nan m2 c.m2 ++ nan sum c.sum ++ nan sq c.sq)

/-- A lane's result as FP32 for a channel, with the flags of the widening: a 32-bit lane as it is, a 16-bit float widened
exactly. What an i16 or i8 lane feeds is not stated: the free word given (log 50). -/
def tapValue (v : Nat) (code : Nat) (free : Word32) : Word32 × FpFlags :=
  match v with
  | 0 => (BitVec.ofNat 32 code, 0)
  | 1 => let r := convRes fmtFp16 fmtFp32 0 0 code; (BitVec.ofNat 32 r.code, r.flags)
  | 2 => let r := convRes fmtBf16 fmtFp32 0 0 code; (BitVec.ofNat 32 r.code, r.flags)
  | 3 => (BitVec.ofNat 32 code, 0)
  | _ => (free, 0)

/-- Feed a channel in lane order: lane k goes to state lane k mod 64. -/
def tapAll (chan : Nat) : List (Nat × Word32 × FpFlags) → Tab ChanLane → Tab ChanLane × FpFlags × List NanAt
  | [], t => (t, 0, [])
  | (l, x) :: rest, t =>
    let k := 64 * chan + l % 64
    let (c, fl, nans) := tapLane (tabGet {} t k) x.1
    let (t, fl', nans') := tapAll chan rest (tabSet {} t k c)
    (t, x.2 ||| fl ||| fl', nans.map (fun b => (l % 64, b)) ++ nans')

/-- The values that a tapped result feeds. -/
def tapValues (v : Nat) : List (Nat × LaneRes) → State → List (Nat × Word32 × FpFlags) × State
  | [], s => ([], s)
  | (l, r) :: rest, s =>
    let (w, s) := if 4 ≤ v then freeWord s else (0, s)
    let (xs, s) := tapValues v rest s
    ((l, tapValue v r.code (w.setWidth 32)) :: xs, s)

/-! ## Retiring a vector result -/

/-- Write the active lanes of a destination, OR their flags, feed the tapped channel, count NaN results. -/
def retireVec (p : Nat) (f : Fields) (act : List (Nat × LaneRes)) (s : State) : State :=
  let t := getTile s p
  let v := vView f
  let op := opcodeOf (fetchWord t)
  let (xs, s) := if vTap f then tapValues v act s else ([], s)
  let (chans, tfl, tnans) := tapAll (vChan f) xs t.chans
  let s := modTile p (fun t => { writeV f.d (ofLanes v (mergeLanes (vLanes t v f.d) act)) t with
    chans, vflags := t.vflags ||| orAll act ||| tfl }) s
  noteNans p enReduce t.pc op 0 0 tnans (noteNans p enVector t.pc op v 0 (nansOf act) s)

/-- An element-wise operation. -/
def vecOp (p : Nat) (f : Fields) (rs : List LaneRes) (s : State) : State :=
  retireVec p f (activeLanes (readMask (getTile s p) (vMask f)) 0 rs) s

/-- Retire with TAP's float condition apart: integer and bitwise results carry no flags. -/
def plainRes (cs : List Nat) : List LaneRes := cs.map fun c => { code := c }

end Sys2Proof.Machine
end

