-- ==== Sys2Proof/Machine/Legs.lean ====
section
/-! DEFINITION. wait.leg (R278), hurdles (R275 to R277), and waking tiles. -/

namespace Sys2Proof.Machine

/-! ## wait.leg -/

def usetOf (s : State) (tick : Nat) (e : LegEnt) : USet :=
  match governing s tick with
  | some t => t.usets.getD e.uset { tiles := 0, mds := 0, lgs := 0, io := 0 }
  | none => { tiles := 0, mds := 0, lgs := 0, io := 0 }

/-- The tick of the first occurrence of leg `l` after the tile's tag, or at or after job start (R278). -/
def targetTick (s : State) (t : Tile) (l : Nat) : Nat :=
  match t.tag with
  | none => s.start.firstTick
  | some g =>
    let after := match legOcc s l g.tick with
      | some o => laterLeg o.startAt l g.startAt g.leg
      | none => g.tick == s.tk.tick && (match legEntry s g.tick l with
        | some e => laterLeg (s.run.tickStartAt + e.startNs) l g.startAt g.leg
        | none => false)
    if after then g.tick else g.tick + 1

/-- The timetable of a tick has leg `l` with the logical tile in its unit set. -/
def legHolds (s : State) (tick l logical : Nat) : Bool :=
  match legEntry s tick l with
  | some e => (usetOf s tick e).tiles.getLsbD logical
  | none => false

/-- wait.leg returns with an occurrence's tag (R278): a release point (R244). -/
def wakeLeg (p dreg : Nat) (o : LegOcc) (s : State) : State :=
  advance p (releasePoint p (modTile p (fun t =>
    writeS (BitVec.ofNat 6 dreg) (tagWord o) { t with tag := some (tagOf o), blocked := .no }) s))

/-- A trap of a wait.leg with no such leg (R278). -/
def trapLegWait (p : Nat) (s : State) : State := trapHere p tcLeg enSequencer 0 [] s

/-- Wait for leg `l`: return at once, block, or trap. -/
def seekLeg (p l dreg : Nat) (s : State) : State :=
  let t := getTile s p
  let logical := (logicalOf s p).getD 0xFF
  let tick := targetTick s t l
  let block := modTile p (fun t => { t with blocked := .leg l dreg tick }) s
  if s.tk.tick < tick || isMoving s logical then block
  else match legOcc s l tick with
    | some o => if o.uset.tiles.getLsbD logical then wakeLeg p dreg o s else trapLegWait p s
    | none =>
      if tick = s.tk.tick && legHolds s tick l logical && !s.run.legsStarted.contains l then block else trapLegWait p s

/-- Tiles blocked on a leg that starts return from wait.leg. -/
def wakeForLeg (o : LegOcc) (s : State) : State :=
  s.tiles.map.foldl (fun s e =>
    match (getTile s e.2).blocked with
    | .leg l dreg tick => if l = o.leg && tick = o.tick && o.uset.tiles.getLsbD e.1 && !isMoving s e.1 then wakeLeg e.2 dreg o s else s
    | _ => s) s

/-- At a tick's boundary a tile that waits for a leg its timetable does not give it traps (R278). -/
def trapMissingLegs (s : State) : State :=
  s.tiles.map.foldl (fun s e =>
    match (getTile s e.2).blocked with
    | .leg l _ tick => if tick = s.tk.tick && !legHolds s tick l e.1 then trapLegWait e.2 s else s
    | _ => s) s

/-! ## Hurdles -/

def hurdleEnt (s : State) (h : Nat) : HurdleEnt := s.job.header.hurdles.getD h { scope := 0, mask := 0 }

/-- The instance of a hurdle for a compute die; 4 for the scopes with one instance. -/
def hurdleDie (e : HurdleEnt) (p : Nat) : Nat := if e.scope = 2 then p / 40 else 4

def hurdleKey (h die : Nat) : Nat := 5 * h + die

def getHurdle (s : State) (h die : Nat) : HurdleInst := tabGet {} s.tiles.hurdles (hurdleKey h die)
def setHurdle (h die : Nat) (i : HurdleInst) (s : State) : State :=
  { s with tiles := { s.tiles with hurdles := tabPut s.tiles.hurdles (hurdleKey h die) i } }

/-- Logical tiles that take part in an instance (R275). -/
def participants (s : State) (e : HurdleEnt) (die : Nat) : List Nat :=
  match e.scope with
  | 1 => (logicalTiles s).filter fun l => e.mask.getLsbD l
  | 2 => (logicalTiles s).filter fun l => placeOf s l / 40 == die
  | 3 => logicalTiles s
  | 4 => logicalTiles s
  | _ => []

/-- An ARRIVE or RELEASE payload of this module: every other field is zero (R277). -/
def hurdleMsg (s : State) (mkind gen h : Nat) : MarkMsg :=
  { tickNum := gen, stepNum := 0, slot := 0, mkind, stretched := false, abandon := false, handover := false, lateOpen := false,
    returnDone := false, skipReq := false, committed := false, haltReq := false, countdownNs := 0, stretchNs := 0, ttId := 0,
    sourceChip := s.lg.chip, lateChip := 0, latenessNs := 0, nextChip := 0, hurdle := h, lateKind := 0 }

/-- What follows once every participant of the module has arrived (R276, R277). -/
def hurdleFull (h die : Nat) (e : HurdleEnt) (s : State) : State :=
  let i := getHurdle s h die
  let all := (participants s e die).all fun l => i.arrived.contains l
  if !all || i.releaseAt.isSome then s
  else if e.scope = 4 then
    if !((childChips s).all fun c => i.childArrived.contains c) || i.sentUp then s
    else if s.tk.bellwether then
      let due := s.now + 600 * s.job.exchange.treeDepth.getD s.run.candidate 0
      sendDown (hurdleMsg s 5 i.gen h) due (setHurdle h die { i with releaseAt := some due } s)
    else sendUp (hurdleMsg s 4 i.gen h) (setHurdle h die { i with sentUp := true } s)
  else setHurdle h die { i with releaseAt := some (s.now + (if e.scope = 3 then 64 * 10 / 13 else 16 * 10 / 13)) } s

/-- A tile with every token free arrives, and blocks (R276). -/
def arriveHurdle (p h : Nat) (s : State) : State :=
  let e := hurdleEnt s h
  let die := hurdleDie e p
  let l := (logicalOf s p).getD 0xFF
  if !(participants s e die).contains l then trapHere p tcHurdle enSequencer 0 [] s
  else
    let s := modTile p (fun t => { t with blocked := .hurdle h, unseen := [] }) s
    let s := match (getTile s p).tag with
      | some g => if 3 ≤ e.scope then modOcc g.leg g.tick (blockLeg (.hurdle h) s.now) s else s
      | none => s
    let i := getHurdle s h die
    hurdleFull h die e (setHurdle h die { i with arrived := insertSorted l i.arrived } s)

/-- Release an instance: a new generation, and a release point for its tiles (R244, R276). -/
def releaseHurdle (h die : Nat) (s : State) : State :=
  let e := hurdleEnt s h
  let i := getHurdle s h die
  let s := openGate (.hurdle h) (setHurdle h die { gen := i.gen + 1 } s)
  (participants s e die).foldl (fun s l =>
    match physicalOf s l with
    | some p =>
      if (getTile s p).blocked = .hurdle h then
        advance p (releasePoint p (modTile p (fun t => { t with blocked := .no }) s))
      else s
    | none => s) s

end Sys2Proof.Machine
end

