-- ==== Sys2Proof/Machine/Claims.lean ====
section
/-! DEFINITION. Claiming samples (R338) and serve requests (R212 to R218), and claim lists (R339). -/

namespace Sys2Proof.Machine

/-- 4,096 claims of a leg (R218, R338). -/
def claimLimit : Nat := 4096

/-! ## Scanning a ring (R217) -/

def hasEntry (s : State) (q slot : Nat) : Bool := s.hq.entries.any fun e => e.queue == q && e.slot == slot

def newEntry (q slot : Nat) (o : LegOcc) : RingEnt :=
  { queue := q, slot, firstLeg := o.leg, firstTick := o.tick, firstStart := o.startAt }

/-- Scan a ring from its claim pointer, up to the first entry that is not device-owned; entries already known are claimed
or eligible and end the scan. -/
def scanFuel (q : Nat) (o : LegOcc) : Nat → State → State
  | 0, s => s
  | n + 1, s =>
    match tabFind s.hq.queues q with
    | none => s
    | some qu =>
      if hasEntry s q qu.pos then s
      else
        let (b, s) := hqRead q (slotAddr qu qu.pos + 63) 1 s
        if b = some [2] then
          let s := { s with hq := { s.hq with
            queues := tabPut s.hq.queues q { qu with pos := (qu.pos + 1) % 2 ^ qu.log2, stale := false }
            entries := s.hq.entries ++ [newEntry q qu.pos o] } }
          scanFuel q o n s
        else if b = some [0] then { s with hq := { s.hq with queues := tabPut s.hq.queues q { qu with stale := false } } }
        else s

def scanRing (o : LegOcc) (q : Nat) (s : State) : State :=
  match tabFind s.hq.queues q with
  | some qu => scanFuel q o (2 ^ qu.log2) s
  | none => s

/-- Queue numbers of the rings of a role, ascending. -/
def ringsOfRole (s : State) (role : Nat) : List Nat :=
  (s.hq.queues.filter fun e => e.2.kind == 3 && e.2.role == role).map (·.1)

def modEntry (q slot : Nat) (f : RingEnt → RingEnt) (s : State) : State :=
  { s with hq := { s.hq with entries := s.hq.entries.map fun e => if e.queue = q && e.slot = slot then f e else e } }

/-! ## Claim lists (R339) -/

/-- Header and list of one tile: `mine` are its claims, in position order. -/
def claimHeader (o : LegOcc) (count total : Nat) : List Byte :=
  leBytes 8 o.tick ++ leBytes 1 o.leg ++ leBytes 1 o.kind ++ leBytes 2 0 ++ leBytes 4 count ++ leBytes 4 total ++ List.replicate 44 0

def claimEntry (c : Claim) : List Byte := leBytes 2 c.position ++ leBytes 2 c.queue ++ leBytes 4 c.slot ++ leBytes 8 c.header

/-- Distribute a leg's claims over the logical tiles of its unit set, those being moved among them; serve claims are remembered
for emb.post. -/
def writeClaims (o : LegOcc) (claims : List Claim) (s : State) : State :=
  let tiles := (logicalTiles s).filter fun l => o.uset.tiles.getLsbD l
  let n := tiles.length
  tiles.zipIdx.foldl (fun s x =>
    let mine := claims.filter fun c => c.position % n == x.2
    let fill := fun (t : Tile) =>
      let t := tileFill 0x1EFFC0 (claimHeader o mine.length claims.length) t
      let t := if mine.isEmpty then t else tileFill 0x1F0000 (mine.flatMap claimEntry) t
      if o.kind = kServe then { t with claims := { leg := o.leg, tick := o.tick, claims := mine } :: t.claims } else t
    modLogical x.1 fill s) s

def claimOf (s : State) (position : Nat) (e : RingEnt) : Claim :=
  { position, queue := e.queue, slot := e.slot
    header := match tabFind s.hq.queues e.queue with
      | some q => slotAddr q e.slot
      | none => 0 }

/-! ## INGEST (R338) -/

def allZero (bs : List Byte) : Bool := bs.all (· == 0)

/-- Samples returned under R41 come first, then those of earlier ticks, then this tick's; within each, ring by ring. -/
def sampleOrder (s : State) (tick : Nat) : List RingEnt :=
  let rings := ringsOfRole s 1
  let free := rings.flatMap fun q => s.hq.entries.filter fun e => e.queue == q && e.claimed.isNone
  let again := free.filter (·.retried)
  let first := free.filter fun e => !e.retried
  again ++ (first.filter fun e => decide (e.firstTick < tick)) ++ first.filter fun e => decide (tick ≤ e.firstTick)

/-- An INGEST header that breaks R338: its VERSION or a reserved byte. -/
def badSample (h : List Byte) : Bool := leAt h 0 2 ≠ 1 || !allZero ((h.drop 2).take 2) || !allZero ((h.drop 16).take 47)

/-- A sample's header is read before it is claimed. A slot with a bad one is not claimed: it goes back to its sender (R5; log
57: the manual defines no error status for it). -/
def checkSample (acc : List RingEnt × State) (e : RingEnt) : List RingEnt × State :=
  let (ok, s) := acc
  match tabFind s.hq.queues e.queue with
  | none => (ok, s)
  | some q =>
    let (h, s) := hqRead e.queue (slotAddr q e.slot) 64 s
    if badSample (h.getD []) then (ok, dropEntry e.queue e.slot (freeSlot e.queue e.slot s)) else (ok ++ [e], s)

def claimSamples (o : LegOcc) (s : State) : State :=
  let s := (ringsOfRole s 1).foldl (fun s q => scanRing o q s) s
  let (good, s) := ((sampleOrder s o.tick).take claimLimit).foldl checkSample ([], s)
  let picked := good.zipIdx
  let claims := picked.map fun x => claimOf s x.2 x.1
  let s := picked.foldl (fun s x =>
    modEntry x.1.queue x.1.slot (fun e => { e with claimed := some (o.leg, o.tick, o.step), position := some (x.2, o.leg) }) s) s
  writeClaims o claims s

/-! ## Serve requests (R212, R213, R216) -/

def reqModel (h : List Byte) : Nat := byteAt h 2
def reqBags (h : List Byte) : Nat := leAt h 4 2
def reqIndices (h : List Byte) : Nat := leAt h 6 2
def reqBody (h : List Byte) : Nat := leAt h 32 4

/-- A connected queue pair that a reply may use. -/
def replyQp (s : State) (h : List Byte) : Bool :=
  match tabFind s.net.qps (leAt h 24 4 % 2 ^ 24) with
  | some q => q.ready && q.port == leAt h 24 4 / 2 ^ 24 % 4
  | none => false

/-- Bytes of a reply: its header, and the values of a known model. -/
def replyBytes (s : State) (h : List Byte) : Nat :=
  64 + match ringModel s (reqModel h) with
    | some m => (elemBytes m.outFormat m.outCount + 63) / 64 * 64
    | none => 0

/-- Check 1: no reply can be written. -/
def noReply (s : State) (h : List Byte) : Bool :=
  let a := leAt h 16 8
  1 < byteAt h 3 || a % 64 ≠ 0 || (if byteAt h 3 = 0 then !devOk s.mm a (replyBytes s h) else !replyQp s h)

/-- Check 2: a header that breaks R212. -/
def badHeader (h : List Byte) (slotBytes : Nat) : Bool :=
  leAt h 0 2 ≠ 1 || reqBags h = 0 || 256 < reqBags h || slotBytes < reqBody h + 64 || !allZero ((h.drop 36).take 27) ||
    (if byteAt h 3 = 0 then !allZero ((h.drop 24).take 8) else 4 ≤ byteAt h 27)

def ceil64 (n : Nat) : Nat := (n + 63) / 64 * 64

/-- BODY_BYTES as R213 gives it. -/
def bodyFormula (m : Model) (h : List Byte) : Nat := m.featBytes + ceil64 (reqBags h * 4) + ceil64 (reqIndices h * 8)

/-- BAG entries of a body. -/
def bagWords (m : Model) (h body : List Byte) : List Nat := (List.range (reqBags h)).map fun i => leAt body (m.featBytes + 4 * i) 4

/-- The bags of a body: table and indices. -/
def parseBags (body : List Byte) : Nat → List Nat → List (Nat × List Nat)
  | _, [] => []
  | off, w :: ws =>
    let n := w / 2 ^ 16
    (w % 4096, (List.range n).map fun i => leAt body (off + 8 * i) 8) :: parseBags body (off + 8 * n) ws

/-- Check 4: a body that breaks R213. -/
def badBody (s : State) (m : Model) (h body : List Byte) : Bool :=
  let ws := bagWords m h body
  let bagEnd := m.featBytes + 4 * reqBags h
  let idxAt := m.featBytes + ceil64 (reqBags h * 4)
  let idxEnd := idxAt + 8 * reqIndices h
  m.maxIndices < reqIndices h || reqBody h ≠ bodyFormula m h || (ws.map fun w => w / 2 ^ 16).sum ≠ reqIndices h ||
    (ws.any fun w => w / 2 ^ 12 % 16 != 0 || (tabFind s.tb.tables (w % 4096)).isNone) ||
    !allZero ((body.drop bagEnd).take (idxAt - bagEnd)) || !allZero ((body.drop idxEnd).take (reqBody h - idxEnd))

/-- What the claim check of a request answers: its outcome and bags. -/
inductive Checked where
  | silent
  | bad (status : Nat)
  | good (bags : List (Nat × List Nat))
  deriving DecidableEq, Repr

def checkRequest (q : Nat) (addr slotBytes : Nat) (h : List Byte) (s : State) : Checked × State :=
  if noReply s h then (.silent, s)
  else if badHeader h slotBytes then (.bad 1, s)
  else match ringModel s (reqModel h) with
    | none => (.bad 2, s)
    | some m =>
      let (body, s) := hqRead q (addr + 64) (reqBody h) s
      let body := body.getD []
      if badBody s m h body then (.bad 1, s)
      else (.good (parseBags body (m.featBytes + ceil64 (reqBags h * 4)) (bagWords m h body)), s)

/-- Claim one request; its position if it passes. -/
def claimRequest (o : LegOcc) (position : Nat) (e : RingEnt) (s : State) : Bool × State :=
  match tabFind s.hq.queues e.queue with
  | none => (false, s)
  | some q =>
    let a := slotAddr q e.slot
    let (h, s) := hqRead e.queue a 64 s
    let h := h.getD []
    let (c, s) := checkRequest e.queue a q.slotBytes h s
    let e' := { e with claimed := some (o.leg, o.tick, o.step), hdr := h }
    let s := modEntry e.queue e.slot (fun _ => e') s
    match c with
    | .silent => (false, dropEntry e.queue e.slot (freeSlot e.queue e.slot (tally tlServeNoreply s)))
    | .bad st => (false, answer st [] e' (tally tlServeBad s))
    | .good bags => (true, modEntry e.queue e.slot (fun e => { e with bags, position := some (position, o.leg) }) s)

/-- Requests not yet claimed, in the order of R218. -/
def requestOrder (s : State) (o : LegOcc) : List RingEnt :=
  let here := fun (e : RingEnt) => e.firstTick == o.tick && e.firstLeg == o.leg
  let free := s.job.header.rings.dedup.flatMap fun q => s.hq.entries.filter fun e => e.queue == q && e.claimed.isNone
  (free.filter fun e => !here e) ++ free.filter here

/-- The claim limit of a SERVE leg: 4,096 over the SERVE legs of the timetable (R218). -/
def serveLimit (s : State) : Nat :=
  let n := ((activeTt s).map fun t => t.legs.countP fun l => l.kind == kServe).getD 1
  claimLimit / max n 1

/-- A request that this leg, its first or second, leaves unclaimed (R221). -/
def markLimited (o : LegOcc) (s : State) : State :=
  let mark := fun (e : RingEnt) =>
    if e.claimed.isSome then e
    else if e.firstTick = o.tick && e.firstLeg = o.leg then { e with limited := e.limited ||| 1 }
    else if e.due = some o.deadline then { e with limited := e.limited ||| 2 }
    else e
  { s with hq := { s.hq with entries := s.hq.entries.map fun e => if s.job.header.rings.contains e.queue then mark e else e } }

/-- The deadline of R220: requests whose next SERVE leg after L1 is this one. -/
def setDue (o : LegOcc) (s : State) : State :=
  let f := fun (e : RingEnt) =>
    if s.job.header.rings.contains e.queue && e.due.isNone && !(e.firstTick == o.tick && e.firstLeg == o.leg) then
      { e with due := some o.deadline }
    else e
  { s with hq := { s.hq with entries := s.hq.entries.map f } }

def claimRequests (o : LegOcc) (s : State) : State :=
  let s := setDue o s
  let s := s.job.header.rings.dedup.foldl (fun s q => scanRing o q s) s
  let todo := (requestOrder s o).take (serveLimit s)
  let (claims, s) := todo.foldl (fun (acc : List Claim × State) e =>
    let (ok, s) := claimRequest o acc.1.length e acc.2
    (if ok then acc.1 ++ [claimOf s acc.1.length e] else acc.1, s)) ([], s)
  writeClaims o claims (markLimited o s)

end Sys2Proof.Machine
end

