-- ==== Sys2Proof/Machine/GrazeBase.lean ====
section
/-! DEFINITION. Grazing tasks (R367, R369, R370): their units, periods, progress, and GRAZE_STARVED. -/

namespace Sys2Proof.Machine

def secondNs : Nat := 1000000000
def minuteNs : Nat := 60 * secondNs
def hourNs : Nat := 3600 * secondNs

/-- A leg-bound task of R367. -/
def legBound (task : Nat) : Bool := [0, 1, 6, 12, 13, 14].contains task

/-- Units of a task: dies, tiles, link groups; one for the module where the table counts none. -/
def taskUnits (task : Nat) : Nat :=
  match task with
  | 0 => 4
  | 1 => 4
  | 6 => 4
  | 7 => 9
  | 12 => 160
  | 13 => 4
  | 14 => 12
  | _ => 1

def taskKey (task unit : Nat) : Nat := 256 * task + unit
def getTask (s : State) (task unit : Nat) : TaskUnit := tabGet {} s.gz.tasks (taskKey task unit)
def setTask (task unit : Nat) (x : TaskUnit) (s : State) : State :=
  { s with gz := { s.gz with tasks := tabSet {} s.gz.tasks (taskKey task unit) x } }

/-- The minimum-rate period of a task on a unit, in ns. -/
def taskPeriod (s : State) (task unit : Nat) : Nat :=
  match task with
  | 0 => (mmDie s.mm unit).hbmPeriodH * hourNs
  | 1 => (mmDie s.mm unit).lpPeriodH * hourNs
  | 3 => 64 * s.tk.periodUs * 1000
  | 4 => s.tk.periodUs * 1000
  | 5 => 100000000
  | 6 => s.gz.retrainMin * minuteNs
  | 7 => minuteNs
  | 8 => secondNs
  | 9 => hourNs
  | 10 => 24 * hourNs
  | 11 => s.tk.periodUs * 1000
  | 12 => s.gz.bistPeriodH * hourNs
  | 13 => 24 * hourNs
  | 14 => 24 * hourNs
  | _ => 0

/-- 1,024 × time since the pass began: E is this ÷ the period. -/
def elapsed1024 (s : State) (x : TaskUnit) : Nat := 1024 * (s.now - x.startAt)

/-- E in 1/1,024, saturating at its ten bits. -/
def dueOf (s : State) (task unit : Nat) : Nat :=
  let p := taskPeriod s task unit
  if p = 0 then 0 else min 1023 (elapsed1024 s (getTask s task unit) / p)

/-- E - D exceeds n/1,024. -/
def laggingBy (n : Nat) (s : State) (task unit : Nat) : Bool :=
  let x := getTask s task unit
  decide ((x.done + n) * taskPeriod s task unit < elapsed1024 s x)

/-- The unit takes part in the task: a quarantined tile is not tested. -/
def taskActive (s : State) (task unit : Nat) : Bool :=
  if task = 12 then s.gz.bistEn && !s.nor.quarTiles.getLsbD unit else true

/-- The task is behind on the unit: E - D > 1/16. -/
def isBehind (s : State) (task unit : Nat) : Bool := legBound task && taskActive s task unit && laggingBy 64 s task unit

/-- A slice to D = reach ÷ steps would not make D exceed E + 1/64. -/
def mayReach (s : State) (task unit reach steps : Nat) : Bool :=
  decide (1024 * reach * taskPeriod s task unit ≤ (elapsed1024 s (getTask s task unit) + 16 * taskPeriod s task unit) * steps)

/-- Detail of GRAZE_STARVED (R370). -/
def starvedDetail (s : State) (task unit missed : Nat) : List Byte :=
  let x := getTask s task unit
  let p := taskPeriod s task unit
  leBytes 1 task ++ leBytes 1 missed ++ leBytes 2 unit ++ leBytes 2 x.done ++
    leBytes 2 (if p = 0 then 0 else min 0xFFFF (elapsed1024 s x / p)) ++ leBytes 4 x.forcedNs

/-- A task still behind at the end of a GRAZE leg that names its unit: reported once. -/
def noteStarved (task unit : Nat) (s : State) : State :=
  let x := getTask s task unit
  if isBehind s task unit && !x.starved then
    raise evGrazeStarved sevWarn uModule (starvedDetail s task unit 0) (setTask task unit { x with starved := true } s)
  else s

/-- A unit set names the unit of a leg-bound task. -/
def usetHasTask (s : State) (us : USet) (task unit : Nat) : Bool :=
  match task with
  | 12 => (logicalOf s unit).elim false us.tiles.getLsbD
  | 14 => us.lgs.getLsbD unit
  | _ => us.mds.getLsbD unit

/-- The end of a GRAZE leg (R370). -/
def grazeLegEnd (us : USet) (s : State) : State :=
  [0, 1, 6, 12, 13, 14].foldl (fun s task => (List.range (taskUnits task)).foldl (fun s u =>
    if usetHasTask s us task u then noteStarved task u s else s) s) s

/-- A free task has run on a unit: one pass more. -/
def taskRan (task unit : Nat) (s : State) : State :=
  let x := getTask s task unit
  setTask task unit { x with passes := min (x.passes + 1) (2 ^ 32 - 1), startAt := s.now } s

end Sys2Proof.Machine
end

