-- ==== Sys2Proof/Machine/Health.lean ====
section
/-! DEFINITION. Parity outcomes (R311, R314) and the self-test queue (R373, R378). -/

namespace Sys2Proof.Machine

/-! ## Units -/

/-- Units of each kind of R433. -/
def unitCount (kind : Nat) : Nat :=
  [1, 160, 4, 4, 1, 96, 12, 12, 6, 12, 32, 32, 4, 1, 16, 4, 4].getD kind 0

def unitExists (u : UnitId) : Bool := decide (u.index < unitCount u.kind)

/-! ## Units for self-test -/

/-- The unit of R378 that tests a unit of R433: kind 0 tile, 1 apply engine, 2 embedding engine, 3 link group. A link
interface or optical engine is tested with its link group. Others have no in-service self-test. -/
def testUnit (u : UnitId) : Option (Nat × Nat) :=
  match u.kind with
  | 1 => some (0, u.index)
  | 0x0B => some (1, u.index)
  | 0x0C => some (2, u.index)
  | 5 => some (3, u.index / 8)
  | 6 => some (3, u.index)
  | 7 => some (3, u.index)
  | _ => none

/-- The event unit of a test unit. -/
def eventUnit (kind index : Nat) : UnitId :=
  match kind with
  | 0 => ⟨1, index⟩
  | 1 => ⟨0x0B, index⟩
  | 2 => ⟨0x0C, index⟩
  | 3 => ⟨6, index⟩
  | _ => uXd

/-- Queue one full pass of a unit ahead of its schedule (R373); origins 1 R193, 2 R311, 3 requested (R378). -/
def queueTest (kind index origin : Nat) (s : State) : State :=
  if s.gz.queued.any fun q => q.1 == kind && q.2.1 == index then s
  else { s with gz := { s.gz with queued := s.gz.queued ++ [(kind, index, origin)] } }

/-- Kind of a queued test of a host core: it runs at the next host-complex reset (R373). -/
def testHostCore : Nat := 5

def queueUnit (u : UnitId) (origin : Nat) (s : State) : State :=
  if u.kind = 0x0E then queueTest testHostCore u.index origin s
  else match testUnit u with
    | some (k, i) => queueTest k i origin s
    | none => s

/-- A host core takes an access fault (R15, R311, R312, R320). -/
def coreFault (core addr : Nat) (s : State) : State := emit (.accessFault core addr) s

/-! ## Parity (R311, R314) -/

/-- ADDR: the line that POINTs 1 to 3 check; 0 for an SRAM or a crossing. -/
def pathAddr (addr point : Nat) : Nat := if point = 1 || point = 2 || point = 3 then addr / 64 * 64 else 0

def parityPathDetail (addr point attempts : Nat) (source : UnitId) : List Byte :=
  leBytes 8 (pathAddr addr point) ++ leBytes 1 point ++ leBytes 1 attempts ++ leBytes 2 0 ++ leBytes 4 (unitWord source)

/-- An attempt of the remedy passed. -/
def parityPassed (u source : UnitId) (addr point failed : Nat) (s : State) : State :=
  raise evParityPath sevWarn u (parityPathDetail addr point failed source) (tally tlParityPath s)

/-- Every attempt failed at POINT 0, 5 or 7: a path fault. -/
def parityPathFault (u source : UnitId) (addr point : Nat) (s : State) : State :=
  requestHalt (queueUnit u 2 (raise evParityPath sevFault u (parityPathDetail addr point 3 source) s))

end Sys2Proof.Machine
end

