-- ==== Sys2Proof/Machine/Power.lean ====
section
/-! DEFINITION. Power (R351 to R366): learned leg powers, the cap ratio, idle states, the telemetry record, event details. -/

namespace Sys2Proof.Machine

/-! ## Learned powers (R355) and the cap ratio (R357) -/

def legPower (s : State) (l : Nat) : LegPower := tabGet {} s.pw.legs l

def setLegPower (l : Nat) (p : LegPower) (s : State) : State := { s with pw := { s.pw with legs := tabSet {} s.pw.legs l p } }

/-- The unbubbled power of a sample: P_idle + (P_meas - P_idle) ÷ (1 - b), whole watts (log 31). -/
def unbubbled (idle meas bubble : Nat) : Nat :=
  ((idle : Int) + ((meas : Int) - idle) * 64 / (64 - (min bubble 32 : Nat))).toNat

/-- Take a tick's sample of a leg: the mean of the last 64. -/
def learnLeg (l meas bubble : Nat) (s : State) : State :=
  let p := legPower s l
  let samples := (unbubbled s.pw.idleW meas bubble :: p.samples).take 64
  setLegPower l { p with samples, learned := samples.sum / samples.length, meas, bubble } s

def legIndices (t : Option Timetable) : List Nat := match t with
  | some t => List.range t.legs.length
  | none => []

/-- The largest P[l] of the active timetable. -/
def maxLearned (s : State) : Nat := ((legIndices (activeTt s)).map fun l => (legPower s l).learned).foldl max 0

/-- PW_FLOOR_W: the largest floor P_idle + 0.5 × (P[l] - P_idle). -/
def floorW (s : State) : Nat := match activeTt s with
  | some _ => s.pw.idleW + (maxLearned s - s.pw.idleW) / 2
  | none => 0

/-- ceil(64 × num ÷ den), at most 32. -/
def ratio64 (num den : Nat) : Nat := if den = 0 then 32 else min 32 ((64 * num + den - 1) / den)

/-- A cause of R364 is active: for the tick, and for every open leg. -/
def noteCause (bit_ : Nat) (s : State) : State :=
  let b : BitVec 5 := 1 <<< bit_
  s.run.legs.foldl (fun s o =>
      let p := legPower s o.leg
      setLegPower o.leg { p with cause := p.cause ||| b } s)
    { s with pw := { s.pw with causeTick := s.pw.causeTick ||| b } }

/-- The pace in force for a kind at this tick (R161). -/
def paceOf (s : State) (kind : Nat) : Option Pace :=
  match tabFind s.run.paces kind with
  | some p => if p.fromTick ≤ s.tk.tick && s.tk.tick < p.fromTick + p.hold then some p else none
  | none => none

/-- The causes in force, coded as in R364. -/
def causesNow (s : State) : List Nat :=
  (if 0 < s.pw.capRatio && !s.pw.ocpTrip then [0] else []) ++ (if s.pw.thermal.isEmpty then [] else [1]) ++
    (if s.run.legs.any fun o => (paceOf s o.kind).isSome then [2] else []) ++ (if s.pw.ocpTrip then [3] else []) ++
    (if s.pw.capUnmet then [4] else [])

def noteInForce (s : State) : State := (causesNow s).foldl (fun s b => noteCause b s) s

/-- The slowest pace in force. -/
def paceNow (s : State) : Option Pace :=
  ((List.range 8).filterMap (paceOf s)).foldl (fun b p => match b with
    | some x => if p.pace < x.pace then some p else some x
    | none => some p) none

/-- Detail of POWER_CAP_LIMITED (R365). -/
def capDetail (s : State) (cause leg kind : Nat) (pace slow : Nat) : List Byte :=
  leBytes 1 cause ++ leBytes 1 s.pw.capRatio ++ leBytes 2 s.pw.cap ++ leBytes 2 s.pw.p10 ++ leBytes 2 pace ++ leBytes 2 slow ++
    leBytes 1 (leg + 32 * kind) ++ List.replicate 5 0

/-- The open leg with the largest P[l] (R357). -/
def openLeg (s : State) : Option LegOcc :=
  s.run.legs.foldl (fun b o => match b with
    | some x => if (legPower s x.leg).learned < (legPower s o.leg).learned then some o else some x
    | none => some o) none

def paceField (s : State) : Nat × Nat := match paceNow s with
  | some p => (p.pace, p.slowChip)
  | none => (1024, 0xFFFF)

def raiseCap (cause sev : Nat) (o : Option LegOcc) (s : State) : State :=
  let (pace, slow) := paceField s
  raise evPowerCapLimited sev uModule (capDetail s cause ((o.map (·.leg)).getD 0) ((o.map (·.kind)).getD 0) pace slow) s

/-- Put a cap ratio in force; the first non-zero one after a cap write raises CAUSE 1. -/
def applyCap (ratio : Nat) (o : Option LegOcc) (s : State) : State :=
  let s := { s with pw := { s.pw with capRatio := ratio } }
  if ratio = 0 then s
  else
    let s := noteCause 0 s
    if s.pw.capWritten then raiseCap 1 sevInfo o { s with pw := { s.pw with capWritten := false } } else s

/-- Preset of R357 at a leg's start; an over-current trip keeps the maximum, a blackout the last value (R382). -/
def presetCap (o : LegOcc) (s : State) : State :=
  if s.pw.ocpTrip || s.pw.capUnmet || s.gz.blackout then s
  else
    let p := (legPower s o.leg).learned
    if p ≤ s.pw.cap then applyCap 0 (some o) { s with pw := { s.pw with bNum := 0, bDen := 1 } }
    else
      let r := ratio64 (p - s.pw.cap) (p - s.pw.idleW)
      applyCap r (some o) { s with pw := { s.pw with bNum := r, bDen := 64 } }

/-! ## Telemetry (R337, R364) -/

def int16 (n : Int) : List Byte := leBytes 2 (n % 65536).toNat
def int8 (n : Int) : Byte := BitVec.ofNat 8 (n % 256).toNat

def tempAt (s : State) (i : Nat) : Byte := int8 (s.pw.temps.getD i 0)

def legBody (s : State) (m : TickMeasure) (l : Nat) : List Byte :=
  let p := legPower s l
  let (w, b) := m.legs.getD l (0, 0)
  leBytes 2 p.learned ++ leBytes 2 w ++ leBytes 1 b ++ leBytes 1 p.cause.toNat ++ leBytes 2 0

/-- The 320-byte body. -/
def telemetryBody (m : TickMeasure) (s : State) : List Byte :=
  let legs := (legIndices (activeTt s)).length
  let (pace, slow) := paceField s
  leBytes 2 s.pw.cap ++ leBytes 2 m.avgW ++ leBytes 2 m.peakW ++ leBytes 2 (floorW s) ++ int16 ((s.pw.cap : Int) - maxLearned s) ++
    leBytes 1 s.pw.causeTick.toNat ++ leBytes 1 0 ++ leBytes 2 pace ++ leBytes 2 slow ++ leBytes 4 s.pw.droopTick ++
    (List.range 12).map (tempAt s) ++
    ((List.range 32).flatMap fun l => if l < legs then legBody s m l else List.replicate 8 0) ++
    (leBytes 4 (m.idleUs.getD 0 0) ++ leBytes 4 (m.idleUs.getD 1 0) ++ leBytes 4 (m.idleUs.getD 2 0)) ++ List.replicate 20 0

def telemetryBytes : Nat := 320

/-- Write one record into the TELEMETRY queue, or count it (R337, R347, R364). -/
def telemetry (m : TickMeasure) (s : State) : State :=
  match queueOfKind s 2 with
  | none => s
  | some (q, qu) =>
    let a := slotAddr qu qu.pos
    if qu.slotBytes < 384 || s.hq.attach.state = 2 then tally tlTelemetryDropped s
    else if hostRefused a 384 true s || hostRefused a 64 false s then
      securityViolation 1 0 q a (tally tlTelemetryDropped s)
    else
      let (own, s) := readOwn a s
      if own ≠ some 0 then tally tlTelemetryDropped s
      else
        let body := telemetryBody m s
        let hdr := leBytes 8 s.tk.tick ++ leBytes 4 telemetryBytes ++ List.replicate 51 0
        let s := rawWrite (a + 64) body (rawWrite a hdr s)
        let s := rawWrite (a + 63) [1] s
        let s := { s with hq := { s.hq with queues := tabPut s.hq.queues q { qu with pos := (qu.pos + 1) % 2 ^ qu.log2, stale := false } } }
        if qu.intr then emit (.interrupt (some qu.vector) s.hq.attach.path) s else s

/-! ## Idle states (R352, R353) -/

def unitKey (u : UnitId) : Nat := 256 * u.kind + u.index

/-- Units of R433 that a unit set names: tiles, memory-side dies, link groups, Ethernet ports. -/
def usetUnits (s : State) (u : USet) : List UnitId :=
  (s.tiles.map.filter fun e => u.tiles.getLsbD e.1).map (fun e => uTile e.2) ++
    ((List.range 4).filter fun d => u.mds.getLsbD d).map uMd ++
    ((List.range 12).filter fun k => u.lgs.getLsbD k).map uLg ++
    (if u.io.getLsbD 0 then (List.range 4).map fun e => (⟨0x0F, e⟩ : UnitId) else [])

def namesUnit (s : State) (us : USet) (u : UnitId) : Bool := (usetUnits s us).contains u

/-- Starts of the legs that name a unit, from a tick's start on. -/
def legStarts (s : State) (t : Option Timetable) (from_ : Nat) (u : UnitId) : List Nat :=
  match t with
  | some t => (t.legs.filter fun l => namesUnit s (t.usets.getD l.uset { tiles := 0, mds := 0, lgs := 0, io := 0 }) u).map fun l => from_ + l.startNs
  | none => []

/-- Time to the START_NS of the next leg that names a unit; none when no timetable names it. -/
def gapTo (s : State) (u : UnitId) : Option Nat :=
  let now := (legStarts s (activeTt s) s.run.tickStartAt u).filter fun x => s.now < x
  let next := legStarts s (governing s (s.tk.tick + 1)) s.run.nominal u
  (now ++ next).foldl (fun b x => match b with
    | some y => some (min x y)
    | none => some x) none |>.map (· - s.now)

/-- The latency tolerance of a unit in ns, if one applies (R353). -/
def toleranceOf (s : State) (u : UnitId) : Option Nat :=
  let lat := fun i => s.pw.lat.getD i 0 * 1000
  match u.kind with
  | 3 => some (min (min (lat 0) (lat 1)) (min (lat 2) (lat 3)))
  | 0x0F => some (min (lat 0) (lat 1))
  | _ => none

def wakeNs (state : Nat) : Nat := match state with
  | 1 => 50
  | 2 => 5000
  | 3 => 200000
  | _ => 0

/-- The deepest state that a unit may enter with a gap. -/
def idleState (s : State) (u : UnitId) (gap deepest : Nat) : Nat :=
  ((List.range deepest).map (· + 1)).foldl (fun b st =>
    let tolOk := match toleranceOf s u with
      | some t => wakeNs st ≤ t
      | none => true
    if tolOk && 2 * wakeNs st ≤ gap then st else b) 0

def idleOf (s : State) (u : UnitId) : Nat := tabGet 0 s.pw.idle (unitKey u)
def setIdle (u : UnitId) (st : Nat) (s : State) : State := { s with pw := { s.pw with idle := tabSet 0 s.pw.idle (unitKey u) st } }

/-- A unit that no open leg names enters its idle state. -/
def enterIdle (u : UnitId) (s : State) : State :=
  if s.run.legs.any fun o => namesUnit s o.uset u then s
  else match gapTo s u with
    | some g => setIdle u (idleState s u g 2) s
    | none => s

/-- A compute die whose 40 tiles are all idle enters I3 when every tile's gap allows it. -/
def enterDie (d : Nat) (s : State) : State :=
  let tiles := (List.range 40).map fun i => uTile (40 * d + i)
  if tiles.all fun u => !(s.run.legs.any fun o => namesUnit s o.uset u) && (match gapTo s u with
    | some g => decide (2 * wakeNs 3 ≤ g)
    | none => true) then setIdle ⟨2, d⟩ 3 s
  else s

/-- The units of a leg at its end. -/
def idleAfter (us : USet) (s : State) : State :=
  let units := usetUnits s us
  let s := units.foldl (fun s u => enterIdle u s) s
  let dies := ((units.filter fun u => u.kind == 1).map fun u => u.index / 40).dedup
  dies.foldl (fun s d => enterDie d s) s

/-- A unit is active again; a tile's die with it. -/
def wake (u : UnitId) (s : State) : State :=
  let s := setIdle u 0 s
  if u.kind = 1 then setIdle ⟨2, u.index / 40⟩ 0 s else s

end Sys2Proof.Machine
end

