-- ==== Sys2Proof/Machine/Export.lean ====
section
/-! DEFINITION. The export side of a snapshot (R204 to R209): its sections as far as they have been captured, the stream
units that are ready, the dies' cursors and export buffers. -/

namespace Sys2Proof.Machine

/-- 1 MiB: the unit of the stream. -/
def streamUnit : Nat := 0x100000

def unitsOf (n : Nat) : Nat := (n + streamUnit - 1) / streamUnit

/-- 64 MiB of export buffer for each die (R204). -/
def exportBuffer : Nat := 0x4000000

/-- An EARLY entry: 16 bytes, the record, padding to 64 (R207). -/
def earlyEntry (e : Nat × Nat × Nat × List Byte) : List Byte :=
  let (t, d, slot, rec_) := e
  let bs := leBytes 2 t ++ leBytes 1 d ++ leBytes 5 slot ++ leBytes 2 rec_.length ++ List.replicate 6 0 ++ rec_
  padTo ((bs.length + 63) / 64 * 64) bs

/-- Bytes of a section as far as they have been captured; `i` is its place in the list. Copies are read from the work area. -/
def sectionBytes (m : Mm) (n : Snapshot) (i : Nat) (c : Section) : List Byte :=
  match c.kind with
  | 4 => (n.walked.filter fun w => w.1 == c.num && w.2.1 == c.die).flatMap fun w => w.2.2.2
  | 9 => n.early.flatMap earlyEntry
  | _ => match n.copies.find? fun x => x.1 == i with
    | some x => memRead m x.2.1 x.2.2
    | none => ((n.tables.find? fun x => x.1 == i).map fun x => x.2).getD []

/-- Nothing more will be added to a section. -/
def sectionReady (n : Snapshot) (got : Nat) (c : Section) : Bool :=
  match c.kind with
  | 4 => got == c.length
  | 9 => n.walkDone == 15
  | _ => true

def numbered (n : Snapshot) : List (Nat × Section) := n.sections.zipIdx.map fun x => (x.2, x.1)

/-- Stream units of a section that are ready, by stream MiB: every full one, and the last of a section that is complete. -/
def readyUnits (m : Mm) (n : Snapshot) (x : Nat × Section) : List (Nat × List Byte) :=
  let bs := sectionBytes m n x.1 x.2
  let count := if sectionReady n bs.length x.2 then unitsOf bs.length else bs.length / streamUnit
  (List.range count).map fun j =>
    (x.2.offset / streamUnit + j, padTo streamUnit ((bs.drop (j * streamUnit)).take streamUnit))

/-- Every section is complete. -/
def streamWhole (m : Mm) (n : Snapshot) : Bool :=
  (numbered n).all fun x => sectionReady n (sectionBytes m n x.1 x.2).length x.2

/-- Stream MiB of the sections of a die, those of no die being die 0's, in stream order. -/
def dieUnits (n : Snapshot) (die : Nat) : List Nat :=
  (n.sections.filter fun c => c.kind != 9 && c.die == die).flatMap fun c =>
    (List.range (unitsOf c.length)).map (c.offset / streamUnit + ·)

/-- The length of the longest prefix whose writes have completed. -/
def donePrefix (done : List Nat) : List Nat → Nat
  | [] => 0
  | k :: ks => if done.contains k then donePrefix done ks + 1 else 0

/-- Stream MiB of the EARLY section's bytes [a, a + len), on from the section's start. -/
def earlyUnits (n : Snapshot) (a len : Nat) : List Nat :=
  let off := ((n.sections.find? fun c => c.kind == 9).map (·.offset)).getD 0
  (List.range (unitsOf (a + len) - a / streamUnit)).map (off / streamUnit + a / streamUnit + ·)

/-- Bytes of a die's captures ahead of writes whose stream writes have not all completed; `a` is where the next entry starts. -/
def earlyHeld (n : Snapshot) (die : Nat) : Nat → List (Nat × Nat × Nat × List Byte) → Nat
  | _, [] => 0
  | a, e :: es =>
    let len := (earlyEntry e).length
    (if e.2.1 == die && !((earlyUnits n a len).all fun k => n.doneMib.contains k) then len else 0) + earlyHeld n die (a + len) es

/-- Bytes captured into a die's export buffer and not yet written at the target. -/
def exportHeld (n : Snapshot) (die : Nat) : Nat :=
  let walked := ((n.walked.filter fun w => w.2.1 == die).map fun w => w.2.2.2.length).sum
  let records := n.sections.filter fun c => c.kind == 4 && c.die == die
  let gone := ((records.flatMap fun c => (List.range (unitsOf c.length)).map fun j =>
    if n.doneMib.contains (c.offset / streamUnit + j) then min streamUnit (c.length - j * streamUnit) else 0)).sum
  (walked - gone) + earlyHeld n die 0 n.early

/-- A capture of `bytes` finds room in a die's export buffer (R205). -/
def exportRoom (n : Snapshot) (die bytes : Nat) : Bool := decide (exportHeld n die + bytes ≤ exportBuffer)

/-- An operation that writes a row must capture its old record first (R90, R205). -/
def mustCapture (s : State) (table die slot : Nat) : Bool :=
  match s.snap with
  | some n => n.started && !n.exported.contains (table, die, slot)
  | none => false

end Sys2Proof.Machine
end

