-- ==== Sys2Proof/Machine/Update.lean ====
section
/-! DEFINITION. Update programs (R116 to R128): operations, their check, and a run over a row or a dense group. -/

namespace Sys2Proof.Machine

/-! ## Operation words and the program check (R120, R121, R127, R128) -/

def parseOp (w : Nat) : UpOp :=
  { op := w / 2 ^ 26, dst := w / 2 ^ 22 % 16, a := w / 2 ^ 16 % 64, b := w / 2 ^ 10 % 64, c := w / 2 ^ 4 % 64, md := w % 16 }

/-- Source operands an opcode takes from A, B and C (R121). -/
def opSources (op : Nat) : Nat :=
  match op with
  | 0x04 => 3 | 0x0C => 3 | 0x0D => 3
  | 0x01 => 2 | 0x02 => 2 | 0x03 => 2 | 0x05 => 2 | 0x08 => 2 | 0x09 => 2 | 0x0E => 2
  | _ => 1

def opListed (op : Nat) : Bool := 1 ≤ op && op ≤ 0x10

def operandListed (c : Nat) : Bool := c ≤ 4 || (8 ≤ c && c ≤ 37)

/-- Status 4 of R128 for one operation: its operands are allowed. -/
def opOperandsOk (o : UpOp) : Bool :=
  let n := opSources o.op
  operandListed o.a && (n < 2 || o.op == 0x0E || operandListed o.b) && (n < 3 || operandListed o.c) && o.dst ≤ 11 &&
    (o.op != 0x0E || (32 ≤ o.b && o.b ≤ 34)) && (o.op != 0x0F || (o.b % 16 ≤ 8 && o.b / 16 ≤ 2)) && (o.op != 0x10 || o.md ≤ 1)

/-- Fields that an operation does not use are zero (status 6 of R128). -/
def opUnusedZero (o : UpOp) : Bool :=
  let n := opSources o.op
  (2 ≤ n || o.op == 0x0F || o.b == 0) && (3 ≤ n || o.c == 0) && (o.op == 0x10 || o.md == 0)

def stateOfOperand (c : Nat) : Nat := if 2 ≤ c && c ≤ 4 then c - 1 else 0

/-- The highest state an operation names as a source or destination. -/
def opStateUse (o : UpOp) : Nat :=
  let n := opSources o.op
  max (max (stateOfOperand o.a) (if 1 ≤ o.dst && o.dst ≤ 3 then o.dst else 0))
    (max (if 2 ≤ n then stateOfOperand o.b else 0) (if 3 ≤ n then stateOfOperand o.c else 0))

/-- A program's state use (R128). -/
def progStateUse (p : Prog) : Nat := (p.ops.map opStateUse).foldl max 0

def progVersion (raw : List Byte) : Nat := leAt raw 0 2
def progLength (raw : List Byte) : Nat := byteAt raw 2

/-- The operations of a 160-byte entry. -/
def progOps (raw : List Byte) : List UpOp := (List.range (min 32 (progLength raw))).map fun k => parseOp (leAt raw (32 + 4 * k) 4)

def parseProg (raw : List Byte) : Prog := { raw, ops := progOps raw }

/-- The lowest status of R128 that an entry meets by itself; `conflict` is status 5. -/
def progStatus (raw : List Byte) (conflict : Prog → Bool) : Nat :=
  let ops := progOps raw
  if progVersion raw ≠ 1 then 1
  else if progLength raw = 0 || 32 < progLength raw then 2
  else if ops.any fun o => !opListed o.op then 3
  else if ops.any fun o => !opOperandsOk o then 4
  else if conflict (parseProg raw) then 5
  else if (ops.any fun o => !opUnusedZero o) || ((raw.drop 3).take 29).any (· != 0) ||
      ((raw.drop (32 + 4 * progLength raw)).take (128 - 4 * progLength raw)).any (· != 0) then 6
  else 0

/-! ## Running a program -/

/-- What a site supplies (R118): gradient, constants, latched scale, step, row step and DT, and the draw of each element. -/
structure UpEnv where
  g : List Word32
  k : List Word32
  scale : Word32
  gstep : Nat
  rowstep : Nat
  dt : Nat
  draw : Nat → Nat

/-- Registers by destination code; for a register last written by cvt, the format and stored bytes; the first NaN
result of each element, with whether an operand was NaN. -/
structure UpRun where
  regs : Tab (List Word32)
  kept : Tab (Nat × List Byte) := []
  written : List Nat := []
  firstNan : Tab (Nat × Bool) := []

def one32 : Word32 := 0x3F800000

/-- The value of an operand code as a vector of n elements. -/
def upOperand (env : UpEnv) (r : UpRun) (n c : Nat) : List Word32 :=
  let all := fun (w : Word32) => List.replicate n w
  if c = 0 then env.g
  else if c ≤ 4 then tabGet (all 0) r.regs (c - 1)
  else if c ≤ 15 then tabGet (all 0) r.regs (c - 4)
  else if c ≤ 31 then all (env.k.getD (c - 16) 0)
  else match c with
    | 32 => all (rne32 (fpNat env.gstep))
    | 33 => all (rne32 (fpNat env.rowstep))
    | 34 => all (rne32 (fpNat env.dt))
    | 35 => all env.scale
    | 37 => all one32
    | _ => all 0

/-- powstep of R122, over the bits of n from the highest set one down. -/
def powBits (x : Word32) (n : Nat) : Nat → Word32 → Word32
  | 0, r => r
  | i + 1, r =>
    let r := mul32 r r
    powBits x n i (if n.testBit i then mul32 r x else r)

def powstep (x : Word32) (n : Nat) : Word32 := if n = 0 then one32 else powBits x n (Nat.log2 n + 1) one32

def upExact (b : Nat) (env : UpEnv) : Nat := match b with | 32 => env.gstep | 33 => env.rowstep | _ => env.dt

/-- The sum of one block's present elements by a balanced tree over 32 positions (R123). -/
def blockSum (xs : List Word32) : Word32 := (treeFold add32 5 (xs ++ List.replicate (32 - xs.length) 0)).headD 0

def blocksOf (xs : List Word32) : List (List Word32) :=
  (List.range ((xs.length + 31) / 32)).map fun b => (xs.drop (32 * b)).take 32

/-- The mean over row scope (R123). -/
def rowMean (xs : List Word32) : Word32 :=
  let s := match (blocksOf xs).map blockSum with
    | [] => 0
    | h :: t => t.foldl add32 h
  div32 s (rne32 (fpNat xs.length))

def meanOp (block : Bool) (xs : List Word32) : List Word32 :=
  if block then (blocksOf xs).flatMap fun b => List.replicate b.length (div32 (blockSum b) (rne32 (fpNat b.length)))
  else List.replicate xs.length (rowMean xs)

/-- An element-wise operation of R121. -/
def upElem (op : Nat) (a b c : Word32) : Word32 :=
  let x := f32 a
  let y := f32 b
  let z := f32 c
  match op with
  | 0x01 => add32 a b
  | 0x02 => sub32 a b
  | 0x03 => mul32 a b
  | 0x04 => fma32 a b c
  | 0x05 => div32 a b
  | 0x06 => rne32 (fpSqrt x)
  | 0x07 => rne32 (fpRsqrt x)
  | 0x08 => rne32 (fpMin x y)
  | 0x09 => rne32 (fpMax x y)
  | 0x0A => rne32 (fpAbs x)
  | 0x0B => if fpLt (fpNat 0) x then one32 else if fpLt x (fpNat 0) then 0xBF800000 else rne32 x
  | 0x0C => rne32 (fpMin (fpMax x y) z)
  | _ => if fpLt (fpNat 0) x then rne32 y else rne32 z

/-- The result of an operation, and for cvt the stored bytes it stands for. -/
def upResult (env : UpEnv) (r : UpRun) (n : Nat) (o : UpOp) : List Word32 × Option (Nat × List Byte) :=
  let a := upOperand env r n o.a
  let b := upOperand env r n o.b
  let c := upOperand env r n o.c
  if o.op = 0x0E then (a.map fun x => powstep x (upExact o.b env), none)
  else if o.op = 0x0F then
    let fmt := o.b % 16
    let bytes := (encodeVec fmt (o.b / 16) env.draw (a.map f32)).1
    (decode32 fmt n bytes, some (fmt, bytes))
  else if o.op = 0x10 then (meanOp (o.md == 1) a, none)
  else ((List.range n).map fun i => upElem o.op (a.getD i 0) (b.getD i 0) (c.getD i 0), none)

/-- A NaN among the operands an element's result came from. -/
def upNanSource (env : UpEnv) (r : UpRun) (n : Nat) (o : UpOp) (i : Nat) : Bool :=
  let at_ := fun c => isNan32 ((upOperand env r n c).getD i 0)
  if o.op = 0x10 then
    let xs := upOperand env r n o.a
    (if o.md = 1 then (xs.drop (32 * (i / 32))).take 32 else xs).any isNan32
  else if o.op = 0x0E || o.op = 0x0F then at_ o.a
  else at_ o.a || (2 ≤ opSources o.op && at_ o.b) || (3 ≤ opSources o.op && at_ o.c)

/-- One operation, for every element before the next (R117). -/
def upStep (env : UpEnv) (n : Nat) (r : UpRun) (o : UpOp × Nat) : UpRun :=
  let (v, kept) := upResult env r n o.1
  let fresh := (List.range n).filter fun i => isNan32 (v.getD i 0) && (tabFind r.firstNan i).isNone
  { regs := tabPut r.regs o.1.dst v
    kept := match kept with
      | some k => tabPut r.kept o.1.dst k
      | none => tabDel r.kept o.1.dst
    written := o.1.dst :: r.written
    firstNan := fresh.foldl (fun t i => tabPut t i (o.2, upNanSource env r n o.1 i)) r.firstNan }

/-- A stored vector: format and bytes. -/
abbrev Stored := Nat × List Byte

/-- Run a program over n elements with the stored weight and states (R117, R125). -/
def runProgram (p : Prog) (env : UpEnv) (n : Nat) (vs : List Stored) : UpRun :=
  (p.ops.zipIdx).foldl (upStep env n) { regs := vs.zipIdx.map fun x => (x.2, decode32 x.1.1 n x.1.2) }

/-- The final store of vector v under R125, `round` being the flock's modes. -/
def finalStore (r : UpRun) (env : UpEnv) (round : List Nat) (v : Nat) (old : Stored) : List Byte :=
  if !r.written.contains v then old.2
  else match tabFind r.kept v with
    | some k => if k.1 = old.1 then k.2 else (encodeVec old.1 (round.getD v 0) env.draw ((tabGet [] r.regs v).map f32)).1
    | none => (encodeVec old.1 (round.getD v 0) env.draw ((tabGet [] r.regs v).map f32)).1

/-- Elements of W that are NaN before the store, each with OP_INDEX and CAUSE (R67, R126). -/
def weightNans (r : UpRun) (n : Nat) : List (Nat × Nat × Nat) :=
  ((List.range n).filter fun i => isNan32 ((tabGet [] r.regs 0).getD i 0)).map fun i =>
    if !r.written.contains 0 then (i, 0xFF, 1)
    else match tabFind r.firstNan i with
      | some (k, src) => (i, k, if src then 1 else 0)
      | none => (i, 0xFF, 1)

/-- A state element is NaN after the program, of an element that does not stay unchanged (R126). -/
def stateNan (r : UpRun) (count n : Nat) (keep : Nat → Bool) : Bool :=
  (List.range n).any fun i => !keep i && (List.range count).any fun k => isNan32 ((tabGet [] r.regs (k + 1)).getD i 0)

/-- A vector that keeps some elements of the old one (R126). -/
def mergeStored (fmt n : Nat) (old new : List Byte) (keep : Nat → Bool) : List Byte :=
  let codes := (List.range n).map fun i => elemCode fmt (if keep i then old else new) i
  let scales := if codeScaled fmt then
      (List.range ((n + 31) / 32)).map fun b => BitVec.ofNat 8 (byteAt (if keep (32 * b) then old else new) (elemBytes fmt n + b))
    else []
  packElems fmt codes ++ scales

/-- The detail of NAN_TRAP at an update site (R67). -/
def siteDetail (row site table elem flock prog opIndex unit cause : Nat) : List Byte :=
  leBytes 5 row ++ leBytes 1 site ++ leBytes 2 table ++ leBytes 2 elem ++ leBytes 1 flock ++ leBytes 1 prog ++
    leBytes 1 opIndex ++ leBytes 1 (unit + 16 * cause) ++ [0, 0]

end Sys2Proof.Machine
end

