-- ==== Sys2Proof/Machine/Rows.lean ====
section
/-! DEFINITION. Row units: records (R71 to R73), owners (R139, R158), paddock and pasture (R81 to R84), row home queues
(R85 to R88), poisoned and torn rows (R91, R109, R312), accumulator pools (R99 to R101) and the pre-image ring (R105). -/

namespace Sys2Proof.Machine

def getRu (s : State) (d : Nat) : RowUnit := tabGet {} s.ru d
def setRu (d : Nat) (r : RowUnit) (s : State) : State := { s with ru := tabPut s.ru d r }
def modRu (d : Nat) (f : RowUnit → RowUnit) (s : State) : State := setRu d (f (getRu s d)) s

def getTable (s : State) (t : Nat) : Option Table := tabFind s.tb.tables t

/-! ## Records (R71) -/

/-- Format and offset of the weight and state vectors from `off` on, and the end of the last. -/
def vecPlaces (width : Nat) : List Nat → Nat → List (Nat × Nat) × Nat
  | [], off => ([], off)
  | f :: fs, off =>
    let start := (off + 3) / 4 * 4
    let (r, e) := vecPlaces width fs (start + storedBytes f width)
    ((f, start) :: r, e)

def descVecs (d : Desc) : List (Nat × Nat) := (vecPlaces d.width (d.wFormat :: d.states) 16).1

/-- RECORD_BYTES: the trailer follows the last vector, up to a 64-byte boundary. -/
def recordBytes (d : Desc) : Nat := ((vecPlaces d.width (d.wFormat :: d.states) 16).2 + 1 + 63) / 64 * 64

/-- Bytes of the stored weight vector. -/
def weightBytes (d : Desc) : Nat := storedBytes d.wFormat d.width

def recVec (d : Desc) (rec : List Byte) (v : Nat × Nat) : List Byte := (rec.drop v.2).take (storedBytes v.1 d.width)

def recEpoch (rec : List Byte) : Nat := byteAt rec 0
def recTrailer (d : Desc) (rec : List Byte) : Nat := byteAt rec (recordBytes d - 1)
def recFlags (rec : List Byte) : Byte := rec.getD 1 0
def recPoisoned (rec : List Byte) : Bool := (recFlags rec).getLsbD 0

/-- Put bytes at an offset of a byte list. -/
def putAt (bs : List Byte) (off : Nat) (v : List Byte) : List Byte := bs.take off ++ v ++ bs.drop (off + v.length)

def setFlag (b : Byte) (i : Nat) (v : Bool) : Byte := if v then b ||| ((1 : Byte) <<< i) else b &&& ~~~ ((1 : Byte) <<< i)

/-- A record of new content: both epochs one above `epoch` (R73). -/
def withEpoch (d : Desc) (epoch : Nat) (rec : List Byte) : List Byte :=
  let e := [BitVec.ofNat 8 (epoch + 1)]
  putAt (putAt rec 0 e) (recordBytes d - 1) e

/-! ## Owners (R139, R158) -/

/-- The last handover of a position in force at a tick. -/
def handoverAt (s : State) (m k tick : Nat) : Option Handover :=
  (s.handovers.filter fun h => h.map == m && h.pos == k && (match h.switchTick with
    | some n => n ≤ tick
    | none => false)).getLast?

/-- Position k of a map at a tick. -/
def posAt (s : State) (m k tick : Nat) (p : Pos) : Pos :=
  match handoverAt s m k tick with
  | some h => { chip := h.newChip, die := h.newDie, slotBase := h.newBase }
  | none => p

/-- owner() of R139 at a tick: chip, die, slot and position. -/
def ownerAt (s : State) (m tick r : Nat) : Option (Nat × Nat × Nat × Nat) :=
  match s.job.exchange.maps[m]? with
  | none => none
  | some om =>
    let st := 2 ^ om.stripeLog2
    let n := om.pos.length
    let b := r / st
    let k := b % n
    match om.pos[k]? with
    | none => none
    | some p =>
      let p := posAt s m k tick p
      some (p.chip, p.die, p.slotBase + b / n * st + r % st, k)

/-- The row that a local slot of this module holds at a tick (the inverse of owner()). -/
def rowOfSlot (s : State) (d : Desc) (tick die slot : Nat) : Option Nat :=
  match s.job.exchange.maps[d.ownerMap]? with
  | none => none
  | some om =>
    let st := 2 ^ om.stripeLog2
    let n := om.pos.length
    om.pos.zipIdx.findSome? fun x =>
      let p := posAt s d.ownerMap x.2 tick x.1
      if p.chip = s.lg.chip && p.die = die && p.slotBase ≤ slot then
        let o := slot - p.slotBase
        let r := (o / st * n + x.2) * st + o % st
        if r < d.rowCount then some r else none
      else none

/-- The fold that work of a tick uses (R198, R199). -/
def foldAt (s : State) (t tick : Nat) : Nat :=
  match getTable s t with
  | none => 0
  | some tb =>
    let named := fun (l : List FoldTarget) => l.any fun x => x.kind == 0 && x.num == t
    let past := s.folds.releases.any fun r => r.1.kind == 0 && r.1.num == t && decide (tick < r.2)
    let future := match s.folds.switch with
      | some (n, l) => decide (n ≤ tick) && named l
      | none => false
    if past || future then 1 - tb.current else tb.current

/-! ## Where a record stands (R69, R82) -/

def foldBase (d : Desc) (fold die : Nat) : Nat := (if fold = 0 then d.foldA else d.foldB).getD die 0

def pastureAddr (d : Desc) (fold die slot : Nat) : Nat := foldBase d fold die + slot * recordBytes d

/-- Address of the tag line of a slot's set. -/
def tagLine (d : Desc) (die slot : Nat) : Nat :=
  d.paddock.getD die 0 + slot % 2 ^ d.sLog2 * (128 + 16 * recordBytes d)

def wayAddr (d : Desc) (die slot way : Nat) : Nat := tagLine d die slot + 128 + way * recordBytes d

def tagAddr (d : Desc) (die slot way : Nat) : Nat := tagLine d die slot + 4 * way

def tagEntry (s : State) (d : Desc) (die slot way : Nat) : Nat := memNat s.mm (tagAddr d die slot way) 4

def tagValid (e : Nat) : Bool := e.testBit 31
def tagRef (e : Nat) : Bool := e.testBit 30
def tagDirty (e : Nat) : Bool := e.testBit 29
def tagFold (e : Nat) : Nat := e / 2 ^ 28 % 2

def mkTag (d : Desc) (slot fold : Nat) (ref dirty : Bool) : Nat :=
  2 ^ 31 + (if ref then 2 ^ 30 else 0) + (if dirty then 2 ^ 29 else 0) + fold * 2 ^ 28 + slot / 2 ^ d.sLog2 % 2 ^ 28

/-- A write by a unit of the module. One that decodes to an error has no effect on memory and faults the job (R15). -/
def putMem (a : Nat) (bs : List Byte) (s : State) : State :=
  if devOk s.mm a bs.length then { s with mm := memWrite s.mm a bs } else requestHalt s

def setTag (d : Desc) (die slot way e : Nat) (s : State) : State := putMem (tagAddr d die slot way) (leBytes 4 e) s

/-- The way that holds a row, if it is resident. -/
def residentWay (s : State) (d : Desc) (fold die slot : Nat) : Option Nat :=
  if d.sLog2 = 0 then none
  else (List.range 16).find? fun w =>
    let e := tagEntry s d die slot w
    tagValid e && tagFold e == fold && e % 2 ^ 28 == slot / 2 ^ d.sLog2 % 2 ^ 28

/-- The current location of a row: its paddock copy or its pasture address (R87). -/
def locate (s : State) (d : Desc) (fold die slot : Nat) : Nat × Option Nat :=
  match residentWay s d fold die slot with
  | some w => (wayAddr d die slot w, some w)
  | none => (pastureAddr d fold die slot, none)

/-! ## Row home queues (R85, R88) -/

def homeQueue (t n : Nat) : Nat := ((t * 2 ^ 40) ^^^ n) * 0xD6E8FEB86659FD93 % 2 ^ 64 / 2 ^ 58

def opKey (o : RowOp) : Nat × Nat := (o.table, o.slot)

/-- A GRAD of another module is accepted when its ACCUMULATE enters the queue (R149). -/
def acceptGrad (o : RowOp) (s : State) : State :=
  if o.kind = .accumulate && o.src ≠ s.lg.chip then
    let t := o.tick % 65536
    let n := ((s.ex.gotCnt.find? fun c => c.1 == o.src && c.2.1 == t).map (·.2.2)).getD 0
    { s with ex := { s.ex with
        gotCnt := (o.src, t, n + 1) :: s.ex.gotCnt.filter fun c => !(c.1 == o.src && c.2.1 == t) } }
  else s

def queueOf (r : RowUnit) (q : Nat) : List RowOp := tabGet [] r.queues q

/-- Order of operations on one row that reach their queue in the same cycle (R88). -/
def opRank (k : OpKind) : Nat := match k with
  | .exportOp => 0
  | .handoverCopy => 0
  | .apply => 1
  | .repair _ => 1
  | .promote _ => 2
  | .demote _ _ => 2
  | .serveRead => 3
  | .lookup => 4
  | .accumulate => 5

/-- Enter a queue: at its end, but ahead of operations on the same row that reached it at the same instant and come later in
the order of R88 (log 64: one instant stands for one cycle). -/
def enterQueue (o : RowOp) : List RowOp → List RowOp
  | [] => [o]
  | x :: xs =>
    if opKey x = opKey o && x.since = o.since && !x.busy && opRank o.kind < opRank x.kind then o :: x :: xs
    else x :: enterQueue o xs

def intoQueue (d : Nat) (o : RowOp) (s : State) : State :=
  acceptGrad o (modRu d (fun r =>
    let q := homeQueue o.table o.slot
    { r with queues := tabSet [] r.queues q (enterQueue { o with since := s.now } (queueOf r q)) }) s)

/-- Operations a queue holds (R88). -/
def queueDepth : Nat := 2048

/-- An operation enters its queue, or waits at the input while the queue is full. -/
def enqueueOp (d : Nat) (o : RowOp) (s : State) : State :=
  let r := getRu s d
  let q := homeQueue o.table o.slot
  if (queueOf r q).length < queueDepth && !(r.input.any fun x => homeQueue x.table x.slot == q) then intoQueue d o s
  else modRu d (fun r => { r with input := r.input ++ [{ o with since := s.now }] }) s

/-- After an operation has left queue q: the next one waiting for it enters; its wait counts in cycles of 1.3 GHz. -/
def admitInput (d q : Nat) (s : State) : State :=
  let r := getRu s d
  match r.input.findIdx? fun x => homeQueue x.table x.slot == q with
  | none => s
  | some i =>
    match r.input[i]? with
    | none => s
    | some o =>
      if (queueOf r q).length < queueDepth then
        intoQueue d o (tallyBy tlHqFull ((s.now - o.since) * 13 / 10) (setRu d { r with input := r.input.eraseIdx i } s))
      else s

/-- Remove operation `i` of queue `q`. -/
def dropOp (d q i : Nat) (s : State) : State :=
  admitInput d q (modRu d (fun r => { r with queues := tabSet [] r.queues q ((queueOf r q).eraseIdx i) }) s)

/-- Bytes of an operation's record. -/
def opBytes (s : State) (o : RowOp) : Nat := (getTable s o.table).elim 0 fun t => recordBytes t.desc

/-- What an operation itself needs to start: one that captures its row waits while the die's export buffer is full (R205). -/
def opReady (s : State) (d : Nat) (o : RowOp) : Bool :=
  let captures := match o.kind with
    | .apply => mustCapture s o.table d o.slot
    | .repair _ => mustCapture s o.table d o.slot
    | .exportOp => true
    | _ => false
  !o.busy && (!captures || (match s.snap with
    | some n => exportRoom n d (opBytes s o + 64)
    | none => true))

/-- The operations of a queue that are the next of their row and ready (R86, R88). -/
def readyOps (s : State) (d : Nat) : List RowOp → List (Nat × Nat) → List RowOp
  | [], _ => []
  | o :: os, seen =>
    if seen.contains (opKey o) then readyOps s d os seen
    else if opReady s d o then o :: readyOps s d os (opKey o :: seen)
    else readyOps s d os (opKey o :: seen)

/-- TC1 first, then TC0, TC2 and TC3 (R88). -/
def classRank (cls : Nat) : Nat := match cls with
  | 1 => 0
  | 0 => 1
  | n => n

/-- The row unit serves `x` before `o`: a higher class, or older in the same one. -/
def servedBefore (x o : RowOp) : Bool :=
  classRank x.cls < classRank o.cls || (classRank x.cls == classRank o.cls && x.since < o.since)

/-- An operation may start when it is the next of its row and ready, no ready operation of its die comes before it (R86, R88),
and no recovery walk is owed (R112). -/
def startable (s : State) (d q i : Nat) : Option RowOp :=
  let r := getRu s d
  let l := queueOf r q
  match l[i]? with
  | none => none
  | some o =>
    if !opReady s d o || ((l.take i).any fun x => opKey x == opKey o) || !s.job.reloaded ||
        (r.queues.any fun e => (readyOps s d e.2 []).any fun x => servedBefore x o) then none
    else some o

/-! ## Events of rows -/

def seenTorn : Nat := 0
def seenPoisoned : Nat := 1
def seenSaturated : Nat := 2
def seenNan : Nat := 3

/-- Raise an event for the first such row of a die in the tick. -/
def firstOnDie (d bit_ : Nat) (f : State → State) (s : State) : State :=
  let r := getRu s d
  if r.seen.getLsbD bit_ then s else f (setRu d { r with seen := r.seen ||| (1 <<< bit_) } s)

def rowDetail (row die table : Nat) : List Byte := leBytes 5 row ++ leBytes 1 die ++ leBytes 2 table

/-- A poisoned line met in a row (R312). -/
def notePoisoned (d : Nat) (o : RowOp) (line : Nat) (s : State) : State :=
  firstOnDie d seenPoisoned (raise evRowPoisoned sevDegrade (uMd d) (rowDetail o.row d o.table ++ leBytes 8 line))
    (tally tlRowPoisoned s)

/-- A torn row found outside recovery (R109). -/
def noteTorn (d : Nat) (o : RowOp) (s : State) : State :=
  let s := modRu d (fun r => { r with tornTick := r.tornTick + 1 }) (tally tlRowTorn s)
  firstOnDie d seenTorn (raise evRowTorn sevDegrade (uMd d) (rowDetail o.row d o.table ++ leBytes 4 1 ++ leBytes 1 0)) s

/-- Parity codes of R314 for an address: memory, device and pseudo-channel. -/
def memoryCodes (m : Mm) (a : Nat) : Nat × Nat × Nat × Nat :=
  match decodeAddr m a with
  | .mem d p _ => if p < 96 then (d, 0, 3 * d + p / 32, p) else (d, 1, 8 * d + (p - 96) / 4, p)
  | _ => (0, 0, 0, 0)

def parityMemDetail (addr mem device pc source content : Nat) : List Byte :=
  leBytes 8 addr ++ leBytes 1 mem ++ leBytes 1 device ++ leBytes 1 pc ++ leBytes 1 source ++ leBytes 1 content

/-- MM_LAST_ERR of a die (R322): the line of its last PARITY_MEM. -/
def noteLastErr (d addr mem source pc : Nat) (s : State) : State :=
  { s with mm := { s.mm with dies := tabPut s.mm.dies d { mmDie s.mm d with
    errAddr := addr, errMemory := mem, errSource := source, errPc := pc } } }

/-- A poisoned line in a row unit's own structures, or in dense data that a link group or a digest engine reads: the job
halts with PARITY_MEM severity FAULT (R312). `content` as in R314. -/
def structPoison (content line : Nat) (s : State) : State :=
  let (d, mem, dev, pc) := memoryCodes s.mm line
  let s := noteLastErr d line mem 0 pc s
  requestHalt (raise evParityMem sevFault (uMd d) (parityMemDetail line mem dev pc 0 content) s)

/-! ## Reading a record -/

/-- What a whole-record read finds. -/
inductive RecRead where
  | poisoned
  | torn
  | good (rec : List Byte)
  deriving DecidableEq, Repr

/-- A hit sets REF (R82). -/
def hitRef (d : Desc) (die slot : Nat) (way : Option Nat) (s : State) : State :=
  match way with
  | some w =>
    let e := tagEntry s d die slot w
    if tagRef e then s else setTag d die slot w (e + 2 ^ 30) s
  | none => s

/-- Set DIRTY of a way. -/
def setDirty (d : Desc) (die slot way : Nat) (s : State) : State :=
  let e := tagEntry s d die slot way
  if tagDirty e then s else setTag d die slot way (e + 2 ^ 29) s

/-- Writes due to a record: all of them wait for the index block in tick-atomic mode. -/
abbrev Writes := List (Nat × List Byte)

def doWrites (ws : Writes) (s : State) : State := ws.foldl (fun s w => putMem w.1 w.2 s) s

/-- Read a record for an operation (R91, R109, R312): what it finds, and the masked header write that marks it POISONED. A
record at an address that decodes to an error faults the job (R15). -/
def readRecord (die : Nat) (o : RowOp) (d : Desc) (loc : Nat) (s : State) : RecRead × Writes × State :=
  let s := if devOk s.mm loc (recordBytes d) then s else requestHalt s
  let rec_ := memRead s.mm loc (recordBytes d)
  let mark : Writes := [(loc + 1, [setFlag (recFlags rec_) 0 true])]
  match poisonIn s.mm loc (recordBytes d) with
  | some line => (.poisoned, if linePoisoned s.mm (loc / 64) then [] else mark, notePoisoned die o line s)
  | none =>
    if recPoisoned rec_ then (.poisoned, [], s)
    else if recEpoch rec_ ≠ recTrailer d rec_ then (.torn, mark, noteTorn die o s)
    else (.good rec_, [], s)

/-- The header write that marks a row POISONED, with DIRTY of its way, so that the mark is not lost with the paddock copy
(R84, R109). -/
def markPoisoned (d : Desc) (die slot : Nat) (way : Option Nat) (ws : Writes) (s : State) : State :=
  let s := doWrites ws s
  match way with
  | some w => if ws.isEmpty then s else setDirty d die slot w s
  | none => s

/-- A poisoned line of the tag line of a slot's set (R312). -/
def tagPoison (s : State) (d : Desc) (die slot : Nat) : Option Nat :=
  if d.sLog2 = 0 then none else poisonIn s.mm (tagLine d die slot) 128

/-! ## Touched lists -/

/-- A touched-list entry as it stands in HBM3E (R101). -/
def touchedBytes (e : Touched) : List Byte :=
  leBytes 5 e.row ++ leBytes 1 (bitNat e.nan) ++ leBytes 2 e.table ++ leBytes 8 e.guard ++ leBytes 4 e.slotOff ++ List.replicate 12 0

def genOf (r : RowUnit) (step : Nat) : Gen := r.gens.getD (step % 2) {}
def setGen (step : Nat) (g : Gen) (r : RowUnit) : RowUnit := { r with gens := r.gens.set (step % 2) g }

def uncommitted (s : State) (g : Gen) : Bool := match g.step with
  | some st => afterCommit s st
  | none => false

/-- The row is on an uncommitted touched list of the die (R83). -/
def touchedOpen (s : State) (d table slot : Nat) : Bool :=
  (getRu s d).gens.any fun g => uncommitted s g && g.touched.any fun e => e.table == table && e.slot == slot

/-- The row is on the touched list of an APPLY leg that has started and not committed (R84). -/
def applyOpen (s : State) (d table slot : Nat) : Bool :=
  s.commit.openStep != allOnes && (getRu s d).gens.any fun g =>
    g.step == some s.commit.openStep && g.touched.any fun e => e.table == table && e.slot == slot

/-! ## The tier controller (R83) -/

def setRefOff (d : Desc) (die slot way : Nat) (s : State) : State :=
  let e := tagEntry s d die slot way
  setTag d die slot way (e - (if tagRef e then 2 ^ 30 else 0)) s

/-- The slot that a way's tag names, in the set of `slot`. -/
def victimSlot (d : Desc) (slot e : Nat) : Nat := e % 2 ^ 28 * 2 ^ d.sLog2 + slot % 2 ^ d.sLog2

/-- The row that a way holds is poisoned: its POISONED is set, or its header's line is poisoned (R91, R312). -/
def wayPoisoned (s : State) (d : Desc) (die slot way : Nat) : Bool :=
  let a := wayAddr d die slot way
  (memByte s.mm (a + 1)).getLsbD 0 || linePoisoned s.mm (a / 64)

/-- A migrate into or out of a way is on its way (log 24). -/
def wayBusy (s : State) (d : Desc) (die table slot way : Nat) : Bool :=
  let r := getRu s die
  let hit := fun (o : RowOp) => o.table == table && o.slot % 2 ^ d.sLog2 == slot % 2 ^ d.sLog2 && (match o.kind with
    | .promote w => w == way
    | .demote w _ => w == way
    | _ => false)
  r.queues.any (fun q => q.2.any hit) || r.input.any hit || r.heldMig.any hit

/-- The clock of R83 over the steps left: the way taken. A way whose row is poisoned is passed over: no migrate is issued for it
(R91). -/
def clockHand (d : Desc) (die table slot fold : Nat) : Nat → Nat → State → Option Nat × State
  | 0, _, s => (none, s)
  | n + 1, w, s =>
    let w := w % 16
    let e := tagEntry s d die slot w
    let take := fun (s : State) => (some w, putMem (tagLine d die slot + 64) [BitVec.ofNat 8 ((w + 1) % 16)] s)
    if wayBusy s d die table slot w || (tagValid e && wayPoisoned s d die slot w) then clockHand d die table slot fold n (w + 1) s
    else if !tagValid e || tagFold e ≠ fold then take s
    else if touchedOpen s die table (victimSlot d slot e) then clockHand d die table slot fold n (w + 1) s
    else if tagRef e then clockHand d die table slot fold n (w + 1) (setRefOff d die slot w s)
    else take s

def promoteOp (table row slot tick fold way : Nat) : RowOp :=
  { kind := .promote way, table, row, slot, cls := 3, tick, fold }

/-- Choose a victim way and enqueue the demote or the promote. -/
def choosePromote (d : Desc) (die : Nat) (o : RowOp) (s : State) : State :=
  let fold := (getTable s o.table).elim 0 (·.current)
  let hand := (memByte s.mm (tagLine d die o.slot + 64)).toNat
  match clockHand d die o.table o.slot fold 16 hand s with
  | (none, s) => tally tlPromoteAbandoned s
  | (some w, s) =>
    let e := tagEntry s d die o.slot w
    if tagValid e then
      let vs := victimSlot d o.slot e
      enqueueOp die { kind := .demote w (some (o.row, o.slot)), table := o.table, row := (rowOfSlot s d s.tk.tick die vs).getD 0,
                      slot := vs, cls := 3, tick := s.tk.tick, fold := tagFold e } s
    else enqueueOp die (promoteOp o.table o.row o.slot s.tk.tick fold w) s

/-- A promotion of the row is already under way (log 24). -/
def promoting (s : State) (die table slot : Nat) : Bool :=
  let r := getRu s die
  let hit := fun (o : RowOp) => o.table == table && (match o.kind with
    | .promote _ => o.slot == slot
    | .demote _ (some x) => x.2 == slot
    | _ => false)
  r.queues.any (fun q => q.2.any hit) || r.input.any hit || r.heldMig.any fun o => o.table == table && o.slot == slot

/-- Promote a row, or hold the promotion until the commit (R84). Residency is that of the current fold: a read of the fold that
a switch has replaced promotes nothing (R82, R199). -/
def tryPromote (d : Desc) (die : Nat) (o : RowOp) (s : State) : State :=
  if promoting s die o.table o.slot || (getTable s o.table).elim true (fun t => t.current != o.fold) ||
      (residentWay s d o.fold die o.slot).isSome then s
  else if applyOpen s die o.table o.slot then modRu die (fun r => { r with heldMig := r.heldMig ++ [o] }) s
  else choosePromote d die o s

/-- The ACCESS and AGE update of a read (R81), with the promotion it may trigger (R83). -/
def touchAccess (d : Desc) (die : Nat) (o : RowOp) (loc : Nat) (way : Option Nat) (rec_ : List Byte) (s : State) : State :=
  let age := (getRu s die).age
  let dd := (age + 65536 - leAt rec_ 12 2) % 65536
  let acc := min (byteAt rec_ 3 / 2 ^ min dd 8 + 1) 255
  let s := putMem (loc + 12) (leBytes 2 age) (putMem (loc + 3) [BitVec.ofNat 8 acc] s)
  match way with
  | some _ => s
  | none => if d.promoteAt ≠ 0 && d.sLog2 ≠ 0 && d.promoteAt ≤ acc then tryPromote d die o s else s

/-- A read by LOOKUP or SERVE_READ: the weight vector, or none when the row reads as zeros. -/
def readRow (d : Desc) (die : Nat) (o : RowOp) (s : State) : Option (List Byte) × State :=
  match tagPoison s d die o.slot with
  | some line => (none, structPoison 3 line s)
  | none =>
    let (loc, way) := locate s d o.fold die o.slot
    let (r, ws, s) := readRecord die o d loc (hitRef d die o.slot way s)
    let s := markPoisoned d die o.slot way ws s
    match r with
    | .good rec_ => (some ((rec_.drop 16).take (weightBytes d)), touchAccess d die o loc way rec_ s)
    | _ => (none, s)

/-! ## Contributions (R93 to R95) -/

/-- q of an element: value, clamped, underflow, NaN (R94). -/
structure Fixed where
  q : Int
  clamped : Bool := false
  under : Bool := false
  nan : Bool := false
  deriving DecidableEq, Repr

def maxFixed : Int := 2 ^ 47 - 1

def fixedOf (e : Int) (x : Word32) : Fixed :=
  match f32 x with
  | .nan => { q := 0, nan := true }
  | .inf n => { q := if n then -maxFixed else maxFixed, clamped := true }
  | .fin n m x =>
    let t : Int := ((roundUnits 0 0 m (x - e) 0).1 : Nat)
    if m ≠ 0 && t = 0 then { q := 0, under := true }
    else if maxFixed < t then { q := if n then -maxFixed else maxFixed, clamped := true }
    else { q := if n then -t else t }

/-- Signed value of a stored 48-bit element. -/
def signed48 (n : Nat) : Int := if n < 2 ^ 47 then n else (n : Int) - 2 ^ 48

/-- Bytes of a slot's elements, and its share of the generation (R100). -/
def slotBytes (width : Nat) : Nat := (width * 6 + 63) / 64 * 64

/-- Address of a slot (log 23). -/
def slotAddress (r : RowUnit) (step off : Nat) : Nat := r.poolBase + step % 2 * (r.poolSize / 2) + 64 * off

/-- Add the q of elements `first` on into a slot. -/
def addElems (a first : Nat) (qs : List Int) (s : State) : State :=
  (qs.zipIdx).foldl (fun s x =>
    let p := a + 6 * (first + x.2)
    putMem p (leBytes 6 (((memNat s.mm p 6 : Int) + x.1) % 2 ^ 48).toNat) s) s

/-- G: the elements of a slot × 2^E, in FP32 (R96). -/
def slotGrad (s : State) (a width : Nat) (e : Int) : List Word32 :=
  (List.range width).map fun j =>
    let v := signed48 (memNat s.mm (a + 6 * j) 6)
    rne32 (.fin (v < 0) v.natAbs e)

/-- The steps the timetable form allows to be open (R102). -/
def openSteps (s : State) : List Nat :=
  if formOf s = 1 && 0 < s.tk.step then [s.tk.step, s.tk.step - 1] else [s.tk.step]

/-- A contribution to a step by a RETURN leg of a tick is stale (R102). -/
def staleGrad (s : State) (step tick16 : Nat) : Bool :=
  !running s || !(openSteps s).contains step || s.commit.openStep == step || s.run.applyEnded == some step ||
    s.commit.step == step && s.commit.valid ||
    s.run.abandoned.any fun a => a.1 == step && a.2 % 65536 == tick16 ||
    s.run.applyStep == some step

/-! ## The pre-image ring -/

/-- Write to a die's ring at an offset, in 64-byte pieces that wrap (R105). -/
def ringWrite (r : RowUnit) : Nat → Nat → List Byte → State → State
  | 0, _, _, s => s
  | n + 1, off, bs, s =>
    if bs.isEmpty then s
    else ringWrite r n (off + 64) (bs.drop 64) (putMem (r.ringBase + off % r.ringSize) (bs.take 64) s)

def ringPut (r : RowUnit) (off : Nat) (bs : List Byte) (s : State) : State := ringWrite r (bs.length / 64 + 1) off bs s

/-- Read `n` bytes of a ring. -/
def ringRead (s : State) (r : RowUnit) (off n : Nat) : List Byte :=
  (List.range ((n + 63) / 64)).flatMap fun i => memRead s.mm (r.ringBase + (off + 64 * i) % r.ringSize) 64

/-- An index block (R105). -/
def indexBlock (seq : Nat) (rows : List (Nat × Nat × Nat × Nat × Bool)) : List Byte :=
  let entry := fun (x : Nat × Nat × Nat × Nat × Bool) =>
    leBytes 8 (x.2.1 / 64 % 2 ^ 42 + x.2.2.1 / 64 % 512 * 2 ^ 42 + x.2.2.2.1 % 4096 * 2 ^ 51 + 2 ^ 63)
  let b := leBytes 8 seq ++ padTo 48 (rows.flatMap entry)
  b ++ leBytes 8 (crc64 b).toNat

end Sys2Proof.Machine
end

