-- ==== Sys2Proof/Machine/Stream.lean ====
section
/-! DEFINITION. The snapshot stream (R205, R207 to R209): the writes it issues, the manifest, and voiding. -/

namespace Sys2Proof.Machine

/-- Where stream MiB k goes: extent, and MiB from the extent's start (R207). -/
def mibPlace (n : Snapshot) (k : Nat) : Nat × Nat := (k % n.extents.length, 1 + k / n.extents.length)

/-- Lengths of the sections, EARLY as it has ended. -/
def finalSections (n : Snapshot) : List Section :=
  n.sections.map fun c => if c.kind = 9 then { c with length := (n.early.flatMap earlyEntry).length } else c

def sectionEntry (c : Section) : List Byte :=
  leBytes 1 c.kind ++ leBytes 1 c.die ++ leBytes 2 c.num ++ List.replicate 4 0 ++ leBytes 8 c.offset ++ leBytes 8 c.length ++ List.replicate 8 0

/-- The manifest (R208). -/
def manifest (s : State) (n : Snapshot) : List Byte :=
  let secs := finalSections n
  let bytes := ((secs.getLast?).map fun c => c.offset + c.length).getD 0
  let head := [0x41, 0x5A, 0x39, 0x36, 0x53, 0x4E, 0x41, 0x50] ++ leBytes 2 1 ++ leBytes 2 secs.length ++ List.replicate 4 0 ++
    leBytes 8 n.id ++ leBytes 8 n.tick ++ leBytes 8 n.commitStep ++ leBytes 2 s.lg.chip ++ leBytes 1 n.extents.length ++
    leBytes 1 ((if s.commit.tickAtomic then 1 else 0) + (if n.bellwether then 2 else 0)) ++ List.replicate 4 0 ++
    padTo 32 n.planDigest ++ leBytes 8 bytes ++ List.replicate 32 0
  let ents := secs.flatMap sectionEntry
  head ++ leBytes 8 (crc64 (head ++ ents)).toNat ++ ents

/-- Void a snapshot (R209, R210); the STATUS its SNAPSHOT_START completes with is not stated: a free value (log 28). -/
def voidSnapshot (cause extent : Nat) (s : State) : State :=
  match s.snap with
  | none => s
  | some n =>
    let s := raise evSnapshotAborted sevDegrade uModule
      (leBytes 8 n.id ++ leBytes 1 cause ++ leBytes 1 extent ++ leBytes 6 n.doneMib.length) { s with snap := none }
    match s.hq.started.find? fun c => c.opcode == 0x0040 && c.slot == n.slot && c.tag == n.tag with
    | some c => let (w, s) := freeWord s; finishStarted c (w.toNat % 65536) [] s
    | none => s

/-- A poisoned line in the work area voids the snapshot (R312). -/
def workPoisoned (s : State) (n : Snapshot) : Bool := n.copies.any fun c => (poisonIn s.mm c.2.1 c.2.2).isSome

/-- Every stream write has been issued and has completed (R208). -/
def allWritten (s : State) (n : Snapshot) : Bool :=
  streamWhole s.mm n && ((numbered n).flatMap (readyUnits s.mm n)).all fun u => n.doneMib.contains u.1

/-- Issue the stream writes that are ready; the manifest goes last, once every one of them has completed (R208). -/
def pumpStream (s : State) : State :=
  match s.snap with
  | none => s
  | some n =>
    if n.paused || !n.copied then s
    else if workPoisoned s n then voidSnapshot 1 0xFF s
    else
      let due := ((numbered n).flatMap (readyUnits s.mm n)).filter fun u => !n.issued.contains u.1
      let s := due.foldl (fun s u =>
        let (x, m) := mibPlace n u.1
        emit (.nvmeWrite x m u.2) s) s
      let n := { n with issued := n.issued ++ due.map (·.1) }
      if !n.manifestOut && allWritten s n then emit (.nvmeManifest (manifest s n)) { s with snap := some { n with manifestOut := true } }
      else { s with snap := some n }

end Sys2Proof.Machine
end

