-- ==== Sys2Proof/Machine/Exch.lean ====
section
/-! DEFINITION. The sparse exchange (R142 to R149): leg tags, end-to-end windows, packing and answering rows, sending
contributions, acceptance, and BULK streams (R168). -/

namespace Sys2Proof.Machine

/-! ## Tick numbers -/

/-- The tick nearest the current one with the given low 16 bits (R142). -/
def expandTick (s : State) (t16 : Nat) : Nat :=
  let d := (t16 + 65536 - s.tk.tick % 65536) % 65536
  if d < 32768 then s.tk.tick + d else s.tk.tick - (65536 - d)

/-- The open or current step with the given low 32 bits. -/
def expandStep (s : State) (st32 : Nat) : Nat :=
  ((openSteps s).find? fun st => st % 2 ^ 32 == st32).getD (s.tk.step / 2 ^ 32 * 2 ^ 32 + st32)

/-! ## Counts per chip and tick -/

abbrev Counts := List (Nat × Nat × Nat)

def countOf (c : Counts) (chip t : Nat) : Nat := ((c.find? fun x => x.1 == chip && x.2.1 == t).map (·.2.2)).getD 0

def countSet (c : Counts) (chip t n : Nat) : Counts := (chip, t, n) :: c.filter fun x => !(x.1 == chip && x.2.1 == t)

def countChip (c : Counts) (chip : Nat) : Nat := ((c.filter fun x => x.1 == chip).map (·.2.2)).sum

def countTick (c : Counts) (t : Nat) : Nat := ((c.filter fun x => x.2.1 == t).map (·.2.2)).sum

/-- Drop what belongs to ticks long past, so that a TICK16 names one tick. -/
def pruneEx (s : State) : State :=
  let near := fun (t : Nat) => decide (expandTick s t + 64 > s.tk.tick)
  { s with ex := { s.ex with
      sentCnt := s.ex.sentCnt.filter fun c => near c.2.1
      accCnt := s.ex.accCnt.filter fun c => near c.2.1
      gotCnt := s.ex.gotCnt.filter fun c => near c.2.1
      toldCnt := s.ex.toldCnt.filter fun c => near c.2.1
      replies := s.ex.replies.filter fun r => near r.tick16
      seqs := s.ex.seqs.filter fun c => near c.1 } }

/-! ## End-to-end windows (R147) -/

/-- The window a carriage falls under: 0 TC0 IDX, 1 TC1 IDX, 2 GRAD and DENSE. -/
def windowKind (c : Carriage) : Option Nat :=
  match c.body with
  | .idx _ => some (if c.cls = 1 then 1 else 0)
  | .grad _ => some 2
  | .dense _ => some 2
  | _ => none

def windowLimit (k : Nat) : Nat := if k = 0 then 1024 else if k = 1 then 256 else 512

/-- Entries of the carriage that the window counts. -/
def windowCost (c : Carriage) : Nat := match c.body with
  | .idx m => m.entries.length
  | _ => 1

/-- IDX entries sent and not answered: replies still held at the window do not count. -/
def heldEntries (s : State) (dest cls : Nat) : Nat :=
  ((s.ex.heldOut.filter fun c => c.dest == dest && windowKind c == some cls).map windowCost).sum

/-- What a chip has accepted beyond what was sent to it: carriages that an old owner forwarded (R159). -/
def surplus (s : State) (chip : Nat) : Nat :=
  ((s.ex.accCnt.filter fun c => c.1 == chip).map fun c => c.2.2 - countOf s.ex.sentCnt chip c.2.1).sum

/-- New owners to which a chip forwards what comes for a position it had (R159). -/
def newOwnersOf (s : State) (chip : Nat) : List Nat :=
  ((s.handovers.filter fun h => h.oldChip == chip && h.newChip != chip && h.switchTick.isSome).map (·.newChip)).dedup

def windowUsed (s : State) (dest k : Nat) : Nat :=
  if k = 2 then
    ((s.ex.sentCnt.filter fun c => c.1 == dest).map fun c => c.2.2 - countOf s.ex.accCnt dest c.2.1).sum -
      ((newOwnersOf s dest).map (surplus s)).sum
  else (s.ex.replies.countP fun r => r.chip == dest && r.cls == k) - heldEntries s dest k

/-- TICK16 of a GRAD or DENSE carriage. -/
def carriageTick (c : Carriage) : Nat := match c.body with
  | .grad m => m.tick16
  | .dense m => m.tick16
  | _ => 0

def launch (c : Carriage) (s : State) : State :=
  let s := if windowKind c = some 2 then
      let t := carriageTick c
      { s with ex := { s.ex with sentCnt := countSet s.ex.sentCnt c.dest t (countOf s.ex.sentCnt c.dest t + 1) } }
    else s
  route c none s

/-- Send a carriage to another chip, or hold it at its window. -/
def sendWindowed (c : Carriage) (s : State) : State :=
  match windowKind c with
  | none => route c none s
  | some k =>
    let behind := s.ex.heldOut.any fun h => h.dest == c.dest && windowKind h == some k
    let used := if k = 2 then windowUsed s c.dest k else windowUsed s c.dest k - windowCost c
    if behind || windowLimit k < used + windowCost c then { s with ex := { s.ex with heldOut := s.ex.heldOut ++ [c] } }
    else launch c s

/-- Send what the windows now let go, in order for each destination and window. -/
def releaseFuel : Nat → State → State
  | 0, s => s
  | n + 1, s =>
    let fits := fun (c : Carriage) => match windowKind c with
      | some k => decide (windowUsed s c.dest k + windowCost c ≤ windowLimit k)
      | none => true
    let first := fun (i : Nat) (c : Carriage) =>
      !((s.ex.heldOut.take i).any fun h => h.dest == c.dest && windowKind h == windowKind c)
    match s.ex.heldOut.zipIdx.find? fun x => first x.2 x.1 && fits x.1 with
    | none => s
    | some (c, i) => releaseFuel n (launch c { s with ex := { s.ex with heldOut := s.ex.heldOut.eraseIdx i } })

def releaseWindows (s : State) : State := releaseFuel s.ex.heldOut.length s

def carriageTo (s : State) (cls dest lg : Nat) (body : Body) : Carriage :=
  { cls, hops := 0, loc := false, dest, lg, src := s.lg.chip, body }

/-! ## Requests (R144) -/

def nextSeq (s : State) (t16 leg chip : Nat) : Nat :=
  ((s.ex.seqs.find? fun x => x.1 == t16 && x.2.1 == leg && x.2.2.1 == chip).map (·.2.2.2)).getD 0

def setSeq (t16 leg chip n : Nat) (s : State) : State :=
  { s with ex := { s.ex with
      seqs := (t16, leg, chip, n) :: s.ex.seqs.filter fun x => !(x.1 == t16 && x.2.1 == leg && x.2.2.1 == chip) } }

/-- Send the unique rows of a batch that one chip owns, 32 to a carriage, in unique-list order. -/
def sendIdxFuel (b : Batch) (chip : Nat) : Nat → List (Nat × Uniq) → State → State
  | 0, _, s => s
  | n + 1, us, s =>
    if us.isEmpty then s
    else
      let part := us.take 32
      let t16 := b.tick % 65536
      let cls := if b.serve then 1 else 0
      let seq := nextSeq s t16 b.leg chip
      let reps := part.zipIdx.map fun x =>
        ({ tick16 := t16, leg := b.leg, chip, seq := seq + x.2, batch := b.id, slot := x.1.1, cls } : Reply)
      let body := Body.idx { tick16 := t16, leg := b.leg, firstSeq := seq,
                             entries := part.map fun x => { row := x.2.row, table := x.2.table, die := x.2.die } }
      let s := setSeq t16 b.leg chip (seq + part.length) { s with ex := { s.ex with replies := s.ex.replies ++ reps } }
      sendIdxFuel b chip n (us.drop 32) (sendWindowed (carriageTo s cls chip 0 body) s)

/-- A read operation for a row of this module. -/
def readOp (s : State) (serve : Bool) (tick leg table row slot : Nat) : RowOp :=
  { kind := if serve then .serveRead else .lookup, table, row, slot, cls := if serve then 1 else 0, tick, leg,
    fold := foldAt s table tick }

/-- Send a batch's unique list: own rows to the row unit, the others to their owners. -/
def sendBatch (b : Batch) (s : State) : State :=
  let us := b.unique.zipIdx.map fun x => (x.2, x.1)
  let chips := (us.map fun x => x.2.chip).dedup
  chips.foldl (fun s chip =>
    let mine := us.filter fun x => x.2.chip == chip
    if chip = s.lg.chip then
      mine.foldl (fun s x =>
        enqueueOp x.2.die { readOp s b.serve b.tick b.leg x.2.table x.2.row x.2.slot with
          batch := some (b.id, x.1), src := chip } s) s
    else sendIdxFuel b chip (mine.length / 32 + 1) mine s) s

/-! ## Answers -/

def tableWidthBytes (s : State) (t : Nat) : Nat := (getTable s t).elim 0 fun x => weightBytes x.desc

/-- Stored bytes of a row in a ROW payload (R142). -/
def rowStride (w : Nat) : Nat := (w + 3) / 4 * 4

/-- All unique rows of a batch have been returned. -/
def batchFull (b : Batch) : Bool :=
  b.unique.zipIdx.all fun x => match tabFind b.got x.2 with
    | some g => g.parts == 0
    | none => false

def modBatch (id : Nat) (f : Batch → Batch) (s : State) : State :=
  { s with ex := { s.ex with batches := s.ex.batches.map fun b => if b.id = id then f b else b } }

/-- Parts a row of `w` stored bytes takes in ROW carriages. -/
def rowParts (w : Nat) : Nat := (rowStride w + 255) / 256

/-- One row, or one part of it, has come for a unique slot of a batch; `parts` counts the parts still missing. -/
def gotRow (id slot part : Nat) (bytes : List Byte) (zeroed : Bool) (s : State) : State :=
  match s.ex.batches.find? fun b => b.id == id with
  | none => s
  | some b =>
    match b.unique[slot]? with
    | none => s
    | some u =>
      let w := tableWidthBytes s u.table
      let old := (tabFind b.got slot).getD { bytes := List.replicate w 0, zeroed := false, parts := rowParts w }
      let g : Got := { bytes := (putAt old.bytes (256 * part) bytes).take w, zeroed := old.zeroed || zeroed, parts := old.parts - 1 }
      let b := { b with got := tabPut b.got slot g }
      modBatch id (fun _ => { b with ready := batchFull b }) s

/-- A whole row for a unique slot of a local batch. -/
def gotWhole (id slot : Nat) (bytes : List Byte) (zeroed : Bool) (s : State) : State :=
  match s.ex.batches.find? fun b => b.id == id with
  | none => s
  | some b =>
    let b := { b with got := tabPut b.got slot { bytes, zeroed, parts := 0 } }
    modBatch id (fun _ => { b with ready := batchFull b }) s

/-! ## Packing rows at an owner (R145) -/

def sendOpenRow (r : OpenRow) (s : State) : State :=
  route (carriageTo s r.cls r.dest 0 (.row {
    tick16 := r.tick16, leg := r.leg, rows := r.rows, firstSeq := r.firstSeq, part := 0,
    zeroed := r.zeroed, payload := padTo 256 r.payload })) none s

def isOpenFor (dest cls : Nat) (r : OpenRow) : Bool := r.dest == dest && r.cls == cls

def dropOpenRow (dest cls : Nat) (s : State) : State :=
  { s with ex := { s.ex with openRows := s.ex.openRows.filter fun r => !isOpenFor dest cls r } }

/-- Send the open carriage for a destination and class. -/
def flushRow (dest cls : Nat) (s : State) : State :=
  match s.ex.openRows.find? (isOpenFor dest cls) with
  | some r => sendOpenRow r (dropOpenRow dest cls s)
  | none => s

/-- 64 cycles after a first row's completion have passed: 1.3 GHz. -/
def windowOver (now start : Nat) : Bool := 640 ≤ 13 * (now - start)

/-- Send the parts of a row wider than 256 bytes. -/
def sendWide (o : RowOp) (bytes : List Byte) (zeroed : Bool) (s : State) : State :=
  (List.range (rowParts bytes.length)).foldl (fun s p =>
    route (carriageTo s o.cls o.src 0 (.row {
      tick16 := o.tick % 65536, leg := o.leg, rows := 1, firstSeq := o.seq, part := p,
      zeroed := if zeroed then 1 else 0, payload := padTo 256 (bytes.drop (256 * p)) })) none s) s

/-- Return a fetched row to the chip that asked. -/
def returnRow (o : RowOp) (bytes : List Byte) (zeroed : Bool) (s : State) : State :=
  let w := rowStride bytes.length
  if 256 < w then sendWide o bytes zeroed (flushRow o.src o.cls s)
  else
    let zbit : BitVec 16 := if zeroed then 1 else 0
    let joins := fun (r : OpenRow) => r.tick16 == o.tick % 65536 && r.leg == o.leg && r.table == o.table &&
      o.seq == r.firstSeq + r.rows && r.rows < 16 && r.payload.length + w ≤ 256 && !windowOver s.now r.startNs
    let fresh : OpenRow := { dest := o.src, cls := o.cls, tick16 := o.tick % 65536, leg := o.leg, table := o.table, firstSeq := o.seq,
                             rows := 1, zeroed := zbit, payload := padTo w bytes, startNs := s.now }
    let (r, s) := match s.ex.openRows.find? (isOpenFor o.src o.cls) with
      | some r =>
        if joins r then ({ r with rows := r.rows + 1, zeroed := r.zeroed ||| (zbit <<< r.rows), payload := r.payload ++ padTo w bytes }, s)
        else (fresh, flushRow o.src o.cls s)
      | none => (fresh, s)
    let s := dropOpenRow o.src o.cls s
    let s := { s with ex := { s.ex with openRows := s.ex.openRows ++ [r] } }
    if r.rows = 16 || 256 < r.payload.length + w then flushRow o.src o.cls s else s

/-- A read completes: to its batch here, or to the chip that asked. -/
def completeRead (o : RowOp) (d : Desc) (r : Option (List Byte)) (s : State) : State :=
  let bytes := r.getD (List.replicate (weightBytes d) 0)
  match o.batch with
  | some (id, slot) => gotWhole id slot bytes r.isNone s
  | none => returnRow o bytes r.isNone s

/-! ## Contributions (R146) -/

/-- Elements in one GRAD carriage. -/
def gradPartLen (bf16 : Bool) : Nat := if bf16 then 128 else 64

def encodeElems (bf16 : Bool) (xs : List Word32) : List Byte :=
  xs.flatMap fun x => if bf16 then leBytes 2 (fpRound fmtBf16 0 0 (f32 x)).1 else leBytes 4 x.toNat

def decodeElems (bf16 : Bool) (bs : List Byte) : List Word32 :=
  if bf16 then (List.range (bs.length / 2)).map fun i => rne32 (fpDecode fmtBf16 (leAt bs (2 * i) 2))
  else (List.range (bs.length / 4)).map fun i => BitVec.ofNat 32 (leAt bs (4 * i) 4)

/-- An ACCUMULATE for a row of this module. -/
def accOp (src step tick table row slot first : Nat) (elems : List Word32) : RowOp :=
  { kind := .accumulate, table, row, slot, step, tick, src, first, elems }

/-- Send a row gradient of a leg to its owner, one part at a time (R146). -/
def sendGrad (tick step table row : Nat) (bf16 : Bool) (g : List Word32) (s : State) : State :=
  match getTable s table with
  | none => s
  | some tb =>
    match ownerAt s tb.desc.ownerMap tick row with
    | none => s
    | some (chip, die, slot, _) =>
      let n := gradPartLen bf16
      (List.range ((g.length + n - 1) / n)).foldl (fun s p =>
        let part := (g.drop (n * p)).take n
        if chip = s.lg.chip then enqueueOp die (accOp chip step tick table row slot (n * p) part) s
        else sendWindowed (carriageTo s 0 chip 0 (.grad {
          step32 := step % 2 ^ 32, tick16 := tick % 65536, row, table, part := p, bf16,
          payload := padTo 256 (encodeElems bf16 part) })) s) s

/-! ## BULK (R168) -/

/-- A carriage of this module's stream 0 to a destination. -/
def isBulkTo (chip dest bseq : Nat) (c : Carriage) : Bool := c.src == chip && c.dest == dest && (match c.body with
  | .bulk m => m.bseq == bseq
  | _ => false)

/-- A BULK carriage of this module waits on a link, or its peer has not acknowledged it. -/
def bulkOnLinks (s : State) (dest bseq : Nat) : Bool :=
  s.lg.links.any fun e =>
    (e.2.queue.any fun w => isBulkTo s.lg.chip dest bseq w.c) || (e.2.replay.any fun x => isBulkTo s.lg.chip dest bseq x.2) ||
      (match e.2.handoff with
       | some h => h.entries.any fun x => isBulkTo s.lg.chip dest bseq x.2
       | none => false)

/-- The new owner has every follow copy of the APPLY leg (R157): the link by which each left has had it acknowledged (DESIGN
CHOICE, log 58: the manual does not say how acceptance of a BULK carriage is reported). -/
def bulkAccepted (s : State) : Bool := s.bulk.follow.all fun f => !bulkOnLinks s f.1 f.2

/-- Send a record to another chip in 256-byte chunks of stream 0. BSEQ counts the carriages of the stream that go from this
chip to that destination, which applies them in its order (R168; log 59). -/
def sendBulk (dest table slot : Nat) (rec_ : List Byte) (s : State) : State :=
  (List.range ((rec_.length + 255) / 256)).foldl (fun s k =>
    let q := tabGet 0 s.bulk.nextOut dest
    let s := { s with bulk := { s.bulk with
      nextOut := tabSet 0 s.bulk.nextOut dest (q + 1)
      follow := if s.commit.openStep = 2 ^ 64 - 1 then s.bulk.follow else (dest, q) :: s.bulk.follow } }
    originate 2 dest 0 (.bulk { bseq := q, stream := 0, table, slot, chunk := k, payload := (rec_.drop (256 * k)).take 256 }) s) s

/-- A position's handover that this module, as its old owner, copies: one that covers the row. -/
def copyingFor (s : State) (d : Desc) (row : Nat) : Option Handover :=
  match s.job.exchange.maps[d.ownerMap]? with
  | none => none
  | some om =>
    s.handovers.find? fun h => h.map == d.ownerMap && h.oldChip == s.lg.chip && h.copying && !h.released &&
      h.pos == row / 2 ^ om.stripeLog2 % om.pos.length

/-- The slot a row of a position has at the new owner. -/
def newSlot (s : State) (d : Desc) (h : Handover) (row : Nat) : Nat :=
  match s.job.exchange.maps[d.ownerMap]? with
  | none => 0
  | some om => h.newBase + row / 2 ^ om.stripeLog2 / om.pos.length * 2 ^ om.stripeLog2 + row % 2 ^ om.stripeLog2

/-- Send a row's record to the position's new owner (R157): byte for byte, in another chip's case by BULK carriages; on the
same chip it is written straight into pasture with HOT clear. -/
def copyRow (d : Desc) (table row fold : Nat) (h : Handover) (rec_ : List Byte) (s : State) : State :=
  let slot := newSlot s d h row
  if h.newChip = s.lg.chip then
    putMem (pastureAddr d fold h.newDie slot) (putAt rec_ 1 [setFlag (recFlags rec_) 1 false]) s
  else sendBulk h.newChip table slot rec_ s

end Sys2Proof.Machine
end

