-- ==== Sys2Proof/Machine/RowOps.lean ====
section
/-! DEFINITION. The operations of the row home queues (R85 to R91, R100, R103), the pre-image ring (R106) and the commit
(R104, R107). -/

namespace Sys2Proof.Machine

/-- The operation a command names, if it may start. -/
def opAt (s : State) (die q i : Nat) (p : OpKind → Bool) : Option (RowOp × Desc) :=
  match startable s die q i with
  | some o => if p o.kind then (getTable s o.table).map fun t => (o, t.desc) else none
  | none => none

def isDie (d : Nat) : Bool := decide (d < 4)

/-! ## Reads -/

def runRead (die q i : Nat) (k : OpKind) (s : State) : State :=
  match opAt s die q i (· == k) with
  | none => s
  | some (o, d) =>
    let (r, s) := readRow d die o (dropOp die q i s)
    completeRead o d r s

/-- LOOKUP: read header and weight, update ACCESS and AGE (R85, R81). -/
def execLookup (now die queue index : Nat) (s : State) : Res :=
  onUnit (isDie die) (runRead die queue index .lookup (atTime now s))

/-- SERVE_READ: as a LOOKUP, at TC1 (R85). -/
def execServeRead (now die queue index : Nat) (s : State) : Res :=
  onUnit (isDie die) (runRead die queue index .serveRead (atTime now s))

/-! ## ACCUMULATE -/

/-- ACC_POOL_FULL: the step's outcome is requested at once, for the tick the step began in and with LATE_KIND RETURN (R41,
R100). -/
def poolFull (die : Nat) (o : RowOp) (cause : Nat) (s : State) : State :=
  let s := modRu die (fun r => setGen o.step { genOf r o.step with full := true, ringFull := cause == 1 } r) s
  let s := raise evAccPoolFull sevFault (uMd die)
    (rowDetail o.row die o.table ++ leBytes 1 cause ++ [0, 0, 0] ++ leBytes 4 o.step) s
  if policyOf s = 2 then requestHalt s else requestSkipAs (fun m => if m.lateOpen then kReturn else 0) (genOf (getRu s die) o.step).tick o.step s

/-- Bytes of the ring that are reserved (R100): all uncommitted steps and the last committed segment. -/
def ringReserved (s : State) (r : RowUnit) : Nat :=
  ((r.gens.filter (uncommitted s)).map (·.ringRsv)).sum + r.lastSeg

/-- Put the converted elements into a slot: sums, GUARD, NAN (R94, R95). -/
def addToSlot (die : Nat) (o : RowOp) (d : Desc) (idx : Nat) (e : Touched) (s : State) : State :=
  let fx := o.elems.map (fixedOf d.gradExp)
  let r := getRu s die
  let a := slotAddress r o.step e.slotOff
  let s := addElems a o.first (fx.map (·.q)) s
  let m := (fx.map fun x => x.q.natAbs).foldl max 0
  let guard := if fx.any (·.clamped) then 2 ^ 64 - 1 else min (e.guard + m) (2 ^ 64 - 1)
  let g := genOf r o.step
  let e := { e with guard, nan := e.nan || fx.any (·.nan) }
  let s := putMem (a + slotBytes d.width) (touchedBytes e) (modRu die (setGen o.step { g with touched := g.touched.set idx e }) s)
  tableTally 3 o.table (fx.countP (·.under)) s

/-- The first touch of a row in a step: the slot is allocated and the row joins the touched list (R99, R100). Its entry stands
behind its slot, within the 64 bytes that the rule reserves for it and the slot index (log 23). -/
def firstTouch (die : Nat) (o : RowOp) (d : Desc) (s : State) : State :=
  let r := getRu s die
  let g := genOf r o.step
  let need := slotBytes d.width + 64
  let ring := if s.commit.tickAtomic then recordBytes d + 64 else 0
  if r.poolSize / 2 < g.used + need then poolFull die o 0 s
  else if s.commit.tickAtomic && decide (r.ringSize < ringReserved s r + ring) then poolFull die o 1 s
  else
    let e : Touched := { row := o.row, table := o.table, slot := o.slot, nan := false, guard := 0, slotOff := g.used / 64, tick := o.tick }
    let g := { g with used := g.used + need, ringRsv := g.ringRsv + ring, touched := g.touched ++ [e] }
    let s := setRu die { setGen o.step g r with
      hwm := max r.hwm g.used
      state := if r.state = 2 then 2 else 1 } s
    let s := putMem (slotAddress r o.step e.slotOff) (List.replicate need 0) s
    addToSlot die o d (g.touched.length - 1) e s

/-- Add a contribution to its step's slot. -/
def accumulateOp (die : Nat) (o : RowOp) (d : Desc) (s : State) : State :=
  if staleGrad s o.step (o.tick % 65536) || ((List.range 4).any fun x => let g := genOf (getRu s x) o.step; g.full && g.step == some o.step) then
    tally tlGradStale s
  else
    let s := if (genOf (getRu s die) o.step).step = some o.step then s
      else modRu die (setGen o.step { step := some o.step, tick := o.tick }) s
    let r := getRu s die
    let g := genOf r o.step
    match g.touched.findIdx? fun e => e.table == o.table && e.slot == o.slot with
    | none => firstTouch die o d s
    | some i =>
      match g.touched[i]? with
      | none => s
      | some e =>
        match poisonIn s.mm (slotAddress r o.step e.slotOff) (slotBytes d.width + 64) with
        | some line => structPoison 3 line s
        | none => addToSlot die o d i e s

/-- ACCUMULATE: add a contribution, allocating the slot on first touch (R93 to R102). -/
def execAccumulate (now die queue index : Nat) (s : State) : Res :=
  let s := atTime now s
  onUnit (isDie die) (match opAt s die queue index (· == .accumulate) with
    | some (o, d) => accumulateOp die o d (dropOp die queue index s)
    | none => s)

/-! ## APPLY -/

/-- What an APPLY does to its record: the writes, whether the paddock way becomes DIRTY, whether the record was written. -/
structure Applied where
  writes : Writes := []
  dirty : Bool := false
  applied : Bool := false

/-- The latched scale of a flock for a step (R133). -/
def latchedScale (s : State) (step flock : Nat) (f : Flock) : Word32 :=
  match s.tb.latches.find? fun l => l.step == step with
  | some l => (tabFind l.scales flock).getD f.gscaleDefault
  | none => f.gscaleDefault

/-- The flock in force for work of a tick, with its program; none when either is not valid. -/
def flockAt (s : State) (tick flock : Nat) : Option (Flock × Prog) :=
  match (tabFind s.tb.flocks flock).bind (versionAt tick) with
  | none => none
  | some f => ((tabFind s.tb.programs f.program).bind (versionAt tick)).map fun p => (f, p)

/-- NAN_TRAP of an update site: the first in a tick raises it, later ones count (R66). `bit_`: the bit of the job header's
NAN_TRAP field; `seen`: raised already in this tick. -/
def siteNan (bit_ : Nat) (unit : UnitId) (seen : Bool) (detail : List Byte) (s : State) : State :=
  let on := s.job.header.nanTrap.getLsbD bit_
  let s := if seen then tally tlNanRows s else raise evNanTrap (if on then sevFault else sevWarn) unit detail s
  if on then requestHalt s else s

def markSeen (die bit_ : Nat) (s : State) : State := modRu die (fun r => { r with seen := r.seen ||| (1 <<< bit_) }) s

def applyNan (die : Nat) (detail : List Byte) (s : State) : State :=
  let seen := (getRu s die).seen.getLsbD seenNan
  siteNan 2 (uMd die) seen detail (markSeen die seenNan s)

/-- DT of a sparse row (R119). -/
def rowDt (updates last step : Nat) : Nat := if updates = 0 then 1 else min ((step % 2 ^ 32 + 2 ^ 32 - last) % 2 ^ 32) (2 ^ 31)

/-- Run the program of a row's flock and form the new record (R103, R117, R125, R126). -/
def programRow (die : Nat) (o : RowOp) (d : Desc) (loc : Nat) (rec_ : List Byte) (a : Nat) (s : State) : Applied × State :=
  let fl := byteAt rec_ 2
  match flockAt s o.tick fl with
  | none => ({}, tally tlFlockMismatch s)
  | some (f, p) =>
    if d.states.length < progStateUse p then ({}, tally tlFlockMismatch s)
    else
      let updates := leAt rec_ 8 4
      let vecs := descVecs d
      let stored := vecs.map fun v => (v.1, recVec d rec_ v)
      let env : UpEnv := {
        g := slotGrad s a d.width d.gradExp, k := f.k, scale := latchedScale s o.step fl f, gstep := o.step
        rowstep := min (updates + 1) 0xFFFFFFFF, dt := rowDt updates (leAt rec_ 4 4) o.step
        draw := fun i => srDraw o.step (srKey 0 o.table o.row i) }
      let run := runProgram p env d.width stored
      match weightNans run d.width with
      | (i, k, cause) :: _ =>
        ({}, applyNan die (siteDetail o.row 0 o.table i fl f.program k die cause) s)
      | [] =>
        let s := if stateNan run d.states.length d.width (fun _ => false) then tally tlStateNan s else s
        let body := (vecs.zipIdx).foldl (fun b x =>
          putAt b x.1.2 (finalStore run env f.round x.2 (x.1.1, recVec d rec_ x.1))) rec_
        let body := putAt body 4 (leBytes 4 o.step ++ leBytes 4 (min (updates + 1) 0xFFFFFFFF))
        let body := putAt body 1 [setFlag (recFlags body) 2 false]
        ({ writes := [(loc, withEpoch d (recEpoch rec_) body)], dirty := true, applied := true }, s)

/-- The SATURATED outcome of R96. -/
def saturated (die : Nat) (o : RowOp) (loc : Nat) (rec_ : List Byte) (guard : Nat) (s : State) : Applied × State :=
  let s := tally tlAccSaturated s
  let s := firstOnDie die seenSaturated (fun s =>
    modRu die (fun r => { r with satRow := o.row, satTable := o.table })
      (raise evAccSaturated sevWarn (uMd die) (rowDetail o.row die o.table ++ leBytes 8 guard) s)) s
  ({ writes := [(loc + 1, [setFlag (recFlags rec_) 2 true])], dirty := true }, s)

/-- A touched-list entry whose fold has been replaced since its step began (R199). -/
def foldDiscarded (s : State) (e : Touched) : Bool :=
  s.folds.releases.any fun r => r.1.kind == 0 && r.1.num == e.table && decide (e.tick < r.2)

/-- The outcome of an APPLY of a touched-list entry (R103). An entry that a fold switch has overtaken is discarded and counts
whatever its record reads (R199). -/
def applyEntry (die : Nat) (o : RowOp) (d : Desc) (e : Touched) (loc : Nat) (s : State) : Applied × State :=
  let a := slotAddress (getRu s die) o.step e.slotOff
  match poisonIn s.mm a (slotBytes d.width + 64) with
  | some line => ({}, structPoison 3 line s)
  | none =>
    let (r, ws, s) := readRecord die o d loc s
    let s := if foldDiscarded s e then tally tlFoldDiscard s else s
    match r with
    | .good rec_ =>
      if foldDiscarded s e then ({}, s)
      else if e.nan then
        let fl := byteAt rec_ 2
        let (w, s) := freeWord s
        let prog := (flockAt s o.tick fl).elim 0 fun x => x.1.program
        ({}, applyNan die (siteDetail o.row 0 o.table (w.toNat % d.width) fl prog 0xFF die 1) s)
      else if 2 ^ 47 ≤ e.guard then saturated die o loc rec_ e.guard s
      else programRow die o d loc rec_ a s
    | _ => ({ writes := ws, dirty := !ws.isEmpty }, s)

/-- The outcome of a repair (R203): the source record with POISONED and SATURATED clear and new epochs. -/
def repairEntry (d : Desc) (source loc : Nat) (way : Option Nat) (s : State) : Applied × State :=
  let old := memByte s.mm loc
  let src := memRead s.mm source (recordBytes d)
  let flags := setFlag (setFlag (setFlag (recFlags src) 0 false) 2 false) 1 way.isSome
  ({ writes := [(loc, withEpoch d old.toNat (putAt src 1 [flags]))], dirty := true }, s)

/-- A record as the export engine takes it: with POISONED set when a line of it is poisoned or it is torn (R91, R109, R312). -/
def exportedRecord (s : State) (d : Desc) (loc : Nat) : List Byte :=
  let rec_ := memRead s.mm loc (recordBytes d)
  if (poisonIn s.mm loc (recordBytes d)).isSome || recEpoch rec_ ≠ recTrailer d rec_ then
    putAt rec_ 1 [setFlag (recFlags rec_) 0 true]
  else rec_

/-- A row not yet exported of a snapshot in progress is captured ahead of its write (R90, R205). -/
def captureEarly (table die slot : Nat) (rec_ : List Byte) (s : State) : State :=
  match s.snap with
  | some n =>
    if mustCapture s table die slot then
      { s with snap := some { n with exported := (table, die, slot) :: n.exported, early := n.early ++ [(table, die, slot, rec_)] } }
    else s
  | none => s

/-- Finish an APPLY: its writes, DIRTY, the follow copy of R157, and the counts of the die. -/
def finishApply (die : Nat) (o : RowOp) (d : Desc) (ws : Writes) (dirtyTag : Option Nat) (applied : Bool) (s : State) : State :=
  let s := doWrites ws s
  let s := match dirtyTag with
    | some a =>
      let e := memNat s.mm a 4
      if tagDirty e then s else putMem a (leBytes 4 (e + 2 ^ 29)) s
    | none => s
  let s := match copyingFor s d o.row with
    | some h =>
      if h.copied.contains (o.table, o.row) && !ws.isEmpty then
        let (loc, _) := locate s d o.fold die o.slot
        copyRow d o.table o.row o.fold h (memRead s.mm loc (recordBytes d)) s
      else s
    | none => s
  modRu die (fun r =>
    { r with applyLeft := r.applyLeft - 1, applied := r.applied + (if applied then 1 else 0), done := r.done || r.applyLeft ≤ 1 }) s

/-- Entry number → its ring batch and place in it. -/
def batchOf (r : RowUnit) (entry : Nat) : Option (Nat × Nat) :=
  (r.batches.findIdx? fun b => b.first ≤ entry && entry < b.first + b.rows.length).bind fun i =>
    (r.batches[i]?).map fun b => (i, entry - b.first)

/-- Write the pre-image of an entry and mark it accepted (R105, R106). -/
def putPreImage (die : Nat) (o : RowOp) (loc : Nat) (rec_ : List Byte) (s : State) : State :=
  let r := getRu s die
  match batchOf r o.entry with
  | none => s
  | some (bi, ri) =>
    match r.batches[bi]? with
    | none => s
    | some b =>
      match b.rows[ri]? with
      | none => s
      | some (off, _, n, t, _) =>
        let s := ringPut r off rec_ s
        setRu die { r with batches := r.batches.set bi { b with rows := b.rows.set ri (off, loc, n, t, true) } } s

/-- An APPLY whose outcome is known: with tick-atomic mode on its pre-image goes out and its writes wait for the batch's
index block; otherwise it finishes. -/
def settleApply (die q i : Nat) (o : RowOp) (d : Desc) (out : Applied) (dirtyTag : Option Nat) (s : State) : State :=
  if s.commit.tickAtomic then
    let (loc, _) := locate s d o.fold die o.slot
    let o' := { o with busy := true, staged := out.writes, dirties := dirtyTag, applied := out.applied }
    putPreImage die o loc (memRead s.mm loc (recordBytes d)) (modRu die (fun r =>
      { r with queues := tabSet [] r.queues q ((queueOf r q).set i o') }) s)
  else dropOp die q i (finishApply die o d out.writes dirtyTag out.applied s)

/-- APPLY of one entry when it starts in its queue. A poisoned tag line, or a slot or touched-list entry in one, halts the job
(R312); the operation then changes nothing. -/
def applyOp (die q i : Nat) (o : RowOp) (d : Desc) (s : State) : State :=
  let (loc, way) := locate s d o.fold die o.slot
  let (out, s) := match tagPoison s d die o.slot with
    | some line => (({} : Applied), structPoison 3 line s)
    | none =>
      let s := pumpStream (captureEarly o.table die o.slot (exportedRecord s d loc) (hitRef d die o.slot way s))
      match o.kind with
      | .repair src => repairEntry d src loc way s
      | _ =>
        match (genOf (getRu s die) o.step).touched[o.entry]? with
        | some e => applyEntry die o d e loc s
        | none => ({}, s)
  let dirtyTag := match way with
    | some w => if out.dirty then some (tagAddr d die o.slot w) else none
    | none => none
  settleApply die q i o d out dirtyTag s

/-- APPLY: write the pre-image, run the row's program and write the record (R103). -/
def execApply (now die queue index : Nat) (s : State) : Res :=
  let s := atTime now s
  let isApply := fun k => match k with
    | OpKind.apply => true
    | .repair _ => true
    | _ => false
  onUnit (isDie die) (match opAt s die queue index isApply with
    | some (o, d) => applyOp die queue index o d s
    | none => s)

/-- Finish the operation of one entry of a batch whose index block has been accepted. -/
def finishEntry (die entry : Nat) (s : State) : State :=
  let r := getRu s die
  match r.queues.findSome? fun q => (q.2.findIdx? fun o => o.busy && o.entry == entry).map fun i => (q.1, i) with
  | none => s
  | some (q, i) =>
    match (queueOf r q)[i]? with
    | none => s
    | some o =>
      match getTable s o.table with
      | none => s
      | some t => dropOp die q i (finishApply die o t.desc o.staged o.dirties o.applied s)

/-- The index block of the oldest batch is written once its pre-images are accepted; then its records (R106). -/
def execRingIndexBlock (die : Nat) (s : State) : Res :=
  onUnit (isDie die) (
    let r := getRu s die
    match r.batches with
    | [] => s
    | b :: rest =>
      if b.rows.all fun x => x.2.2.2.2 then
        let s := ringPut r b.base (indexBlock s.commit.openSeq b.rows) s
        let len := 64 + (b.rows.map fun x => x.2.2.1).sum
        let s := modRu die (fun r => { r with batches := rest, wptr := (b.base + len) % r.ringSize / 64 }) s
        (List.range b.rows.length).foldl (fun s k => finishEntry die (b.first + k) s) s
      else s)

/-! ## Starting an APPLY leg on the dies -/

/-- Group entries' sizes into ring batches of up to six from a ring position on (R103, R105). -/
def ringBatches (size : Nat) : Nat → Nat → Nat → List (Nat × Nat) → List RingBatch
  | 0, _, _, _ => []
  | n + 1, base, first, es =>
    if es.isEmpty then []
    else
      let part := es.take 6
      let rows := (part.foldl (fun (acc : List (Nat × Nat × Nat × Nat × Bool) × Nat) e =>
        (acc.1 ++ [(acc.2 % size, 0, e.1, e.2, false)], acc.2 + e.1)) ([], base + 64))
      { base := base % size, first, rows := rows.1 } :: ringBatches size n rows.2 (first + part.length) (es.drop 6)

/-- Each repair stands in a batch of its own, after the touched list (log 25). -/
def repairBatches (size : Nat) : Nat → Nat → List (Nat × Nat) → List RingBatch
  | _, _, [] => []
  | base, first, e :: es =>
    { base := base % size, first, rows := [((base + 64) % size, 0, e.1, e.2, false)] } ::
      repairBatches size (base + 64 + e.1) (first + 1) es

def tableRecord (s : State) (t : Nat) : Nat := (getTable s t).elim 64 fun x => recordBytes x.desc

/-- The repairs due on a die: table, row, slot, source (R203). -/
def repairsOn (s : State) (die tick : Nat) : List (Nat × Nat × Nat × Nat) :=
  s.repairsDue.filterMap fun x =>
    match getTable s x.1 with
    | none => none
    | some t => match ownerAt s t.desc.ownerMap tick x.2.1 with
      | some (chip, d, slot, _) => if chip = s.lg.chip && d = die then some (x.1, x.2.1, slot, x.2.2) else none
      | none => none

/-- Enqueue the APPLY operations of step `step` on one die; `tick` is the tick of the APPLY leg. -/
def startApplyDie (step tick leg die : Nat) (s : State) : State :=
  let r := getRu s die
  let g := genOf r step
  let list := if g.step = some step then g.touched else []
  let reps := repairsOn s die tick
  let base := r.wptr * 64
  let bs := if s.commit.tickAtomic then ringBatches r.ringSize (list.length + 1) base 0 (list.map fun e => (tableRecord s e.table, e.table)) else []
  let end_ := base + ((bs.map fun b => 64 + (b.rows.map fun x => x.2.2.1).sum).sum)
  let bs := if s.commit.tickAtomic then bs ++ repairBatches r.ringSize end_ list.length (reps.map fun x => (tableRecord s x.1, x.1)) else []
  let n := list.length + reps.length
  let s := setRu die { r with
    state := 2, batches := bs, applyLeft := n, done := n == 0, touched := list.length, applied := 0
    lastSeg := r.lastSeg } s
  let s := list.zipIdx.foldl (fun s x =>
    let fold := if foldDiscarded s x.1 then 1 - (getTable s x.1.table).elim 0 (·.current) else (getTable s x.1.table).elim 0 (·.current)
    enqueueOp die { kind := .apply, table := x.1.table, row := x.1.row, slot := x.1.slot, tick, leg, fold, step, entry := x.2 } s) s
  reps.zipIdx.foldl (fun s x =>
    enqueueOp die { kind := .repair x.1.2.2.2, table := x.1.1, row := x.1.2.1, slot := x.1.2.2.1, tick, leg,
                    fold := (getTable s x.1.1).elim 0 (·.current), step, entry := list.length + x.2 } s) s

/-! ## MIGRATE (R83, R84) -/

/-- Promote: pasture record into the way, VALID and REF set, DIRTY clear, HOT in both copies. -/
def promoteRow (d : Desc) (die way : Nat) (o : RowOp) (s : State) : State :=
  let src := pastureAddr d o.fold die o.slot
  let dst := wayAddr d die o.slot way
  let (r, ws, s) := readRecord die o d src s
  match r with
  | .good rec_ =>
    let hot := setFlag (recFlags rec_) 1 true
    let s := putMem dst (putAt rec_ 1 [hot]) s
    putMem (src + 1) [hot] (setTag d die o.slot way (mkTag d o.slot o.fold true false) s)
  | _ => doWrites ws s

/-- Demote: back to pasture with HOT clear when DIRTY, else HOT cleared there; the way is free (R83). A row that has become
poisoned keeps its way (R91). -/
def demoteRow (d : Desc) (die way : Nat) (o : RowOp) (s : State) : State :=
  let e := tagEntry s d die o.slot way
  let src := wayAddr d die o.slot way
  let dst := pastureAddr d (tagFold e) die o.slot
  if tagDirty e then
    let (r, ws, s) := readRecord die o d src s
    match r with
    | .good rec_ => setTag d die o.slot way 0 (putMem dst (putAt rec_ 1 [setFlag (recFlags rec_) 1 false]) s)
    | _ => doWrites ws s
  else if wayPoisoned s d die o.slot way then s
  else
    setTag d die o.slot way 0 (putMem (dst + 1) [setFlag (memByte s.mm (dst + 1)) 1 false] s)

/-- Enqueue a migrate, or hold it until the commit of an APPLY that its row is on the list of (R84). -/
def issueMigrate (die : Nat) (o : RowOp) (s : State) : State :=
  if applyOpen s die o.table o.slot then modRu die (fun r => { r with heldMig := r.heldMig ++ [o] }) s else enqueueOp die o s

def runMigrate (die q i : Nat) (s : State) : State :=
  let isMig := fun k => match k with
    | OpKind.promote _ => true
    | .demote _ _ => true
    | _ => false
  match opAt s die q i isMig with
  | none => s
  | some (o, d) =>
    let s := dropOp die q i s
    match tagPoison s d die o.slot, o.kind with
    | some line, _ => structPoison 3 line s
    | none, .promote w => promoteRow d die w o s
    | none, .demote w next =>
      let s := demoteRow d die w o s
      match next with
      | some (row, slot) =>
        if tagValid (tagEntry s d die slot w) then s
        else issueMigrate die (promoteOp o.table row slot s.tk.tick ((getTable s o.table).elim 0 (·.current)) w) s
      | none => s
    | none, _ => s

/-- MIGRATE: copy a record between pasture and a paddock way (R83). -/
def execMigrate (now die queue index : Nat) (s : State) : Res :=
  onUnit (isDie die) (runMigrate die queue index (atTime now s))

/-! ## EXPORT (R205, R157) -/

/-- Tables that hold records on a die, ascending. -/
def recordTables (s : State) (die : Nat) : List Nat :=
  (s.tb.tables.filter fun t => t.2.desc.mode != 2 && t.2.desc.localRows.getD die 0 != 0).map (·.1)

/-- The slot after (table, slot) in a die's walk. -/
def walkAfter (s : State) (die table slot : Nat) : Option (Nat × Nat) :=
  let n := (getTable s table).elim 0 fun t => t.desc.localRows.getD die 0
  if slot + 1 < n then some (table, slot + 1)
  else ((recordTables s die).find? fun t => table < t).map fun t => (t, 0)

def exportOpFor (s : State) (die table slot : Nat) : RowOp :=
  let row := (getTable s table).bind fun t => rowOfSlot s t.desc s.tk.tick die slot
  { kind := .exportOp, table, row := row.getD 0, slot, cls := 2, tick := s.tk.tick, fold := (getTable s table).elim 0 (·.current) }

/-- Issue the EXPORT of a walk position, or note that the die's walk has ended. -/
def walkTo (die : Nat) (p : Option (Nat × Nat)) (s : State) : State :=
  match s.snap with
  | none => s
  | some n =>
    match p with
    | some (t, slot) => enqueueOp die (exportOpFor s die t slot) s
    | none => { s with snap := some { n with walkDone := n.walkDone ||| (1 <<< die) } }

/-- Capture a record of the walk; a torn or poisoned one is exported with POISONED set (R91, R109, R312). -/
def exportRow (die : Nat) (o : RowOp) (d : Desc) (s : State) : State :=
  match s.snap with
  | none => s
  | some n =>
    let key := (o.table, die, o.slot)
    let (loc, way) := locate s d o.fold die o.slot
    let rec_ := exportedRecord s d loc
    let (_, ws, s) := readRecord die o d loc (hitRef d die o.slot way s)
    let s := match tagPoison s d die o.slot with
      | some line => structPoison 3 line s
      | none => markPoisoned d die o.slot way ws s
    let n := { n with
      walked := n.walked ++ [(o.table, die, o.slot, rec_)]
      exported := if n.exported.contains key then n.exported else key :: n.exported }
    pumpStream (walkTo die (walkAfter s die o.table o.slot) { s with snap := some n })

/-- Rows of a handover's position on this module that are still to copy, the next one first: by table, then stripe by stripe. -/
def nextCopy (s : State) (h : Handover) : Option (Nat × Nat) :=
  match s.job.exchange.maps[h.map]? with
  | none => none
  | some om =>
    let st := 2 ^ om.stripeLog2
    let np := om.pos.length
    (s.tb.tables.filter fun t => t.2.desc.mode != 2 && t.2.desc.ownerMap == h.map).findSome? fun t =>
      let done := (h.copied.filter fun c => c.1 == t.1).length
      let row := (done / st * np + h.pos) * st + done % st
      if row < t.2.desc.rowCount then some (t.1, row) else none

def modHandover (m k : Nat) (f : Handover → Handover) (s : State) : State :=
  { s with handovers := s.handovers.map fun h => if h.map = m && h.pos = k && !h.released then f h else h }

/-- Issue the copy of the next row of a position. -/
def copyNext (h : Handover) (s : State) : State :=
  match nextCopy s h with
  | none => s
  | some (t, row) =>
    match getTable s t with
    | none => s
    | some tb =>
      match s.job.exchange.maps[h.map]? with
      | none => s
      | some om =>
        let slot := h.oldBase + row / 2 ^ om.stripeLog2 / om.pos.length * 2 ^ om.stripeLog2 + row % 2 ^ om.stripeLog2
        enqueueOp h.oldDie { kind := .handoverCopy, table := t, row, slot, cls := 2, tick := s.tk.tick, fold := tb.current } s

/-- Copy one row of a position to its new owner (R157). -/
def handoverRow (die : Nat) (o : RowOp) (d : Desc) (s : State) : State :=
  match copyingFor s d o.row with
  | none => s
  | some h =>
    let (loc, way) := locate s d o.fold die o.slot
    let (_, ws, s) := readRecord die o d loc (hitRef d die o.slot way s)
    let s := markPoisoned d die o.slot way ws s
    let s := copyRow d o.table o.row o.fold h (memRead s.mm loc (recordBytes d)) s
    let h' := { h with copied := (o.table, o.row) :: h.copied }
    copyNext h' (modHandover h.map h.pos (fun _ => h') s)

/-- EXPORT: capture a row's record into the export buffer, or copy it to a position's new owner (R85, R157, R205). -/
def execExportRow (now die queue index : Nat) (s : State) : Res :=
  let s := atTime now s
  onUnit (isDie die) (match opAt s die queue index (fun k => k == .exportOp || k == .handoverCopy) with
    | some (o, d) =>
      let s := dropOp die queue index s
      if o.kind = .exportOp then exportRow die o d s else handoverRow die o d s
    | none => s)

/-! ## Commit (R104, R107) -/

/-- The job record of R406. -/
def saveRecord (s : State) : State :=
  if s.job.state = 0 then s
  else
    let h := s.job.header
    { s with record := {
        valid := true, planId := s.job.planId, poolBase := h.poolBase, poolSize := h.poolSize, ringBase := h.ringBase
        ringSize := h.ringSize, tickAtomic := h.tickAtomic
        current := s.tb.tables.map fun t => (t.1, t.2.current)
        effBase := s.folds.eff.map fun e => (e.1, e.2.base, e.2.image)
        lastTick := s.tk.tick, epoch := s.tk.epoch, timeSrc := s.tk.timeSrc } }

/-- Digest region numbers of the DERIVED regions (R187, R188). -/
def derivedRegions (s : State) : List Nat :=
  (s.job.header.regions.zipIdx.filter fun r => r.1.kind == 1).map fun r => 4096 + r.2

/-- Flip the image bit of regions. -/
def flipImages (l : List Nat) (s : State) : State :=
  { s with folds := { s.folds with eff := s.folds.eff.map fun e => (e.1, if l.contains e.1 then { e.2 with image := 1 - e.2.image } else e.2) } }

/-- Samples that a committed step claimed are set free in claim order (R338). -/
def freeSamples (step : Nat) (s : State) : State :=
  let mine := s.hq.entries.filter fun e => (match e.claimed with
    | some (_, _, st) => st == step
    | none => false) && (match tabFind s.hq.queues e.queue with
    | some q => q.role == 1
    | none => false)
  mine.foldl (fun s e => dropEntry e.queue e.slot (freeSlot e.queue e.slot s)) s

/-- Positions whose last old-owner APPLY has committed are released (R158): follow copies stop and the position's paddock
ways are invalidated without write-back. -/
def releaseWays (d : Desc) (die base count : Nat) (s : State) : State :=
  if d.sLog2 = 0 then s
  else (List.range count).foldl (fun s i =>
    let slot := base + i
    (List.range 16).foldl (fun s w =>
      let e := tagEntry s d die slot w
      if tagValid e && e % 2 ^ 28 == slot / 2 ^ d.sLog2 % 2 ^ 28 then setTag d die slot w 0 s else s) s) s

end Sys2Proof.Machine
end

