-- ==== Sys2Proof/Machine/Dense.lean ====
section
/-! DEFINITION. Dense collectives: images (R185, R186), tree sets (R141), leaf contributions and shear (R152, R153), the
reduction (R150), the update at the root (R136) and the all-gather (R151). -/

namespace Sys2Proof.Machine

/-! ## Tensors, groups and trees -/

def tensorOf (s : State) (n : Nat) : Option Tensor := s.job.exchange.tensors.find? fun t => t.num == n

def groupCount (t : Tensor) : Nat := (t.elements + 1023) / 1024

/-- Elements of a group. -/
def groupLen (t : Tensor) (g : Nat) : Nat := min 1024 (t.elements - 1024 * g)

def treeSetOf (s : State) (t : Tensor) : Option TreeSet := s.job.exchange.trees[t.treeSet]?

/-- Groups of each shard's range (R141). -/
def shardSpan (t : Tensor) (ts : TreeSet) : Nat := (groupCount t + ts.shards.length - 1) / ts.shards.length

/-- First node and node count of a group's shard. -/
def shardNodes (t : Tensor) (ts : TreeSet) (g : Nat) : Nat × Nat := ts.shards.getD (g / shardSpan t ts) (0, 0)

/-- Node indices of a group's shard. -/
def nodeRange (t : Tensor) (ts : TreeSet) (g : Nat) : List Nat :=
  let (f, n) := shardNodes t ts g
  (List.range n).map (f + ·)

def nodeAt (ts : TreeSet) (i : Nat) : Node := ts.nodes.getD i { chip := 0, lg := 0, parent := none, children := [] }

/-- Tree depth of a node as STAGE counts it: 0 at the leaves. -/
def stageOf (ts : TreeSet) : Nat → Nat → Nat
  | 0, _ => 1
  | fuel + 1, i =>
    1 + ((nodeAt ts i).children.map fun c => match c with
      | .leaf _ => 0
      | .node j => stageOf ts fuel j).foldl max 0

def nodeStage (ts : TreeSet) (i : Nat) : Nat := stageOf ts ts.nodes.length i

/-- The node of a group's shard that has a chip as a leaf child, with the child's position. -/
def leafParent (t : Tensor) (ts : TreeSet) (g chip : Nat) : Option (Nat × Nat) :=
  (nodeRange t ts g).findSome? fun i =>
    ((nodeAt ts i).children.findIdx? fun c => c == .leaf chip).map fun k => (i, k)

/-- Place of a child node in its parent. -/
def childPlace (ts : TreeSet) (parent node : Nat) : Nat :=
  ((nodeAt ts parent).children.findIdx? fun c => c == .node node).getD 0

/-! ## Images (R185) -/

def imgBytes (fmt elements : Nat) : Nat := (storedBytes fmt elements + 4095) / 4096 * 4096

def effOf (s : State) (region : Nat) : EffBase := tabGet {} s.folds.eff region

/-- Address of image `i` of a dense tensor's weights. -/
def imageAddr (s : State) (t : Tensor) (i : Nat) : Nat := (effOf s t.num).base + i * imgBytes t.wFormat t.elements

/-- The elements of the shards of a tensor rooted here, by group: the place of each group among them (log 26). -/
def rootedGroups (s : State) (t : Tensor) (ts : TreeSet) : List Nat :=
  (List.range (groupCount t)).filter fun g => (nodeAt ts (shardNodes t ts g).1).chip == s.lg.chip

def flockOf (s : State) (tick : Nat) (t : Tensor) : Option Flock := (tabFind s.tb.flocks t.flock).bind (versionAt tick)

/-- Offsets of the state vectors in a state image and its size: S1, S2, S3 in turn, each at a 4-byte boundary (log 26). -/
def statePlaces (f : Flock) (m : Nat) : List (Nat × Nat) × Nat :=
  let (ps, e) := vecPlaces m f.states 0
  (ps, (e + 4095) / 4096 * 4096)

/-- Stored bytes of `n` elements from `first` on within a stored vector of `total` elements at an address: its elements,
then its block scales. -/
def sliceRead (s : State) (fmt total addr first n : Nat) : List Byte :=
  memRead s.mm (addr + first * codeBits fmt / 8) (elemBytes fmt n) ++
    (if codeScaled fmt then memRead s.mm (addr + elemBytes fmt total + first / 32) ((n + 31) / 32) else [])

/-- Write bytes `from_` on of the stored image of such a slice. -/
def sliceWrite (fmt total addr first n from_ : Nat) (bs : List Byte) (s : State) : State :=
  let eb := elemBytes fmt n
  let inElems := bs.take (eb - from_)
  let s := if from_ < eb then putMem (addr + first * codeBits fmt / 8 + from_) inElems s else s
  let rest := bs.drop (eb - from_)
  if codeScaled fmt then
    putMem (addr + elemBytes fmt total + first / 32 + (from_ - eb)) (rest.take ((n + 31) / 32 - (from_ - eb))) s
  else s

def slicePoison (s : State) (fmt total addr first n : Nat) : Option Nat :=
  match poisonIn s.mm (addr + first * codeBits fmt / 8) (elemBytes fmt n) with
  | some l => some l
  | none => if codeScaled fmt then poisonIn s.mm (addr + elemBytes fmt total + first / 32) ((n + 31) / 32) else none

/-- The slice lies where it decodes (R15). -/
def sliceOk (s : State) (fmt total addr first n : Nat) : Bool :=
  devOk s.mm (addr + first * codeBits fmt / 8) (elemBytes fmt n) &&
    (!codeScaled fmt || devOk s.mm (addr + elemBytes fmt total + first / 32) ((n + 31) / 32))

/-! ## When dense work may write (R186) -/

/-- A reader still holds an image as current: a SERVE leg, a digest slice, a snapshot copy (R190, R206, R223). -/
def imageHeld (s : State) (region image : Nat) : Bool :=
  (s.run.legs.any fun o => o.kind == kServe && o.images.contains (region, image)) || s.digest.sliceImages.contains (region, image) ||
    (match s.snap with
     | some n => n.started && !n.copied && n.images.contains (region, image)
     | none => false)

/-- A link group may write a tensor's other images for a step. -/
def denseFree (s : State) (t : Tensor) (step : Nat) : Bool :=
  prevDone s step && !imageHeld s t.num (1 - (effOf s t.num).image)

/-! ## Payloads -/

/-- Parts of a leaf or partial-sum contribution of `n` bytes. -/
def partsOf (n : Nat) : Nat := (n + 255) / 256

def shearParts (t : Tensor) : Nat := if t.shear = 1 then (t.shearK + 63) / 64 else 1

def encodeRne (fmt : Nat) (xs : List Word32) : List Byte := (encodeVec fmt 0 (fun _ => 0) (xs.map f32)).1

/-- |x| order of TOPK: NaN first, then larger magnitude; ties to the lower index (R152). -/
def topBefore (a b : Nat × Word32) : Bool :=
  let ma := (a.2 &&& 0x7FFFFFFF).toNat
  let mb := (b.2 &&& 0x7FFFFFFF).toNat
  let ka := if isNan32 a.2 then 2 ^ 32 else ma
  let kb := if isNan32 b.2 then 2 ^ 32 else mb
  kb < ka || (ka == kb && a.1 ≤ b.1)

/-- What shear makes of a group: payload and new residual (R152, R153). -/
def shearGroup (t : Tensor) (xs : List Word32) : List Byte × List Word32 :=
  if t.shear = 1 then
    let order := sortBy topBefore (xs.zipIdx.map fun x => (x.2, x.1))
    let chosen := order.take t.shearK
    let v := fun (x : Word32) => (fpRound fmtBf16 0 0 (f32 x)).1
    let entry := fun (c : Nat × Word32) => leBytes 4 (v c.2 + c.1 * 2 ^ 16 + 2 ^ 31)
    let resid := xs.zipIdx.map fun x =>
      if chosen.any fun c => c.1 == x.2 then
        (if isNan32 x.1 then 0 else sub32 x.1 (rne32 (fpDecode fmtBf16 (v x.1))))
      else x.1
    (padTo (256 * shearParts t) (chosen.flatMap entry), resid)
  else
    let sc := rowMean (xs.map fun x => rne32 (fpAbs (f32 x)))
    let bits := (List.range 128).map fun j =>
      BitVec.ofNat 8 (((List.range 8).map fun k => if (xs.getD (8 * j + k) 0).msb then 2 ^ k else 0).sum)
    let resid := xs.map fun x =>
      if isNan32 sc || isNan32 x then 0
      else sub32 x (if x.msb then rne32 (fpNeg (f32 sc)) else sc)
    (bits ++ leBytes 4 sc.toNat, resid)

/-- A node's decoding of a contribution to FP32 (R150, R153). -/
def decodeStaged (n : Nat) (c : Staged) : List Word32 :=
  if c.shear = 1 then
    let entries := (List.range (c.bytes.length / 4)).map fun i => leAt c.bytes (4 * i) 4
    (List.range n).map fun i =>
      match entries.find? fun e => e.testBit 31 && e / 2 ^ 16 % 1024 == i with
      | some e => rne32 (fpDecode fmtBf16 (e % 2 ^ 16))
      | none => 0
  else if c.shear = 2 then
    let sc := BitVec.ofNat 32 (leAt c.bytes 128 4)
    (List.range n).map fun i => if (byteAt c.bytes (i / 8)).testBit (i % 8) then rne32 (fpNeg (f32 sc)) else rne32 (f32 sc)
  else decode32 c.fmt n c.bytes

/-! ## Sending -/

/-- Send a payload in parts of 256 bytes to a link group of another chip. -/
def sendDense (dest lg tick step tensor group kind fmt shear stage : Nat) (bs : List Byte) (s : State) : State :=
  (List.range (partsOf bs.length)).foldl (fun s p =>
    sendWindowed (carriageTo s 0 dest lg (.dense {
      step32 := step % 2 ^ 32, tick16 := tick % 65536, tensor, group, part := p, kind, fmt, shear, stage,
      payload := padTo 256 (bs.drop (256 * p)) })) s) s

/-- 8 MiB of staging for each link group (R150). -/
def stagingBytes : Nat := 0x800000

def stagedIn (s : State) (lg : Nat) : Nat := ((s.ex.staging.filter fun c => c.lg == lg).map (·.bytes.length)).sum

def isStagedFor (tick tensor group node : Nat) (c : Staged) : Bool :=
  c.tick == tick && c.tensor == tensor && c.group == group && c.node == node

/-- The child next in order of its node: every earlier child is staged. -/
def nextInOrder (s : State) (tick tensor group node child : Nat) : Bool :=
  (List.range child).all fun k => s.ex.staging.any fun c => isStagedFor tick tensor group node c && c.child == k

/-- A contribution may enter the staging of its link group: there is room, or it is the next child in order (R150). -/
def mayStage (s : State) (lg n tick tensor group node child : Nat) : Bool :=
  decide (stagedIn s lg + n ≤ stagingBytes) || nextInOrder s tick tensor group node child

/-- Stage a whole contribution of this module, or let it wait for room. -/
def stageOwn (c : Staged) (s : State) : State :=
  if mayStage s c.lg c.bytes.length c.tick c.tensor c.group c.node c.child then
    { s with ex := { s.ex with staging := s.ex.staging ++ [c] } }
  else { s with ex := { s.ex with ownWait := s.ex.ownWait ++ [c] } }

/-- Change the record of a RETURN's dense work. -/
def modReturn (tick step : Nat) (f : ReturnRun → ReturnRun) (s : State) : State :=
  let rs := if s.ex.returns.any fun r => r.tick == tick then s.ex.returns else s.ex.returns ++ [({ tick := tick, step := step } : ReturnRun)]
  { s with ex := { s.ex with returns := rs.map fun r => if r.tick = tick then f r else r } }

def returnRun (s : State) (tick : Nat) : ReturnRun := (s.ex.returns.find? fun r => r.tick == tick).getD ({ tick := tick, step := 0 } : ReturnRun)

/-- Hand a contribution to its node, here or on another chip. -/
def toNode (ts : TreeSet) (node child tick step tensor group kind fmt shear stage : Nat) (bs : List Byte) (s : State) : State :=
  let n := nodeAt ts node
  if n.chip = s.lg.chip then
    stageOwn { lg := n.lg, tensor, group, node, child, step, tick, fmt, shear, left := 0, bytes := bs } s
  else sendDense n.chip n.lg tick step tensor group kind fmt shear stage bs s

/-- The residual copy that the next commit's step reads, and the one it writes (R152). -/
def residCopy (t : Tensor) (c : Nat) : Nat := t.residBase + c * 4 * t.elements

/-- A leaf contribution of a group (R150, R152). -/
def sendLeaf (t : Tensor) (ts : TreeSet) (group tick step : Nat) (g : List Word32) (s : State) : State :=
  match leafParent t ts group s.lg.chip with
  | none => s
  | some (node, child) =>
    if t.shear = 0 then toNode ts node child tick step t.num group 0 t.gradFormat 0 0 (encodeRne t.gradFormat g) s
    else
      let c := s.commit.count % 2
      let off := 4096 * group
      match poisonIn s.mm (residCopy t c + off) (4 * g.length) with
      | some line => structPoison 2 line s
      | none =>
        let r := decodeElems false (memRead s.mm (residCopy t c + off) (4 * g.length))
        let x := (g.zip r).map fun p => add32 p.1 p.2
        let (bs, r') := shearGroup t x
        let s := putMem (residCopy t (1 - c) + off) (encodeElems false r') s
        toNode ts node child tick step t.num group 0 (if t.shear = 1 then 2 else 0) t.shear 0 bs s

/-! ## The all-gather (R151) -/

/-- Write one part of a group's image into the staged replica, or hold it back (R186). -/
def writeGather (t : Tensor) (tick step group part : Nat) (bs : List Byte) (s : State) : State :=
  if denseFree s t step then
    let n := groupLen t group
    let bs := bs.take (storedBytes t.wFormat n - 256 * part)
    let s := sliceWrite t.wFormat t.elements (imageAddr s t (1 - (effOf s t.num).image)) (1024 * group) n (256 * part) bs s
    let u : UpdatedTensor := { tick, step, tensor := t.num }
    modReturn tick step (fun r => { r with gathered := (t.num, group, part) :: r.gathered })
      { s with ex := { s.ex with updated := if s.ex.updated.contains u then s.ex.updated else u :: s.ex.updated } }
  else { s with ex := { s.ex with gatherHeld := s.ex.gatherHeld ++ [{ tick, step, tensor := t.num, group, part, bytes := bs }] } }

/-- Forward an all-gather part from a node to its children; nodes of this chip forward in turn. -/
def gatherDown (t : Tensor) (ts : TreeSet) (tick step group part : Nat) (bs : List Byte) : Nat → Nat → State → State
  | 0, _, s => s
  | fuel + 1, node, s =>
    (nodeAt ts node).children.foldl (fun s c =>
      let send := fun (dest lg : Nat) (s : State) =>
        sendWindowed (carriageTo s 0 dest lg (.dense {
          step32 := step % 2 ^ 32, tick16 := tick % 65536, tensor := t.num, group, part, kind := 2, fmt := t.wFormat, shear := 0,
          stage := nodeStage ts node, payload := padTo 256 bs })) s
      match c with
      | .leaf chip => if chip = s.lg.chip then writeGather t tick step group part bs s else send chip (nodeAt ts node).lg s
      | .node j =>
        let n := nodeAt ts j
        if n.chip = s.lg.chip then gatherDown t ts tick step group part bs fuel j s else send n.chip n.lg s) s

/-- Send a root's updated group down the tree, part by part. -/
def gatherRoot (t : Tensor) (ts : TreeSet) (tick step group node : Nat) (bs : List Byte) (s : State) : State :=
  (List.range (partsOf bs.length)).foldl (fun s p =>
    gatherDown t ts tick step group p ((bs.drop (256 * p)).take 256) (ts.nodes.length + 1) node s) s

/-! ## The root's update (R136) -/

def markNanSeen (lg : Nat) (s : State) : State := { s with ex := { s.ex with nanSeen := s.ex.nanSeen ||| (1 <<< lg) } }

/-- Report the NaN elements of a group (R66, R126). -/
def denseNans (t : Tensor) (f : Flock) (lg group : Nat) (nans : List (Nat × Nat × Nat)) (s : State) : State :=
  nans.foldl (fun s x =>
    let seen := s.ex.nanSeen.getLsbD lg
    siteNan 3 (uLg lg) seen (siteDetail group 1 t.num x.1 t.flock f.program x.2.1 lg x.2.2) (markNanSeen lg s)) s

/-- Run the flock program on a reduced group (R136); a slice that does not decode faults the job (R15): the stored weights, with the new state written beside the current one. A
tensor whose flock or program is not valid keeps its weights (log 27). -/
def updateGroup (t : Tensor) (ts : TreeSet) (lg tick step group : Nat) (g : List Word32) (s : State) : List Byte × State :=
  let n := groupLen t group
  let img := (effOf s t.num).image
  let wAddr := imageAddr s t img
  let w := sliceRead s t.wFormat t.elements wAddr (1024 * group) n
  match flockAt s tick t.flock with
  | none => (w, s)
  | some (f, p) =>
    let rooted := rootedGroups s t ts
    let m := (rooted.map (groupLen t)).sum
    let place := ((rooted.take (rooted.idxOf group)).map (groupLen t)).sum
    let ps : List (Nat × Nat) := (statePlaces f m).1
    let size := (statePlaces f m).2
    let sb := tabGet t.stateBase s.folds.stateBase t.num
    let olds : List Stored := ps.map fun v => (v.1, sliceRead s v.1 m (sb + img * size + v.2) place n)
    let bad : Option Nat := match slicePoison s t.wFormat t.elements wAddr (1024 * group) n with
      | some l => some l
      | none => ps.findSome? fun (v : Nat × Nat) => slicePoison s v.1 m (sb + img * size + v.2) place n
    let decodes := sliceOk s t.wFormat t.elements wAddr (1024 * group) n &&
      ps.all fun (v : Nat × Nat) => sliceOk s v.1 m (sb + img * size + v.2) place n
    if !decodes then (w, requestHalt s)
    else match bad with
    | some line => (w, structPoison 2 line s)
    | none =>
      let env : UpEnv := {
        g, k := f.k, scale := latchedScale s step t.flock f, gstep := step, rowstep := step + 1 - s.job.firstStep, dt := 1
        draw := fun i => srDraw step (srKey 1 t.num group i) }
      let vecs : List Stored := (t.wFormat, w) :: olds
      let run := runProgram p env n vecs
      let nans := weightNans run n
      let blocked := vecs.any fun v => codeScaled v.1
      let keep := fun i => nans.any fun x => x.1 == i || (blocked && x.1 / 32 == i / 32)
      let news := vecs.zipIdx.map fun (v : Stored × Nat) => mergeStored v.1.1 n v.1.2 (finalStore run env f.round v.2 v.1) keep
      let s := if stateNan run f.states.length n keep then tally tlStateNan s else s
      let s := denseNans t f lg group nans s
      let s := (ps.zipIdx).foldl (fun s (v : (Nat × Nat) × Nat) =>
        sliceWrite v.1.1 m (sb + (1 - img) * size + v.1.2) place n 0 (news.getD (v.2 + 1) []) s) s
      (news.getD 0 w, s)

/-! ## Node work (R150) -/

/-- A node all of whose children are staged sums them in child-list order and forwards or updates. -/
def nodeWork (t : Tensor) (ts : TreeSet) (tick group node : Nat) (s : State) : State :=
  let nd := nodeAt ts node
  let cs := s.ex.staging.filter (isStagedFor tick t.num group node)
  let full := (List.range nd.children.length).all fun k => cs.any fun c => c.child == k && c.left == 0
  match cs with
  | [] => s
  | c0 :: _ =>
    if !full || !denseFree s t c0.step then s
    else
      let n := groupLen t group
      let ins := (List.range nd.children.length).map fun k => match cs.find? fun c => c.child == k with
        | some c => decodeStaged n c
        | none => List.replicate n 0
      let sum := match ins with
        | [] => List.replicate n 0
        | h :: rest => rest.foldl (fun a b => (a.zip b).map fun p => add32 p.1 p.2) h
      let s := modReturn tick c0.step (fun r => { r with forwarded := (t.num, group, node) :: r.forwarded })
        { s with ex := { s.ex with staging := s.ex.staging.filter fun c => !isStagedFor tick t.num group node c } }
      match nd.parent with
      | some p =>
        toNode ts p (childPlace ts p node) tick c0.step t.num group 1 t.partialFormat 0 (nodeStage ts node)
          (encodeRne t.partialFormat sum) s
      | none =>
        let (bs, s) := updateGroup t ts nd.lg tick c0.step group sum s
        gatherRoot t ts tick c0.step group node bs s

/-- Work on every (tensor, group, node) that has something staged; a node may complete a parent of this module. -/
def denseRounds : Nat → State → State
  | 0, s => s
  | n + 1, s =>
    let keys := (s.ex.staging.map fun c => (c.tick, c.tensor, c.group, c.node)).dedup
    let s' := keys.foldl (fun s k =>
      match tensorOf s k.2.1 with
      | none => s
      | some t => match treeSetOf s t with
        | some ts => nodeWork t ts k.1 k.2.2.1 k.2.2.2 s
        | none => s) s
    if s'.ex.staging = s.ex.staging then s' else denseRounds n s'

/-! ## Staging (R150) -/

/-- The node and child position of an arriving leaf or partial-sum carriage. -/
def denseTarget (t : Tensor) (ts : TreeSet) (src lg : Nat) (m : DenseMsg) (s : State) : Option (Nat × Nat) :=
  (nodeRange t ts m.group).findSome? fun i =>
    let nd := nodeAt ts i
    if nd.chip = s.lg.chip && nd.lg = lg then
      (nd.children.findIdx? fun c => match c with
        | .leaf chip => m.kind == 0 && chip == src
        | .node j => m.kind == 1 && (nodeAt ts j).chip == src && nodeStage ts j == m.stage).map fun k => (i, k)
    else none

def contribBytes (t : Tensor) (m : DenseMsg) : Nat :=
  if m.shear = 0 then storedBytes m.fmt (groupLen t m.group) else if m.shear = 1 then 256 * shearParts t else 132

/-- Accept a DENSE carriage: it counts for its source (R149). -/
def acceptDense (src : Nat) (m : DenseMsg) (s : State) : State :=
  if src = s.lg.chip then s
  else { s with ex := { s.ex with gotCnt := countSet s.ex.gotCnt src m.tick16 (countOf s.ex.gotCnt src m.tick16 + 1) } }

/-- Stage one part of a contribution. -/
def stagePart (t : Tensor) (lg node child : Nat) (m : DenseMsg) (s : State) : State :=
  let n := contribBytes t m
  let step := expandStep s m.step32
  let tick := expandTick s m.tick16
  match s.ex.staging.findIdx? fun c => isStagedFor tick t.num m.group node c && c.child == child with
  | some i => match s.ex.staging[i]? with
    | some c => { s with ex := { s.ex with
        staging := s.ex.staging.set i { c with left := c.left - 1, bytes := (putAt c.bytes (256 * m.part) m.payload).take n } } }
    | none => s
  | none =>
    { s with ex := { s.ex with staging := s.ex.staging ++ [{
        lg, tensor := t.num, group := m.group, node, child, step, tick, fmt := m.fmt, shear := m.shear, left := partsOf n - 1
        bytes := (putAt (List.replicate n 0) (256 * m.part) m.payload).take n }] } }

/-- A DENSE carriage of an attempt that was abandoned, or of a step that has committed: it is accepted and discarded (R41,
R154). -/
def denseStale (s : State) (m : DenseMsg) : Bool :=
  let step := expandStep s m.step32
  s.run.abandoned.contains (step, expandTick s m.tick16) || !afterCommit s step

/-- A leaf or partial-sum carriage enters staging, or waits while staging is full and it is not the next child. -/
def takeDense (src lg : Nat) (m : DenseMsg) (s : State) : State :=
  if denseStale s m then acceptDense src m s
  else match tensorOf s m.tensor with
  | none => acceptDense src m s
  | some t => match treeSetOf s t with
    | none => acceptDense src m s
    | some ts => match denseTarget t ts src lg m s with
      | none => acceptDense src m s
      | some (node, child) =>
        let tick := expandTick s m.tick16
        let open_ := s.ex.staging.any fun c => isStagedFor tick t.num m.group node c && c.child == child
        if open_ || mayStage s lg (contribBytes t m) tick t.num m.group node child then
          stagePart t lg node child m (acceptDense src m s)
        else { s with ex := { s.ex with denseWait := s.ex.denseWait ++ [(src, lg, m)] } }

/-- An arriving all-gather part: the node it is for forwards it, or this module's replica takes it (R151). -/
def takeGather (src lg : Nat) (m : DenseMsg) (s : State) : State :=
  let s := acceptDense src m s
  if denseStale s m then s
  else match tensorOf s m.tensor with
  | none => s
  | some t => match treeSetOf s t with
    | none => s
    | some ts =>
      let step := expandStep s m.step32
      let tick := expandTick s m.tick16
      let senders := (nodeRange t ts m.group).filter fun i => (nodeAt ts i).chip == src && nodeStage ts i == m.stage
      let nodes := senders.flatMap fun i => (nodeAt ts i).children.filterMap fun c => match c with
        | .node j => if (nodeAt ts j).chip = s.lg.chip && (nodeAt ts j).lg = lg then some j else none
        | .leaf _ => none
      let fresh := nodes.filter fun j => !(returnRun s tick).passed.contains (t.num, m.group, m.part, j)
      match fresh with
      | j :: _ =>
        let s := modReturn tick step (fun r => { r with passed := (t.num, m.group, m.part, j) :: r.passed }) s
        gatherDown t ts tick step m.group m.part m.payload (ts.nodes.length + 1) j s
      | [] =>
        if senders.any fun i => (nodeAt ts i).children.contains (.leaf s.lg.chip) then
          writeGather t tick step m.group m.part m.payload s
        else s

/-- Go on with whatever dense work was held: waiting carriages, node work, all-gather writes. -/
def pumpDense (s : State) : State :=
  let s := denseRounds (s.ex.staging.length + 1) s
  let waiting := s.ex.denseWait
  let s := waiting.foldl (fun s w => takeDense w.1 w.2.1 w.2.2 s) { s with ex := { s.ex with denseWait := [] } }
  let own := s.ex.ownWait
  let s := own.foldl (fun s c => stageOwn c s) { s with ex := { s.ex with ownWait := [] } }
  let s := denseRounds (s.ex.staging.length + 1) s
  let held := s.ex.gatherHeld
  held.foldl (fun s h => match tensorOf s h.tensor with
    | some t => writeGather t h.tick h.step h.group h.part h.bytes s
    | none => s) { s with ex := { s.ex with gatherHeld := [] } }

/-! ## RETURN is complete (R149, R270) -/

/-- Every group of every tensor has been sent, summed at the nodes here, and gathered. -/
def denseDone (s : State) (tick : Nat) : Bool :=
  let r := returnRun s tick
  s.job.exchange.tensors.all fun t =>
    match treeSetOf s t with
    | none => true
    | some ts => (List.range (groupCount t)).all fun g =>
      r.sent.contains (t.num, g) &&
      ((nodeRange t ts g).all fun i => (nodeAt ts i).chip != s.lg.chip || r.forwarded.contains (t.num, g, i)) &&
      (List.range (partsOf (storedBytes t.wFormat (groupLen t g)))).all fun p => r.gathered.contains (t.num, g, p)

/-- The accepted counts equal the sent counts of a RETURN leg's tick. -/
def allAccepted (s : State) (tick : Nat) : Bool :=
  countTick s.ex.sentCnt (tick % 65536) == countTick s.ex.accCnt (tick % 65536) &&
    !s.ex.heldOut.any fun c => windowKind c == some 2 && carriageTick c == tick % 65536

def returnReady (s : State) (tick : Nat) : Bool := allAccepted s tick && denseDone s tick

end Sys2Proof.Machine
end

