-- ==== Sys2Proof/Machine/Commit.lean ====
section
/-! DEFINITION. Opening and committing an APPLY (R103, R104, R107), the step counters (R135), the GSCALE latch (R133), and
restoring pre-images (R111, R113). -/

namespace Sys2Proof.Machine

/-! ## GSCALE latch (R133) -/

/-- Key of an entry: bank, then flock. -/
def gscaleKey (bank flock : Nat) : Nat := 256 * bank + flock

/-- Latch bank s mod 2 for a step: the written scale of each valid flock, or its default, which counts. -/
def latchGscale (step tick : Nat) (s : State) : State :=
  let valid := s.tb.flocks.filterMap fun e => (versionAt tick e.2).map fun f => (e.1, f)
  let hit := fun (n : Nat) =>
    let g := tabGet {} s.tb.gscale (gscaleKey (step % 2) n)
    if g.written && g.tag == BitVec.ofNat 32 step then some g.scale else none
  let scales := valid.map fun e => (e.1, (hit e.1).getD e.2.gscaleDefault)
  let s := tallyBy tlGscaleDefault (valid.countP fun e => (hit e.1).isNone) s
  { s with tb := { s.tb with latches := { step, scales } :: (s.tb.latches.filter fun l => l.step ≠ step).take 3 } }

/-! ## Step counters (R135) -/

/-- STEP_SKEW: a site's counter differs from the step it applies; the header value wins. -/
def checkSkew (key : Nat) (unit : UnitId) (step : Nat) (s : State) : State :=
  let c := tabGet 0 s.tb.counters key
  if c = step then s
  else
    raise evStepSkew sevWarn unit (leBytes 8 c ++ leBytes 8 step)
      { s with tb := { s.tb with counters := tabSet 0 s.tb.counters key step } }

/-- A step commits: every site's counter advances by one. -/
def advanceCounters (s : State) : State :=
  { s with tb := { s.tb with counters := (List.range 16).foldl (fun t k => tabSet 0 t k (tabGet 0 t k + 1)) s.tb.counters } }

def setCounters (step : Nat) (s : State) : State :=
  { s with tb := { s.tb with counters := (List.range 16).foldl (fun t k => tabSet 0 t k step) s.tb.counters } }

/-! ## Opening an APPLY -/

/-- Start the APPLY of a step: OPEN_STEP and OPEN_SEQ in one write, and the dies' operations (R103). -/
def openApply (step leg : Nat) (s : State) : State :=
  let s := match s.snap with
    | some n => if n.paused then voidSnapshot 0 0xFF s else s
    | none => s
  let s := { s with
    commit := { s.commit with openStep := step, openSeq := s.commit.seq + 1, rollbackOk := false }
    run := { s.run with applyStep := some step } }
  let s := (List.range 4).foldl (fun s d => checkSkew d (uMd d) step s) s
  let s := if s.tb.latches.any fun l => l.step == step then s else latchGscale step s.tk.tick s
  let s := (List.range 4).foldl (fun s d => startApplyDie step s.tk.tick leg d s) s
  { s with repairsDue := [], bulk := { s.bulk with follow := [] } }

/-! ## Handover release (R158) -/

/-- Every step begun before a tick has been applied or abandoned. -/
def stepsBeforeDone (s : State) (tick : Nat) : Bool :=
  s.commit.openStep == allOnes && s.ru.all fun r => r.2.gens.all fun g => !(uncommitted s g && decide (g.tick < tick))

/-- The slots that a table's rows of a position take up on its old owner: its whole stripes, and the last one as far as it
goes. -/
def positionSlots (s : State) (h : Handover) (rows : Nat) : Nat :=
  match s.job.exchange.maps[h.map]? with
  | none => 0
  | some om =>
    let st := 2 ^ om.stripeLog2
    let n := om.pos.length
    let full := rows / st
    (full + n - 1 - h.pos) / n * st + (if full % n = h.pos then rows % st else 0)

/-- Release a position on its old owner: follow copies stop, its paddock ways are invalidated without write-back. -/
def releasePosition (h : Handover) (s : State) : State :=
  let s := s.tb.tables.foldl (fun s t =>
    if t.2.desc.mode ≠ 2 && t.2.desc.ownerMap = h.map then
      releaseWays t.2.desc h.oldDie h.oldBase (positionSlots s h t.2.desc.rowCount) s
    else s) s
  { s with handovers := s.handovers.map fun x => if x = h then { x with copying := false, released := true } else x }

/-- Release every position that is due. -/
def releaseHandovers (s : State) : State :=
  let due := s.handovers.filter fun h => h.switched && !h.released && stepsBeforeDone s (h.switchTick.getD 0)
  let s := due.foldl (fun s h =>
    if h.oldChip = s.lg.chip then releasePosition h s
    else { s with handovers := s.handovers.map fun x => if x = h then { x with released := true } else x }) s
  if due.isEmpty then s else saveRecord s

/-! ## COMMIT -/

/-- Every die of the module has reported done. -/
def diesDone (s : State) : Bool := (List.range 4).all fun d => (getRu s d).done

def commitDie (d : Nat) (s : State) : State :=
  let mark := s.commit.ringMark.getD d 0
  modRu d (fun r =>
    { r with
      state := if r.gens.any fun g => uncommitted s g && g.step != some s.commit.openStep && !g.touched.isEmpty then 1 else 0
      done := false
      lastSeg := if s.commit.tickAtomic then ((r.wptr + r.ringSize / 64 - mark) % (r.ringSize / 64)) * 64 else 0 }) s

/-- Promotions held for the commit go on (R84). -/
def resumePromotions (d : Nat) (s : State) : State :=
  let held := (getRu s d).heldMig
  held.foldl (fun s o => match o.kind, getTable s o.table with
    | .promote _, some _ => enqueueOp d o s
    | _, some t => tryPromote t.desc d o s
    | _, none => s) (modRu d (fun r => { r with heldMig := [] }) s)

/-- The commit record of the open step is written (R104, R107). -/
def commitStep (s : State) : State :=
  let st := s.commit.openStep
  let s := (List.range 4).foldl (fun s d => commitDie d s) s
  let flips := ((s.ex.updated.filter fun u => u.step == st).map (·.tensor)).dedup ++ derivedRegions s
  let s := flipImages flips s
  let marks := (List.range 4).map fun d => (getRu s d).wptr
  let s := { s with
    commit := { s.commit with
      step := st, tick := s.tk.tick, seq := s.commit.openSeq, openStep := allOnes, ringMark := marks
      prevMark := s.commit.ringMark, rollbackOk := s.commit.tickAtomic, valid := true, count := s.commit.count + 1
      flipped := flips }
    ex := { s.ex with updated := s.ex.updated.filter fun u => u.step != st }
    run := { s.run with applyStep := none, ownAck := { s.run.ownAck with committed := some st } } }
  let s := advanceCounters s
  let s := freeSamples st s
  let s := (List.range 4).foldl (fun s d => resumePromotions d s) s
  let s := releaseHandovers s
  let s := pumpDense (saveRecord s)
  let s := checkCommitted st s
  if s.run.halting then finishHalt (recordApplyEnd st s) else s

/-- COMMIT: all four dies are done and every write is accepted (R104). -/
def execCommit (now : Nat) (s : State) : Res :=
  let s := atTime now s
  .next (if s.commit.openStep ≠ allOnes && diesDone s then commitStep s else s)

/-! ## Restoring pre-images (R111, R113) -/

/-- Restore the pre-images that a valid index block at ring offset `p` lists; the position after the last, and the count. -/
def restoreBlock (r : RowUnit) (blk : List Byte) (p : Nat) (s : State) : Nat × Nat × State :=
  (List.range 6).foldl (fun (acc : Nat × Nat × State) k =>
    let e := leAt blk (8 + 8 * k) 8
    let (q, n, s) := acc
    if e.testBit 63 then
      let size := e / 2 ^ 42 % 512 * 64
      (q + size, n + 1, putMem (e % 2 ^ 42 * 64) ((ringRead s r q size).take size) s)
    else (q, n, s)) (p + 64, 0, s)

/-- Bytes of the pre-images that an index block lists. -/
def listedBytes (blk : List Byte) : Nat :=
  ((List.range 6).map fun k =>
    let e := leAt blk (8 + 8 * k) 8
    if e.testBit 63 then e / 2 ^ 42 % 512 * 64 else 0).sum

/-- A poisoned line among `n` bytes of a ring. -/
def ringPoison (s : State) (r : RowUnit) (off n : Nat) : Option Nat :=
  (((List.range ((n + 63) / 64)).map fun i => (r.ringBase + (off + 64 * i) % r.ringSize) / 64).find? (linePoisoned s.mm)).map (· * 64)

/-- Restore batches from offset `p` on while their blocks carry `seq`; blocks read, at most `fuel`. A poisoned line ends it as
failed (R115, R312; log 65). -/
def restoreFrom (r : RowUnit) (seq : Nat) : Nat → Nat → Nat → State → Nat × Bool × State
  | 0, _, n, s => (n, false, s)
  | fuel + 1, p, n, s =>
    let blk := ringRead s r p 64
    match (ringPoison s r p 64).or (if leAt blk 0 8 = seq then ringPoison s r (p + 64) (listedBytes blk) else none) with
    | some line => (n, true, structPoison 3 line s)
    | none =>
      if leAt blk 0 8 ≠ seq || crc64 (blk.take 56) ≠ BitVec.ofNat 64 (leAt blk 56 8) then (n, false, s)
      else
        let (q, k, s) := restoreBlock r blk p s
        restoreFrom r seq fuel q (n + k) s

/-- Restore one die's batches from a mark (in 64-byte units): pre-images restored, whether it failed. -/
def restoreDie (d mark seq : Nat) (s : State) : Nat × Bool × State :=
  let r := getRu s d
  restoreFrom r seq (r.ringSize / 64) (mark * 64) 0 s

/-- Tick-atomic recovery (R111): every valid batch of the open APPLY goes back, OPEN_STEP is cleared, both generations are
discarded. -/
def recoverAtomic (s : State) : State :=
  if s.commit.openStep = allOnes then
    emptyGens (fun _ => true) { s with ru := s.ru.map fun e => (e.1, { e.2 with recResult := 0, recRows := 0 }) }
  else
    let s := (List.range 4).foldl (fun s d =>
      let (n, bad, s) := restoreDie d (s.commit.ringMark.getD d 0) s.commit.openSeq s
      modRu d (fun r => { r with recResult := if bad then 3 else 1, recRows := n, wptr := s.commit.ringMark.getD d 0 }) s) s
    emptyGens (fun _ => true) { s with commit := { s.commit with openStep := allOnes } }

/-- COMMIT_ROLLBACK's effect (R113): the last committed step's pre-images, images and step go back. -/
def rollbackCommit (s : State) : State :=
  let s := (List.range 4).foldl (fun s d =>
    let mark := s.commit.prevMark.getD d 0
    let (_, _, s) := restoreDie d mark s.commit.seq s
    modRu d (fun r => { r with wptr := mark, lastSeg := 0 }) s) s
  let s := flipImages s.commit.flipped s
  let step := (s.commit.step + 2 ^ 64 - 1) % 2 ^ 64
  let s := { s with commit := { s.commit with
    step, ringMark := s.commit.prevMark, rollbackOk := false, count := s.commit.count - 1, flipped := [] } }
  saveRecord (setCounters (step + 1) s)

/-! ## The walk without tick-atomic mode (R112) -/

/-- One touched row of the walk: torn rows are poisoned; (torn, written completely). -/
def walkRow (step d : Nat) (e : Touched) (s : State) : Bool × Bool × State :=
  match getTable s e.table with
  | none => (false, false, s)
  | some t =>
    let (loc, _) := locate s t.desc t.current d e.slot
    let rec_ := memRead s.mm loc (recordBytes t.desc)
    if (poisonIn s.mm loc (recordBytes t.desc)).isSome then (false, false, s)
    else if recEpoch rec_ ≠ recTrailer t.desc rec_ then
      (true, false, putMem (loc + 1) [setFlag (recFlags rec_) 0 true] (tally tlRowTorn s))
    else (false, leAt rec_ 4 4 == step % 2 ^ 32, s)

/-- A poisoned line of the structures that the walk of an entry reads: its touched-list entry, its tag line. -/
def walkPoison (s : State) (step d : Nat) (e : Touched) : Option Nat :=
  match getTable s e.table with
  | none => none
  | some t => (poisonIn s.mm (slotAddress (getRu s d) step e.slotOff + slotBytes t.desc.width) 32).or (tagPoison s t.desc d e.slot)

/-- The walk of one die. A poisoned line of its structures ends it as failed (R115, R312; log 65). -/
def walkDie (step d : Nat) (s : State) : State :=
  let g := genOf (getRu s d) step
  let list := if g.step = some step then g.touched else []
  match list.findSome? (walkPoison s step d) with
  | some line => modRu d (fun r => { r with recResult := 3, recRows := 0 }) (structPoison 3 line s)
  | none =>
  let (torn, done, first, s) := list.foldl (fun (acc : Nat × Nat × Option Touched × State) e =>
    let (torn, done, first, s) := acc
    let (x, y, s) := walkRow step d e s
    (torn + (if x then 1 else 0), done + (if y then 1 else 0), (if x && first.isNone then some e else first), s)) (0, 0, none, s)
  let s := match first with
    | some e => raise evRowTorn sevDegrade (uMd d) (rowDetail e.row d e.table ++ leBytes 4 torn ++ leBytes 1 1) s
    | none => s
  modRu d (fun r => { r with recResult := 2, recRows := torn, touched := list.length, applied := done }) s

/-- The recovery walk of the first resuming PLAN_LOAD (R112). -/
def recoveryWalk (s : State) : State :=
  let st := s.commit.openStep
  let s := if st = allOnes then { s with ru := s.ru.map fun e => (e.1, { e.2 with recResult := 0, recRows := 0 }) }
    else (List.range 4).foldl (fun s d => walkDie st d s) s
  emptyGens (fun _ => true) { s with commit := { s.commit with openStep := allOnes } }

end Sys2Proof.Machine
end

