-- ==== Sys2Proof/Machine/Snapshots.lean ====
section
/-! DEFINITION. Snapshots (R204 to R210): what a snapshot copies, its boundary, its walk and its completions. -/

namespace Sys2Proof.Machine

/-! ## Sections (R206, R207) -/

/-- Shards of a tensor rooted here, with their groups. -/
def rootedShards (s : State) (t : Tensor) (ts : TreeSet) : List (Nat × List Nat) :=
  let gs := rootedGroups s t ts
  ((List.range ts.shards.length).map fun i => (i, gs.filter fun g => g / shardSpan t ts == i)).filter fun x => !x.2.isEmpty

def groupElems (t : Tensor) (gs : List Nat) : Nat := (gs.map (groupLen t)).sum

/-- One copy of R206: kind, number, and the (format, elements in all, address, first element, elements) of its vectors. -/
structure CopyOf where
  kind : Nat
  num : Nat
  vecs : List (Nat × Nat × Nat × Nat × Nat) := []
  /-- plain bytes: address and length -/
  span : Nat × Nat := (0, 0)
  deriving DecidableEq, Repr

/-- The image of a region that the snapshot takes. -/
def snapImage (images : List (Nat × Nat)) (region : Nat) : Nat := ((images.find? fun x => x.1 == region).map (·.2)).getD 0

def stateCopies (s : State) (images : List (Nat × Nat)) (tick : Nat) (t : Tensor) : List CopyOf :=
  match treeSetOf s t, flockOf s tick t with
  | some ts, some f =>
    let gs := rootedGroups s t ts
    let m := groupElems t gs
    let (ps, size) := statePlaces f m
    let at_ := tabGet t.stateBase s.folds.stateBase t.num + snapImage images t.num * size
    (rootedShards s t ts).map fun x =>
      let first := groupElems t (gs.filter fun g => (g : Nat) / shardSpan t ts < x.1)
      { kind := 6, num := x.1, vecs := ps.map fun v => (v.1, m, at_ + v.2, first, groupElems t x.2) }
  | _, _ => []

/-- The copies of R206, in the order of their sections. -/
def snapCopies (s : State) (bell : Bool) (images : List (Nat × Nat)) (tick count : Nat) : List CopyOf :=
  let ts := sortBy (fun a b => decide (a.num ≤ b.num)) s.job.exchange.tensors
  let frozen := s.job.header.regions.zipIdx.filter fun r => r.1.kind == 2
  (if bell then ts.map fun t =>
      { kind := 5, num := t.num, span := (imageAddr s t (snapImage images t.num), imgBytes t.wFormat t.elements) } else []) ++
    ts.flatMap (stateCopies s images tick) ++
    ((ts.filter fun t => t.shear != 0).map fun t => { kind := 7, num := t.num, span := (residCopy t (count % 2), 4 * t.elements) }) ++
    (if bell then frozen.map fun r => { kind := 8, num := r.2, span := ((effOf s (4096 + r.2)).base, r.1.bytes) } else [])

def copyLen (c : CopyOf) : Nat := c.span.2 + (c.vecs.map fun v => storedBytes v.1 v.2.2.2.2).sum

def copyBytes (s : State) (c : CopyOf) : List Byte :=
  memRead s.mm c.span.1 c.span.2 ++ c.vecs.flatMap fun v => sliceRead s v.1 v.2.1 v.2.2.1 v.2.2.2.1 v.2.2.2.2

def copyPoison (s : State) (c : CopyOf) : Bool :=
  (poisonIn s.mm c.span.1 c.span.2).isSome || c.vecs.any fun v => (slicePoison s v.1 v.2.1 v.2.2.1 v.2.2.2.1 v.2.2.2.2).isSome

/-- Sections 1 to 3: descriptors with CURRENT, flocks, programs, as in effect for a tick. -/
def tableSections (s : State) (tick : Nat) : List (Nat × List Byte) :=
  [(1, s.tb.tables.flatMap fun t => putAt (padTo 256 t.2.desc.raw) 3 [BitVec.ofNat 8 t.2.current]),
   (2, (List.range 256).flatMap fun n => padTo 128 ((((tabFind s.tb.flocks n).bind (versionAt tick)).map (·.raw)).getD [])),
   (3, (List.range 64).flatMap fun n => padTo 160 ((((tabFind s.tb.programs n).bind (versionAt tick)).map (·.raw)).getD []))]

/-- One records section per table and die that has slots. -/
def recordSections (s : State) : List Section :=
  (s.tb.tables.filter fun t => t.2.desc.mode != 2).flatMap fun t =>
    ((List.range 4).filter fun d => t.2.desc.localRows.getD d 0 != 0).map fun d =>
      { kind := 4, die := d, num := t.1, offset := 0, length := t.2.desc.localRows.getD d 0 * recordBytes t.2.desc }

/-- Give sections their stream offsets: each starts on a 1 MiB boundary. -/
def placeSections (secs : List Section) : List Section :=
  (secs.foldl (fun (acc : Nat × List Section) c =>
    (acc.1 + unitsOf c.length * streamUnit, acc.2 ++ [{ c with offset := acc.1 }])) (0, [])).2

def snapSections (s : State) (bell : Bool) (images : List (Nat × Nat)) (tick count : Nat) : List Section :=
  let plain := (tableSections s tick).map fun x => ({ kind := x.1, die := 0, num := 0, offset := 0, length := x.2.length } : Section)
  let copies := (snapCopies s bell images tick count).map fun c =>
    ({ kind := c.kind, die := 0, num := c.num, offset := 0, length := copyLen c } : Section)
  placeSections (plain ++ recordSections s ++ copies ++ [{ kind := 9, die := 0, num := 0, offset := 0, length := 0 }])

/-- Images current now, of every region. -/
def imagesNow (s : State) : List (Nat × Nat) := s.folds.eff.map fun e => (e.1, e.2.image)

/-- Stream units without EARLY, as a snapshot started now would have them. -/
def streamUnits (s : State) : Nat :=
  ((snapSections s s.tk.bellwether (imagesNow s) s.tk.tick s.commit.count).map fun c => unitsOf c.length).sum

/-- The least WORK_SIZE (R204). -/
def workNeed (s : State) : Nat :=
  let bits := (s.tb.tables.map fun t => if t.2.desc.mode = 2 then 0 else (t.2.desc.localRows.take 4).sum).sum
  (bits + 7) / 8 + ((snapCopies s s.tk.bellwether (imagesNow s) s.tk.tick s.commit.count).map copyLen).sum + 4 * exportBuffer

/-- Where the copies stand in the work area: after the exported bitmaps, one after another, without gaps (log 34). -/
def copyPlaces (s : State) (base : Nat) (cs : List CopyOf) : List Nat :=
  let bits := (s.tb.tables.map fun t => if t.2.desc.mode = 2 then 0 else (t.2.desc.localRows.take 4).sum).sum
  (cs.foldl (fun (acc : Nat × List Nat) c => (acc.1 + copyLen c, acc.2 ++ [acc.1])) (base + (bits + 7) / 8, [])).2

/-! ## The boundary of S (R205, R206) -/

/-- At the boundary of tick S: what is current there is noted, and from now on captures precede writes. -/
def snapBoundary (tick : Nat) (s : State) : State :=
  match s.snap with
  | some n =>
    if n.started || tick < n.tick then s
    else { s with snap := some { n with
      started := true, commitStep := s.commit.step, count := s.commit.count, images := imagesNow s
      planDigest := s.job.exchange.digest, bellwether := s.tk.bellwether } }
  | none => s

/-- The first row of a die's walk. -/
def walkStart (s : State) (die : Nat) : Option (Nat × Nat) := ((recordTables s die).head?).map fun t => (t, 0)

/-- SNAPSHOT_TICK: the copies of R206 are made in the work area and the export walk starts. A poisoned line voids the snapshot (R312). -/
def takeSnapshot (s : State) : State :=
  match s.snap with
  | some n =>
    if !n.started || n.copied then s
    else
      let cs := snapCopies s n.bellwether n.images n.tick n.count
      if cs.any (copyPoison s) then voidSnapshot 1 0xFF s
      else
        let secs := snapSections s n.bellwether n.images n.tick n.count
        let first := 3 + (recordSections s).length
        let tables := (tableSections s n.tick).zipIdx.map fun x => (x.2, x.1.2)
        let copies := (cs.zip (copyPlaces s n.workBase cs)).zipIdx.map fun x => (first + x.2, x.1.2, copyLen x.1.1)
        let data := (cs.zip (copyPlaces s n.workBase cs)).map fun x => (x.2, copyBytes s x.1)
        let s := data.foldl (fun s x => putMem x.1 x.2 s) { s with snap := some { n with copied := true, sections := secs, tables, copies } }
        let s := (List.range 4).foldl (fun s d => walkTo d (walkStart s d) s) s
        pumpDense (pumpStream s)
  | none => s

def execSnapshotTick (now : Nat) (s : State) : Res := .next (takeSnapshot (atTime now s))

/-! ## Completions (R208, R209) -/

/-- Stream MiB of a place on an extent. -/
def mibOf (n : Snapshot) (extent mib : Nat) : Nat := (mib - 1) * n.extents.length + extent

/-- A stream write has completed at its target: the dies' cursors advance over completed writes only. -/
def mibDone (extent mib : Nat) (s : State) : State :=
  match s.snap with
  | none => s
  | some n =>
    let k := mibOf n extent mib
    if !n.issued.contains k || n.doneMib.contains k then s
    else
      let n := { n with doneMib := k :: n.doneMib }
      pumpStream { s with snap := some { n with cursors := (List.range 4).map fun d => donePrefix n.doneMib (dieUnits n d) } }

/-- The manifest is written: SNAPSHOT_START completes (R208). -/
def snapshotDone (s : State) : State :=
  match s.snap with
  | none => s
  | some n =>
    let s := { s with snap := none }
    match s.hq.started.find? fun c => c.opcode == 0x0040 && c.slot == n.slot && c.tag == n.tag with
    | some c => finishStarted c 0 [] s
    | none => s

/-- SNAPSHOT_WRITE_COMPLETE: `mib` counts from the extent's start; the first MiB of extent 0 is the manifest's. -/
def execSnapshotWriteComplete (now extent mib : Nat) (s : State) : Res :=
  let s := atTime now s
  .next (match s.snap with
    | none => s
    | some n =>
      if n.extents.length ≤ extent then s
      else if mib = 0 then (if extent = 0 && n.manifestOut then snapshotDone s else s)
      else mibDone extent mib s)

/-- SNAPSHOT_TARGET_ERROR: the snapshot is void (R209). -/
def execSnapshotTargetError (now extent : Nat) (s : State) : Res := .next (voidSnapshot 1 extent (atTime now s))

/-! ## Resuming after a module warm reset (R209, R406) -/

/-- The position at which a die's walk goes on. -/
def walkResume (s : State) (n : Snapshot) (die : Nat) : Option (Nat × Nat) :=
  match (n.walked.filter fun w => w.2.1 == die).getLast? with
  | some (t, _, slot, _) => walkAfter s die t slot
  | none => walkStart s die

/-- The stream MiB known complete after a warm reset: those below the dies' cursors, and the captures ahead of writes that were
confirmed complete. -/
def confirmedMib (n : Snapshot) : List Nat :=
  ((List.range 4).flatMap fun d => (dieUnits n d).take (n.cursors.getD d 0)) ++
    n.doneMib.filter fun k => (earlyUnits n 0 (n.early.flatMap earlyEntry).length).contains k

/-- Every extent is bound again: the stream goes on from the cursors. -/
def resumeSnapshot (s : State) : State :=
  match s.snap with
  | none => s
  | some n =>
    let s := { s with snap := some { n with
      paused := false, issued := confirmedMib n, doneMib := confirmedMib n, manifestOut := false } }
    if n.copied then
      let s := (List.range 4).foldl (fun s d => if n.walkDone.getLsbD d then s else walkTo d (walkResume s n d) s) s
      pumpStream s
    else s

/-- The n-th NVMF_ATTACH after the load binds extent n - 1. -/
def rebindExtent (handle : Nat) (s : State) : State :=
  match s.snap with
  | none => s
  | some n =>
    if !n.paused || s.job.state = 0 then s
    else
      let ext := n.extents.zipIdx.map fun x => if x.2 = n.rebound then { x.1 with handle } else x.1
      let s := { s with snap := some { n with extents := ext, rebound := n.rebound + 1 } }
      if n.extents.length ≤ n.rebound + 1 then resumeSnapshot s else s

end Sys2Proof.Machine
end

