-- ==== Sys2Proof/Machine/Trees.lean ====
section
/-! DEFINITION. Digest regions, blocks, trees, and the slices of a round (R187 to R190). -/

namespace Sys2Proof.Machine

/-! ## Regions, blocks and trees (R188, R189) -/

def blockBytes : Nat := 0x10000

/-- Bytes of a present region's image: a tensor's IMG, a replica region's BYTES. -/
def regionBytes (s : State) (r : Nat) : Nat :=
  if r < 4096 then (tensorOf s r).elim 0 fun t => imgBytes t.wFormat t.elements
  else (s.job.header.regions[r - 4096]?).elim 0 fun e => if e.kind = 0 then 0 else e.bytes

/-- Present regions, in ascending number. -/
def presentRegions (s : State) : List Nat := (s.folds.eff.filter fun e => e.2.present).map (·.1)

/-- Address of an image of a region (R185, R187). -/
def regionAddr (s : State) (r image : Nat) : Nat :=
  if r < 4096 then (tensorOf s r).elim 0 fun t => imageAddr s t image
  else if image = 0 then (effOf s r).base
  else (s.job.header.regions[r - 4096]?).elim 0 (·.base1)

def regionBlocks (s : State) (r : Nat) : Nat := (regionBytes s r + blockBytes - 1) / blockBytes

/-- Bytes of one block: the last one holds what remains. -/
def blockLen (s : State) (r b : Nat) : Nat := min blockBytes (regionBytes s r - b * blockBytes)

def blockAddr (s : State) (r image b : Nat) : Nat := regionAddr s r image + b * blockBytes

/-- Read a block with the digest engine; a poisoned line halts the job (R312). -/
def readBlock (r image b : Nat) (s : State) : List Byte × State :=
  let a := blockAddr s r image b
  let n := blockLen s r b
  (memRead s.mm a n, match poisonIn s.mm a n with
    | some line => structPoison 2 line s
    | none => s)

/-- Parents of a level: the digest over up to 16 children (R189). -/
def parentsFuel : Nat → List Word64 → List Word64
  | 0, _ => []
  | n + 1, ds => if ds.isEmpty then [] else crc64 ((ds.take 16).flatMap fun d => leBytes 8 d.toNat) :: parentsFuel n (ds.drop 16)

def parents (ds : List Word64) : List Word64 := parentsFuel ds.length ds

/-- Level `k` of a region's tree above its leaves. -/
def treeLevel (leaves : List Word64) : Nat → List Word64
  | 0 => leaves
  | k + 1 => parents (treeLevel leaves k)

/-- The level that has one node: ceil(log16 n). -/
def topLevel (n : Nat) : Nat := if n ≤ 1 then 0 else Nat.log2 (n - 1) / 4 + 1

def regionRoot (leaves : List Word64) : Word64 := (treeLevel leaves (topLevel leaves.length)).headD 0

/-- Leaves of a region in block order. -/
def leavesOf (ls : List (Nat × Nat × Word64)) (s : State) (r : Nat) : List Word64 :=
  (List.range (regionBlocks s r)).map fun b => ((ls.find? fun x => x.1 == r && x.2.1 == b).map (·.2.2)).getD 0

def moduleRoot (s : State) : Word64 :=
  crc64 ((presentRegions s).flatMap fun r => leBytes 8 (regionRoot (leavesOf s.digest.leaves s r)).toNat)

/-! ## Rounds (R190) -/

def digestSpan (s : State) : Nat := s.job.header.digestInterval / 2

/-- The slice of a block. -/
def sliceOf (s : State) (r b : Nat) : Nat := b * digestSpan s / regionBlocks s r

/-- The bellwether now. -/
def bellNow (s : State) : Nat := s.job.exchange.candidates.getD s.run.candidate 0

/-- Blocks of slice `j`, by region and block. -/
def sliceBlocks (s : State) (j : Nat) : List (Nat × Nat) :=
  (presentRegions s).flatMap fun r => ((List.range (regionBlocks s r)).filter fun b => sliceOf s r b == j).map fun b => (r, b)

def digestBlock (s : State) (rb : Nat × Nat) : State :=
  let image := ((s.digest.sliceImages.find? fun x => x.1 == rb.1).map (·.2)).getD 0
  let (bs, s) := readBlock rb.1 image rb.2 s
  { s with digest := { s.digest with leaves := s.digest.leaves ++ [(rb.1, rb.2, crc64 bs)] } }

/-- A module root reaches the bellwether's list. -/
def noteRoot (chip round : Nat) (root : Option Word64) (s : State) : State :=
  if s.digest.round = some round && !s.digest.compared then
    { s with digest := { s.digest with roots := s.digest.roots.filter (fun x => x.1 != chip) ++ [(chip, root)] } }
  else s

/-- Send the module root, marked void after a miss. -/
def sendRoot (round : Nat) (s : State) : State :=
  let root := moduleRoot s
  if bellNow s = s.lg.chip then noteRoot s.lg.chip round (if s.digest.void then none else some root) s
  else originate 3 (bellNow s) 0 (.digestRoot round root s.digest.void) s

/-- A slice has ended: the next one is due, or the module root is sent. -/
def endSlice (round : Nat) (s : State) : State :=
  let s := pumpDense { s with digest := { s.digest with slices := s.digest.slices + 1, sliceImages := [] } }
  if s.digest.slices = digestSpan s then sendRoot round s else s

/-- A slice misses its deadline: the round is void on this module, and the miss counts (R190). -/
def missSlice (round : Nat) (s : State) : State :=
  endSlice round (tally tlDigestLate { s with digest := { s.digest with void := true } })

/-- At the boundary of `tick`: slices whose deadline has passed and that have not ended are missed (R190). -/
def missSlices (tick : Nat) (s : State) : State :=
  match s.digest.round with
  | none => s
  | some c => (List.range (min (tick - c) (digestSpan s) - s.digest.slices)).foldl (fun s _ => missSlice c s) s

end Sys2Proof.Machine
end

