-- ==== Sys2Proof/Machine/Boundary.lean ====
section
/-! DEFINITION. Tick boundaries: MARK (R28 to R34), starting a tick with every change effective at it (R7, R24, R34, R198,
R264), holdover (R32), stretches (R39), and the moves of tiles (R264). -/

namespace Sys2Proof.Machine

/-! ## Bellwether handover (R34) -/

/-- This module sources the MARK of a tick: a handover effective at it names this chip, or the module is the bellwether. -/
def sources (s : State) (tick : Nat) : Bool :=
  match s.tk.handover with
  | some (n, c) => if n ≤ tick then c == s.lg.chip else s.tk.bellwether
  | none => s.tk.bellwether

/-- TK_PARENT of this module's place in the MARK tree. -/
def setParent (s : State) : State :=
  let p := markPlace s
  { s with tk := { s.tk with
      parentLi := p.parent, depth := p.depth, parentChip := if p.parent = 0x7F then 0 else wiredChip s p.parent } }

/-- The handover effective at a tick takes its role. -/
def handOver (tick : Nat) (s : State) : State :=
  match s.tk.handover with
  | some (n, c) =>
    if n ≤ tick then
      let k := s.job.exchange.candidates.idxOf c
      setParent { s with
        tk := { s.tk with handover := none, bellwether := c == s.lg.chip }
        run := { s.run with candidate := k, acks := [], haltSent := false, lateLog := [] } }
    else s
  | none => s

/-- The bellwether halts the job; any other module halts itself (R25, R32). -/
def haltOwn (s : State) : State := if s.tk.bellwether then haltTree s else beginHalt (requestHalt s)

/-- MARK_LOST (R32, R435): the tick it concerns, and the mismatching MARK for causes 1 and 3. -/
def markLost (cause sev tick : Nat) (m : Option MarkMsg) (s : State) : State :=
  raise evMarkLost sev uModule (leBytes 1 cause ++ leBytes 1 s.tk.holdoverTicks ++ leBytes 2 s.tk.parentChip ++
    leBytes 4 (ttIdOf (governing s tick)) ++ leBytes 4 ((m.map (·.ttId)).getD 0) ++ leBytes 1 ((m.map (·.slot)).getD 0)) s

/-- The local time of one period. On the bellwether of a job whose TK_TIME_SRC selects PTP or PPS_IN it follows facility
time: the local time that passed between its last two synchronisations, for the facility time that passed (R33). -/
def tickNs (s : State) : Nat :=
  match (if s.tk.bellwether && s.tk.timeSrc != 0 then s.net.rate else none) with
  | some (f, l) => if f = 0 then periodNs s else periodNs s * l / f
  | none => periodNs s

/-! ## Tile moves (R264) -/

/-- A tile may be moved: between legs, with no busy token. -/
def liftable (t : Tile) : Bool :=
  !outstanding t && (!t.issuing || t.trap.isSome || t.tag.isNone || (match t.blocked with
    | .leg _ _ _ => true
    | _ => false))

/-- Take a logical tile out of its place. -/
def liftTile (logical p : Nat) (s : State) : State :=
  { s with tiles := { s.tiles with
      parked := tabPut s.tiles.parked logical (getTile s p)
      tile := tabDel s.tiles.tile p
      map := tabDel s.tiles.map logical } }

/-- Transfers in flight to or from a tile that a move has begun for wait for it (R264). -/
def waitForMoves (s : State) : State :=
  s.tiles.tile.foldl (fun s e => e.2.moves.foldl (fun s x => match x.op with
    | .copy src dst _ _ _ _ => noteMoving src x.leg x.tick (noteMoving dst x.leg x.tick s)
    | .dense _ _ _ _ => s) s) s

/-- A new tile map takes effect: the tiles it moves, and those it leaves out or brings in (log 32). One brought in to a place
that a mover still holds comes as a move of its own, with nothing in it. -/
def startMoves (m : Tab Nat) (s : State) : State :=
  let moves := (s.tiles.map.filterMap fun e => match tabFind m e.1 with
    | some n => if n = e.2 then none else some (e.1, e.2, n)
    | none => none)
  let kept := s.tiles.map.filter fun e => (tabFind m e.1).isSome
  let added := m.filter fun e => (tabFind s.tiles.map e.1).isNone
  let free := added.filter fun e => !(kept.any fun k => k.2 == e.2)
  let wait := added.filter fun e => kept.any fun k => k.2 == e.2
  waitForMoves { s with tiles := { s.tiles with
      pendMap := none, moving := moves ++ wait.map (fun e => (e.1, e.2, e.2))
      parked := wait.foldl (fun t e => tabPut t e.1 {}) s.tiles.parked
      map := free.foldl (fun t e => tabPut t e.1 e.2) kept } }

/-- A tile in its new place goes on: a leg that started while it moved wakes it; a leg it does not have traps it. -/
def settleMove (p logical : Nat) (s : State) : State :=
  match (getTile s p).blocked with
  | .leg l dreg tick =>
    match legOcc s l tick with
    | some o => if o.uset.tiles.getLsbD logical then wakeLeg p dreg o s else trapLegWait p s
    | none => if tick ≤ s.tk.tick && !legHolds s tick l logical then trapLegWait p s else s
  | _ => s

/-- Place a parked tile. -/
def installTile (logical new : Nat) (t : Tile) (s : State) : State :=
  settleTile new <| settleMove new logical <| openGate (.move logical) { s with tiles := { s.tiles with
    tile := tabPut s.tiles.tile new t
    map := tabPut s.tiles.map logical new
    parked := tabDel s.tiles.parked logical
    moving := s.tiles.moving.filter fun m => m.1 != logical } }

/-- Lift a logical tile if it stands in its place and may be moved. -/
def tryLift (logical : Nat) (s : State) : State :=
  match physicalOf s logical with
  | some p => if liftable (getTile s p) then liftTile logical p s else s
  | none => s

/-- TILE_MOVE_COMPLETE: the move of one logical tile is complete. Its new place must be free: the tile that stands there is
being moved too, and leaves as soon as it may. -/
def execTileMoveComplete (now logical : Nat) (s : State) : Res :=
  let s := atTime now s
  .next (match s.tiles.moving.find? fun m => m.1 == logical with
    | none => s
    | some (_, _, new) =>
      let s := tryLift logical s
      let s := match logicalOf s new with
        | some l2 => tryLift l2 s
        | none => s
      match tabFind s.tiles.parked logical, logicalOf s new with
      | some t, none => installTile logical new t s
      | _, _ => s)

/-! ## Fold switches (R198 to R202) -/

/-- Zero a range of memory. -/
def memZero (a n : Nat) (s : State) : State :=
  { s with mm := { s.mm with
      bytes := s.mm.bytes.filter fun e => !(a ≤ e.1 && e.1 < a + n && !lineFenced s.mm (e.1 / 64))
      poison := s.mm.poison.filter fun l => !(a ≤ l * 64 && l * 64 + 64 ≤ a + n) } }

/-- Detail of FOLD_SWITCHED (R200). -/
def foldDetail (t : FoldTarget) (fold eff drain : Nat) : List Byte :=
  leBytes 2 t.num ++ leBytes 1 t.kind ++ leBytes 1 fold ++ leBytes 8 eff ++ leBytes 2 (min drain 0xFFFF)

/-- Region number of a fold target: a FROZEN region follows the tensors (R188). -/
def targetRegion (t : FoldTarget) : Nat := if t.kind = 2 then 4096 + t.num else t.num

/-- The staged result of a step begun before the switch is discarded, and the residuals become +0 (R199). -/
def dropStaged (tick : Nat) (t : FoldTarget) (s : State) : State :=
  match tensorOf s t.num with
  | some x =>
    let old := fun (u : UpdatedTensor) => u.tensor == t.num && decide (u.tick < tick)
    let staged := s.ex.updated.any old
    let s := { s with ex := { s.ex with updated := s.ex.updated.filter fun u => !old u } }
    if staged && x.shear ≠ 0 then memZero x.residBase (8 * x.elements) s else s
  | none => s

/-- A tensor's or region's switch: the new base with image 0 current; the old base is released at once (R202). -/
def switchBase (tick : Nat) (t : FoldTarget) (s : State) : State :=
  let r := targetRegion t
  match tabFind s.folds.loaded r with
  | none => s
  | some b =>
    let s := if t.kind = 1 then dropStaged tick t s else s
    let s := { s with folds := { s.folds with
      eff := tabPut s.folds.eff r { effOf s r with base := b.base, image := 0, present := true }
      stateBase := if b.stateBase = 0 then s.folds.stateBase else tabPut s.folds.stateBase r b.stateBase
      loaded := tabDel s.folds.loaded r } }
    let (w, s) := freeWord s
    if t.kind = 2 then s else raise evFoldSwitched sevInfo uModule (foldDetail t (w.toNat % 2) tick 0) s

/-- CURRENT of a table flips. -/
def switchTable (tick : Nat) (t : FoldTarget) (s : State) : State :=
  match getTable s t.num with
  | some x => { s with
      tb := { s.tb with tables := tabPut s.tb.tables t.num { x with current := 1 - x.current, foldLoaded := false } }
      folds := { s.folds with releases := s.folds.releases ++ [(t, tick)] } }
  | none => s

def switchFolds (tick : Nat) (s : State) : State :=
  match s.folds.switch with
  | some (n, l) =>
    if n ≤ tick then
      let s := { s with folds := { s.folds with switch := none } }
      saveRecord (l.foldl (fun s t => if t.kind = 0 then switchTable n t s else switchBase n t s) s)
    else s
  | none => s

/-! ## The end of a tick -/

/-- What the power unit makes of the tick that ends (R355, R364). -/
def closePower (m : TickMeasure) (s : State) : State :=
  let ran := s.run.legsStarted.filter fun l => !s.run.spoiled.contains l
  let s := ran.foldl (fun s l =>
    let (w, b) := m.legs.getD l (0, 0)
    learnLeg l w b s) s
  let s := telemetry m s
  { s with pw := { s.pw with
      causeTick := 0, droopTick := 0
      droop := s.pw.droop.map fun e => (e.1, { e.2 with cycles := 0, raised := false, warned := false })
      legs := s.pw.legs.map fun e => (e.1, { e.2 with cause := 0 }) } }

/-! ## The start of a tick -/

/-- A pending timetable switch takes effect (R24); the learned powers start again (R355). -/
def switchTimetable (tick : Nat) (s : State) : State :=
  match s.tk.switch with
  | some (n, sl) =>
    if n ≤ tick then
      { s with
        tk := { s.tk with active := sl, switch := none, periodUs := ((slotTimetable s sl).map (·.periodUs)).getD s.tk.periodUs }
        pw := { s.pw with legs := [] } }
    else s
  | none => s

/-- A pending tile map takes effect (R264). -/
def switchMap (tick : Nat) (s : State) : State :=
  match s.tiles.pendMap with
  | some (n, m, _) => if n ≤ tick then startMoves m s else s
  | none => s

/-- Handovers effective at the tick (R158). -/
def switchHandovers (tick : Nat) (s : State) : State :=
  releaseHandovers { s with handovers := s.handovers.map fun h => match h.switchTick with
    | some n => if n ≤ tick then { h with switched := true } else h
    | none => h }

/-- The tasks of every tick and of every 64 (R367); per-tick state of row units, sort-unique units and link groups; AGE (R81). -/
def freshTick (tick : Nat) (s : State) : State :=
  let s := taskRan 11 0 (taskRan 4 0 (if tick % 64 = 0 then taskRan 3 0 s else s))
  pruneEx { s with
    ru := (List.range 4).foldl (fun t d => tabPut t d { tabGet {} t d with
      age := tick / 64 % 65536, seen := 0, tornTick := 0, suUsed := 0 }) s.ru
    ex := { s.ex with nanSeen := 0 } }

/-- Images current at the boundary, for the digest slice of this tick (R190) and the blocks it repairs (R193). A job of one
module runs no rounds (R191). -/
def noteSlices (tick : Nat) (s : State) : State :=
  let n := s.job.header.digestInterval
  let now := s.folds.eff.map fun e => (e.1, e.2.image)
  { s with digest := { s.digest with
    sliceImages := if 1 < s.job.exchange.chips && tick % n < n / 2 then now else []
    boundary := if s.digest.repairs.isEmpty then [] else now } }

/-- Everything a tick's start does, the tick's numbers and its stretch being given. -/
def startTick (tick step stretch : Nat) (m : TickMeasure) (s : State) : State :=
  let first := s.tk.state = 1
  let s := if first then s else closePower m (noteOverrun s)
  let s := missSlices tick (handOver tick (switchTimetable tick s))
  let s := dropQuarantined (switchMap tick s)
  let s := { s with
    tk := { s.tk with tick, step, state := 2, lastStretch := if stretch = 0 then s.tk.lastStretch else stretch }
    run := { s.run with
      tickStartAt := s.now, nominal := s.now + tickNs s, next := none, markHeld := false, repeatStep := false
      legsStarted := [], spoiled := [], overran := false
      prev := if first then none else some (s.tk.tick, s.tk.step)
      goSteps := s.run.goSteps.filter fun x => step ≤ x + 2
      abandoned := s.run.abandoned.filter fun x => tick ≤ x.2 + 2 || step ≤ x.1 + 2
      skipSent := s.run.skipSent.filter fun x => tick ≤ x.1 + 2 }
    ru := s.ru.map fun r => (r.1, { r.2 with gen := step % 2 }) }
  let s := if stretch = 0 then s else tally tlTickStretched s
  let s := switchFolds tick (switchHandovers tick (freshTick tick s))
  let s := snapBoundary tick (noteSlices tick s)
  let s := { s with record := { s.record with lastTick := tick } }
  emit (.tickOut s.now) (trapMissingLegs (noteInForce s))

/-! ## MARK_SEND, STRETCH_LIMIT, JOB_FIRST_TICK -/

def canMark (s : State) : Bool :=
  !s.run.halting && s.run.next.isNone && !s.run.markHeld &&
    ((s.tk.state = 1 && s.start.matched) || running s)

/-- MARK_SEND: the bellwether sends the MARK of the next tick, or holds it while LATE_OPEN is outstanding (R29, R39). At a
handover boundary the merged state that holds it is that of the incoming bellwether in the old tree (DESIGN CHOICE, log 56: the
manual does not say whose merged LATE_OPEN governs the MARK of the effective tick). -/
def execMarkSend (now : Nat) (s : State) : Res :=
  let s := atTime now s
  .next (
    if canMark s && sources s (nextTickNum s) && s.run.nominal ≤ s.now + s.tk.leadNs then
      let a := mergedAck s
      if a.lateOpen then { s with run := { s.run with markHeld := true, heldKind := a.lateKind } }
      else underTree (candidateFor s (nextTickNum s)) (sendMark (max s.run.nominal s.now) 0) s
    else s)

/-- STRETCH_LIMIT: LATE_OPEN is still outstanding a quarter period after the nominal boundary, less the lead (R39). -/
def execStretchLimit (now : Nat) (s : State) : Res :=
  let s := atTime now s
  .next (
    let a := mergedAck s
    let limit := s.run.nominal + periodNs s / 4 - s.tk.leadNs
    if s.run.markHeld && !s.run.halting && a.lateOpen && limit ≤ s.now then
      let stretch := s.now + s.tk.leadNs - s.run.nominal
      haltOwn (raise evTickOverrun sevFault uModule (overrunDetail stretch a.lateChip a.lateKind true a.latenessNs) s)
    else s)

def noMeasure : TickMeasure := { avgW := 0, peakW := 0, legs := [], idleUs := [] }

/-- JOB_FIRST_TICK: the bellwether starts the job's first tick at the instant of R410. -/
def execJobFirstTick (now : Nat) (s : State) : Res :=
  let s := atTime now s
  .next (
    if s.tk.state = 1 && s.tk.bellwether && s.start.matched && !s.run.halting && s.run.nominal ≤ s.now then
      let s := if s.run.next.isNone then sendMark s.now 0 s else s
      startTick s.start.firstTick s.start.firstStep 0 noMeasure s
    else s)

/-! ## MARK_RECEIVE -/

/-- The link on which MARKs of a tick come: the parent's, or the alternate parent's while the parent link is down (R31). -/
def markLink (s : State) (tick : Nat) : Option Nat :=
  upLink { s with run := { s.run with candidate := candidateFor s tick } }

/-- The slot and TT_ID that this module has for a tick are the MARK's (R25). -/
def slotMatches (s : State) (m : MarkMsg) : Bool :=
  m.slot == governingSlot s m.tickNum && m.ttId == ttIdOf (slotTimetable s m.slot)

/-- The signed difference of a tick start from its prediction, in 16 bits (R44). A difference outside the field's range
wraps modulo 65,536 (DESIGN CHOICE, log 53: the manual does not say whether it wraps or saturates). -/
def alignErr (start predicted : Nat) : Nat := (((start : Int) - predicted) % 65536).toNat

/-- Take a MARK: the countdown to the next tick, forwarding, the ACK of R36. -/
def adoptMark (m : MarkMsg) (s : State) : State :=
  let left := m.countdownNs - s.tk.latencyNs
  let start := s.now + left
  let s := if left = 0 then tally tlMarkLate s else s
  let predicted := s.run.nominal
  let s := if m.handover then { s with tk := { s.tk with handover := some (m.tickNum + 1, m.nextChip) } } else s
  let s := { s with
    tk := { s.tk with alignErr := alignErr start predicted }
    run := { s.run with next := some {
      tick := m.tickNum, step := m.stepNum, startAt := start, stretchNs := m.stretchNs, stretched := m.stretched, slot := m.slot, ttId := m.ttId } } }
  let s := underTree (candidateFor s m.tickNum) (sendDown m start) s
  clearLateness (underTree (candidateFor s m.tickNum) (sendAck m.tickNum m.stepNum id) s)

/-- A MARK that ends a holdover: the local boundary is set by it. -/
def endHoldover (m : MarkMsg) (s : State) : State :=
  let s := { s with tk := { s.tk with state := 2, holdoverTicks := 0 } }
  if m.tickNum = s.tk.tick then
    let start := s.now + (m.countdownNs - s.tk.latencyNs)
    let s := if m.stretched then tally tlTickStretched { s with tk := { s.tk with lastStretch := m.stretchNs } } else s
    let s := sendDown m start
      { s with
        tk := { s.tk with
          alignErr := alignErr start s.run.tickStartAt
          handover := if m.handover then some (m.tickNum + 1, m.nextChip) else s.tk.handover }
        run := { s.run with nominal := start + tickNs s } }
    ackNow s
  else adoptMark m s

/-- What a MARK of the right tree does. Outside holdover, a RUNNING module adopts a MARK whose SLOT and TT_ID match, whatever
later TICK_NUM and STEP_NUM it carries (DESIGN CHOICE, log 54: the manual gives no reaction to a number other than the
predicted one but in holdover). -/
def takeMark (m : MarkMsg) (s : State) : State :=
  if s.tk.state = 3 then
    if !slotMatches s m then haltOwn (markLost 1 sevFault m.tickNum (some m) s)
    else if (m.tickNum = s.tk.tick && m.stepNum = s.tk.step) || (m.tickNum = s.tk.tick + 1 && m.stepNum = predictedStep s) then
      endHoldover m s
    else haltOwn (markLost 3 sevFault m.tickNum (some m) s)
  else if s.tk.state = 2 && (m.tickNum ≤ s.tk.tick || s.run.next.isSome) then s
  else if !slotMatches s m then haltOwn (markLost 1 sevFault m.tickNum (some m) s)
  else if s.tk.state = 1 && s.run.next.isSome then s
  else adoptMark m s

/-- MARK_RECEIVE: a MARK arrives, is checked and forwarded, and sets the countdown to the tick start (R29 to R32). -/
def execMarkReceive (now : Nat) (rx : Rx) (m : MarkMsg) (s : State) : Res :=
  onUnit (decide (rx.li < 96)) (deliverRx now rx (.mark m) (fun s =>
    if markLink s m.tickNum == some rx.li && !s.run.halting && !sources s m.tickNum &&
        ((s.tk.state = 1 && s.start.matched) || running s) then takeMark m s
    else s) s)

/-! ## TICK_START and HOLDOVER_TICK -/

/-- TICK_START: the countdown expires and the tick starts (R29). -/
def execTickStart (now : Nat) (meas : TickMeasure) (s : State) : Res :=
  let s := atTime now s
  .next (match s.run.next with
    | some n =>
      if n.startAt ≤ s.now && !s.run.halting && (running s || (s.tk.state = 1 && !s.tk.bellwether)) then
        let s := startTick n.tick n.step (if n.stretched then n.stretchNs else 0) meas s
        { s with tk := { s.tk with holdoverTicks := 0 } }
      else s
    | none => s)

/-- HOLDOVER_TICK: no MARK by the predicted boundary; the tick starts on the local clock, at most eight in a row (R32). The
predicted boundary is the nominal one, also where the bellwether holds the MARK for a stretch (DESIGN CHOICE, log 55: the
manual does not say that a stretch moves the prediction of a module that awaits its MARK). -/
def execHoldoverTick (now : Nat) (meas : TickMeasure) (s : State) : Res :=
  let s := atTime now s
  .next (
    if running s && !s.run.halting && !sources s (s.tk.tick + 1) && s.run.next.isNone && s.run.nominal ≤ s.now then
      if s.tk.holdoverTicks = 8 then haltOwn (markLost 2 sevFault (s.tk.tick + 1) none s)
      else
        let n := s.tk.holdoverTicks
        let s := if n = 0 then markLost 0 sevDegrade (s.tk.tick + 1) none s else s
        let s := startTick (s.tk.tick + 1) (predictedStep s) 0 meas s
        tally tlMarkHoldover { s with tk := { s.tk with state := 3, holdoverTicks := n + 1 } }
    else s)

end Sys2Proof.Machine
end

