-- ==== Sys2Proof/Machine/Timetables.lean ====
section
/-! DEFINITION. Reading and validating timetables (R20 to R22), tile maps (R263), and common checks on loaded structures. -/

namespace Sys2Proof.Machine

/-! ## Bytes of a structure -/

def cut (bs : List Byte) (off n : Nat) : List Byte := (bs.drop off).take n

/-- Some byte of [off, off + n) is not zero. -/
def anySet (bs : List Byte) (off n : Nat) : Bool := (cut bs off n).any (· != 0)

def disjointList : List (Nat × Nat) → Bool
  | [] => true
  | x :: xs => (xs.all fun y => x.1 + x.2 ≤ y.1 || y.1 + y.2 ≤ x.1 || x.2 == 0 || y.2 == 0) && disjointList xs

def noRepeats : List Nat → Bool
  | [] => true
  | x :: xs => !xs.contains x && noRepeats xs

/-- The position of the first check that holds, counted from `n`; 0 when none does. -/
def firstBad (n : Nat) : List Bool → Nat
  | [] => 0
  | b :: bs => if b then n else firstBad (n + 1) bs

/-! ## Timetables -/

def ttBytes : Nat := 1088

def parseUset (raw : List Byte) (i : Nat) : USet :=
  let o := 64 + 32 * i
  { tiles := BitVec.ofNat 160 (leAt raw o 20), mds := BitVec.ofNat 4 (byteAt raw (o + 20))
    lgs := BitVec.ofNat 12 (leAt raw (o + 21) 2), io := BitVec.ofNat 2 (byteAt raw (o + 23)) }

def parseLeg (raw : List Byte) (i : Nat) : LegEnt :=
  let o := 576 + 16 * i
  { startNs := leAt raw o 4, budgetNs := leAt raw (o + 4) 4, kind := byteAt raw (o + 8), cls := byteAt raw (o + 9)
    uset := byteAt raw (o + 10) }

def parseTimetable (raw : List Byte) : Timetable :=
  { raw, periodUs := leAt raw 4 4, policy := byteAt raw 8, form := byteAt raw 9, ttId := leAt raw 12 4
    usets := (List.range (byteAt raw 3)).map (parseUset raw), legs := (List.range (byteAt raw 2)).map (parseLeg raw) }

def legEnd (l : LegEnt) : Nat := l.startNs + l.budgetNs

def legsOverlap (a b : LegEnt) : Bool := a.startNs < legEnd b && b.startNs < legEnd a

def legTiles (t : Timetable) (l : LegEnt) : BitVec 160 := ((t.usets[l.uset]?).map (·.tiles)).getD 0

/-- Status 6: two overlapping legs share a tile, or are both GRAZE. -/
def overlapBad (t : Timetable) : List LegEnt → Bool
  | [] => false
  | a :: rest =>
    (rest.any fun b => legsOverlap a b && ((legTiles t a &&& legTiles t b) != 0 || (a.kind == kGraze && b.kind == kGraze))) ||
      overlapBad t rest

def ordered : List LegEnt → Bool
  | a :: b :: rest => a.startNs ≤ b.startNs && ordered (b :: rest)
  | _ => true

def legsOfKind (t : Timetable) (k : Nat) : List LegEnt := t.legs.filter fun l => l.kind == k

/-- The training legs follow one another in the order of R22. -/
def trainingOrder (t : Timetable) : Bool :=
  match legsOfKind t 1, legsOfKind t 2, legsOfKind t 3, legsOfKind t 4, legsOfKind t 5 with
  | [i], [g], [d], [r], [a] =>
    legEnd i ≤ g.startNs && legEnd g ≤ d.startNs && legEnd d ≤ r.startNs &&
      (if t.form = 0 then decide (legEnd r ≤ a.startNs) else if t.form = 1 then decide (legEnd a ≤ r.startNs) else true)
  | _, _, _, _, _ => false

/-- Status 9. -/
def trainingBad (t : Timetable) : Bool :=
  let counts := [1, 2, 3, 4, 5].map fun k => (legsOfKind t k).length
  if counts.all (· == 0) then false else counts.any (· != 1) || (t.form ≤ 1 && !trainingOrder t)

def usetEmpty (u : USet) : Bool := u.tiles == 0 && u.mds == 0 && u.lgs == 0 && u.io == 0

/-- A unit set names a logical tile absent from the tile map. -/
def absentTile (map : Tab Nat) (u : USet) : Bool :=
  (List.range 160).any fun l => u.tiles.getLsbD l && (tabFind map l).isNone

def legFieldBad (t : Timetable) (l : LegEnt) : Bool :=
  7 < l.kind || 3 < l.cls || t.usets.length ≤ l.uset || (l.kind != kFree && ((t.usets[l.uset]?).map usetEmpty).getD true) ||
    (l.kind == kServe && l.cls != 1) || (l.kind == kGraze && l.cls != 3) || (isTraining l.kind && l.cls != 0)

/-- Status 10. -/
def ttFieldBad (t : Timetable) (map : Tab Nat) : Bool :=
  2 < t.policy || 1 < t.form || (t.form == 1 && !trains (some t)) || t.ttId == 0 || t.legs.any (legFieldBad t) ||
    t.usets.any (absentTile map)

/-- Status 11. -/
def ttReserved (raw : List Byte) : Bool :=
  let nl := byteAt raw 2
  let nu := byteAt raw 3
  anySet raw 10 2 || anySet raw 16 48 ||
    ((List.range nu).any fun i => 15 < byteAt raw (64 + 32 * i + 20) || 15 < byteAt raw (64 + 32 * i + 22) ||
      3 < byteAt raw (64 + 32 * i + 23) || anySet raw (64 + 32 * i + 24) 8) ||
    anySet raw (64 + 32 * nu) (32 * (16 - nu)) ||
    ((List.range nl).any fun i => anySet raw (576 + 16 * i + 11) 5) || anySet raw (576 + 16 * nl) (16 * (32 - nl))

/-- The status of R21. -/
def timetableStatus (raw : List Byte) (lead : Nat) (map : Tab Nat) : Nat :=
  let t := parseTimetable raw
  let p := t.periodUs * 1000
  let nl := byteAt raw 2
  let nu := byteAt raw 3
  if nl = 0 || 32 < nl || nu = 0 || 16 < nu then
    firstBad 1 [leAt raw 0 2 != 1, t.periodUs < 125 || 16000 < t.periodUs || decide (p < 8 * lead), true]
  else firstBad 1 [
    leAt raw 0 2 != 1,
    t.periodUs < 125 || 16000 < t.periodUs || decide (p < 8 * lead),
    false,
    t.legs.any fun l => p ≤ l.startNs || l.budgetNs < 1000 || p < legEnd l,
    !ordered t.legs,
    overlapBad t t.legs,
    decide (((legsOfKind t kGraze).map (·.budgetNs)).sum * 50 < p),
    decide (8 < (legsOfKind t kServe).length),
    trainingBad t,
    ttFieldBad t map,
    ttReserved raw]

/-! ## Tile maps (R263) -/

def mapBytes : Nat := 256

/-- The map as logical to physical. -/
def parseMap (raw : List Byte) : Tab Nat :=
  (List.range 160).filterMap fun l => if byteAt raw l = 0xFF then none else some (l, byteAt raw l)

/-- The map breaks R263. -/
def mapBad (quarantined : BitVec 160) (raw : List Byte) : Bool :=
  let ps := (parseMap raw).map (·.2)
  !noRepeats ps || (ps.any fun p => 160 ≤ p || quarantined.getLsbD p) || anySet raw 160 96

end Sys2Proof.Machine
end

