-- ==== Sys2Proof/Machine/Plans.lean ====
section
/-! DEFINITION. The parts of a plan container: its structure (R259, R260, R438), signature (R392), job header (R261, R187,
R211, R275), tile code (R262) and exchange plan (R139 to R141, R439, R440). -/

namespace Sys2Proof.Machine

/-! ## The container (R259, R260) -/

/-- A section entry: kind, offset, length. -/
structure Sect where
  kind : Nat
  off : Nat
  len : Nat
  deriving DecidableEq, Repr

def sectionCount (bs : List Byte) : Nat := leAt bs 10 2

def sections (bs : List Byte) : List Sect :=
  (List.range (sectionCount bs)).map fun i =>
    let o := 64 + 32 * i
    { kind := byteAt bs o, off := leAt bs (o + 8) 8, len := leAt bs (o + 16) 8 }

def planMagic : List Byte := [0x41, 0x5A, 0x39, 0x36, 0x50, 0x4C, 0x41, 0x4E]

def kindKnown (k : Nat) : Bool := (1 ≤ k && k ≤ 8) || k == 15

def countKind (bs : List Byte) (k : Nat) : Nat := (sections bs).countP fun x => x.kind == k

def planId (bs : List Byte) : Nat := leAt bs 16 8

/-- Container faults 2 to 5, or 0. -/
def containerFault (bs : List Byte) : Nat :=
  let n := sectionCount bs
  if bs.take 8 ≠ planMagic || leAt bs 8 2 ≠ 1 || n < 6 || 16 < n || leAt bs 24 8 ≠ bs.length || bs.length < 64 + 32 * n ||
      planId bs = 0 || (sections bs).any (fun x => !kindKnown x.kind) then 2
  else if [15, 1, 8, 2, 3, 4].any (fun k => countKind bs k != 1) || [7, 6, 5].any (fun k => 1 < countKind bs k) then 3
  else
    let ss := sections bs
    let sig := ((ss.find? fun x => x.kind == 15).map (·.off)).getD 0
    if ss.any (fun x => x.off % 4096 != 0 || x.off < 64 + 32 * n || bs.length < x.off + x.len || sig < x.off) ||
        !disjointList (ss.map fun x => (x.off, x.len)) || 1 < ss.countP (fun x => x.off == sig) then 4
    else if anySet bs 12 4 || anySet bs 32 32 ||
        (List.range n).any (fun i => anySet bs (64 + 32 * i + 1) 7 || anySet bs (64 + 32 * i + 24) 8) then 5
    else 0

/-- The bytes of a section, if present. -/
def sectionOf (bs : List Byte) (k : Nat) : Option (List Byte) :=
  ((sections bs).find? fun x => x.kind == k).map fun x => cut bs x.off x.len

def sectionAt (bs : List Byte) (k : Nat) : Nat := (((sections bs).find? fun x => x.kind == k).map (·.off)).getD 0

/-! ## Signature (R392) -/

def keySlot (s : State) (n : Nat) : KeySlot := tabGet {} s.nor.slots n

/-- The plan's signature does not verify, or its section breaks R392. -/
def signatureBad (s : State) (bs : List Byte) : Bool :=
  let sg := (sectionOf bs 15).getD []
  let k := keySlot s (byteAt sg 2)
  sg.length ≠ 448 || leAt sg 0 2 ≠ 1 || 3 < byteAt sg 2 || anySet sg 3 29 || k.state ≠ 1 || cut sg 32 32 ≠ k.keyId ||
    !rsaVerify k.modulus (bs.take (sectionAt bs 15)) (cut sg 64 384)

/-! ## The job header -/

def parseRegion (h : List Byte) (i : Nat) : RegionEnt :=
  let o := 256 + 64 * i
  { kind := byteAt h o, bytes := leAt h (o + 8) 8, base0 := leAt h (o + 16) 8, base1 := leAt h (o + 24) 8
    writers := BitVec.ofNat 160 (leAt h (o + 32) 20) }

def parseModel (h : List Byte) (i : Nat) : Model :=
  let o := 2368 + 32 * i
  { featBytes := leAt h o 2, maxIndices := leAt h (o + 2) 2, outCount := leAt h (o + 4) 2, outFormat := byteAt h (o + 6)
    entry := leAt h (o + 8) 4 }

def parseHurdle (h : List Byte) (i : Nat) : HurdleEnt :=
  { scope := byteAt h (2880 + 24 * i), mask := BitVec.ofNat 160 (leAt h (2880 + 24 * i + 4) 20) }

def parseHeader (h : List Byte) : JobHeader :=
  { nanTrap := h.getD 2 0, tickAtomic := byteAt h 3 % 2 = 1, digestInterval := leAt h 4 4, chip := leAt h 8 2
    poolBase := (List.range 4).map fun d => leAt h (64 + 8 * d) 8
    poolSize := leAt h 96 8, ringSize := leAt h 104 8
    ringBase := (List.range 4).map fun d => leAt h (112 + 8 * d) 8
    regions := (List.range 32).map (parseRegion h)
    rings := (List.range (min 16 (byteAt h 2304))).map fun i => leAt h (2312 + 2 * i) 2
    models := (List.range (min 16 (byteAt h 2305))).map (parseModel h)
    hurdles := (List.range 64).map (parseHurdle h) }

def isPow2 (n : Nat) : Bool := n != 0 && n == 2 ^ Nat.log2 n

def mib : Nat := 0x100000
def gib : Nat := 0x40000000

/-- The ranges of RU_POOL_SIZE and RU_RING_SIZE (R115). -/
def poolSizeOk (n : Nat) : Bool := 64 * mib ≤ n && n ≤ 64 * gib && n % mib == 0
def ringSizeOk (n : Nat) : Bool := 64 * mib ≤ n && n ≤ 64 * gib && n % 64 == 0

/-- Pool and ring of one die break R261. -/
def poolBad (m : Mm) (h : JobHeader) (d : Nat) : Bool :=
  let p := h.poolBase.getD d 0
  let r := h.ringBase.getD d 0
  p % 4096 != 0 || r % 4096 != 0 || !inLocal m d p h.poolSize || !inLocal m d r h.ringSize ||
    (p < r + h.ringSize && r < p + h.poolSize)

def regionBad (m : Mm) (r : RegionEnt) : Bool :=
  2 < r.kind || (r.kind != 0 && (r.bytes < 0x10000 || 2 ^ 36 < r.bytes || r.base0 % 4096 != 0 || !inHbm m r.base0 r.bytes ||
    (r.kind == 1 && (r.base1 % 4096 != 0 || !inHbm m r.base1 r.bytes))))

def modelBad (x : Model) : Bool :=
  x.featBytes < 64 || 16384 < x.featBytes || x.featBytes % 64 != 0 || x.maxIndices == 0 || 1024 < x.maxIndices ||
    x.outCount == 0 || 256 < x.outCount || 2 < x.outFormat || x.entry % 8 != 0 || 0x40000 ≤ x.entry

/-- Status 10 of the job header. -/
def headerFieldBad (m : Mm) (raw : List Byte) : Bool :=
  let h := parseHeader raw
  leAt raw 0 2 ≠ 1 || 4095 < h.chip || !isPow2 h.digestInterval || h.digestInterval < 64 || 65536 < h.digestInterval ||
    !poolSizeOk h.poolSize || !ringSizeOk h.ringSize || (List.range 4).any (poolBad m h) || h.regions.any (regionBad m) ||
    16 < byteAt raw 2304 || 16 < byteAt raw 2305 || h.rings.any (fun q => q == 0 || 1023 < q) || h.models.any modelBad ||
    h.hurdles.any fun x => 4 < x.scope

/-- Status 11 of the job header. -/
def headerReserved (raw : List Byte) : Bool :=
  let h := parseHeader raw
  15 < byteAt raw 2 || 1 < byteAt raw 3 || anySet raw 10 54 || anySet raw 144 112 ||
    ((List.range 32).any fun i =>
      let o := 256 + 64 * i
      match byteAt raw o with
      | 0 => anySet raw o 64
      | 1 => anySet raw (o + 1) 7 || anySet raw (o + 52) 12
      | _ => anySet raw (o + 1) 7 || anySet raw (o + 24) 40) ||
    anySet raw 2306 6 || anySet raw (2312 + 2 * h.rings.length) (32 - 2 * h.rings.length) || anySet raw 2344 24 ||
    ((List.range h.models.length).any fun i => anySet raw (2368 + 32 * i + 7) 1 || anySet raw (2368 + 32 * i + 12) 20) ||
    anySet raw (2368 + 32 * h.models.length) (32 * (16 - h.models.length)) ||
    ((List.range 64).any fun i => anySet raw (2880 + 24 * i + 1) 3 ||
      (byteAt raw (2880 + 24 * i) != 1 && anySet raw (2880 + 24 * i + 4) 20)) ||
    anySet raw 4416 192

def headerStatus (m : Mm) (raw : List Byte) : Nat :=
  if raw.length ≠ 4608 then 0xF0 else if headerFieldBad m raw then 10 else if headerReserved raw then 11 else 0

/-! ## Tile code (R262) -/

def codeTable : Nat := 64 + 16 * 160

/-- Image i of the section: offset and length. -/
def imageEnt (c : List Byte) (i : Nat) : Nat × Nat := (leAt c (codeTable + 16 * i) 8, leAt c (codeTable + 16 * i + 8) 8)

def codeIndex (c : List Byte) (l : Nat) : Nat := leAt c (64 + 16 * l) 2
def dataIndex (c : List Byte) (l : Nat) : Nat := leAt c (64 + 16 * l + 2) 2
def tileEntry (c : List Byte) (l : Nat) : Nat := leAt c (64 + 16 * l + 4) 4

/-- The entry of one logical tile breaks R262. -/
def tileEntBad (c : List Byte) (map : Tab Nat) (l : Nat) : Bool :=
  let n := leAt c 0 2
  let ci := codeIndex c l
  let di := dataIndex c l
  anySet c (64 + 16 * l + 8) 8 ||
    (if (tabFind map l).isNone then ci != 0xFFFF || di != 0xFFFF || tileEntry c l != 0
     else
       let code := imageEnt c ci
       n ≤ ci || 262144 < code.2 || code.2 % 8 != 0 || tileEntry c l % 8 != 0 || code.2 ≤ tileEntry c l ||
         (di != 0xFFFF && (n ≤ di || tmemBytes < (imageEnt c di).2)))

def codeBad (c : List Byte) (map : Tab Nat) : Bool :=
  let n := leAt c 0 2
  c.length < codeTable || anySet c 2 62 || n == 0 || 512 < n || c.length < codeTable + 16 * n ||
    ((List.range n).any fun i => c.length < (imageEnt c i).1 + (imageEnt c i).2) ||
    (List.range 160).any (tileEntBad c map)

/-- The tile entry of a logical tile, its images as container offsets; `at_` is the section's offset. -/
def parseTileEnt (c : List Byte) (at_ l : Nat) : TileEnt :=
  let image := fun (i : Nat) => if i = 0xFFFF then none else some (at_ + (imageEnt c i).1, (imageEnt c i).2)
  { code := image (codeIndex c l), data := image (dataIndex c l), entry := tileEntry c l }

/-! ## The exchange plan -/

def xpChips (x : List Byte) : Nat := leAt x 2 2
def xpMaps (x : List Byte) : Nat := leAt x 4 2
def xpTensors (x : List Byte) : Nat := leAt x 6 2
def xpTrees (x : List Byte) : Nat := leAt x 8 2
def xpCands (x : List Byte) : Nat := byteAt x 10
def xpMapDir (x : List Byte) : Nat := leAt x 24 8
def xpTensorOff (x : List Byte) : Nat := leAt x 32 8
def xpTreeDir (x : List Byte) : Nat := leAt x 40 8
def xpChipOff (x : List Byte) : Nat := leAt x 48 8
def xpChipBytes (x : List Byte) : Nat := leAt x 56 4

def chipBytesOf (chips : Nat) : Nat := (512 + 4 * chips + 63) / 64 * 64

/-- Offset and length of owner map m, of tree set n. -/
def mapSpan (x : List Byte) (m : Nat) : Nat × Nat := (leAt x (xpMapDir x + 16 * m) 8, leAt x (xpMapDir x + 16 * m + 8) 8)
def treeSpan (x : List Byte) (n : Nat) : Nat × Nat := (leAt x (xpTreeDir x + 16 * n) 8, leAt x (xpTreeDir x + 16 * n + 8) 8)

def chipBlock (x : List Byte) (c : Nat) : Nat := xpChipOff x + c * xpChipBytes x

/-- LINK[i] of a chip's block. -/
def linkWord (x : List Byte) (c i : Nat) : Nat := leAt x (chipBlock x c + 4 * i) 4

/-- Peer chip and LI of a wired link. -/
def wireOf (x : List Byte) (c i : Nat) : Option (Nat × Nat) :=
  let w := linkWord x c i
  if i < 96 && w / 2 ^ 12 % 128 ≠ 0x7F then some (w % 4096, w / 2 ^ 12 % 128) else none

def markOf (x : List Byte) (c k : Nat) : MarkPlace :=
  let o := chipBlock x c + 384 + 32 * k
  { parent := byteAt x o, altParent := byteAt x (o + 1), depth := byteAt x (o + 2), children := BitVec.ofNat 96 (leAt x (o + 4) 12) }

def candChip (x : List Byte) (k : Nat) : Nat := leAt x (16 + 2 * k) 2

def routeWord (x : List Byte) (c d : Nat) : Nat := leAt x (chipBlock x c + 512 + 4 * d) 4

/-- Status 3: every table and structure in its place. -/
def xpOffsetsBad (x : List Byte) : Bool :=
  let tables := [(xpMapDir x, 16 * xpMaps x), (xpTensorOff x, 64 * xpTensors x), (xpTreeDir x, 16 * xpTrees x),
    (xpChipOff x, xpChips x * xpChipBytes x)]
  let maps := (List.range (xpMaps x)).map (mapSpan x)
  let trees := (List.range (xpTrees x)).map (treeSpan x)
  let spans := (0, 128) :: tables ++ maps ++ trees
  spans.any (fun p => p.1 % 64 != 0 || x.length < p.1 + p.2) || !disjointList spans ||
    maps.any (fun p => p.2 != 16 + 8 * leAt x (p.1 + 4) 2) ||
    trees.any fun p => p.2 != 16 + 16 * (leAt x p.1 4 + leAt x (p.1 + 4) 4) + 4 * leAt x (p.1 + 8) 4

/-- Status 4. -/
def xpChipBad (x : List Byte) (me : Nat) : Bool :=
  let n := xpChips x
  let cs := (List.range (xpCands x)).map (candChip x)
  n ≤ me || cs.any (fun c => decide (n ≤ c)) || !noRepeats cs ||
    (List.range n).any fun c => (List.range 96).any fun i =>
      let w := linkWord x c i
      n ≤ w % 4096 || (96 ≤ w / 2 ^ 12 % 128 && w / 2 ^ 12 % 128 != 0x7F)

/-- A chip's MARK entry for a candidate breaks status 5. -/
def markBad (x : List Byte) (k root c : Nat) : Bool :=
  let p := markOf x c k
  let parentBad := if c = root then p.parent != 0x7F || p.depth != 0
    else match wireOf x c p.parent with
      | some (pc, pli) => wireOf x pc pli != some (c, p.parent) || !(markOf x pc k).children.getLsbD pli || p.depth != (markOf x pc k).depth + 1 || 4 < p.depth
      | none => true
  parentBad || (p.altParent != 0x7F && (wireOf x c p.altParent).isNone) ||
    (List.range 96).any fun i => p.children.getLsbD i && (match wireOf x c i with
      | some (cc, cli) => wireOf x cc cli != some (c, i) || (markOf x cc k).parent != cli
      | none => true)

def xpMarkBad (x : List Byte) : Bool :=
  (List.range (xpCands x)).any fun k => (List.range (xpChips x)).any (markBad x k (candChip x k))

/-- Status 6. -/
def xpRouteBad (x : List Byte) : Bool :=
  (List.range (xpChips x)).any fun c => (List.range (xpChips x)).any fun d =>
    (List.range 4).any fun h => let li := routeWord x c d / 2 ^ (8 * h) % 128; 96 ≤ li && li ≤ 126

/-- An owner map at an offset. -/
def parseOwnerMap (x : List Byte) (o : Nat) : OwnerMap :=
  { stripeLog2 := byteAt x (o + 2), rowSpan := leAt x (o + 8) 8
    pos := (List.range (leAt x (o + 4) 2)).map fun j =>
      let w := leAt x (o + 16 + 8 * j) 8
      { chip := w % 4096, die := w / 2 ^ 12 % 4, slotBase := w / 2 ^ 16 % 2 ^ 40 } }

/-- Slots that position k of a map takes for `rows` rows. -/
def positionSpan (om : OwnerMap) (k rows : Nat) : Nat :=
  let st := 2 ^ om.stripeLog2
  let p := om.pos.length
  let b := (rows + st - 1) / st
  if p = 0 || b ≤ k then 0
  else
    let n := (b - k + p - 1) / p
    if (b - 1) % p = k then (n - 1) * st + (rows - (b - 1) * st) else n * st

/-- Positions' slot ranges for a row count, of one chip and die. -/
def spansOn (om : OwnerMap) (rows chip die : Nat) : List (Nat × Nat) :=
  (om.pos.zipIdx.filter fun x => x.1.chip == chip && x.1.die == die).map fun x => (x.1.slotBase, positionSpan om x.2 rows)

/-- Status 7. -/
def ownerMapBad (chips : Nat) (om : OwnerMap) : Bool :=
  20 < om.stripeLog2 || om.pos.isEmpty || 16384 < om.pos.length || om.pos.any (fun p => decide (chips ≤ p.chip)) ||
    (om.pos.map (·.chip)).dedup.any fun c => (List.range 4).any fun d => !disjointList (spansOn om om.rowSpan c d)

def parseTensor (x : List Byte) (o : Nat) : Tensor :=
  { num := leAt x o 2, wFormat := byteAt x (o + 2), flock := byteAt x (o + 3), gradFormat := byteAt x (o + 4)
    shear := byteAt x (o + 5) % 4, shearK := leAt x (o + 6) 2, elements := leAt x (o + 8) 8, wBase := leAt x (o + 16) 8
    residBase := leAt x (o + 24) 8, stateBase := leAt x (o + 32) 8, treeSet := leAt x (o + 40) 2
    partialFormat := byteAt x (o + 42) }

def stateFormatOk (f : Nat) : Bool := [0, 1, 2, 6, 7, 8].contains f
def fp32OrBf16 (f : Nat) : Bool := f == 0 || f == 2

/-- Status 8, of one tensor: both weight images and both residual copies lie in HBM3E, below the overflow ring (R309). -/
def tensorBad (m : Mm) (trees : Nat) (t : Tensor) : Bool :=
  4095 < t.num || !stateFormatOk t.wFormat || !fp32OrBf16 t.gradFormat || t.shear == 3 || !fp32OrBf16 t.partialFormat ||
    (t.shear == 1 && (t.shearK == 0 || 256 < t.shearK)) || t.elements == 0 || 2 ^ 40 < t.elements || trees ≤ t.treeSet ||
    !inHbm m t.wBase (2 * imgBytes t.wFormat t.elements) || (t.shear != 0 && !inHbm m t.residBase (8 * t.elements)) ||
    !inHbm m t.stateBase 1

def parseChild (w : Nat) : Child := if w.testBit 31 then .leaf (w % 4096) else .node (w % 2 ^ 31)

def parseTree (x : List Byte) (o : Nat) : TreeSet :=
  let ns := leAt x o 4
  let nn := leAt x (o + 4) 4
  let nodeO := o + 16 + 16 * ns
  let childO := nodeO + 16 * nn
  { shards := (List.range ns).map fun i => (leAt x (o + 16 + 16 * i) 4, leAt x (o + 16 + 16 * i + 4) 4)
    nodes := (List.range nn).map fun i =>
      let b := nodeO + 16 * i
      let par := leAt x (b + 4) 4
      { chip := leAt x b 2, lg := byteAt x (b + 2), parent := if par = 0xFFFFFFFF then none else some par
        children := (List.range (leAt x (b + 12) 2)).map fun j => parseChild (leAt x (childO + 4 * (leAt x (b + 8) 4 + j)) 4) } }

/-- The node reaches the shard's root within `fuel` steps. -/
def reaches (ts : TreeSet) (root : Nat) : Nat → Nat → Bool
  | 0, i => i == root
  | n + 1, i => i == root || (match (nodeAt ts i).parent with
    | some p => reaches ts root n p
    | none => false)

/-- A shard's nodes do not form one tree rooted at its first node, or a chip is not exactly one leaf of it. -/
def shardBad (ts : TreeSet) (chips : Nat) (sh : Nat × Nat) : Bool :=
  let (f, n) := sh
  let mine := (List.range n).map (f + ·)
  let inShard := fun (i : Nat) => f ≤ i && decide (i < f + n)
  n == 0 || ts.nodes.length < f + n ||
    (mine.any fun i =>
      let nd := nodeAt ts i
      (if i = f then nd.parent.isSome else (match nd.parent with
        | some p => !inShard p || ((nodeAt ts p).children.countP fun c => c == .node i) != 1
        | none => true)) || !reaches ts f n i ||
      nd.children.any fun c => match c with
        | .node j => !inShard j || (nodeAt ts j).parent != some i
        | .leaf _ => false) ||
    (List.range chips).any (fun c => (mine.map fun i => (nodeAt ts i).children.countP fun k => k == .leaf c).sum != 1) ||
    mine.any fun i => (nodeAt ts i).children.any fun c => match c with
      | .leaf k => chips ≤ k
      | .node _ => false

/-- Status 9, of the tree set at an offset. -/
def treeBad (x : List Byte) (chips o : Nat) : Bool :=
  let ts := parseTree x o
  let ns := leAt x o 4
  let nn := leAt x (o + 4) 4
  let nc := leAt x (o + 8) 4
  ns == 0 || 2 ^ 24 < ns || ts.nodes.any (fun d => chips ≤ d.chip || 11 < d.lg || (match d.parent with
      | some p => nn ≤ p
      | none => false)) ||
    ((List.range nn).any fun i =>
      let b := o + 16 + 16 * ns + 16 * i
      nc < leAt x (b + 8) 4 + leAt x (b + 12) 2) ||
    ((List.range nc).any fun j => match parseChild (leAt x (o + 16 + 16 * (ns + nn) + 4 * j) 4) with
      | .node i => nn ≤ i
      | .leaf _ => false) ||
    !disjointList ts.shards || ts.shards.any (shardBad ts chips)

/-- Status 10. -/
def xpReserved (x : List Byte) : Bool :=
  let n := xpChips x
  let cs := xpCands x
  anySet x 11 5 || anySet x 60 68 || anySet x (16 + 2 * cs) (8 - 2 * cs) ||
    ((List.range n).any fun c =>
      let b := chipBlock x c
      ((List.range 96).any fun i => 2 ^ 19 ≤ linkWord x c i) || anySet x (b + 512 + 4 * n) (xpChipBytes x - 512 - 4 * n) ||
        (List.range 4).any fun k => if cs ≤ k then anySet x (b + 384 + 32 * k) 32
          else anySet x (b + 384 + 32 * k + 3) 1 || anySet x (b + 384 + 32 * k + 16) 16) ||
    ((List.range (xpMaps x)).any fun m =>
      let o := (mapSpan x m).1
      anySet x (o + 3) 1 || anySet x (o + 6) 2 || (List.range (leAt x (o + 4) 2)).any fun j =>
        let w := leAt x (o + 16 + 8 * j) 8
        w / 2 ^ 14 % 4 != 0 || 2 ^ 56 ≤ w) ||
    ((List.range (xpTensors x)).any fun i =>
      let o := xpTensorOff x + 64 * i
      let t := parseTensor x o
      4 ≤ byteAt x (o + 5) || anySet x (o + 43) 21 || (t.shear != 1 && t.shearK != 0) || (t.shear == 0 && t.residBase != 0)) ||
    (List.range (xpTrees x)).any fun i =>
      let o := (treeSpan x i).1
      let ns := leAt x o 4
      let nn := leAt x (o + 4) 4
      anySet x (o + 12) 4 || ((List.range ns).any fun j => anySet x (o + 16 + 16 * j + 8) 8) ||
        ((List.range nn).any fun j => anySet x (o + 16 + 16 * (ns + j) + 3) 1 || anySet x (o + 16 + 16 * (ns + j) + 14) 2) ||
        (List.range (leAt x (o + 8) 4)).any fun j =>
          let w := leAt x (o + 16 + 16 * (ns + nn) + 4 * j) 4
          w.testBit 31 && w / 2 ^ 12 % 2 ^ 19 != 0

/-- An owner map whose VERSION is wrong: decided before the other offsets, of maps that can be read. -/
def mapVersionBad (x : List Byte) : Bool :=
  xpMaps x ≤ 4096 && (List.range (xpMaps x)).any fun m =>
    let o := (mapSpan x m).1
    xpMapDir x + 16 * m + 16 ≤ x.length && o % 64 == 0 && 128 ≤ o && o + 16 ≤ x.length && leAt x o 2 != 1

/-- The status of R440; each later check reads only what the earlier ones have passed. -/
def exchangeStatus (m : Mm) (x : List Byte) (me : Nat) : Nat :=
  let n := xpChips x
  if leAt x 0 2 ≠ 1 || mapVersionBad x then 1
  else if n = 0 || 4096 < n || 4096 < xpMaps x || 4096 < xpTensors x || 4096 < xpTrees x || xpCands x = 0 || 4 < xpCands x ||
      xpChipBytes x ≠ chipBytesOf n then 2
  else if xpOffsetsBad x then 3
  else if xpChipBad x me then 4
  else if xpMarkBad x then 5
  else if xpRouteBad x then 6
  else if (List.range (xpMaps x)).any fun i => ownerMapBad n (parseOwnerMap x (mapSpan x i).1) then 7
  else
    let ts := (List.range (xpTensors x)).map fun i => parseTensor x (xpTensorOff x + 64 * i)
    if ts.any (tensorBad m (xpTrees x)) || !noRepeats (ts.map (·.num)) then 8
    else if (List.range (xpTrees x)).any fun i => treeBad x n (treeSpan x i).1 then 9
    else if xpReserved x then 10
    else 0

/-- What a module keeps of the section. -/
def parseExchange (x : List Byte) (me : Nat) : Exchange :=
  let cs := List.range (xpCands x)
  { digest := sha256 x, chips := xpChips x, candidates := cs.map (candChip x)
    maps := (List.range (xpMaps x)).map fun i => parseOwnerMap x (mapSpan x i).1
    tensors := (List.range (xpTensors x)).map fun i => parseTensor x (xpTensorOff x + 64 * i)
    trees := (List.range (xpTrees x)).map fun i => parseTree x (treeSpan x i).1
    wiring := (List.range 96).map fun i => (linkWord x me i % 4096, linkWord x me i / 2 ^ 12 % 128)
    marks := cs.map (markOf x me)
    treeDepth := cs.map fun k => ((List.range (xpChips x)).map fun c => (markOf x c k).depth).foldl max 0 }

/-- The module's route table: entries from CHIPS on are 0x7F7F7F7F. -/
def parseRoutes (x : List Byte) (me : Nat) : Tab Nat :=
  (List.range (xpChips x)).foldl (fun t d => tabSet 0x7F7F7F7F t d (routeWord x me d)) []

end Sys2Proof.Machine
end

