-- ==== Sys2Proof/Machine/Loads.lean ====
section
/-! DEFINITION. Loading update programs (R127 to R129), flocks (R130, R131) and table descriptors (R68 to R70). -/

namespace Sys2Proof.Machine

/-! ## The tables at a tick -/

def progAt (s : State) (tick n : Nat) : Option Prog := (tabFind s.tb.programs n).bind (versionAt tick)
def flockEntAt (s : State) (tick n : Nat) : Option Flock := (tabFind s.tb.flocks n).bind (versionAt tick)

/-- Ticks at which the program or flock table changes, and the current one. -/
def loadTicks (s : State) : List Nat :=
  s.tk.tick :: ((s.tb.programs.flatMap fun e => e.2.map (·.1)) ++ (s.tb.flocks.flatMap fun e => e.2.map (·.1))).filter fun t => s.tk.tick < t

/-- Flocks valid at a tick. -/
def flocksAt (s : State) (tick : Nat) : List (Nat × Flock) :=
  s.tb.flocks.filterMap fun e => (versionAt tick e.2).map fun f => (e.1, f)

/-- A dense tensor of the exchange plan names a flock. -/
def denseFlock (s : State) (n : Nat) : Bool := s.job.exchange.tensors.any fun t => t.flock == n

/-- A program of the given state use is too much for a loaded descriptor whose FLOCK is `n`. -/
def descTooSmall (s : State) (n use : Nat) : Bool :=
  s.tb.tables.any fun t => t.2.desc.mode != 2 && t.2.desc.flock == n && decide (t.2.desc.states.length < use)

/-- Put a change of an entry: effective at `tick`, or at once (tick 0) before the job starts. -/
def putVersion {α : Type} (t : Tab (List (Nat × α))) (n tick : Nat) (v : α) : Tab (List (Nat × α)) :=
  tabPut t n (if tick = 0 then [(0, v)] else (tick, v) :: tabGet [] t n)

/-! ## Programs (R128) -/

/-- Status 5: a flock that names the entry at the tick, for dense use or for a descriptor, has too few states. -/
def progConflict (s : State) (tick n : Nat) (p : Prog) : Bool :=
  (flocksAt s tick).any fun e => e.2.program == n &&
    ((denseFlock s e.1 && decide (e.2.states.length < progStateUse p)) || descTooSmall s e.1 (progStateUse p))

def programStatus (s : State) (tick n : Nat) (raw : List Byte) : Nat := progStatus raw (progConflict s tick n)

def putProgram (n tick : Nat) (raw : List Byte) (s : State) : State :=
  { s with tb := { s.tb with programs := putVersion s.tb.programs n tick (parseProg raw) } }

/-! ## Flocks (R131) -/

def parseFlock (raw : List Byte) : Flock :=
  { raw, program := byteAt raw 2
    round := (List.range 4).map fun i => byteAt raw 3 / 4 ^ i % 4
    states := (List.range (min 3 (byteAt raw 4))).map fun i => byteAt raw (5 + i)
    gscaleDefault := BitVec.ofNat 32 (leAt raw 8 4)
    k := (List.range 16).map fun i => BitVec.ofNat 32 (leAt raw (16 + 4 * i) 4) }

def finite32 (w : Word32) : Bool := w.toNat / 2 ^ 23 % 256 != 255

def flockStatus (s : State) (tick n : Nat) (raw : List Byte) : Nat :=
  let f := parseFlock raw
  let use := ((progAt s tick f.program).map progStateUse).getD 0
  firstBad 1 [
    leAt raw 0 2 != 1,
    63 < f.program || (progAt s tick f.program).isNone,
    f.round.contains 3 || 3 < byteAt raw 4 || f.states.any (fun x => !stateFormatOk x) ||
      (denseFlock s n && decide (f.states.length < use)) || descTooSmall s n use,
    !finite32 f.gscaleDefault,
    anySet raw (5 + f.states.length) (3 - f.states.length) || anySet raw 12 4 || anySet raw 80 48]

def putFlock (n tick : Nat) (raw : List Byte) (s : State) : State :=
  { s with tb := { s.tb with flocks := putVersion s.tb.flocks n tick (parseFlock raw) } }

/-! ## Descriptors (R69, R70) -/

def four (raw : List Byte) (o : Nat) : List Nat := (List.range 4).map fun d => leAt raw (o + 8 * d) 8

def parseDesc (raw : List Byte) : Desc :=
  let mode := byteAt raw 2
  { raw, mode, width := leAt raw 4 2, wFormat := byteAt raw 6
    states := (List.range (min 3 (byteAt raw 7))).map fun i => byteAt raw (8 + i)
    poolMode := byteAt raw 11 % 4, outFormat := byteAt raw 11 / 4 % 16
    gradExp := let g := leAt raw 12 2; if g < 2 ^ 15 then g else (g : Int) - 2 ^ 16
    flock := byteAt raw 14, promoteAt := byteAt raw 15, rowCount := leAt raw 16 8, indexLimit := leAt raw 24 8
    hashA := leAt raw 32 8, hashB := leAt raw 40 8, compM := leAt raw 48 8, compQ := leAt raw 56 2, compR := leAt raw 58 2
    combine := byteAt raw 60, sLog2 := byteAt raw 61, ownerMap := leAt raw 62 2, foldA := four raw 64, foldB := four raw 96
    localRows := four raw 128, paddock := four raw 160 }

def wFormatOk (f : Nat) : Bool := [0, 2, 6, 7, 8].contains f

def isComposed (d : Desc) : Bool := d.mode == 2

/-- Status 2. -/
def descModeBad (s : State) (n : Nat) (d : Desc) : Bool :=
  2 < d.mode || (isComposed d && [d.compQ, d.compR].any fun c => c == n || (match getTable s c with
    | some t => t.desc.mode == 2
    | none => true))

/-- Status 3. -/
def descShapeBad (s : State) (d : Desc) : Bool :=
  d.width < 8 || 1024 < d.width || d.width % 8 != 0 || d.poolMode == 3 || !fp32OrBf16 d.outFormat ||
    (!isComposed d && (!wFormatOk d.wFormat || 3 < byteAt d.raw 7 || d.states.any (fun x => !stateFormatOk x) ||
      (loadTicks s).any fun t => match flockEntAt s t d.flock with
        | some f => match progAt s t f.program with
          | some p => d.states.length < progStateUse p
          | none => false
        | none => false))

/-- Status 4. -/
def descRowsBad (d : Desc) : Bool :=
  match d.mode with
  | 0 => d.rowCount == 0 || 2 ^ 40 < d.rowCount
  | 1 => !isPow2 d.rowCount || d.rowCount < 2 || 2 ^ 40 < d.rowCount
  | _ => d.rowCount != 0

/-- Status 6. -/
def descComposeBad (s : State) (d : Desc) : Bool :=
  isComposed d && (d.compM < 2 || 2 ^ 40 < d.compM || 2 < d.combine ||
    (match getTable s d.compQ, getTable s d.compR with
     | some q, some r =>
       let w := if d.combine = 2 then d.width / 2 else d.width
       q.desc.width != w || r.desc.width != w || (r.desc.mode == 0 && r.desc.rowCount < d.compM)
     | _, _ => true))

/-- A descriptor's fold regions on a die, its paddock partition there. -/
def foldRegions (d : Desc) (die : Nat) : List (Nat × Nat) :=
  let n := d.localRows.getD die 0 * recordBytes d
  if n = 0 then [] else [(foldBase d 0 die, n), (foldBase d 1 die, n)]

def paddockBytes (d : Desc) : Nat := 2 ^ d.sLog2 * (128 + 16 * recordBytes d)

def paddockPart (d : Desc) (die : Nat) : List (Nat × Nat) :=
  if d.sLog2 = 0 then [] else [(d.paddock.getD die 0, paddockBytes d)]

def loadedDescs (s : State) : List Desc := (s.tb.tables.map (·.2.desc)).filter fun d => d.mode != 2

/-- A span meets one of a list. -/
def meetsAny (x : Nat × Nat) (ys : List (Nat × Nat)) : Bool := ys.any fun y => x.1 < y.1 + y.2 && y.1 < x.1 + x.2

/-- Status 7 on one die. -/
def placeBad (s : State) (d : Desc) (die : Nat) : Bool :=
  let r := getRu s die
  (foldRegions d die).any (fun x => !inPasture s.mm die x.1 x.2) || !disjointList (foldRegions d die) ||
    (foldRegions d die).any (fun x => (loadedDescs s).any fun e => (List.range 4).any fun k => meetsAny x (foldRegions e k)) ||
    (paddockPart d die).any (fun x => !inLocal s.mm die x.1 x.2 || meetsAny x [(r.poolBase, r.poolSize), (r.ringBase, r.ringSize)] ||
      (loadedDescs s).any fun e => meetsAny x (paddockPart e die)) ||
    (d.sLog2 != 0 && 2 ^ (28 + d.sLog2) < d.localRows.getD die 0)

def descPlaceBad (s : State) (d : Desc) : Bool :=
  !isComposed d && ((d.foldA ++ d.foldB ++ d.paddock).any (fun b => b % 4096 != 0) ||
    !(d.sLog2 == 0 || (4 ≤ d.sLog2 && d.sLog2 ≤ 28)) || (List.range 4).any (placeBad s d))

/-- Status 8. -/
def descFieldBad (s : State) (d : Desc) : Bool :=
  !isComposed d && (d.gradExp < -160 || 100 < d.gradExp || (match s.job.exchange.maps[d.ownerMap]? with
    | none => true
    | some om => om.rowSpan < d.rowCount || om.pos.zipIdx.any fun x =>
        let n := positionSpan om x.2 d.rowCount
        0 < n && d.localRows.getD x.1.die 0 < x.1.slotBase + n))

/-- Status 9. -/
def rawReserved (d : Desc) : Bool :=
  let raw := d.raw
  64 ≤ byteAt raw 11 || anySet raw 192 64 || (d.mode != 1 && anySet raw 32 16) ||
    (if isComposed d then byteAt raw 3 != 0 || anySet raw 6 5 || anySet raw 12 4 || anySet raw 61 131
     else 1 < byteAt raw 3 || anySet raw (8 + d.states.length) (3 - d.states.length) || anySet raw 48 13)

/-- The status of R70. -/
def descStatus (s : State) (n : Nat) (raw : List Byte) : Nat :=
  let d := parseDesc raw
  firstBad 1 [leAt raw 0 2 != 1, descModeBad s n d, descShapeBad s d, descRowsBad d, d.mode == 1 && d.hashA % 2 == 0,
    descComposeBad s d, descPlaceBad s d, descFieldBad s d, rawReserved d]

/-- Load an accepted descriptor; its per-table tallies start at zero (R436). -/
def putDesc (n : Nat) (raw : List Byte) (s : State) : State :=
  { s with
    tb := { s.tb with tables := tabPut s.tb.tables n { desc := parseDesc raw, current := byteAt raw 3 % 2 } }
    tallies := { s.tallies with table := s.tallies.table.filter fun e => e.1 % 4096 != n } }

end Sys2Proof.Machine
end

