-- ==== Sys2Proof/Machine/Admin.lean ====
section
/-! DEFINITION. ADMIN commands (R329 to R334): how a command starts and completes, and the commands for queues, timetables,
tile maps, tables, repair, rollback, memory configuration and the network. -/

namespace Sys2Proof.Machine

/-! ## Starting a command (R330, R331) -/

def stReserved : Nat := 0xFF02
def stJob : Nat := 0xFF03
def stParam : Nat := 0xFF04
def stSoon : Nat := 0xFF05
def stPending : Nat := 0xFF06
def stReject : Nat := 0xFF07

/-- What the start of a command leads to: completion with STATUS and results (argument index, value), or work that goes on. -/
inductive AdminOut where
  | done (status : Nat) (args : List (Nat × Nat))
  | later
  deriving DecidableEq, Repr

/-- The first status that applies; 0 when none does. -/
def firstStatus : List (Bool × Nat) → Nat
  | [] => 0
  | (b, st) :: rest => if b then st else firstStatus rest

/-- Start a command, which wakes the module from I4: a reserved field that is not zero rejects it first. -/
def adminRun (opcode : Nat) (e : AdminEntry) (f : State → AdminOut × State) (s : State) : Res :=
  .next (
    if e.reserved then adminComplete e.slot e.tag opcode stReserved [] s
    else match f (rouse s) with
      | (.done st args, s) => adminComplete e.slot e.tag opcode st args s
      | (.later, s) => { s with hq := { s.hq with started := s.hq.started ++ [{ slot := e.slot, tag := e.tag, opcode }] } })

/-- The common shape: a status, and the effect when it is 0. -/
def adminCheck (st : Nat) (f : State → State) (s : State) : AdminOut × State :=
  (.done st [], if st = 0 then f s else s)

/-- The parameter block: 64-byte aligned, of the length given, reachable. -/
def paramBlock (n : Nat) (e : AdminEntry) (s : State) : Option (List Byte) × State :=
  if e.paramBytes ≠ n || e.paramAddr = 0 || e.paramAddr % 64 ≠ 0 then (none, s) else hqRead 0 e.paramAddr n s

/-- A command with a block of fixed length. -/
def withBlock (n : Nat) (e : AdminEntry) (f : List Byte → State → AdminOut × State) (s : State) : AdminOut × State :=
  match paramBlock n e s with
  | (none, s) => (.done stParam [], s)
  | (some b, s) => f b s

/-- The tick rule of R24. -/
def tooSoon (s : State) (tick : Nat) : Bool := decide (tick < s.tk.tick + 2)

/-- A handover of a map's position is pending (R156). -/
def handoverPending (s : State) (m : Nat) : Bool := s.handovers.any fun h => h.map == m && !h.released

/-- A release of a table's old fold is pending (R200). -/
def releasePending (s : State) (t : Nat) : Bool := s.folds.releases.any fun r => r.1.kind == 0 && r.1.num == t

def switchNames (s : State) (t : FoldTarget) : Bool := match s.folds.switch with
  | some (_, l) => l.contains t
  | none => false

/-! ## Queues (R333, R332) -/

/-- The QUEUE_CREATE block breaks R324 or R333. -/
def queueBad (s : State) (b : List Byte) : Bool :=
  let q := leAt b 0 2
  let kind := byteAt b 2
  let role := byteAt b 3
  let log2 := byteAt b 4
  let base := leAt b 8 8
  let size := leAt b 16 4
  q = 0 || 1023 < q || (tabFind s.hq.queues q).isSome || kind = 0 || 3 < kind ||
    (if kind = 3 then role = 0 || 2 < role else role ≠ 0) || log2 < 4 || 16 < log2 || base % 4096 ≠ 0 ||
    (if kind = 1 then size ≠ 64 else size < 128 || 1048576 < size || size % 64 ≠ 0) ||
    (kind ≠ 3 && (queueOfKind s kind).isSome) || (base < hostBit && !devOk s.mm base (size * 2 ^ log2))

def makeQueue (b : List Byte) (s : State) : State :=
  let i := byteAt b 5
  { s with hq := { s.hq with queues := tabPut s.hq.queues (leAt b 0 2) {
      kind := byteAt b 2, role := byteAt b 3, log2 := byteAt b 4, intr := i % 2 = 1, vector := i / 2 % 32, base := leAt b 8 8
      slotBytes := leAt b 16 4 } } }

/-- QUEUE_CREATE (R333). -/
def execQueueCreate (e : AdminEntry) (s : State) : Res :=
  adminRun 0x0004 e (withBlock 64 e fun b s =>
    adminCheck (firstStatus [(anySet b 6 2 || anySet b 20 44 || 64 ≤ byteAt b 5, stReserved), (queueBad s b, stReject)])
      (makeQueue b) s) s

/-- QUEUE_DELETE (R332): a serve ring of a running job stays. -/
def execQueueDelete (e : AdminEntry) (s : State) : Res :=
  adminRun 0x0005 e (fun s =>
    adminCheck (firstStatus [(s.job.state = 2 && s.job.header.rings.contains e.arg0, stJob),
        ((tabFind s.hq.queues e.arg0).isNone, stReject)])
      (fun s => { s with hq := { s.hq with
        queues := tabDel s.hq.queues e.arg0, entries := s.hq.entries.filter fun x => x.queue != e.arg0 } }) s) s

/-! ## Timetables, bellwether, tile map (R23, R24, R34, R264) -/

def setSlot (n : Nat) (x : Slot) (s : State) : State :=
  if n = 0 then { s with tk := { s.tk with slotA := x } } else { s with tk := { s.tk with slotB := x } }

def getSlot (s : State) (n : Nat) : Slot := if n = 0 then s.tk.slotA else s.tk.slotB

/-- Validate a timetable for a slot: the slot takes its status, and the timetable when it is accepted. -/
def loadSlot (n : Nat) (raw : List Byte) (s : State) : Nat × State :=
  let st := timetableStatus raw s.tk.leadNs s.tiles.map
  (st, setSlot n (if st = 0 then { status := 0, tt := some (parseTimetable raw) } else { getSlot s n with status := st }) s)

/-- TIMETABLE_LOAD (R23). -/
def execTimetableLoad (e : AdminEntry) (s : State) : Res :=
  adminRun 0x0010 e (withBlock ttBytes e fun b s =>
    let pending := match s.tk.switch with
      | some (_, n) => n == e.arg0
      | none => false
    let st := firstStatus [(s.job.state = 0, stJob), (pending, stPending), (1 < e.arg0 || e.arg0 = s.tk.active, stReject)]
    if st ≠ 0 then (.done st [], s)
    else
      let (st, s) := loadSlot e.arg0 b s
      (.done st [], s)) s

/-- TIMETABLE_SWITCH (R24). -/
def execTimetableSwitch (e : AdminEntry) (s : State) : Res :=
  adminRun 0x0011 e (fun s =>
    adminCheck (firstStatus [(tooSoon s e.arg0, stSoon), (s.tk.switch.isSome, stPending),
        (1 < e.arg1 || (slotTimetable s e.arg1).isNone, stReject)])
      (fun s => { s with tk := { s.tk with switch := some (e.arg0, e.arg1) } }) s) s

/-- BELLWETHER_HANDOVER (R34). -/
def execBellwetherHandover (e : AdminEntry) (s : State) : Res :=
  adminRun 0x0012 e (fun s =>
    adminCheck (firstStatus [(tooSoon s e.arg0, stSoon), (s.tk.handover.isSome, stPending),
        (!s.job.exchange.candidates.contains e.arg1, stReject)])
      (fun s => { s with tk := { s.tk with handover := some (e.arg0, e.arg1) } }) s) s

/-- TILE_MAP_SWITCH (R264); a map that breaks R263 is rejected with its status 1. -/
def execTileMapSwitch (e : AdminEntry) (s : State) : Res :=
  adminRun 0x0013 e (withBlock mapBytes e fun b s =>
    adminCheck (firstStatus [(s.job.state = 0, stJob), (tooSoon s e.arg0, stSoon),
        (s.tiles.pendMap.isSome || !s.tiles.moving.isEmpty, stPending), (mapBad s.nor.quarTiles b, 1)])
      (fun s => { s with tiles := { s.tiles with pendMap := some (e.arg0, parseMap b, false) } }) s) s

/-! ## Tables, programs, flocks (R68, R129) -/

/-- DESCRIPTOR_LOAD (R68, R70). -/
def execDescriptorLoad (e : AdminEntry) (s : State) : Res :=
  adminRun 0x0020 e (withBlock 256 e fun b s =>
    adminCheck (firstStatus [(4095 < e.arg0 || (getTable s e.arg0).isSome, stReject), (true, descStatus s e.arg0 b)])
      (putDesc e.arg0 b) s) s

/-- The tick from which a load applies: at once (0) before the job starts (R129). -/
def loadTick (s : State) (tick : Nat) : Nat := if s.job.state < 2 then 0 else tick

/-- A change of an entry is pending. -/
def changePending {α : Type} (s : State) (t : Tab (List (Nat × α))) (n : Nat) : Bool :=
  (tabGet [] t n).any fun v => decide (s.tk.tick < v.1)

/-- PROGRAM_LOAD (R128, R129). -/
def execProgramLoad (e : AdminEntry) (s : State) : Res :=
  adminRun 0x0021 e (withBlock 160 e fun b s =>
    let n := loadTick s e.arg1
    adminCheck (firstStatus [(2 ≤ s.job.state && tooSoon s e.arg1, stSoon), (changePending s s.tb.programs e.arg0, stPending),
        (63 < e.arg0, stReject), (true, programStatus s n e.arg0 b)])
      (putProgram e.arg0 n b) s) s

/-- FLOCK_LOAD (R129, R131). -/
def execFlockLoad (e : AdminEntry) (s : State) : Res :=
  adminRun 0x0022 e (withBlock 128 e fun b s =>
    let n := loadTick s e.arg1
    adminCheck (firstStatus [(2 ≤ s.job.state && tooSoon s e.arg1, stSoon), (changePending s s.tb.flocks e.arg0, stPending),
        (255 < e.arg0, stReject), (true, flockStatus s n e.arg0 b)])
      (putFlock e.arg0 n b) s) s

/-! ## Folds (R197, R198, R202, R334) -/

/-- A module's shards of a tensor. -/
def rootsTensor (s : State) (t : Tensor) : Bool := match treeSetOf s t with
  | some ts => !(rootedGroups s t ts).isEmpty
  | none => false

/-- The range [a, a + n) is HBM3E or LPDDR5X data of this module. -/
def inMemory (s : State) (a n : Nat) : Bool := devOk s.mm a n

/-- State bytes of a tensor at its root: one image. -/
def stateBytes (s : State) (t : Tensor) : Nat := match treeSetOf s t, flockOf s s.tk.tick t with
  | some ts, some f => (statePlaces f (groupElems t (rootedGroups s t ts))).2
  | _, _ => 0

/-- Words of the block that R334 wants zero and are not. -/
def foldWordsReserved (s : State) (kind num mask : Nat) (init : Bool) (w : List Nat) : Bool :=
  let word := fun (i : Nat) => w.getD i 0
  match kind with
  | 0 => (List.range 4).any fun d => (init || !mask.testBit d) && word d != 0
  | 1 => (match tensorOf s num with
      | some t => !rootsTensor s t && (word 2 != 0 || word 3 != 0)
      | none => false)
  | _ => word 2 != 0 || word 3 != 0

/-- What the fold load's own rules refuse: the target, its sources and its new bases. -/
def foldLoadBad (s : State) (kind num mask : Nat) (init : Bool) (w : List Nat) : Bool :=
  let word := fun (i : Nat) => w.getD i 0
  match kind with
  | 0 => (match getTable s num with
      | none => true
      | some t => t.desc.mode == 2 || (!init && (List.range 4).any fun d =>
          mask.testBit d && !inMemory s (word d) (t.desc.localRows.getD d 0 * recordBytes t.desc)))
  | 1 => (match tensorOf s num with
      | none => true
      | some t =>
        let img := imgBytes t.wFormat t.elements
        let st := stateBytes s t
        word 1 % 4096 != 0 || !inHbm s.mm (word 1) (2 * img) || (!init && !inMemory s (word 0) img) ||
          (rootsTensor s t && (word 3 % 4096 != 0 || !inHbm s.mm (word 3) (2 * st) || (!init && !inMemory s (word 2) st))))
  | _ => (match s.job.header.regions[num]? with
      | some r => r.kind != 2 || word 1 % 4096 != 0 || !inHbm s.mm (word 1) r.bytes || (!init && !inMemory s (word 0) r.bytes)
      | none => true)

def foldLoadPending (s : State) (t : FoldTarget) : Bool :=
  switchNames s t || s.folds.loading.any (fun j => j.target == t) || (t.kind == 0 && (releasePending s t.num || (match getTable s t.num with
    | some x => handoverPending s x.desc.ownerMap
    | none => false)))

/-- FOLD_LOAD (R197, R202, R334): it goes on until FOLD_LOAD_COMPLETE. -/
def execFoldLoad (e : AdminEntry) (s : State) : Res :=
  let num := e.arg0 % 4096
  let mask := e.arg0 / 2 ^ 12 % 16
  let mode := e.arg0 / 2 ^ 16 % 4
  let kind := e.arg0 / 2 ^ 18 % 4
  adminRun 0x0023 e (fun s =>
    if 2 ^ 20 ≤ e.arg0 || kind = 3 || e.arg1 ≠ 0 || e.arg2 ≠ 0 || e.arg3 ≠ 0 then (.done stReserved [], s)
    else withBlock 64 e (fun b s =>
      let w := (List.range 4).map fun i => leAt b (8 * i) 8
      let t : FoldTarget := { kind, num }
      let st := firstStatus [(foldWordsReserved s kind num mask (mode == 1) w || anySet b 32 32, stReserved),
        (foldLoadPending s t, stPending), (s.snap.isSome || 1 < mode || foldLoadBad s kind num mask (mode == 1) w, stReject)]
      if st ≠ 0 then (.done st [], s)
      else (.later, { s with folds := { s.folds with loading := s.folds.loading ++
        [{ slot := e.slot, tag := e.tag, target := t, dieMask := BitVec.ofNat 4 mask, init := mode == 1, words := w }] } })) s) s

def parseTargets (b : List Byte) : List FoldTarget :=
  (List.range (b.length / 4)).map fun i =>
    let w := leAt b (4 * i) 4
    { kind := w / 2 ^ 12 % 4, num := w % 4096 }

/-- A target has nothing loaded to switch to. -/
def notLoaded (s : State) (t : FoldTarget) : Bool :=
  match t.kind with
  | 0 => (match getTable s t.num with
      | some x => !x.foldLoaded
      | none => true)
  | 3 => true
  | _ => (tabFind s.folds.loaded (targetRegion t)).isNone

def tableHandover (s : State) (t : FoldTarget) : Bool := t.kind == 0 && (match getTable s t.num with
  | some x => handoverPending s x.desc.ownerMap
  | none => false)

/-- FOLD_SWITCH (R198). -/
def execFoldSwitch (e : AdminEntry) (s : State) : Res :=
  adminRun 0x0024 e (fun s =>
    if e.paramBytes = 0 || 256 < e.paramBytes || e.paramBytes % 4 ≠ 0 then (.done stParam [], s)
    else withBlock e.paramBytes e (fun b s =>
      let ts := parseTargets b
      adminCheck (firstStatus [((List.range ts.length).any (fun i => 2 ^ 14 ≤ leAt b (4 * i) 4), stReserved),
          (tooSoon s e.arg0, stSoon), (s.folds.switch.isSome || ts.any (tableHandover s), stPending),
          (ts.any (notLoaded s) || s.snap.isSome, stReject)])
        (fun s => { s with folds := { s.folds with switch := some (e.arg0, ts.dedup) } }) s) s) s

/-! ## Repair and rollback (R203, R113) -/

/-- The row is not one this module owns now. -/
def notOwned (s : State) (table row : Nat) : Bool :=
  match getTable s table with
  | none => true
  | some t => t.desc.mode == 2 || t.desc.rowCount ≤ row || (match ownerAt s t.desc.ownerMap s.tk.tick row with
    | some (chip, _, _, _) => chip != s.lg.chip
    | none => true)

/-- ROW_REPAIR (R203): the repair waits for the next APPLY leg. -/
def execRowRepair (e : AdminEntry) (s : State) : Res :=
  adminRun 0x0025 e (fun s =>
    let len := (getTable s e.arg0).elim 0 fun t => recordBytes t.desc
    adminCheck (firstStatus [(s.snap.isSome || notOwned s e.arg0 e.arg1 || !inMemory s e.arg2 len, stReject)])
      (fun s => { s with repairsDue := s.repairsDue ++ [(e.arg0, e.arg1, e.arg2)] }) s) s

/-- COMMIT_ROLLBACK (R113). -/
def execCommitRollback (e : AdminEntry) (s : State) : Res :=
  adminRun 0x0026 e (fun s =>
    adminCheck (firstStatus [(s.job.state ≠ 3 || s.tk.state ≠ 4, stJob),
        (s.snap.isSome || !s.commit.tickAtomic || !s.commit.rollbackOk || e.arg0 ≠ s.commit.step, stReject)])
      rollbackCommit s) s

/-! ## Memory configuration (R309, R321) -/

/-- MAPOUT_ADD (R321): at most 32 entries; an entry already listed stays as it is. -/
def execMapoutAdd (e : AdminEntry) (s : State) : Res :=
  adminRun 0x0050 e (fun s =>
    let x := (e.arg0, e.arg1)
    let listed := s.nor.mapout.contains x
    adminCheck (firstStatus [(3 < e.arg0 || 127 < e.arg1 || (!listed && 32 ≤ s.nor.mapout.length), stReject)])
      (fun s => if listed then s else { s with nor := { s.nor with mapout := s.nor.mapout ++ [x] } }) s) s

/-- MAPOUT_REMOVE (R321). -/
def execMapoutRemove (e : AdminEntry) (s : State) : Res :=
  adminRun 0x0051 e (fun s =>
    let x := (e.arg0, e.arg1)
    adminCheck (firstStatus [(!s.nor.mapout.contains x, stReject)])
      (fun s => { s with nor := { s.nor with mapout := s.nor.mapout.filter fun y => y != x } }) s) s

/-- Active HBM3E pseudo-channels of a die under the map-out list. -/
def listedHbm (s : State) (d : Nat) : Nat := 96 - (s.nor.mapout.countP fun x => x.1 == d && decide (x.2 < 96))

/-- The largest SPREAD in units of 16 GiB (R304). -/
def maxSpread (s : State) : Nat :=
  let p := min (min (listedHbm s 0) (listedHbm s 1)) (min (listedHbm s 2) (listedHbm s 3))
  4 * (hbmPcBytes * p) / gib16

/-- MEM_RECONFIGURE (R321): it goes on until MEM_RECONFIGURE_COMPLETE. -/
def execMemReconfigure (e : AdminEntry) (s : State) : Res :=
  adminRun 0x0052 e (fun s =>
    let st := firstStatus [(s.job.state ≠ 0, stJob), (s.mm.reconfig.isSome, stPending), (maxSpread s < e.arg0, stReject)]
    if st ≠ 0 then (.done st [], s)
    else (.later, { s with mm := { s.mm with reconfig := some (e.slot, e.tag, e.arg0) } })) s

/-- BOOT_CONFIG (R309). -/
def execBootConfig (e : AdminEntry) (s : State) : Res :=
  adminRun 0x0053 e (fun s =>
    adminCheck (firstStatus [(e.arg0 = 0 || 64 < e.arg0, stReject)])
      (fun s => { s with nor := { s.nor with bootConfig := some e.arg0 } }) s) s

/-! ## RDMA and NVMe (R344) -/

/-- The remote key of the n-th registered region. -/
def keyOf (n : Nat) : Nat := Config.remoteKey n % 2 ^ 32

/-- A registered region by its remote key. -/
def findMr (s : State) (key : Nat) : Option (Nat × Mr) := s.net.mrs.find? fun e => keyOf e.1 == key

/-- RDMA_MR_REGISTER (R332, R344): device memory only, up to 1,024 regions. -/
def execRdmaMrRegister (e : AdminEntry) (s : State) : Res :=
  adminRun 0x0060 e (fun s =>
    let n := s.net.nextMr
    let st := firstStatus [(4 ≤ e.arg2, stReserved),
      (e.arg1 = 0 || !devOk s.mm e.arg0 e.arg1 || 1024 ≤ s.net.mrs.length, stReject)]
    if st ≠ 0 then (.done st [], s)
    else (.done 0 [(0, keyOf n)], { s with net := { s.net with
      nextMr := n + 1
      mrs := tabPut s.net.mrs n { base := e.arg0, bytes := e.arg1, read := e.arg2.testBit 0, write := e.arg2.testBit 1 } } })) s

/-- RDMA_MR_DEREGISTER (R344). -/
def execRdmaMrDeregister (e : AdminEntry) (s : State) : Res :=
  adminRun 0x0061 e (fun s =>
    adminCheck (firstStatus [((findMr s e.arg0).isNone, stReject)])
      (fun s => match findMr s e.arg0 with
        | some (n, _) => { s with net := { s.net with mrs := tabDel s.net.mrs n } }
        | none => s) s) s

def parseQp (b : List Byte) : Qp :=
  { port := byteAt b 4, remoteGid := cut b 8 16, remoteQp := leAt b 24 4, sendPsn := leAt b 28 4, recvPsn := leAt b 32 4
    mtu := byteAt b 36, dscp := byteAt b 37, ready := byteAt b 38 == 1 }

/-- A queue pair block out of range: 24-bit numbers, four ports, a 6-bit DSCP, two states; at most 4,096 queue pairs. -/
def qpBad (s : State) (b : List Byte) : Bool :=
  let q := parseQp b
  [leAt b 0 4, q.remoteQp, q.sendPsn, q.recvPsn].any (fun x => decide (2 ^ 24 ≤ x)) || 3 < q.port || 63 < q.dscp || 1 < byteAt b 38 ||
    (q.ready && (tabFind s.net.qps (leAt b 0 4)).isNone && decide (4096 ≤ s.net.qps.length))

/-- RDMA_QP_SET (R332, R344): a reset queue pair is free again. -/
def execRdmaQpSet (e : AdminEntry) (s : State) : Res :=
  adminRun 0x0062 e (withBlock 64 e fun b s =>
    let n := leAt b 0 4
    adminCheck (firstStatus [(anySet b 5 3 || anySet b 39 25, stReserved), (qpBad s b, stReject)])
      (fun s => { s with net := { s.net with
        qps := if (parseQp b).ready then tabPut s.net.qps n (parseQp b) else tabDel s.net.qps n } }) s) s

/-- NVMF_ATTACH (R332, R344): the handle; after a warm reset it binds the next extent of a pending snapshot (R406). -/
def execNvmfAttach (e : AdminEntry) (s : State) : Res :=
  adminRun 0x0063 e (fun s =>
    let h := s.net.nextHandle
    if (tabFind s.net.qps e.arg0).isNone || e.arg1 = 0 || 65535 < h then (.done stReject [], s)
    else (.done 0 [(0, h)], rebindExtent h { s with net := { s.net with
      nextHandle := h + 1, handles := tabPut s.net.handles h (e.arg0, e.arg1) } })) s

/-! ## Snapshots (R204, R209) -/

def parseExtent (b : List Byte) (i : Nat) : Extent :=
  let o := 64 + 32 * i
  { port := byteAt b o, handle := leAt b (o + 2) 2, nsid := leAt b (o + 4) 4, lba := leAt b (o + 8) 8, lbas := leAt b (o + 16) 8 }

/-- An extent cannot take its share of the stream, or names no connection. -/
def extentBad (s : State) (units count : Nat) (x : Extent) : Bool :=
  3 < x.port || (tabFind s.net.handles x.handle).isNone ||
    decide (x.lbas * 4096 < streamUnit * (1 + (units + count - 1) / count))

/-- Something that R204 does not allow beside a snapshot is pending. -/
def snapConflict (s : State) : Bool :=
  s.folds.switch.isSome || !s.folds.releases.isEmpty || s.handovers.any fun h => !h.released

def snapshotBad (s : State) (b : List Byte) : Bool :=
  let count := byteAt b 32
  let base := leAt b 16 8
  let size := leAt b 24 8
  s.snap.isSome || leAt b 0 8 = 0 || !([1, 2, 4].contains count) ||
    ((List.range count).any fun i => extentBad s (streamUnits s) count (parseExtent b i)) ||
    size < workNeed s || !inHbm s.mm base size

/-- SNAPSHOT_START (R204): it completes once its manifest is written (R208). -/
def execSnapshotStart (e : AdminEntry) (s : State) : Res :=
  adminRun 0x0040 e (fun s =>
    if e.paramBytes < 64 || 64 + 32 * 255 < e.paramBytes then (.done stParam [], s)
    else withBlock e.paramBytes e (fun b s =>
      let count := byteAt b 32
      let tick := leAt b 8 8
      let st := firstStatus [
        (anySet b 33 31 || (List.range count).any (fun i => anySet b (64 + 32 * i + 1) 1 || anySet b (64 + 32 * i + 24) 8), stReserved),
        (e.paramBytes ≠ 64 + 32 * count, stParam), (s.job.state = 0, stJob), (tooSoon s tick, stSoon), (snapConflict s, stPending),
        (snapshotBad s b, stReject)]
      if st ≠ 0 then (.done st [], s)
      else (.later, { s with snap := some {
        id := leAt b 0 8, tick, slot := e.slot, tag := e.tag, extents := (List.range count).map (parseExtent b)
        workBase := leAt b 16 8, workSize := leAt b 24 8 } })) s) s

/-- SNAPSHOT_ABORT (R209). -/
def execSnapshotAbort (e : AdminEntry) (s : State) : Res :=
  adminRun 0x0041 e (fun s =>
    adminCheck (firstStatus [(match s.snap with
        | some n => n.id ≠ e.arg0
        | none => true, stReject)])
      (voidSnapshot 2 0xFF) s) s

/-! ## Shard handover (R156 to R158) -/

/-- The slots of every table that names the map, at the new base on the new owner, leave the die or meet another position. -/
def newPlaceBad (s : State) (m k chip die base : Nat) : Bool :=
  match s.job.exchange.maps[m]? with
  | none => true
  | some om =>
    chip == s.lg.chip && s.tb.tables.any fun t =>
      t.2.desc.mode != 2 && t.2.desc.ownerMap == m &&
        (let n := positionSpan om k t.2.desc.rowCount
         let others := om.pos.zipIdx.filterMap fun x =>
           let p := posAt s m x.2 s.tk.tick x.1
           if x.2 != k && p.chip == chip && p.die == die then some (p.slotBase, positionSpan om x.2 t.2.desc.rowCount) else none
         0 < n && (decide (t.2.desc.localRows.getD die 0 < base + n) || meetsAny (base, n) (others.filter fun x => x.2 != 0)))

def mapFoldLoaded (s : State) (m : Nat) : Bool := s.tb.tables.any fun t => t.2.desc.ownerMap == m && t.2.desc.mode != 2 && t.2.foldLoaded

/-- HANDOVER_PREPARE (R156, R157): on the old owner it goes on until every row has been copied. -/
def execHandoverPrepare (e : AdminEntry) (s : State) : Res :=
  let chip := e.arg2 % 4096
  let die := e.arg2 / 2 ^ 12
  adminRun 0x0030 e (fun s =>
    let pos := (s.job.exchange.maps[e.arg0]?).bind fun om => om.pos[e.arg1]?
    let st := firstStatus [(2 ^ 14 ≤ e.arg2, stReserved), (s.job.state = 0, stJob), (handoverPending s e.arg0, stPending),
      (s.snap.isSome || mapFoldLoaded s e.arg0 || pos.isNone || s.job.exchange.chips ≤ chip || newPlaceBad s e.arg0 e.arg1 chip die e.arg3, stReject)]
    match pos with
    | none => (.done (if st = 0 then stReject else st) [], s)
    | some p =>
      if st ≠ 0 then (.done st [], s)
      else
        let p := posAt s e.arg0 e.arg1 s.tk.tick p
        let mine := p.chip == s.lg.chip
        let h : Handover := {
          map := e.arg0, pos := e.arg1, newChip := chip, newDie := die, newBase := e.arg3, oldChip := p.chip, oldDie := p.die
          oldBase := p.slotBase, entry := if mine then some (e.slot, e.tag) else none, copying := mine, prepared := !mine }
        let s := { s with handovers := s.handovers ++ [h] }
        if mine then (.later, copyNext h s) else (.done 0 [], s)) s

/-- HANDOVER_COPY_DONE: the old owner posts the completion once every row has been copied. -/
def execHandoverCopyDone (map : Nat) (s : State) : Res :=
  .next (match s.handovers.find? fun h => h.map == map && h.copying && !h.prepared && (nextCopy s h).isNone with
    | none => s
    | some h =>
      let s := modHandover h.map h.pos (fun h => { h with prepared := true }) s
      match h.entry.bind fun en => s.hq.started.find? fun c => c.opcode == 0x0030 && c.slot == en.1 && c.tag == en.2 with
      | some c => finishStarted c 0 [] s
      | none => s)

/-- HANDOVER_SWITCH (R158). -/
def execHandoverSwitch (e : AdminEntry) (s : State) : Res :=
  adminRun 0x0031 e (fun s =>
    let mine := fun (h : Handover) => h.map == e.arg0 && h.pos == e.arg1 && !h.released
    adminCheck (firstStatus [(tooSoon s e.arg2, stSoon), (s.handovers.any (fun h => mine h && h.switchTick.isSome), stPending),
        (!(s.handovers.any fun h => mine h && h.prepared), stReject)])
      (fun s => modHandover e.arg0 e.arg1 (fun h => { h with switchTick := some e.arg2 }) s) s) s

end Sys2Proof.Machine
end

