-- ==== Sys2Proof/Machine/PlanLoad.lean ====
section
/-! DEFINITION. PLAN_LOAD (R258 to R262, R392, R406, R438): checking a container, and the state a loaded job starts from. -/

namespace Sys2Proof.Machine

/-! ## Entries of the programs, flocks and descriptors sections (R438) -/

/-- How a section's entries are checked and put: kind, entry size, bytes of the number, greatest number, RESERVED_NONZERO. -/
structure EntryKind where
  kind : Nat
  size : Nat
  numBytes : Nat
  most : Nat
  reserved : Nat
  check : State → Nat → List Byte → Nat
  put : Nat → List Byte → State → State

def programEntries : EntryKind :=
  { kind := 7, size := 168, numBytes := 1, most := 63, reserved := 6, check := fun s n b => programStatus s 0 n b, put := fun n b s => putProgram n 0 b s }

def flockEntries : EntryKind :=
  { kind := 6, size := 136, numBytes := 1, most := 255, reserved := 5, check := fun s n b => flockStatus s 0 n b, put := fun n b s => putFlock n 0 b s }

def descEntries : EntryKind :=
  { kind := 5, size := 264, numBytes := 2, most := 4095, reserved := 9, check := descStatus, put := putDesc }

def entriesOf (k : EntryKind) (sec : List Byte) : List (List Byte) :=
  (List.range (sec.length / k.size)).map fun i => cut sec (i * k.size) k.size

/-- The section's shape is wrong. -/
def shapeBad (k : EntryKind) (sec : List Byte) : Bool :=
  let nums := (entriesOf k sec).map fun b => leAt b 0 k.numBytes
  sec.length % k.size != 0 || nums.any (fun n => decide (k.most < n)) || !noRepeats nums

/-- Check and put one entry. -/
def loadEntry (k : EntryKind) (b : List Byte) (s : State) : Except Nat State :=
  let n := leAt b 0 k.numBytes
  let body := b.drop 8
  let st := k.check s n body
  if st ≠ 0 then .error (256 * k.kind + st)
  else if anySet b k.numBytes (8 - k.numBytes) then .error (256 * k.kind + k.reserved)
  else .ok (k.put n body s)

def loadEntries (k : EntryKind) (sec : Option (List Byte)) (s : State) : Except Nat State :=
  match sec with
  | none => .ok s
  | some sec =>
    if shapeBad k sec then .error (256 * k.kind + 0xF0)
    else (entriesOf k sec).foldlM (fun s b => loadEntry k b s) s

/-! ## What a load puts in place -/

/-- Words of instruction memory. -/
def wordsOf (bs : List Byte) : Tab Word64 :=
  (List.range (bs.length / 8)).foldl (fun t i => tabSet 0 t i (BitVec.ofNat 64 (leAt bs (8 * i) 8))) []

/-- A tile as its code entry loads it (R262). -/
def loadedTile (bs : List Byte) (e : TileEnt) : Tile :=
  let image := fun (x : Option (Nat × Nat)) => match x with
    | some (a, n) => cut bs a n
    | none => []
  { imem := wordsOf (image e.code), tmem := putTmem [] 0 (image e.data), pc := e.entry }

/-- Effective bases of the plan's dense tensors and replica regions, image 0 current (R185, R187). -/
def planBases (h : JobHeader) (x : Exchange) : Tab EffBase :=
  let ts := x.tensors.foldl (fun t e => tabPut t e.num { base := e.wBase, present := true }) ([] : Tab EffBase)
  h.regions.zipIdx.foldl (fun t r => if r.1.kind = 0 then t else tabPut t (4096 + r.2) { base := r.1.base0, present := true }) ts

/-- The row units at their pools and rings (R115), each die's generations and write position kept or cleared; what the report
registers hold stays. -/
def planDies (h : JobHeader) (keep : Bool) (s : State) : Tab RowUnit :=
  (List.range 4).foldl (fun t d =>
    let old := tabGet {} s.ru d
    let r : RowUnit := { recResult := old.recResult, recRows := old.recRows, hwm := old.hwm, touched := old.touched
                         applied := old.applied, satRow := old.satRow, satTable := old.satTable }
    let r := if keep then { r with gens := old.gens, wptr := old.wptr, lastSeg := old.lastSeg } else r
    tabPut t d { r with
      poolBase := h.poolBase.getD d 0, poolSize := h.poolSize, ringBase := h.ringBase.getD d 0, ringSize := h.ringSize }) []

/-- The commit record as a job load writes it (R107); its step is known once JOB_START gives the first step. -/
def freshCommit (seq openSeq first : Nat) (atomic : Bool) : Commit :=
  { step := (first + 2 ^ 64 - 1) % 2 ^ 64, seq, openSeq, tickAtomic := atomic, valid := true }

/-- The job in place, its tables still empty. -/
def placeJob (bs : List Byte) (addr : Nat) (h : JobHeader) (map : Tab Nat) (tiles : List TileEnt) (tt : Timetable) (x : Exchange)
    (routes : Tab Nat) (keep : Bool) (s : State) : State :=
  let sig := sectionAt bs 15
  setParent { s with
    job := { state := 1, planId := planId bs, container := addr, header := h, tiles, exchange := x, measure := sha256 (bs.take sig) }
    lg := { s.lg with chip := h.chip, route := routes }
    tk := { s.tk with slotA := { status := 0, tt := some tt }, active := 0, periodUs := tt.periodUs, switch := none, handover := none }
    run := {}, start := {}, tb := {}, ex := {}, handovers := [], bulk := {}, digest := {}, repairsDue := []
    folds := { eff := planBases h x }
    ru := planDies h keep s
    tiles := { tile := map.foldl (fun t e => tabPut t e.2 (loadedTile bs (tiles.getD e.1 { code := none, data := none, entry := 0 }))) [], map }
    commit := if keep then s.commit else freshCommit s.commit.seq s.commit.openSeq 0 h.tickAtomic
    record := if keep then s.record else {}
    pw := { s.pw with legs := [] } }

/-! ## Resuming from the job record (R406) -/

/-- The plan's pools, rings and mode are those of the job record. -/
def resumes (s : State) (h : JobHeader) : Bool :=
  !s.job.reloaded && s.record.valid && h.poolBase == s.record.poolBase && h.poolSize == s.record.poolSize &&
    h.ringBase == s.record.ringBase && h.ringSize == s.record.ringSize && h.tickAtomic == s.record.tickAtomic

/-- Take what the record holds in place of the plan's, walk if it is owed, and be HALTED. -/
def takeRecord (r : JobRecord) (s : State) : State :=
  let cur := fun (n c : Nat) => ((r.current.find? fun x => x.1 == n).map (·.2)).getD c
  let eff := fun (n : Nat) (b : EffBase) => match r.effBase.find? fun x => x.1 == n with
    | some (_, a, i) => { b with base := a, image := i }
    | none => b
  let s := { s with
    tb := { s.tb with tables := s.tb.tables.map fun t => (t.1, { t.2 with current := cur t.1 t.2.current }) }
    folds := { s.folds with eff := s.folds.eff.map fun e => (e.1, eff e.1 e.2) }
    tk := { s.tk with tick := r.lastTick, epoch := r.epoch, timeSrc := r.timeSrc, state := 4 }
    job := { s.job with state := 3 } }
  let s := if s.commit.tickAtomic then emptyGens (fun _ => true) s else recoveryWalk s
  saveRecord s

/-! ## PLAN_LOAD -/

/-- Sections of fixed length have it; the exchange plan has at least 128 bytes (R438). -/
def sectionLengthBad (bs : List Byte) (kind n : Nat) : Bool := ((sectionOf bs kind).getD []).length != n

/-- The status of the sections of fixed place, checked in the order 1, 8, 2, 3, 4 (R260). -/
def sectionStatus (bs : List Byte) (s : State) : Nat :=
  let sec := fun (k : Nat) => (sectionOf bs k).getD []
  let map := parseMap (sec 8)
  let st1 := headerStatus s.mm (sec 1)
  let st8 := if (sec 8).length ≠ mapBytes then 0xF0 else if mapBad s.nor.quarTiles (sec 8) then 1 else 0
  let st2 := if codeBad (sec 2) map then 1 else 0
  let st3 := if (sec 3).length ≠ ttBytes then 0xF0 else timetableStatus (sec 3) s.tk.leadNs map
  let st4 := if (sec 4).length < 128 then 0xF0 else exchangeStatus s.mm (sec 4) (parseHeader (sec 1)).chip
  if st1 ≠ 0 then 0x100 + st1
  else if st8 ≠ 0 then 0x800 + st8
  else if st2 ≠ 0 then 0x200 + st2
  else if st3 ≠ 0 then 0x300 + st3
  else if st4 ≠ 0 then 0x400 + st4
  else 0

/-- The dense programs, flocks and descriptors, in this order. -/
def loadLists (bs : List Byte) (s : State) : Except Nat State :=
  match loadEntries programEntries (sectionOf bs 7) s with
  | .error e => .error e
  | .ok s => match loadEntries flockEntries (sectionOf bs 6) s with
    | .error e => .error e
    | .ok s => loadEntries descEntries (sectionOf bs 5) s

/-- Check the sections in their order and load the plan; the 16-bit status of R260 otherwise. -/
def loadSections (bs : List Byte) (addr : Nat) (s : State) : Except Nat State :=
  let sec := fun (k : Nat) => (sectionOf bs k).getD []
  let h := parseHeader (sec 1)
  let x := sec 4
  let st := sectionStatus bs s
  if st ≠ 0 then .error st
  else
    let keep := resumes s h
    let tiles := (List.range 160).map (parseTileEnt (sec 2) (sectionAt bs 2))
    match loadLists bs (placeJob bs addr h (parseMap (sec 8)) tiles (parseTimetable (sec 3)) (parseExchange x h.chip)
        (parseRoutes x h.chip) keep s) with
    | .error e => .error e
    | .ok s' => .ok (if keep then takeRecord s.record s' else s')

/-- The status of a container and the state it leaves. A rejected plan leaves every field, TK_SLOT_A.STATUS too: R260 loads
nothing of a rejected plan, and R21's record of a timetable's code is kept for TIMETABLE_LOAD (DEDUCED, log 18). -/
def loadPlan (bs : List Byte) (addr : Nat) (s : State) : Nat × State :=
  let cf := containerFault bs
  if cf ≠ 0 then (cf, s)
  else if signatureBad s bs then (1, securityViolation 3 0 0 0 s)
  else match loadSections bs addr s with
    | .error st => (st, s)
    | .ok s' => (0, s')

/-- PLAN_LOAD: the container stands at a physical address (R260). -/
def execPlanLoad (e : AdminEntry) (s : State) : Res :=
  adminRun 0x0001 e (fun s =>
    if e.paramAddr = 0 || e.paramAddr % 64 ≠ 0 || hostBit ≤ e.paramAddr || e.paramBytes = 0 || !devOk s.mm e.paramAddr e.paramBytes then
      (.done stParam [], s)
    else if s.job.state ≠ 0 then (.done stJob [], s)
    else
      let (st, s) := loadPlan (memRead s.mm e.paramAddr e.paramBytes) e.paramAddr s
      (.done st [], s)) s

end Sys2Proof.Machine
end

