-- ==== Sys2Proof/Machine/Start.lean ====
section
/-! DEFINITION. Starting, resuming and resetting a job: JOB_START, JOB_RESET (R138, R404, R408 to R410), the PLAN_DIGEST
reports and verdict (R138), and how the device takes ADMIN entries from its ring (R326, R327, R330). -/

namespace Sys2Proof.Machine

/-! ## The first instant (R33, R410) -/

/-- 2 ms, 100 ms, 200 ms. -/
def startLead : Nat := 2000000
def reportLimit : Nat := 100000000
def verdictLimit : Nat := 200000000

/-- The first instant at or after `from_` in phase with the epoch. -/
def inPhase (from_ epoch period : Nat) : Nat :=
  if period = 0 then from_
  else (((from_ : Int) + (((epoch : Int) - from_) % period)).toNat)

/-- Where the bellwether starts the first tick: 2 ms after acceptance on the local oscillator; a facility instant otherwise.
A fresh job's tick F starts F periods after TK_EPOCH when that instant lies far enough ahead (R33). -/
def firstInstant (s : State) (resume : Bool) (first : Nat) : Nat :=
  match (if s.tk.timeSrc = 0 then none else s.net.facility) with
  | none => s.now + startLead
  | some (f, l) =>
    let here := f + (s.now - l)
    let least := here + startLead
    let p := ((s.tk.slotA.tt.map (·.periodUs)).getD s.tk.periodUs) * 1000
    let own := s.tk.epoch + first * p
    let t := if !resume && least ≤ own then own else inPhase least s.tk.epoch p
    s.now + (t - here)

/-! ## Starting -/

/-- A pseudo-channel is FENCED (R404). -/
def anyFenced (s : State) : Bool := s.mm.dies.any fun d => d.2.pcs.any fun p => p.2.state == 2

/-- A RING of the serve section that is not a SERVE queue (R211). -/
def ringsBad (s : State) : Bool := s.job.header.rings.any fun q => match tabFind s.hq.queues q with
  | some x => x.kind != 3 || x.role != 2
  | none => true

/-- The status JOB_START is refused with at once; 0 when the digest check begins. -/
def startStatus (s : State) (e : AdminEntry) : Nat :=
  let halted := s.job.state == 3
  firstStatus [
    ((s.job.state ≠ 1 && s.job.state ≠ 3) || (halted && s.job.needReset) || (startedOp s 0x0002).isSome || anyFenced s ||
      !s.gz.failed.isEmpty, stJob),
    (s.snap.isSome || (halted && (e.arg1 ≠ (s.commit.step + 1) % 2 ^ 64 || e.arg0 ≤ s.tk.tick)), stReject),
    (ringsBad s, 2)]

def bellChip (s : State) : Nat := s.job.exchange.candidates.headD 0

def digestMsg (s : State) (kind verdict chip : Nat) : PlanDigestMsg :=
  { digest := s.job.exchange.digest, planId := s.job.planId, kind, verdict, chip }

/-- A tile at its ENTRY; with `again`, its tile memory from the container's DATA image (R409). -/
def startTile (again : Bool) (l p : Nat) (s : State) : State :=
  let e := s.job.tiles.getD l { code := none, data := none, entry := 0 }
  let mem := match e.data with
    | some (a, n) => putTmem [] 0 (memRead s.mm (s.job.container + a) n)
    | none => []
  modTile p (fun t => { t with pc := e.entry, issuing := true, tmem := if again then mem else t.tmem }) s

/-- The first instruction of a tile just started: a word with an opcode not in use traps (R287). -/
def checkEntry (p : Nat) (s : State) : State := if canIssue s p then checkPc p s else s

/-- A verdict of match: JOB_START completes and the job runs (R107, R133, R135, R138, R409). -/
def runJob (c : Started) (s : State) : State :=
  let fs := s.start.firstStep
  let fresh := !s.start.resume
  let s := { s with
    start := { s.start with matched := true, reports := [] }
    tb := { s.tb with gscale := [], latches := [] }
    commit := if fresh then freshCommit s.commit.seq s.commit.openSeq fs s.job.header.tickAtomic else s.commit
    ru := if fresh then s.ru.map fun r => (r.1, { r.2 with gens := [{}, {}], wptr := 0, lastSeg := 0 }) else s.ru
    job := { s.job with state := 2, firstStep := fs, startAt := s.now, needReset := false }
    tiles := { s.tiles with hurdles := [] }
    ex := {}, digest := {} }
  let s := setCounters fs s
  let s := { s with run := { s.run with applyEnded := if 0 < s.commit.count then some s.commit.step else none } }
  let s := s.tiles.map.foldl (fun s m => startTile (!fresh) m.1 m.2 s) s
  let s := finishStarted c 0 [] (saveRecord s)
  s.tiles.map.foldl (fun s m => checkEntry m.2 s) s

/-- The job does not start: PLAN_MISMATCH. -/
def failStart (c : Started) (s : State) : State :=
  let s := { s with
    tk := { s.tk with
      state := if s.tk.state = 1 then (if s.start.resume then 4 else 0) else s.tk.state
      bellwether := false }
    start := {}
    job := { s.job with needReset := s.job.needReset && s.tk.state ≠ 1 } }
  finishStarted c 1 [] s

/-- A verdict reaches the pending JOB_START of this module. -/
def takeVerdict (ok : Bool) (s : State) : State :=
  match startedOp s 0x0002 with
  | none => s
  | some c => if ok && s.tk.state = 1 then runJob c s else failStart c s

/-- Chips of the job other than this one. -/
def otherChips (s : State) : List Nat := (List.range s.job.exchange.chips).filter fun c => c != s.lg.chip

/-- The first chip whose report differs or is missing, with the verdict it gives; none when every report agrees. -/
def firstDiffer (s : State) : Option (Nat × Nat) :=
  (otherChips s).findSome? fun c => match tabFind s.start.reports c with
    | none => some (2, c)
    | some d => if d = s.job.exchange.digest then none else some (1, c)

/-- The bellwether sends its verdict to every module and takes it itself. -/
def sendVerdict (s : State) : State :=
  let (v, c) := (firstDiffer s).getD (0, 0xFFFF)
  let s := (otherChips s).foldl (fun s d => originate 3 d 0 (.planDigest (digestMsg s 1 v c)) s) s
  takeVerdict (v == 0) { s with start := { s.start with reports := [] } }

/-- The bellwether's JOB_START is pending. -/
def collecting (s : State) : Bool := (startedOp s 0x0002).isSome && bellChip s == s.lg.chip

/-- Every report is in. -/
def reportsIn (s : State) : Bool := (otherChips s).all fun c => (tabFind s.start.reports c).isSome

def checkReports (s : State) : State := if collecting s && reportsIn s then sendVerdict s else s

/-- Accept JOB_START: the module is ARMED and its digest goes to the bellwether. -/
def acceptStart (e : AdminEntry) (s : State) : State :=
  let resume := s.job.state == 3
  let bell := bellChip s == s.lg.chip
  let s := { s with
    start := { s.start with startedAt := some s.now, firstTick := e.arg0, firstStep := e.arg1, matched := false, resume }
    tk := { s.tk with state := 1, bellwether := bell, holdoverTicks := 0 }
    run := { nominal := firstInstant s resume e.arg0 } }
  let s := setParent s
  if bell then s else originate 3 (bellChip s) 0 (.planDigest (digestMsg s 0 0 0xFFFF)) s

/-- JOB_START: it completes with the verdict (R138, R409). -/
def execJobStart (now : Nat) (e : AdminEntry) (s : State) : Res :=
  match adminRun 0x0002 e (fun s =>
    let st := startStatus s e
    if st ≠ 0 then (.done st [], s) else (.later, acceptStart e s)) (atTime now s) with
  | .next s => .next (checkReports s)
  | r => r

/-! ## PLAN_DIGEST -/

/-- PLAN_DIGEST: a report at the bellwether, or the verdict (R138). -/
def execPlanDigest (now : Nat) (rx : Rx) (m : PlanDigestMsg) (s : State) : Res :=
  onUnit (decide (rx.li < 96)) (deliverRx now rx (.planDigest m) (fun s =>
    if s.job.state = 0 then s
    else if m.kind = 0 then
      if bellChip s = s.lg.chip then
        checkReports { s with start := { s.start with reports := tabPut s.start.reports rx.src m.digest } }
      else s
    else if rx.src = bellChip s && !s.start.matched then takeVerdict (m.verdict == 0) s
    else s) s)

/-- The instant a pending JOB_START was accepted at is at least `n` ago. -/
def startAged (s : State) (n : Nat) : Bool := (startedOp s 0x0002).isSome && (match s.start.startedAt with
  | some t => decide (t + n ≤ s.now)
  | none => false)

/-- PLAN_DIGEST_TIMEOUT: 100 ms after its own JOB_START the bellwether sends its verdict despite missing reports. -/
def execPlanDigestTimeout (now : Nat) (s : State) : Res :=
  let s := atTime now s
  .next (if collecting s && startAged s reportLimit then sendVerdict s else s)

/-- PLAN_VERDICT_TIMEOUT: no verdict within 200 ms. -/
def execPlanVerdictTimeout (now : Nat) (s : State) : Res :=
  let s := atTime now s
  .next (if startAged s verdictLimit then takeVerdict false s else s)

/-! ## JOB_RESET (R408) -/

/-- Halt a running job: request it of the whole job, then stop here. -/
def haltForReset (s : State) : State :=
  let s := requestHalt s
  if s.run.halting || s.tk.state = 4 then s else beginHalt s

/-- JOB_RESET: on a running job it completes once this module is HALTED and its tiles are reset. -/
def execJobReset (now : Nat) (e : AdminEntry) (s : State) : Res :=
  match adminRun 0x0003 e (fun s =>
    if s.job.state = 0 then (.done stJob [], s)
    else if (startedOp s 0x0002).isSome || (startedOp s 0x0003).isSome then (.done stPending [], s)
    else if s.job.state = 2 then (.later, s)
    else (.done 0 [], endJobReset s)) (atTime now s) with
  | .next t => .next (if s.job.state = 2 && (startedOp s 0x0003).isNone && (startedOp t 0x0003).isSome then haltForReset t else t)
  | r => r

/-! ## Taking entries from the ring (R325 to R327, R330) -/

def outcomeState (r : Res) (s : State) : State := match r with
  | .next s' => s'
  | _ => s

/-- Start the command of an entry, by its OPCODE. -/
def startEntry (now op : Nat) (e : AdminEntry) (s : State) : Res :=
  match op with
  | 0x0001 => execPlanLoad e s
  | 0x0002 => execJobStart now e s
  | 0x0003 => execJobReset now e s
  | 0x0004 => execQueueCreate e s
  | 0x0005 => execQueueDelete e s
  | 0x0010 => execTimetableLoad e s
  | 0x0011 => execTimetableSwitch e s
  | 0x0012 => execBellwetherHandover e s
  | 0x0013 => execTileMapSwitch e s
  | 0x0020 => execDescriptorLoad e s
  | 0x0021 => execProgramLoad e s
  | 0x0022 => execFlockLoad e s
  | 0x0023 => execFoldLoad e s
  | 0x0024 => execFoldSwitch e s
  | 0x0025 => execRowRepair e s
  | 0x0026 => execCommitRollback e s
  | 0x0030 => execHandoverPrepare e s
  | 0x0031 => execHandoverSwitch e s
  | 0x0040 => execSnapshotStart e s
  | 0x0041 => execSnapshotAbort e s
  | 0x0050 => execMapoutAdd e s
  | 0x0051 => execMapoutRemove e s
  | 0x0052 => execMemReconfigure e s
  | 0x0053 => execBootConfig e s
  | 0x0060 => execRdmaMrRegister e s
  | 0x0061 => execRdmaMrDeregister e s
  | 0x0062 => execRdmaQpSet e s
  | 0x0063 => execNvmfAttach e s
  | _ => .next (adminComplete e.slot e.tag op 0xFF01 [] s)

/-- An entry as the device reads it (R329). -/
def parseEntry (slot : Nat) (b : List Byte) : AdminEntry :=
  let arg := fun (i : Nat) => leAt b (8 + 8 * i) 8
  { slot, tag := leAt b 4 4, arg0 := arg 0, arg1 := arg 1, arg2 := arg 2, arg3 := arg 3, paramAddr := leAt b 40 8
    paramBytes := leAt b 48 4, reserved := anySet b 2 2 || anySet b 54 9 }

/-- The ADMIN ring is served: enabled, after READY, the host not lost (R347, R403). -/
def adminOn (s : State) : Bool := s.hq.enable && s.boot.phase == 7 && s.hq.attach.state != 2

/-- Read the entry at the consume position; its bytes when it is device-owned. A slot whose command has started and not
completed is still the device's. -/
def adminHead (s : State) : Option (List Byte) × State :=
  if s.hq.started.any fun c => c.slot == s.hq.adminPos then (none, s)
  else
    let (r, s) := hqRead 0 (adminSlot s s.hq.adminPos) 64 s
    match r with
    | some b => (if byteAt b 63 = 2 then some b else none, if byteAt b 63 = 0 then { s with hq := { s.hq with adminStale := false } } else s)
    | none => (none, s)

/-- Start commands in ring order while entries are device-owned. -/
def adminDrain (now : Nat) : Nat → State → State
  | 0, s => s
  | n + 1, s =>
    if !adminOn s then s
    else match adminHead s with
      | (none, s) => s
      | (some b, s) =>
        let slot := s.hq.adminPos
        let s := { s with hq := { s.hq with adminPos := (slot + 1) % 2 ^ s.hq.log2, adminStale := false } }
        adminDrain now n (outcomeState (startEntry now (leAt b 0 2) (parseEntry slot b) s) s)

def drainAdmin (now : Nat) (s : State) : State := adminDrain now (2 ^ s.hq.log2) s

/-- ADMIN_POLL: every 100 µs the device starts what stands at its consume position (R326); it pauses in a blackout (R382). -/
def execAdminPoll (now : Nat) (s : State) : Res :=
  let s := atTime now s
  .next (if s.gz.blackout then s else drainAdmin now s)

/-- Re-reads left after an early doorbell (R327). -/
def rereadCount : Nat := 16

/-- What a doorbell of queue 0 does: start the commands, or begin the re-reads. -/
def adminDoorbell (now : Nat) (s : State) : State :=
  if !adminOn s || s.hq.rereads ≠ 0 then s
  else match adminHead s with
    | (some _, _) => drainAdmin now s
    | (none, s) => { s with hq := { s.hq with rereads := rereadCount } }

/-- DOORBELL_REREAD: one of the 16 re-reads at 250 ns; the last that finds nothing counts (R327). -/
def execDoorbellReread (now : Nat) (s : State) : Res :=
  let s := atTime now s
  .next (
    if s.hq.rereads = 0 then s
    else if !adminOn s then { s with hq := { s.hq with rereads := 0 } }
    else match adminHead s with
      | (some _, _) => drainAdmin now { s with hq := { s.hq with rereads := 0 } }
      | (none, s) =>
        let s := { s with hq := { s.hq with rereads := s.hq.rereads - 1 } }
        if s.hq.rereads = 0 then tally tlEarlyDoorbell s else s)

end Sys2Proof.Machine
end

