-- ==== Sys2Proof/Machine/Hosts.lean ====
section
/-! DEFINITION. Attaching, losing and re-attaching a host, the overflow ring, doorbells, stale descriptors (R326 to R349);
the timing inputs (R345, R423, R424); RDMA arrivals (R341, R344); pluggables and the management address (R399, R427). -/

namespace Sys2Proof.Machine

/-! ## The overflow ring (R336, R349) -/

/-- HOST_ATTACHED with the SEQ kept for it: it stands after the last record that was waiting at attach (log 36). -/
def hostAttached (seq : Nat) (s : State) : Event :=
  { code := evHostAttached, severity := sevInfo, unit := uModule, tick := s.tk.tick
    detail := leBytes 4 s.hq.attach.path ++ leBytes 4 s.hq.attach.generation ++ leBytes 4 s.hq.attachSent ++
      leBytes 4 (tabGet 0 s.tallies.module (tlEventDropped / 8))
    seq, timeNs := eventTime s }

/-- One waiting record fewer; after the last, HOST_ATTACHED goes ahead of the newer records. -/
def countDelivered (s : State) : State :=
  match s.hq.attachLeft with
  | none => s
  | some (n, seq) =>
    let s := { s with hq := { s.hq with attachSent := s.hq.attachSent + 1 } }
    if 1 < n then { s with hq := { s.hq with attachLeft := some (n - 1, seq) } }
    else
      let s := { s with hq := { s.hq with attachLeft := none } }
      let e := hostAttached seq s
      if s.hq.ovf.isEmpty then deliver e s
      else { s with hq := { s.hq with ovf := { e with overflow := true } :: s.hq.ovf } }

/-- Deliver records oldest first while EVENT slots are free. -/
def drainFuel : Nat → State → State
  | 0, s => s
  | n + 1, s =>
    match s.hq.ovf, queueOfKind s 1 with
    | e :: rest, some (q, qu) =>
      if s.hq.attach.state = 2 then s
      else
        let a := slotAddr qu qu.pos
        if hostRefused a 64 true s || hostRefused a 64 false s then violationIntoOvf q a s
        else
          let (own, s) := readOwn a s
          if own ≠ some 0 then s
          else
            let s := writeEventSlot q qu e { s with hq := { s.hq with ovf := rest, ovfIndex := (s.hq.ovfIndex + 1) % ovfCapacity } }
            drainFuel n (countDelivered s)
    | _, _ => s

def drainOvf (s : State) : State := drainFuel (s.hq.ovf.length + 1) s

/-- EVENT_OVERFLOW_DRAIN (R336). -/
def execEventOverflowDrain (now : Nat) (s : State) : Res := .next (drainOvf (atTime now s))

/-! ## Host loss and attach (R346 to R349) -/

/-- The attached host is lost: HOST_LOST into the overflow ring, STATE LOST, GENERATION + 1, ENABLE cleared (R347, R350). -/
def hostLost (cause sev : Nat) (s : State) : State :=
  if s.hq.attach.state ≠ 1 then s
  else
    let g := (s.hq.attach.generation + 1) % 2 ^ 32
    let d := leBytes 1 cause ++ leBytes 1 s.hq.attach.path ++ leBytes 2 0 ++ leBytes 4 g ++ leBytes 8 s.hq.beatTick
    let (e, s) := stampEvent evHostLost sev uModule d s
    let s := pushOvf e s
    { s with hq := { s.hq with
      attach := { s.hq.attach with state := 2, generation := g, lostTick := s.tk.tick }
      enable := false, rereads := 0, attachLeft := none } }

/-- HQ_ATTACH, CMD 1: ignored before READY and unless STATE is NEVER or LOST. -/
def execHqAttach (now path : Nat) (s : State) : Res :=
  let s := atTime now s
  .next (
    if s.boot.phase ≠ 7 || s.hq.attach.state = 1 then s
    else
      let s := { s with hq := { s.hq with
        attach := { s.hq.attach with state := 1, generation := (s.hq.attach.generation + 1) % 2 ^ 32, path := path % 2 }
        beatAt := s.now, attachSent := 0 } }
      if s.hq.ovf.isEmpty then
        let e := hostAttached s.hq.nextSeq s
        deliver e { s with hq := { s.hq with nextSeq := s.hq.nextSeq + 1 } }
      else
        drainOvf { s with hq := { s.hq with attachLeft := some (s.hq.ovf.length, s.hq.nextSeq), nextSeq := s.hq.nextSeq + 1 } })

/-- HQ_ATTACH, CMD 2. -/
def execHqDetach (now : Nat) (s : State) : Res := .next (hostLost 3 sevInfo (atTime now s))

/-- A write of HQ_HEARTBEAT restarts the timer. -/
def execHqHeartbeat (now beat : Nat) (s : State) : Res :=
  let s := atTime now s
  .next { s with hq := { s.hq with beat := beat % 2 ^ 32, beatAt := s.now, beatTick := s.tk.tick } }

/-- HEARTBEAT_TIMEOUT: the timeout, when not 0, has passed since the last heartbeat. -/
def execHeartbeatTimeout (now : Nat) (s : State) : Res :=
  let s := atTime now s
  .next (if s.hq.hbMs ≠ 0 && decide (s.hq.beatAt + s.hq.hbMs * 1000000 ≤ s.now) then hostLost 0 sevDegrade s else s)

/-- The PCIe link is down: a host on path 1 is lost. -/
def pcieDown (s : State) : State :=
  let s := { s with net := { s.net with pcieUp := false } }
  if s.hq.attach.path = 1 then hostLost 2 sevDegrade s else s

/-- PCIE_LINK_LOSS: the link goes down, or a hot or function-level reset is received. -/
def execPcieLinkLoss (now : Nat) (s : State) : Res := .next (pcieDown (atTime now s))

/-- PCIE_PERST_N: while it is low the link is down; it resets only the endpoint (R417, R421). -/
def execPciePerstN (now : Nat) (level : Bool) (s : State) : Res :=
  let s := atTime now s
  let s := { s with net := { s.net with perstN := level } }
  .next (if level then { s with net := { s.net with pcieUp := decide (3 ≤ s.boot.phase) } } else pcieDown s)

/-! ## Doorbells (R326, R327) and stale descriptors (R328) -/

/-- Re-read the next slot of an EVENT or TELEMETRY queue: one that is free again is no longer stale, and a read that the region
table refuses is a violation. -/
def rereadSlot (q : Nat) (qu : Queue) (s : State) : State :=
  let a := slotAddr qu qu.pos
  if qu.kind = 1 && hostRefused (a + 63) 1 false s then violationIntoOvf q a s
  else
    let (b, s) := hqRead q (a + 63) 1 s
    if b = some [0] then { s with hq := { s.hq with queues := tabPut s.hq.queues q { qu with stale := false } } } else s

/-- DOORBELL: queue 0 is looked at; the next slot of an EVENT or TELEMETRY queue is re-read, and waiting events go out; the rings
ignore theirs. -/
def execDoorbell (now queue : Nat) (s : State) : Res :=
  let s := atTime now s
  .next (
    if queue = 0 then adminDoorbell now s
    else match tabFind s.hq.queues queue with
      | some q =>
        if q.kind = 1 then (if s.hq.ovf.isEmpty then rereadSlot queue q s else drainOvf s)
        else if q.kind = 2 then rereadSlot queue q s
        else s
      | none => s)

/-- OWN of an entry is neither free nor device-owned: every other value is treated as 0x01 (R325). -/
def hostOwned (b : Option (List Byte)) : Bool := match b with
  | some l => byteAt l 0 != 0 && byteAt l 0 != 2
  | none => false

def staleDetail (queue slot ms : Nat) : List Byte := leBytes 2 queue ++ leBytes 2 0 ++ leBytes 4 slot ++ leBytes 4 (min ms 0xFFFFFFFF)

/-- STALE_DESCRIPTOR_TIMEOUT: the entry at a consume or scan position has been host-owned on every read for `ms`. -/
def execStaleDescriptorTimeout (now queue ms : Nat) (s : State) : Res :=
  let s := atTime now s
  .next (
    if ms < 10 then s
    else if queue = 0 then
      if !adminOn s || s.hq.adminStale then s
      else
        let (b, s) := hqRead 0 (adminSlot s s.hq.adminPos + 63) 1 s
        if hostOwned b then
          raise evStaleDescriptor sevWarn uHq (staleDetail 0 s.hq.adminPos ms) { s with hq := { s.hq with adminStale := true } }
        else s
    else match tabFind s.hq.queues queue with
      | none => s
      | some q =>
        if q.stale || (q.kind ≠ 3 && s.hq.attach.state = 2) then s
        else
          let (b, s) := hqRead queue (slotAddr q q.pos + 63) 1 s
          if hostOwned b then
            raise evStaleDescriptor sevWarn uHq (staleDetail queue q.pos ms)
              { s with hq := { s.hq with queues := tabPut s.hq.queues queue { q with stale := true } } }
          else s)

/-! ## Timing inputs -/

def second : Nat := 1000000000

/-- A synchronisation to facility time, with the rate since the one before (R33). -/
def syncFacility (f : Nat) (s : State) : State :=
  let rate := match s.net.facility with
    | some (f0, l0) => if f0 < f && l0 < s.now then some (f - f0, s.now - l0) else s.net.rate
    | none => none
  { s with net := { s.net with facility := some (f, s.now), rate } }

/-- PTP_MESSAGE on the port of HQ_ETH_CTL: an Announce, or a message that gives facility time (R345). -/
def execPtpMessage (now port : Nat) (announce : Bool) (facilityNs : Nat) (s : State) : Res :=
  let s := atTime now s
  .next (
    if !s.hq.ptpEn || port ≠ s.hq.ptpPort then s
    else if announce then { s with net := { s.net with ptpLast := some s.now, ptpHold := false } }
    else if s.tk.timeSrc = 1 then syncFacility facilityNs s
    else s)

/-- PTP_ANNOUNCE_TIMEOUT: no Announce for 3 s; the clock holds and counts once. -/
def execPtpAnnounceTimeout (now : Nat) (s : State) : Res :=
  let s := atTime now s
  .next (
    if s.hq.ptpEn && !s.net.ptpHold && decide (s.net.ptpLast.elim 0 (· + 3 * second) ≤ s.now) then
      tally tlPtpHoldover { s with net := { s.net with ptpHold := true } }
    else s)

/-- An edge within 1 s ± 100 ppm of the last accepted one; the first, and one after a holdover, is accepted (log 37). -/
def ppsAccepted (s : State) : Bool := match s.net.ppsLast with
  | none => true
  | some l => s.net.ppsHold || (decide (l + 999900000 ≤ s.now) && decide (s.now ≤ l + 1000100000))

/-- Whole seconds at an accepted edge. -/
def ppsCount (s : State) : Nat :=
  if s.net.ppsFirst then 0
  else s.net.ppsSeconds + (s.net.ppsLast.elim 0 fun l => (s.now - l + second / 2) / second)

/-- PPS_IN (R424). -/
def execPpsIn (now : Nat) (s : State) : Res :=
  let s := atTime now s
  .next (
    if !ppsAccepted s then s
    else if s.tk.timeSrc ≠ 2 then { s with net := { s.net with ppsLast := some s.now, ppsHold := false } }
    else
      let n := ppsCount s
      syncFacility (n * second) { s with net := { s.net with
        ppsLast := some s.now, ppsHold := false, ppsFirst := false, ppsSeconds := n } })

/-- PPS_TIMEOUT: no accepted edge for 3 s while PPS_IN is the source. -/
def execPpsTimeout (now : Nat) (s : State) : Res :=
  let s := atTime now s
  .next (
    if s.tk.timeSrc = 2 && !s.net.ppsHold && decide (s.net.ppsLast.elim 0 (· + 3 * second) ≤ s.now) then
      tally tlPpsHoldover { s with net := { s.net with ppsHold := true } }
    else s)

/-- TICK_IN: an edge 1 µs or more after the one before is stamped against its tick (R423). -/
def execTickIn (now : Nat) (s : State) : Res :=
  let s := atTime now s
  let near := s.tk.tickinLast.elim false fun l => decide (s.now < l + 1000)
  let s := { s with tk := { s.tk with tickinLast := some s.now } }
  .next (
    if near then s
    else { s with tk := { s.tk with
      tickinOffset := (s.now - s.run.tickStartAt) % 2 ^ 32, tickinTick := s.tk.tick % 2 ^ 32
      tickinCount := min (s.tk.tickinCount + 1) (2 ^ 32 - 1) } })

/-! ## RDMA arrivals (R341, R344) -/

/-- Registered device memory that grants the direction. -/
def mrGrants (s : State) (rkey addr n : Nat) (write : Bool) : Bool := match findMr s rkey with
  | some (_, r) => (if write then r.write else r.read) && r.base ≤ addr && addr + n ≤ r.base + r.bytes && devOk s.mm addr n
  | none => false

/-- RDMA_WRITE_RECEIVE: bytes land in ascending address order; outside a region, or without its right, a remote access error. -/
def execRdmaWriteReceive (now qp rkey addr : Nat) (data : List Byte) (s : State) : Res :=
  let s := atTime now s
  .next (match tabFind s.net.qps qp with
  | none => s
  | some _ =>
    if mrGrants s rkey addr data.length true then emit (.rdmaAck qp) { s with mm := memWrite s.mm addr data }
    else emit (.rdmaError qp) s)

/-- RDMA_READ_RECEIVE: a poisoned line completes with a remote access error too (R312). -/
def execRdmaReadReceive (now qp rkey addr length : Nat) (s : State) : Res :=
  let s := atTime now s
  .next (match tabFind s.net.qps qp with
  | none => s
  | some _ =>
    if mrGrants s rkey addr length false && (poisonIn s.mm addr length).isNone then
      emit (.rdmaReadData qp (memRead s.mm addr length)) s
    else emit (.rdmaError qp) s)

/-- RDMA_SEND_RECEIVE: the message is kept for its queue pair's consumer. -/
def execRdmaSendReceive (now qp : Nat) (data : List Byte) (s : State) : Res :=
  let s := atTime now s
  .next (match tabFind s.net.qps qp with
  | none => s
  | some _ => emit (.rdmaAck qp) { s with net := { s.net with received := s.net.received ++ [(qp, data)] } })

/-! ## Pluggables and the management address -/

/-- PLUGGABLE_INSERTION: a power class above 16 W stays in low-power mode, its port down (R427). -/
def execPluggableInsertion (port powerW : Nat) (s : State) : Res :=
  onUnit (decide (port < 4)) { s with net := { s.net with cages := tabPut s.net.cages port (true, decide (16 < powerW)) } }

/-- DYNAMIC_ADDRESS_ASSIGNMENT: SETDASA or ENTDAA gives the I3C target its 7-bit address (R399). -/
def execDynamicAddressAssignment (address : Nat) (_daa : Bool) (s : State) : Res :=
  .next { s with sc := { s.sc with i3c := some (address % 128) } }

end Sys2Proof.Machine
end

