-- ==== Sys2Proof/Machine/Capping.lean ====
section
/-! DEFINITION. The power cap (R354, R355, R357), fast protection (R358, R359), thermal limits (R361, R362), the PLDM power
effecter (R398), and what turning the power stages off leaves (R418). -/

namespace Sys2Proof.Machine

/-! ## The cap -/

def capLegal (w : Nat) : Bool := decide (1400 ≤ w) && decide (w ≤ 3000)

/-- IDLE_MEASURE: 1 ms after PLAN_LOAD with no leg open. -/
def execIdleMeasure (now watts : Nat) (s : State) : Res :=
  let s := atTime now s
  .next (if s.job.state = 0 || !s.run.legs.isEmpty then s else { s with pw := { s.pw with idleW := min watts 4095 } })

/-- PW_CAP_WRITE by the driver: ignored outside the range, and in the clock of a PLDM write (log 45). -/
def execPwCapWrite (now watts : Nat) (s : State) : Res :=
  let s := atTime now s
  .next (if capLegal watts && s.pw.pldmAt ≠ some s.now then { s with pw := { s.pw with cap := watts, capSrc := 0, capWritten := true } } else s)

def pldmOk : Nat := 0
/-- ERROR_INVALID_DATA (DSP0240; log 46). -/
def pldmInvalidData : Nat := 2

/-- PLDM_SET_CAP: the numeric effecter. -/
def execPldmSetCap (now endpoint watts : Nat) (s : State) : Res :=
  let s := atTime now s
  .next (
    if !s.boot.powered then s
    else if capLegal watts then
      emit (.pldm endpoint pldmOk watts) { s with pw := { s.pw with cap := watts, capSrc := 1, capWritten := true, pldmAt := some s.now } }
    else emit (.pldm endpoint pldmInvalidData 0) s)

/-- b moved by half the power error over P - P_idle and clamped to [0, 1/2]; with P at or below P_idle it goes to the limit
(log 31). -/
def nextRatio (num den : Nat) (p10 cap p idle : Nat) : Nat × Nat :=
  if p ≤ idle then (if cap < p10 then (1, 2) else if p10 < cap then (0, 1) else (num, den))
  else
    let d := 2 * (p - idle) * den
    let n : Int := (num : Int) * (2 * (p - idle)) + ((p10 : Int) - cap) * den
    if n ≤ 0 then (0, 1)
    else if (d : Int) ≤ 2 * n then (1, 2)
    else (n.toNat / Nat.gcd n.toNat d, d / Nat.gcd n.toNat d)

def unmetLimit : Nat := 100000

/-- b at 0.5 with P10 above the cap for 100 µs: the cap is unmet, once per onset. -/
def checkUnmet (o : Option LegOcc) (s : State) : State :=
  if s.pw.bNum * 2 = s.pw.bDen && decide (s.pw.cap < s.pw.p10) then
    match s.pw.unmetSince with
    | none => { s with pw := { s.pw with unmetSince := some s.now } }
    | some t =>
      if s.pw.capUnmet || s.now < t + unmetLimit then s
      else raiseCap 2 sevWarn o (noteCause 4 { s with pw := { s.pw with capUnmet := true } })
  else { s with pw := { s.pw with unmetSince := none } }

/-- The loop's step for the open leg of largest P[l]. -/
def capStep (o : LegOcc) (s : State) : State :=
  let (n, d) := nextRatio s.pw.bNum s.pw.bDen s.pw.p10 s.pw.cap (legPower s o.leg).learned s.pw.idleW
  applyCap (ratio64 n d) (some o) { s with pw := { s.pw with bNum := n, bDen := d } }

/-- CAP_LOOP_UPDATE: every 10 µs; ratios hold in a blackout (R382), at their maximum after a trip, and at 0.5 while the cap is
unmet and P10 not below it. -/
def execCapLoopUpdate (now p10 : Nat) (s : State) : Res :=
  let s := atTime now s
  let s := { s with pw := { s.pw with p10 := min p10 4095 } }
  .next (
    if s.gz.blackout || s.pw.ocpTrip then s
    else
      let o := openLeg s
      let s := if s.pw.capUnmet && s.pw.p10 < s.pw.cap then
          { s with pw := { s.pw with capUnmet := false, unmetSince := none } }
        else s
      if s.pw.capUnmet then noteCause 4 s
      else
        let s := match o with
          | some o => capStep o s
          | none => s
        checkUnmet o s)

/-! ## Over-current (R358) -/

/-- OCP_TRIP: every unit at 32/64. -/
def execOcpTrip (now : Nat) (s : State) : Res :=
  let s := atTime now s
  .next (
    if s.pw.ocpTrip then s
    else
      let s := { s with pw := { s.pw with ocpTrip := true, ocpSince := s.now, bNum := 1, bDen := 2, capRatio := 32 } }
      raiseCap 3 sevDegrade (openLeg s) (noteCause 3 s))

/-- OCP_RECOVER: after 1 ms below the limit the loop resumes from 0.5. -/
def execOcpRecover (now : Nat) (s : State) : Res :=
  let s := atTime now s
  .next (if s.pw.ocpTrip then { s with pw := { s.pw with ocpTrip := false, bNum := 1, bDen := 2, capRatio := 32 } } else s)

/-! ## Turning the stages off (R418, R420) -/

/-- What no power keeps: fuses and NOR flash, and outside the module's logic its pins, pluggables and laser modules. -/
def darkState (s : State) : State :=
  { out := s.out, freeCtr := s.freeCtr, pending := s.pending, nor := s.nor
    net := { cages := s.net.cages, perstN := s.net.perstN }
    boot := { pwrEn := s.boot.pwrEn, inputOk := s.boot.inputOk, modRstN := s.boot.modRstN, hostRstN := s.boot.hostRstN
              thermtripN := s.boot.thermtripN, alertN := s.boot.alertN, bays := s.boot.bays } }

/-- The power stages turn off; the next cold boot reports `cause`. -/
def powerOff (cause : Nat) (s : State) : State :=
  let s := darkState s
  { s with boot := { s.boot with nextCause := cause } }

/-- OCP_SHUTDOWN: 10 ms above the limit at maximum bubbles; ALERT_N is asserted and the stages turn off. -/
def execOcpShutdown (now : Nat) (s : State) : Res :=
  let s := atTime now s
  .next (
    if s.pw.ocpTrip && decide (s.pw.ocpSince + 10000000 ≤ s.now) then
      let s := raiseCap 4 sevFatal (openLeg s) s
      powerOff 2 { s with boot := { s.boot with alertN := false } }
    else s)

/-! ## Droop (R359) -/

def getDroop (s : State) (die : Nat) : Droop := tabGet {} s.pw.droop die
def setDroop (die : Nat) (x : Droop) (s : State) : State := { s with pw := { s.pw with droop := tabSet {} s.pw.droop die x } }

/-- The unit of a DIE code (R365). -/
def dieUnit (die : Nat) : UnitId := if die < 4 then ⟨2, die⟩ else if die < 8 then ⟨3, die - 4⟩ else uXd

def droopDetail (die : Nat) (x : Droop) : List Byte :=
  leBytes 1 die ++ [0] ++ leBytes 2 x.minMv ++ leBytes 4 (min x.cycles 0xFFFFFFFF) ++ List.replicate 8 0

/-- Stretched cycles count; the first stretch of a tick and passing 1 % of its 1,300 cycles per µs are reported. -/
def stretchDie (die minMv cycles : Nat) (active : Bool) (s : State) : State :=
  let x := getDroop s die
  let low := if minMv = 0 then x.minMv else if x.minMv = 0 then minMv else min x.minMv minMv
  let x := { x with active, cycles := x.cycles + cycles, minMv := low }
  let s := tallyBy tlDroopCycles cycles { s with pw := { s.pw with droopTick := s.pw.droopTick + cycles } }
  let s := if x.raised then s else raise evDroop sevInfo (dieUnit die) (droopDetail die x) s
  let warn := !x.warned && decide (13 * s.tk.periodUs < x.cycles)
  let s := if warn then raise evDroop sevWarn (dieUnit die) (droopDetail die x) s else s
  setDroop die { x with raised := true, warned := x.warned || warn } s

/-- DROOP_DETECT: a detector below 712.5 mV; `cycles` have been stretched so far. -/
def execDroopDetect (now die minMv cycles : Nat) (s : State) : Res :=
  let s := atTime now s
  onUnit (decide (die < 9)) (if minMv < 713 then stretchDie die minMv cycles true s else s)

/-- DROOP_END: `cycles` more were stretched; the clock is at its full rate. -/
def execDroopEnd (now die cycles : Nat) (s : State) : Res :=
  let s := atTime now s
  onUnit (decide (die < 9)) (if (getDroop s die).active then stretchDie die 0 cycles false s else s)

/-! ## Temperatures (R316, R361, R362) -/

/-- The new thermal ratio of a unit: 4/64 per degree from the limit on, held at 4/64 until three degrees below it (log 47). -/
def thermalRatio (old : Nat) (limit t : Int) : Nat :=
  if limit ≤ t then min 32 ((t - limit + 1) * 4).toNat
  else if 0 < old && limit - 3 < t then 4
  else 0

def thermalDetail (kind index : Nat) (t : Int) (limit ratio enter tick : Nat) : List Byte :=
  leBytes 1 kind ++ leBytes 1 index ++ [int8 t] ++ leBytes 1 limit ++ leBytes 1 ratio ++ leBytes 1 enter ++ leBytes 2 0 ++ leBytes 8 tick

/-- Throttle one unit: 0 to 8 dies, 16 on stacks. -/
def throttle (key limit : Nat) (t : Int) (s : State) : State :=
  let old := tabGet 0 s.pw.thermal key
  let new := thermalRatio old limit t
  let s := { s with pw := { s.pw with thermal := tabSet 0 s.pw.thermal key new } }
  let u : UnitId := if key < 16 then dieUnit key else ⟨9, key - 16⟩
  let d := thermalDetail (if key < 16 then 0 else 1) (key % 16) t limit new (if 0 < new then 1 else 0) 0
  if old = 0 && 0 < new then raise evThermalThrottle sevWarn u d s
  else if 0 < old && new = 0 then raise evThermalThrottle sevInfo u d s
  else s

def maxInt (l : List Int) : Int := l.tail.foldl max (l.headD 0)

/-- THERMAL_SAMPLE: nine dies, twelve stacks, the hottest engine and the inlet; ratios hold in a blackout (R382). -/
def execThermalSample (now : Nat) (dieTemps stackTemps : List Int) (engine inlet : Int) (s : State) : Res :=
  let s := atTime now s
  let dies := (List.range 9).map fun i => dieTemps.getD i 0
  let stk := (List.range 12).map fun i => stackTemps.getD i 0
  let hot := dies ++ [maxInt stk, engine, inlet] ++ List.replicate 4 0
  let dbl := BitVec.ofNat 12 ((stk.zipIdx.map fun x => if 85 < x.1 then 2 ^ x.2 else 0).sum)
  let s := { s with pw := { s.pw with temps := hot, stackTemps := stk }, mm := { s.mm with doubleRefresh := dbl } }
  .next (
    if s.gz.blackout then s
    else
      let s := dies.zipIdx.foldl (fun s x => throttle x.2 105 x.1 s) s
      let s := stk.zipIdx.foldl (fun s x => throttle (16 + x.2) 95 x.1 s) s
      if s.pw.thermal.isEmpty then s else noteCause 1 s)

/-- THERMAL_TRIP: a die at 115 °C; THERMTRIP_N is asserted and the stages turn off. The trip stands in NOR flash. -/
def execThermalTrip (now die : Nat) (temp : Int) (s : State) : Res :=
  let s := atTime now s
  onUnit (decide (die < 9)) (
    if s.boot.powered && decide (115 ≤ temp) then
      powerOff 1 { s with nor := { s.nor with trip := some (die, temp, s.tk.tick) }, boot := { s.boot with thermtripN := false } }
    else s)

/-- THERMTRIP of the trip before this boot; at 115 °C the ratio of R361 is 32/64. -/
def reportTrip (s : State) : State :=
  match s.nor.trip with
  | none => s
  | some (die, t, tick) =>
    raise evThermtrip sevFatal uModule (thermalDetail 0 die t 115 32 1 tick) { s with nor := { s.nor with trip := none } }

/-! ## PLDM sensors (R398) -/

/-- Sensor numbers (log 46): 0 input power, 1 to 9 the dies, 10 hottest stack, 11 hottest optical engine, 12 inlet, 13 module
state. -/
def sensorValue (s : State) (n : Nat) : Option Int :=
  if n = 0 then some s.pw.p10
  else if n ≤ 12 then some (s.pw.temps.getD (n - 1) 0)
  else if n = 13 then some s.pw.moduleState
  else none

/-- PLDM_SENSOR_READ. -/
def execPldmSensorRead (endpoint sensor : Nat) (s : State) : Res :=
  .next (
    if !s.boot.powered then s
    else match sensorValue s sensor with
      | some v => emit (.pldm endpoint pldmOk v) s
      | none => emit (.pldm endpoint pldmInvalidData 0) s)

end Sys2Proof.Machine
end

