-- ==== Sys2Proof/Machine/LegTimes.lean ====
section
/-! DEFINITION. Legs: start, deadline, completion (R20, R35 to R40), the start of APPLY (R37, R103), idle units waking
(R353), and the carriages of the tree that act on them (R36 to R42, R160, R161) with the latency echoes of R30. -/

namespace Sys2Proof.Machine

/-! ## Pace at the bellwether (R161) -/

/-- Ticks of two entries of the lateness log for one kind and chip that lie within four. -/
def lateBefore (s : State) (kind chip : Nat) : Bool :=
  s.run.lateLog.any fun e => e.1 != s.tk.tick && decide (s.tk.tick < e.1 + 4) && e.2.1 == kind && e.2.2 == chip

/-- A PACE for a kind, with HOLD 64 from two ticks on. -/
def paceFor (s : State) (kind chip late : Nat) : PaceMsg :=
  let b := match (activeTt s).bind fun t => t.legs.find? fun l => l.kind == kind with
    | some l => l.budgetNs
    | none => 1
  { tickNum := s.tk.tick + 2, slowChip := chip, kind, pace := max 512 (1024 * b / (b + late)), hold := 64 }

/-- Take a PACE in force; every module other than the slow one is paced and reports it. PACE 1,024 ends pacing of the kind,
and on the slow module a PACE replaces an earlier one for the kind with none. -/
def takePace (m : PaceMsg) (s : State) : State :=
  let p : Pace := { slowChip := m.slowChip, pace := m.pace, fromTick := m.tickNum, hold := m.hold }
  let s := { s with run := { s.run with
    paces := if m.pace = 1024 || m.slowChip = s.lg.chip then tabDel s.run.paces m.kind else tabPut s.run.paces m.kind p } }
  if m.slowChip = s.lg.chip then s
  else raise evPowerCapLimited sevInfo uModule (capDetail s 0 0 m.kind m.pace m.slowChip) s

def sendPace (m : PaceMsg) (s : State) : State :=
  (childLinks s).foldl (fun s li => sendOn li (treeCarriage s (.pace m) 0) s) s

/-- The bellwether's record of merged lateness: the second tick of four for a training kind and chip sends a PACE. -/
def notePace (s : State) : State :=
  if !s.tk.bellwether then s
  else
    let a := mergedAck s
    let s := if a.lateOpen && isTraining a.lateKind then
        { s with run := { s.run with lateSeen := some (s.tk.tick, a.lateKind, a.lateChip) } }
      else s
    match s.run.lateSeen with
    | some (t, k, c) =>
      if t = s.tk.tick && c = a.lateChip && 0 < a.latenessNs && !s.run.lateLog.contains (t, k, c) then
        let due := lateBefore s k c
        let s := { s with run := { s.run with lateLog := (t, k, c) :: s.run.lateLog.filter fun e => decide (t < e.1 + 4) } }
        if due then
          let m := paceFor s k c a.latenessNs
          takePace m (sendPace m s)
        else s
      else s
    | none => s

/-- What follows a change of the merged state at this module. -/
def onMerged (s : State) : State := actOnMerged (notePace s)

/-! ## LEG_START (R20) -/

/-- The step of a leg of the current tick and the tick that step began in; the step is all ones for a pipelined APPLY with
nothing to apply (R22, R26). In the first tick of the pipelined form after a strict one, the step of the tick before has been
applied already, and there is nothing to apply (DESIGN CHOICE, log 52: the manual does not say what that leg applies). -/
def stepOfLeg (s : State) (kind : Nat) : Nat × Nat :=
  if kind = kApply && formOf s = 1 then
    match s.run.prev with
    | some (t, st) =>
      if s.run.abandoned.contains (st, t) then (st, t)
      else if st = s.tk.step || (s.commit.valid && s.commit.step = st && 0 < s.commit.count) then (allOnes, t)
      else (st, t)
    | none => (allOnes, s.tk.tick)
  else (s.tk.step, s.tk.tick)

/-- The step of a training leg has been abandoned (R41). -/
def legAbandoned (s : State) (kind : Nat) (st : Nat × Nat) : Bool := isTraining kind && s.run.abandoned.contains st

/-- Two unit sets share a tile. -/
def sharesTile (a b : USet) : Bool := (a.tiles &&& b.tiles) != 0

def occOf (s : State) (leg : Nat) (e : LegEnt) : LegOcc :=
  let st := stepOfLeg s e.kind
  let uset := usetOf s s.tk.tick e
  let startAt := s.run.tickStartAt + e.startNs
  let held := s.run.legs.any fun o => o.late && sharesTile o.uset uset
  let abandoned := legAbandoned s e.kind st
  let gates := (if held then [Gate.held] else []) ++
    (if e.kind = kApply && st.1 != allOnes && !abandoned then [Gate.go] else []) ++
    (if e.kind = kReturn && !prevDone s st.1 then [Gate.prev] else []) ++
    (s.tiles.moving.filter fun m => uset.tiles.getLsbD m.1).map fun m => Gate.move m.1
  { leg, tick := s.tk.tick, step := st.1, attempt := st.2, kind := e.kind, cls := e.cls
    startAt, deadline := startAt + e.budgetNs, uset, abandoned, held, gates, blockedFrom := startAt, recAt := s.now
    view := if e.kind = kServe then s.run.applyEnded else none
    overlap := e.kind == kServe && applyPending s
    images := if e.kind = kServe then s.folds.eff.map fun x => (x.1, x.2.image) else [] }

/-- The start of RETURN: the GSCALE latch, and the step counters of the link groups (R133, R135). -/
def startReturn (o : LegOcc) (s : State) : State :=
  let s := latchGscale o.step o.tick s
  let s := ((List.range 12).filter fun k => o.uset.lgs.getLsbD k).foldl (fun s k => checkSkew (4 + k) (uLg k) o.step s) s
  { s with ex := { s.ex with returns := s.ex.returns ++ (if s.ex.returns.any fun r => r.tick == o.tick then [] else [{ tick := o.tick, step := o.step }]) } }

/-- What the units of a leg begin at its start, by kind. -/
def beginLeg (o : LegOcc) (s : State) : State :=
  if o.abandoned then { s with run := { s.run with spoiled := o.leg :: s.run.spoiled } }
  else match o.kind with
    | 1 => claimSamples o s
    | 4 => startReturn o s
    | 5 => if o.step = allOnes || s.run.goSteps.contains o.step then s else { s with run := { s.run with goWait := true } }
    | 6 => claimRequests o s
    | _ => s

def openLegAt (leg : Nat) (e : LegEnt) (s : State) : State :=
  let o := occOf s leg e
  let s := { s with run := { s.run with legs := s.run.legs ++ [o], legsStarted := leg :: s.run.legsStarted } }
  let s := (usetUnits s o.uset).foldl (fun s u => wake u s) s
  let s := wakeForLeg o (beginLeg o (noteInForce (presetCap o s)))
  s.tiles.map.foldl (fun s m => settleTile m.2 s) s

/-- LEG_START: a leg's START_NS arrives and its units begin the leg's work. -/
def execLegStart (now leg : Nat) (s : State) : Res :=
  let s := atTime now s
  .next (match legEntry s s.tk.tick leg with
    | some e =>
      if running s && !s.run.halting && !s.run.legsStarted.contains leg && s.run.tickStartAt + e.startNs ≤ s.now then
        openLegAt leg e s
      else s
    | none => s)

/-! ## APPLY_START (R37, R103) -/

/-- The APPLY leg that may start now: its START_NS is past and its step's APPLY_GO has come. -/
def applyReady (s : State) : Option LegOcc :=
  s.run.legs.find? fun o => o.kind == kApply && !o.opened && !o.abandoned && s.run.goSteps.contains o.step &&
    decide (o.startAt ≤ s.now)

def modLegs (f : LegOcc → LegOcc) (s : State) : State := { s with run := { s.run with legs := s.run.legs.map f } }

/-- APPLY_START: the later of START_NS and APPLY_GO. The time spent waiting for the gate is wait time (R35). -/
def execApplyStart (now : Nat) (s : State) : Res :=
  let s := atTime now s
  .next (match applyReady s with
    | some o =>
      if s.commit.openStep = allOnes && !s.run.halting && running s then
        let s := modOcc o.leg o.tick (fun x => { unblockLeg s.now .go x with opened := true }) s
        let s := modLegs (fun x => if x.kind = kServe then { x with overlap := true } else x) s
        openApply o.step o.leg { s with run := { s.run with goWait := false } }
      else s
    | none => s)

/-! ## Deadlines and completion (R35, R36, R40) -/

/-- What the policy makes of an overrun (R40): under SKIP a training leg before APPLY has its step abandoned, under HALT
the job halts. -/
def overrunPolicy (o : LegOcc) (s : State) : State :=
  if policyOf s = 2 then requestHalt s
  else if policyOf s = 1 && 1 ≤ o.kind && o.kind ≤ 4 then requestSkip o.attempt o.step s
  else s

/-- An APPLY leg that still waits for its gate has not overrun on its own work. -/
def gateWaiting (o : LegOcc) : Bool := o.kind == kApply && !o.opened

/-- LEG_DEADLINE: the leg is open at its deadline (R36). -/
def execLegDeadline (now tick leg : Nat) (s : State) : Res :=
  let s := atTime now s
  .next (match legOcc s leg tick with
    | some o =>
      if o.late || s.now < o.deadline || s.run.halting then s
      else
        let s := modOcc leg tick (fun o => { o with late := true }) s
        let s := ackNow s
        let s := if gateWaiting o || o.abandoned then s
          else overrunPolicy o (modOcc leg tick (fun o => { o with acted := true }) s)
        onMerged s
    | none => s)

/-- A tile blocked in wait.leg with every token free: in a GRAZE leg it is grazing's (R21, R371). -/
def parkedTile (s : State) (l : Nat) : Bool := match physicalOf s l with
  | some p => (match (getTile s p).blocked with
      | .leg _ _ _ => !outstanding (getTile s p)
      | _ => false)
  | none => false

/-- The tiles of a leg's unit set have finished (R279). -/
def tilesDone (s : State) (o : LegOcc) : Bool :=
  (logicalTiles s).all fun l => !o.uset.tiles.getLsbD l || o.finished.contains l

/-- No reply of the leg is awaited. -/
def repliesIn (s : State) (o : LegOcc) : Bool := !s.ex.replies.any fun r => r.tick16 == o.tick % 65536 && r.leg == o.leg

/-- Every unit of the leg's unit set has finished its work (R35). -/
def legDone (s : State) (o : LegOcc) : Bool :=
  tilesDone s o && (o.abandoned || (match o.kind with
    | 2 => repliesIn s o
    | 4 => returnReady s o.tick
    | 5 => o.step == allOnes || (o.opened && s.commit.openStep != o.step && bulkAccepted s)
    | 6 => repliesIn s o
    | _ => true))

/-- LEG_OVERRUN and TK_LAST_OVERRUN (R35, R435). -/
def legOverrun (o : LegOcc) (late waitNs : Nat) (remote : Option Nat) (s : State) : State :=
  let c := if remote.isSome then 1 else 0
  let s := { s with tk := { s.tk with lastOverrun := {
    leg := o.leg, kind := o.kind, cause := c, remoteChip := remote.getD 0, latenessNs := min late 0xFFFFFFFF } } }
  raise evLegOverrun sevWarn uModule (leBytes 1 (o.leg + 32 * o.kind) ++ leBytes 1 c ++ leBytes 2 (remote.getD 0) ++
    leBytes 4 (min late 0xFFFFFFFF) ++ leBytes 4 (min waitNs 0xFFFFFFFF)) s

/-- Lateness of a leg that completes now: an event, or a count when wait time covers it. -/
def settleLate (o : LegOcc) (waitNs : Nat) (remote : Option Nat) (s : State) : State :=
  if s.now ≤ o.deadline then s
  else
    let late := s.now - o.deadline - waitNs
    if late = 0 then tally tlLegWaited s
    else
      let s := legOverrun o late waitNs remote s
      let s := if s.run.ownAck.latenessNs < late then
          { s with run := { s.run with ownAck := { s.run.ownAck with latenessNs := late, lateKind := o.kind } } }
        else s
      if o.acted || o.abandoned then s else overrunPolicy o s

/-- What the end of a leg of a kind sets going. -/
def afterLeg (o : LegOcc) (s : State) : State :=
  match o.kind with
  | 4 =>
    if o.abandoned then s
    else
      let s := { s with ex := { s.ex with returns := s.ex.returns.filter fun r => r.tick != o.tick } }
      checkReturnDone o.attempt o.step
        { s with run := { s.run with ownAck := { s.run.ownAck with returnDone := some (o.step, o.attempt) } } }
  | 6 => pumpDense s
  | 7 => grazeLegEnd o.uset s
  | _ => s

/-- Legs that no open late leg before them holds a tile of are not held any more (R35). -/
def freeHeldLegs (s : State) : State :=
  let f := fun (acc : List LegOcc × List LegOcc) (o : LegOcc) =>
    (acc.1 ++ [o], acc.2 ++ [if acc.1.any fun x => x.late && sharesTile x.uset o.uset then o else unblockLeg s.now .held o])
  { s with run := { s.run with legs := (s.run.legs.foldl f ([], [])).2 } }

/-- LEG_COMPLETE: every unit of the leg has finished; lateness is computed and ACKs are sent (R35, R36). The command names the
occurrence by tick, number, kind and step; one that names no open occurrence changes nothing. -/
def execLegComplete (now tick leg kind step : Nat) (s : State) : Res :=
  let s := atTime now s
  .next (match legOcc s leg tick with
    | some o =>
      if !legDone s o || o.kind != kind || o.step != step then s
      else
        let s := noteOverrun s
        let s := settleLate o (waitOf s o) o.remote s
        let s := freeHeldLegs { s with run := { s.run with legs := s.run.legs.filter fun x => !(x.leg == leg && x.tick == tick) } }
        let s := afterLeg o s
        let s := if o.late && !(s.run.legs.any (·.late)) then ackNow s else s
        idleAfter o.uset (onMerged s)
    | none => s)

/-! ## Waking (R353) -/

/-- Time to the next leg that names a unit: for a compute die, one of its tiles. -/
def gapOf (s : State) (u : UnitId) : Option Nat :=
  if u.kind = 2 then
    (List.range 40).foldl (fun b i => match gapTo s (uTile (40 * u.index + i)), b with
      | some g, some x => some (min g x)
      | some g, none => some g
      | none, b => b) none
  else gapTo s u

/-- UNIT_WAKE: an idle unit begins waking its wake time before its next leg. -/
def execUnitWake (now : Nat) (u : UnitId) (s : State) : Res :=
  let s := atTime now s
  .next (match gapOf s u with
    | some g => if g ≤ wakeNs (idleOf s u) then wake u s else s
    | none => s)

/-- UNPLANNED_WAKE: unplanned work wakes an idle unit, or the module from I4, at once. -/
def execUnplannedWake (now : Nat) (u : UnitId) (s : State) : Res :=
  let s := atTime now s
  .next (if u = uModule then rouse s else wake u s)

/-! ## Carriages of the tree -/

/-- The state that a child's ACK reports. -/
def mergeAck (old : AckState) (m : MarkMsg) : AckState :=
  { lateOpen := m.lateOpen, latenessNs := m.latenessNs, lateChip := m.lateChip
    lateKind := if m.lateOpen then m.lateKind else old.lateKind
    returnDone := if m.returnDone then some (m.stepNum, m.tickNum) else old.returnDone
    committed := if m.committed then some m.stepNum else old.committed
    haltReq := old.haltReq || m.haltReq }

/-- What of the merged state an ACK carries. -/
def ackFields (a : AckState) : Bool × Nat × Nat × Nat × Bool := (a.lateOpen, a.latenessNs, a.lateChip, a.lateKind, a.haltReq)

/-- A RETURN_DONE of an attempt that has been abandoned says nothing any more (R37, R41). -/
def freshAck (s : State) (m : MarkMsg) : MarkMsg :=
  if m.returnDone && s.run.abandoned.contains (m.stepNum, m.tickNum) then { m with returnDone := false } else m

/-- On a halted module a child's COMMITTED still goes up (R38). -/
def takeCommitted (m : MarkMsg) (s : State) : State :=
  if m.committed then
    let a := { tabGet {} s.run.acks m.sourceChip with committed := some m.stepNum }
    checkCommitted m.stepNum { s with run := { s.run with acks := tabPut s.run.acks m.sourceChip a } }
  else s

/-- A child's ACK is merged, and forwarded when the merged state changes (R36). -/
def takeAck (m : MarkMsg) (s : State) : State :=
  let m := freshAck s m
  let before := ackFields (mergedAck s)
  let s := { s with run := { s.run with acks := tabPut s.run.acks m.sourceChip (mergeAck (tabGet {} s.run.acks m.sourceChip) m) } }
  let s := if m.skipReq then requestSkip m.tickNum m.stepNum s else s
  let s := if m.returnDone then checkReturnDone m.tickNum m.stepNum s else s
  let s := if m.committed then checkCommitted m.stepNum s else s
  if s.tk.bellwether then onMerged s
  else if ackFields (mergedAck s) = before then s
  else sendAck s.tk.tick s.tk.step (fun x => { x with lateOpen := x.lateOpen || m.lateOpen }) s

/-- ACK_RECEIVE: a child's ACK (R36, R37, R38, R41, R42). -/
def execAckReceive (now : Nat) (rx : Rx) (m : MarkMsg) (s : State) : Res :=
  onUnit (decide (rx.li < 96)) (deliverRx now rx (.mark m) (fun s =>
    if !(childChips s).contains m.sourceChip then s
    else if s.tk.state = 1 || running s then takeAck m s
    else if s.tk.state = 4 then takeCommitted m s
    else s) s)

/-- A carriage that comes down the tree: from the parent, to a job in progress. -/
def fromParent (s : State) (rx : Rx) : Bool := (s.tk.state == 1 || running s) && upLink s == some rx.li

/-- A carriage that comes down the tree, to a halted module too (R38, R42). -/
def fromTree (s : State) (rx : Rx) : Bool := (s.tk.state == 4 && upLink s == some rx.li) || fromParent s rx

/-- APPLY_GO_RECEIVE: forwarded; the step may be applied, or is abandoned (R37, R41). -/
def execApplyGoReceive (now : Nat) (rx : Rx) (m : MarkMsg) (s : State) : Res :=
  onUnit (decide (rx.li < 96)) (deliverRx now rx (.mark m) (fun s =>
    if !fromParent s rx then s
    else
      let s := sendDown m 0 s
      if m.abandon then
        if s.run.abandoned.contains (m.stepNum, m.tickNum) then s else onAbandon m.tickNum m.stepNum s
      else if s.run.goSteps.contains m.stepNum then s
      else { s with run := { s.run with goSteps := m.stepNum :: s.run.goSteps } }) s)

/-- APPLY_END_RECEIVE: the tick unit records the APPLY leg of the step as ended, then forwards (R38). -/
def execApplyEndReceive (now : Nat) (rx : Rx) (m : MarkMsg) (s : State) : Res :=
  onUnit (decide (rx.li < 96)) (deliverRx now rx (.mark m) (fun s =>
    if fromTree s rx then sendDown m 0 (recordApplyEnd m.stepNum s) else s) s)

/-- HALT_RECEIVE: forwarded down the whole tree; the module halts, after an APPLY that has started commits (R42, R43). -/
def execHaltReceive (now : Nat) (rx : Rx) (m : MarkMsg) (s : State) : Res :=
  onUnit (decide (rx.li < 96)) (deliverRx now rx (.mark m) (fun s =>
    if !fromTree s rx then s
    else
      let s := sendDown m 0 s
      if s.run.halting then s else beginHalt s) s)

/-- PACE_RECEIVE: forwarded; the pace is in force from its tick on (R161). -/
def execPaceReceive (now : Nat) (rx : Rx) (m : PaceMsg) (s : State) : Res :=
  onUnit (decide (rx.li < 96)) (deliverRx now rx (.pace m) (fun s =>
    if fromParent s rx then takePace m (sendPace m s) else s) s)

/-! ## Latency echoes (R30) -/

/-- ECHO_TIMER: every 100 ms the module measures the latency to its parent. -/
def execEchoTimer (now : Nat) (s : State) : Res := .next (sendEcho (atTime now s))

/-- ECHO_REQ: answered on the same link with its time. -/
def execEchoReq (now : Nat) (rx : Rx) (timeNs : Nat) (s : State) : Res :=
  onUnit (decide (rx.li < 96)) (deliverRx now rx (.echoReq timeNs) (fun s => sendOn rx.li (localCarriage s (.echoRsp timeNs)) s) s)

/-- ECHO_RSP: the one-way latency is half the round trip. -/
def execEchoRsp (now : Nat) (rx : Rx) (timeNs : Nat) (s : State) : Res :=
  onUnit (decide (rx.li < 96)) (deliverRx now rx (.echoRsp timeNs) (fun s =>
    if rx.li = s.tk.parentLi then { s with tk := { s.tk with latencyNs := min ((s.now - timeNs) / 2) (2 ^ 20 - 1) } } else s) s)

end Sys2Proof.Machine
end

