-- ==== Sys2Proof/Machine/LinkOps.lean ====
section
/-! DEFINITION. Link commands: retry (R169 to R172), training (R177), lanes (R178), RETRAIN and DOWN (R179), lasers (R180,
R181) and their events (R182). -/

namespace Sys2Proof.Machine

def isLi (li : Nat) : Bool := decide (li < 96)

/-! ## Events (R182) -/

/-- LINK_DEGRADED: `dir` 0 transmit, 1 receive. -/
def linkDegraded (li dir old new : Nat) (mask : BitVec 4) (cause ser sev : Nat) (s : State) : State :=
  raise evLinkDegraded sev (uLi li)
    (leBytes 1 li ++ leBytes 1 dir ++ leBytes 1 old ++ leBytes 1 new ++ leBytes 1 mask.toNat ++ leBytes 1 cause ++
      leBytes 2 (getLink s li).peerChip ++ leBytes 4 ser) s

def laserFault (lm laser kind bias power sev : Nat) (s : State) : State :=
  raise evLaserFault sev (uLm lm)
    (leBytes 1 lm ++ leBytes 1 laser ++ leBytes 1 kind ++ [0] ++ leBytes 2 bias ++ leBytes 2 power) s

/-! ## DOWN and the handoff (R179) -/

/-- The link goes DOWN, whatever it was doing. -/
def goDown (li cause : Nat) (s : State) : State :=
  let l := getLink s li
  match l.state, l.handoff with
  | 2, _ => leaveLive li cause 1 s
  | 4, _ => s
  | _, some h => setLink li { l with state := 4, downCause := cause, handoff := some { h with cause, next := 1 } } s
  | _, none => linkDown li cause 1 0 0 (setLink li { l with state := 4, downCause := cause } s)

/-- Place the replay entries after the peer's last received SEQ: routed carriages go on, others are discarded. -/
def placeEntries (li lastSeq : Nat) (s : State) : State :=
  match (getLink s li).handoff with
  | none => s
  | some h =>
    let later := match h.entries.findIdx? fun e => e.1 == lastSeq with
      | some i => h.entries.drop (i + 1)
      | none => h.entries
    let (go, stop) := later.partition fun e => reroutable e.2
    let s := modLink li (fun l => { l with handoff := some { h with
      entries := [], rerouted := h.rerouted + go.length, lost := h.lost + stop.length } }) s
    endHandoff li (go.foldl (fun s e => route e.2 none s) s)

/-- The link of this module that a LINK_STATE speaks of. -/
def linkOfPeer (s : State) (chip li : Nat) : Option Nat :=
  (s.lg.links.find? fun e => e.2.peerChip == chip && e.2.peerLi == li).map (·.1)

/-- LINK_STATE: the replay entries of the open handoff are placed. With none open it is one that came after its limit, or the
peer has left the link and so does this end (log 40). -/
def execLinkState (now : Nat) (rx : Rx) (peerLi lastSeq : Nat) (s : State) : Res :=
  onUnit (isLi rx.li) (deliverRx now rx (.linkState peerLi lastSeq) (fun s =>
    match linkOfPeer s rx.src peerLi with
    | none => s
    | some li =>
      let l := getLink s li
      if l.handoff.isSome then placeEntries li lastSeq s
      else if l.stateOwed then modLink li (fun l => { l with stateOwed := false }) s
      else placeEntries li lastSeq (enterRetrain li 1 s)) s)

/-- LINK_STATE_TIMEOUT: 1 ms without it; the replay contents are discarded and counted. -/
def execLinkStateTimeout (now li : Nat) (s : State) : Res :=
  let s := atTime now s
  onUnit (isLi li) (dropHandoff li s)

/-! ## Retry (R169, R171, R172) -/

/-- CARRIAGE_CRC_ERROR; a stomped carriage is discarded silently. -/
def execCarriageCrcError (now li : Nat) (stomped : Bool) (s : State) : Res :=
  let s := atTime now s
  onUnit (isLi li) (if stomped then s else crcError li s)

/-- NAK, in a LINK carriage; on a link that exchanges LINK_ID it has that sent again. -/
def execNak (now : Nat) (rx : Rx) (s : State) : Res :=
  onUnit (isLi rx.li) (
    if (getLink s rx.li).state = 1 then idleFill rx.li (resendAll rx.li (tally tlLinkRetry (atTime now s)))
    else deliverRx now { rx with nak := true } (.link .none) id s)

/-- NAK_REPEAT: the awaited carriage has not arrived within 2 µs. -/
def execNakRepeat (now li : Nat) (s : State) : Res :=
  let s := atTime now s
  onUnit (isLi li) (if (getLink s li).state = 2 && (getLink s li).nakWait then sendNak li s else s)

/-- LINK_ACK_TIMEOUT: nothing to send 64 ns after a receipt. -/
def execLinkAckTimeout (now li : Nat) (s : State) : Res :=
  let s := atTime now s
  onUnit (isLi li) (if (getLink s li).state = 2 && (getLink s li).ackOwed then sendLocal li (.link .none) s else s)

/-- RETRAIN_TIMEOUT: ACK_SEQ has not advanced for 20 µs while the replay buffer holds carriages. -/
def execRetrainTimeout (now li : Nat) (s : State) : Res :=
  let s := atTime now s
  onUnit (isLi li) (if (getLink s li).replay.isEmpty then s else enterRetrain li 1 s)

/-! ## Lanes (R178) -/

def laneBit (lane : Nat) : BitVec 4 := 1 <<< lane

/-- Put a direction's lane mask in force and report the change; with no lanes left the link goes DOWN. -/
def setLanes (li dir : Nat) (mask : BitVec 4) (cause ser : Nat) (s : State) : State :=
  let l := getLink s li
  let old := if dir = 0 then l.txMask else l.rxMask
  if old = mask then s
  else
    let s := setLink li (if dir = 0 then { l with txMask := mask, txLane := 0 } else { l with rxMask := mask, dropped := ~~~mask }) s
    let s := linkDegraded li dir (laneCount old) (laneCount mask) mask cause ser (if laneCount mask < laneCount old then sevDegrade else sevInfo) s
    if mask = 0 then goDown li 0 s else pump li s

def dropLane (li dir lane cause ser : Nat) (s : State) : State :=
  let l := getLink s li
  if l.state ≠ 2 then s else setLanes li dir ((if dir = 0 then l.txMask else l.rxMask) &&& ~~~(laneBit lane)) cause ser s

def restoreLane (li dir lane : Nat) (s : State) : State :=
  let l := getLink s li
  if l.state ≠ 2 || 3 < lane then s else setLanes li dir ((if dir = 0 then l.txMask else l.rxMask) ||| laneBit lane) 4 0 s

/-- LINK: acknowledgement and credits, and what the peer's receiver asks of this transmitter. -/
def execLink (now : Nat) (rx : Rx) (lane : LaneRequest) (s : State) : Res :=
  onUnit (isLi rx.li) (deliverRx now rx (.link lane) (fun s => match lane with
    | .none => s
    | .drop n => dropLane rx.li 0 n 3 0 s
    | .restore n => restoreLane rx.li 0 n s) s)

def laneCauseCode : LaneCause → Nat
  | .symbolErrors => 0
  | .cdrLock => 1
  | .laser => 2
  | .peerRequest => 3

/-- LANE_DROP: this receiver decides and tells the peer, or a transmit lane is lost. -/
def execLaneDrop (now li lane : Nat) (transmit : Bool) (cause : LaneCause) (ser : Nat) (s : State) : Res :=
  let s := atTime now s
  onUnit (isLi li && decide (lane < 4)) (
    if (getLink s li).state ≠ 2 then s
    else
      let s := dropLane li (if transmit then 0 else 1) lane (laneCauseCode cause) ser s
      if transmit then s else sendOn li (localCarriage s (.link (.drop lane))) s)

/-- LG_LANE_SER of a lane, saturating. -/
def setSer (key ser : Nat) (s : State) : State :=
  if key < 384 then modLink (key / 4) (fun l => { l with ser := l.ser.set (key % 4) (min ser 0xFFFF) }) s else s

/-- CDR_TRIM: symbol error ratios of the last window, and the dropped receive lanes that pass their retest rejoin. `sers`
are keyed by 4 × LI + lane. -/
def execCdrTrim (now : Nat) (passed : List (Nat × Nat)) (sers : List (Nat × Nat)) (s : State) : Res :=
  let s := taskRan 5 0 (sers.foldl (fun s x => setSer x.1 x.2 s) (atTime now s))
  .next (passed.foldl (fun s x =>
    if isLi x.1 && decide (x.2 < 4) && (getLink s x.1).dropped.getLsbD x.2 then
      sendOn x.1 (localCarriage s (.link (.restore x.2))) (restoreLane x.1 1 x.2 s)
    else s) s)

/-! ## Training (R177) -/

/-- Carriages in transit give up the ingress buffers of a link whose credit counts restart (log 39). -/
def dropHolds (li : Nat) (s : State) : State :=
  let free := fun (w : Waiting) => match w.holds with
    | some (l, _) => if l = li then { w with holds := none } else w
    | none => w
  { s with lg := { s.lg with links := s.lg.links.map fun e => (e.1, { e.2 with queue := e.2.queue.map free }) } }

/-- SEQ restarts at 0, and with it the credit counts. -/
def restartSeq (l : Link) : Link :=
  { l with
    txSeq := 0, replay := [], rxLast := 0xFFFF, nakWait := false, nakSeq := 0, nakCount := 0
    freed := [], sent := [], peerFreed := [], reportPool := 0, sinceTc2 := 0, ackOwed := false
    nakDue := false, txBits := [], txLane := 0 }

/-- Start training from step 1. Links whose optics are not verified stay OFF (R388); those of a failed driver die stay DOWN
(R377). -/
def startTraining (li : Nat) (s : State) : State :=
  if !s.lg.opticsOk || s.lg.driverFail.contains (li / 8) then s
  else dropHolds li (modLink li (fun l => { restartSeq l with
    state := 1, admitTx := 0, admitRx := 0, dropped := 0, held := false, peerId := none }) s)

/-- A direction comes into service: the change from the lanes it last had, none before its first training (R182; log 40). -/
def reportLanes (li dir : Nat) (old mask : BitVec 4) (s : State) : State :=
  linkDegraded li dir (laneCount old) (laneCount mask) mask 5 0 (if laneCount mask < laneCount old then sevDegrade else sevInfo) s

/-- The link is UP and joins the live sets; over the parent link the latency is measured again (R30). -/
def linkService (li : Nat) (tx rxm : BitVec 4) (s : State) : State :=
  let l := getLink s li
  let s := setLink li { l with state := 2, txMask := tx, rxMask := rxm, dropped := ~~~rxm, served := true } s
  let s := pump li (reportLanes li 1 l.rxMask rxm (reportLanes li 0 l.txMask tx s))
  if li = s.tk.parentLi then sendEcho s else s

/-- Step 5: LINK_ID compared with the plan. A peer without a plan gives no digest to compare (log 40). -/
def idMatches (s : State) (li : Nat) (id_ : Nat × Nat × List Byte) : Bool :=
  s.job.state == 0 ||
    (s.job.exchange.wiring[li]? == some (id_.1, id_.2.1) && (id_.2.2.all (· == 0) || id_.2.2 == s.job.exchange.digest))

/-- Step 5 has 1 ms while an exchange plan is loaded. -/
def idLate (s : State) (l : Link) : Bool := s.job.state != 0 && decide (l.idAt + 1000000 < s.now)

/-- Steps 1 to 4 and the peer's LINK_ID are both in. -/
def tryUp (li : Nat) (s : State) : State :=
  let l := getLink s li
  match l.peerId with
  | none => s
  | some i =>
    if l.state ≠ 1 || l.admitTx = 0 || l.admitRx = 0 then s
    else
      let s := setLink li { l with peerChip := i.1, peerLi := i.2.1 } s
      if idMatches s li i && !idLate s l then linkService li l.admitTx l.admitRx s else goDown li 3 s

def trained (t : Training) : Bool := t.ok && t.txMask != 0 && t.rxMask != 0

/-- Send this end's LINK_ID. -/
def sendLinkId (li : Nat) (s : State) : State :=
  let digest := if s.job.state = 0 then List.replicate 32 0 else s.job.exchange.digest
  sendLocal li (.linkId s.lg.chip li digest) s

/-- LINK_TRAIN_COMPLETE: steps 1 to 4 are over; once they are, step 5 has failed when its limit passes with no LINK_ID. -/
def execLinkTrainComplete (now li : Nat) (t : Training) (s : State) : Res :=
  let s := atTime now s
  onUnit (isLi li) (
    let l := getLink s li
    if l.state ≠ 1 then s
    else if l.admitTx != 0 then (if !t.ok && idLate s l then goDown li 3 s else s)
    else if trained t then
      tryUp li (sendLinkId li (setLink li { l with admitTx := t.txMask, admitRx := t.rxMask, idAt := s.now } s))
    else goDown li 2 s)

/-- LINK_ID arrives while the link trains. -/
def execLinkId (now : Nat) (rx : Rx) (chip peerLi : Nat) (digest : List Byte) (s : State) : Res :=
  let s := atTime now s
  onUnit (isLi rx.li) (
    if (getLink s rx.li).state ≠ 1 then s
    else
      let s := freeBuffer rx.li 0 (modLink rx.li (fun l => { l with
        peerId := some (chip, peerLi, digest), rxLast := rx.seq, ackOwed := true }) s)
      tryUp rx.li s)

/-- RETRAIN_COMPLETE: steps 2 to 4 again; the link rejoins the live sets, or goes DOWN. -/
def execRetrainComplete (now li : Nat) (t : Training) (s : State) : Res :=
  let s := atTime now s
  onUnit (isLi li) (
    if (getLink s li).state ≠ 3 then s
    else if trained t then linkService li t.txMask t.rxMask (dropHolds li (modLink li restartSeq s))
    else goDown li 2 s)

/-- PEER_RETRAIN: the peer trains the link, and this end trains with it. -/
def execPeerRetrain (now li : Nat) (s : State) : Res :=
  let s := atTime now s
  onUnit (isLi li) (
    let l := getLink s li
    if l.held || l.state = 1 || l.state = 3 then s
    else startTraining li (if l.state = 2 then leaveLive li 0 1 s else s))

/-! ## LG_LINK_CTL (R183) -/

/-- CMD 1. -/
def execLinkCtlRetrain (now li : Nat) (s : State) : Res :=
  onUnit (isLi li) (enterRetrain li 5 (atTime now s))

/-- CMD 2: DOWN with cause software, until it is brought up. -/
def execLinkCtlTakeDown (now li : Nat) (s : State) : Res :=
  onUnit (isLi li) (
    let s := atTime now s
    if (getLink s li).state = 0 || (getLink s li).state = 5 then s
    else modLink li (fun l => { l with held := true }) (goDown li 5 s))

/-- CMD 3: through training. -/
def execLinkCtlBringUp (now li : Nat) (s : State) : Res :=
  onUnit (isLi li) (
    let s := atTime now s
    let st := (getLink s li).state
    if 1 ≤ st && st ≤ 3 then s else startTraining li s)

/-! ## Lasers (R163, R180, R181) -/

def getLaser (s : State) (lm : Nat) : Laser := tabGet {} s.lg.lasers lm
def setLaser (lm : Nat) (x : Laser) (s : State) : State := { s with lg := { s.lg with lasers := tabPut s.lg.lasers lm x } }

/-- The 16 links of a laser module, and the 8 that one laser drives (R162, R163). -/
def moduleLinks (lm : Nat) : List Nat := (List.range 16).map (16 * lm + ·)
def laserLinks (lm laser : Nat) : List Nat := (List.range 8).map (8 * (2 * lm + laser / 4) + ·)

/-- A working laser of a module, its other lasers failed or not. -/
def laserWorks (x : Laser) : Bool := (x.state == 1 || x.state == 3) && x.ok != 0

def laserBit (l : Nat) : BitVec 8 := 1 <<< l

/-- The amber service indicator of a laser bay (R181, R427). -/
inductive Indicator where
  | off
  | steady
  | blinking
  deriving DecidableEq, Repr

def serviceIndicator (x : Laser) : Indicator := if x.state = 2 then .steady else if x.fault then .blinking else .off

/-- LASER_EOL: bias at 90 % of its limit; the lanes continue. -/
def execLaserEol (now lm laser bias power : Nat) (s : State) : Res :=
  let s := atTime now s
  onUnit (decide (lm < 6) && decide (laser < 8)) (
    let x := getLaser s lm
    if x.state = 0 || x.eol.getLsbD laser then s
    else laserFault lm laser 0 bias power sevWarn (setLaser lm { x with eol := x.eol ||| laserBit laser } s))

/-- LASER_FAILURE: the laser is switched off, and its lane on eight links drops. -/
def execLaserFailure (now lm laser bias power : Nat) (overTemp : Bool) (s : State) : Res :=
  let s := atTime now s
  onUnit (decide (lm < 6) && decide (laser < 8)) (
    let x := getLaser s lm
    if !x.ok.getLsbD laser then s
    else
      let s := setLaser lm { x with ok := x.ok &&& ~~~(laserBit laser), state := 3, fault := true } s
      let s := laserFault lm laser (if overTemp then 2 else 1) bias power sevDegrade s
      (laserLinks lm laser).foldl (fun s li => dropLane li 0 (laser % 4) 2 0 s) s)

/-- LASER_MODULE_REMOVED: without a drain its 16 links go DOWN. -/
def execLaserModuleRemoved (now lm : Nat) (s : State) : Res :=
  let s := atTime now s
  onUnit (decide (lm < 6)) (
    let x := getLaser s lm
    let s := { s with boot := { s.boot with bays := s.boot.bays &&& ~~~((1 : BitVec 6) <<< lm) } }
    if x.state = 0 then s
    else if x.state = 2 then setLaser lm { x with state := 0, ok := 0, eol := 0, bias := [] } s
    else
      let s := setLaser lm { state := 0, fault := true } s
      let s := laserFault lm 0xFF 3 0 0 sevDegrade s
      (moduleLinks lm).foldl (fun s li => if (getLink s li).state = 0 || (getLink s li).state = 5 then s else goDown li 0 s) s)

/-- LASER_MODULE_INSERTED: identified, powered, and its 16 links retrained; an unsupported one stays off. -/
def execLaserModuleInserted (now lm : Nat) (supported : Bool) (s : State) : Res :=
  let s := atTime now s
  onUnit (decide (lm < 6)) (
    let s := { s with boot := { s.boot with bays := s.boot.bays ||| ((1 : BitVec 6) <<< lm) } }
    if (getLaser s lm).state ≠ 0 then s
    else if supported then
      (moduleLinks lm).foldl (fun s li => startTraining li s) (setLaser lm { state := 1, ok := 0xFF } s)
    else laserFault lm 0xFF 4 0 0 sevDegrade (setLaser lm { state := 3, fault := true } s))

/-- LASER_DRAIN: the 16 links leave the live sets, and what waits on them goes elsewhere. -/
def execLaserDrain (now lm : Nat) (s : State) : Res :=
  let s := atTime now s
  onUnit (decide (lm < 6)) (
    let x := getLaser s lm
    if x.draining || x.state = 0 || x.state = 2 then s
    else
      let s := (moduleLinks lm).foldl (fun s li => modLink li (fun l => { l with held := true }) s) (setLaser lm { x with draining := true } s)
      (moduleLinks lm).foldl (fun s li => rerouteQueue li s) s)

/-- One drained link runs R179 and reads DRAINED. -/
def drainLink (li : Nat) (s : State) : State :=
  modLink li (fun l => { l with state := 5 }) (if (getLink s li).state = 4 then s else goDown li 4 s)

/-- Nothing more is owed on a link that drains: it is UP with everything acknowledged, or not UP. -/
def drained (l : Link) : Bool := l.state != 2 || l.replay.isEmpty

/-- LASER_DRAIN_COMPLETE: every replay buffer is acknowledged; the lasers go off and STATE reads DRAINED, which lights
the bay's service indicator. -/
def execLaserDrainComplete (lm : Nat) (s : State) : Res :=
  onUnit (decide (lm < 6)) (
    let x := getLaser s lm
    if x.draining && (moduleLinks lm).all fun li => drained (getLink s li) then
      setLaser lm { x with state := 2, ok := 0, draining := false, fault := false } ((moduleLinks lm).foldl (fun s li => drainLink li s) s)
    else s)

end Sys2Proof.Machine
end

