-- ==== Sys2Proof/Machine/Mailbox.lean ====
section
/-! DEFINITION. Firmware images and the fused security version (R387 to R389), ownership and plan keys (R390, R391), debug
unlock (R397), and the security mailbox that carries their commands (R391). -/

namespace Sys2Proof.Machine

/-! ## Firmware images (R387, R388) -/

/-- Image 0 (A) or 1 (B) of a component as NOR flash holds it. -/
def imageBytes (s : State) (comp img : Nat) : List Byte := (tabFind s.nor.images (2 * comp + img)).getD (Config.image (2 * comp + img))

def imageVersion (bs : List Byte) : Nat := leAt bs 8 4
def imageSvn (bs : List Byte) : Nat := byteAt bs 12

/-- The image passed its last verification. -/
def imageOk (s : State) (comp img : Nat) : Bool := s.nor.verified.getLsbD (2 * comp + img)

def setImageOk (comp img : Nat) (ok : Bool) (s : State) : State :=
  let bit_ : BitVec 8 := 1 <<< (2 * comp + img)
  { s with nor := { s.nor with verified := if ok then s.nor.verified ||| bit_ else s.nor.verified &&& ~~~bit_ } }

def bootImageOf (s : State) (comp : Nat) : Nat := tabGet 0 s.nor.bootImage comp
def setBootImage (comp img : Nat) (s : State) : State := { s with nor := { s.nor with bootImage := tabSet 0 s.nor.bootImage comp img } }

/-- The image a component runs. -/
def runningImage (s : State) (comp : Nat) : Nat :=
  match comp with
  | 0 => s.gz.shImage
  | 1 => s.gz.hostImage
  | _ => bootImageOf s comp

def runningBytes (s : State) (comp : Nat) : List Byte := imageBytes s comp (runningImage s comp)

def imageMagic : List Byte := [0x4E, 0x4D, 0x53, 0x49, 0x4D, 0x41, 0x47, 0x45]

/-- An image of a component is verified (R387). -/
def verifyImage (s : State) (comp : Nat) (bs : List Byte) : Bool :=
  let body := leAt bs 16 4
  bs.take 8 == imageMagic && byteAt bs 13 == comp && bs.length == 1024 + body && decide (4096 ≤ body) && decide (body ≤ 67108864) &&
    !(anySet bs 14 2 || anySet bs 20 12 || anySet bs 64 64 || anySet bs 896 128) &&
    sha256 (cut bs 128 384) == Config.rootKeyHash && rsaVerify (cut bs 128 384) (bs.take 512) (cut bs 512 384) &&
    sha256 (bs.drop 1024) == cut bs 32 32 && decide (s.nor.svn ≤ imageSvn bs) && decide (imageSvn bs ≤ 64)

/-! ## The mailbox (R391) -/

def mbOk : Nat := 0
def mbLength : Nat := 1
def mbSignature : Nat := 2
def mbSerial : Nat := 3
def mbNonce : Nat := 4
def mbCounter : Nat := 5
def mbState : Nat := 6
def mbLocked : Nat := 7
def mbRange : Nat := 8
def mbBusy : Nat := 9

/-- The first mailbox code that applies; 0 when none does. -/
def firstCode : List (Bool × Nat) → Nat
  | [] => mbOk
  | (b, c) :: rest => if b then c else firstCode rest

/-- The payload of n bytes: the first bytes of SC_MBOX, or those of the message, which must number n. -/
def mboxPayload (n : Nat) (r : MboxReq) (s : State) : Option (List Byte) :=
  match r with
  | .csr => some ((List.range n).map fun i => tabGet 0 s.sc.mbox i)
  | .mctp _ p => if p.length = n then some p else none

/-- A command completes: DONE with its code and the mailbox cleared, or an answer to the endpoint. -/
def mboxReply (r : MboxReq) (code : Nat) (data : List Byte) (s : State) : State :=
  match r with
  | .csr => { s with sc := { s.sc with mboxState := 2, mboxCode := code, mbox := [] } }
  | .mctp ep _ => emit (.mailbox ep code data) s

/-- Codes 2 to 5 are authentication failures (R400 cause 5). -/
def authFailure (code : Nat) (s : State) : State :=
  if mbSignature ≤ code && code ≤ mbCounter then securityViolation 5 code 0 0 s else s

/-- Run a command on its payload; while STATE is BUSY the register is ignored and a management path answered with 9. -/
def mboxRun (n : Nat) (r : MboxReq) (f : Option (List Byte) → State → Nat × List Byte × State) (s : State) : Res :=
  .next (
    if !s.boot.powered then s
    else if s.sc.mboxState = 1 then (match r with
      | .csr => s
      | .mctp ep _ => emit (.mailbox ep mbBusy []) s)
    else
      let (code, data, s) := f (mboxPayload n r s) s
      mboxReply r code data s)

/-! ## NONCE and UNLOCK (R391, R397) -/

def nonceLife : Nat := 60000000000

/-- The nonce in force. -/
def liveNonce (s : State) : Option (List Byte) :=
  match s.sc.nonce with
  | some (b, t) => if s.now < t + nonceLife then some b else none
  | none => none

/-- NONCE: a new 32-byte nonce replaces the one before. -/
def execNonce (now : Nat) (r : MboxReq) (s : State) : Res :=
  mboxRun 0 r (fun p s => match p with
    | none => (mbLength, [], s)
    | some _ =>
      let b := (List.range 4).flatMap fun w => leBytes 8 (Config.nonceWord s.sc.nonceCount w).toNat
      (mbOk, b, { s with sc := { s.sc with nonce := some (b, s.now), nonceCount := s.sc.nonceCount + 1 } })) (atTime now s)

/-- NONCE_EXPIRY: 60 s after it was issued. -/
def execNonceExpiry (now : Nat) (s : State) : Res :=
  let s := atTime now s
  .next (if (liveNonce s).isNone then { s with sc := { s.sc with nonce := none } } else s)

/-- The hash of the key that AUTH names. -/
def authHash (s : State) (auth : Nat) : Option (List Byte) := if auth = 0 then some Config.debugKeyHash else s.nor.ownerHash

def serialBytes : List Byte := leBytes 8 Config.serial

/-- The code of a debug token (log 41 for the order of the checks). -/
def unlockCode (s : State) (b : List Byte) : Nat :=
  let auth := byteAt b 2
  firstCode [
    (leAt b 0 2 ≠ 1 || anySet b 3 5 || anySet b 48 16, mbLength), (1 < auth, mbRange), (auth = 1 && s.nor.ownerHash.isNone, mbState),
    (cut b 8 8 ≠ serialBytes, mbSerial), (liveNonce s ≠ some (cut b 16 32), mbNonce),
    (authHash s auth ≠ some (sha256 (cut b 64 384)) || !rsaVerify (cut b 64 384) (b.take 448) (cut b 448 384), mbSignature)]

/-- A failed UNLOCK; the third in a row locks out. -/
def unlockFailed (code : Nat) (s : State) : State :=
  let n := s.sc.failures + 1
  securityViolation 6 code 0 0 { s with sc := { s.sc with failures := n, lockout := s.sc.lockout || decide (3 ≤ n) } }

/-- UNLOCK: one use of the nonce; it never touches a running job. -/
def execUnlock (now : Nat) (r : MboxReq) (s : State) : Res :=
  mboxRun 832 r (fun p s =>
    if s.sc.lockout then (mbLocked, [], securityViolation 6 mbLocked 0 0 s)
    else
      let code := match p with
        | none => mbLength
        | some b => unlockCode s b
      let s := { s with sc := { s.sc with nonce := none } }
      if code ≠ mbOk then (code, [], unlockFailed code s)
      else
        let s := { s with sc := { s.sc with debug := true, debugAuth := byteAt (p.getD []) 2, failures := 0 } }
        (mbOk, [], securityViolation 7 0 0 0 s)) (atTime now s)

/-! ## KEY, CLAIM and RAISE_SVN (R389 to R391) -/

/-- The owner's signature of a key record, or none on an UNOWNED module. -/
def keySigned (s : State) (b : List Byte) : Bool := match s.nor.ownerHash with
  | none => !anySet b 448 768
  | some h => sha256 (cut b 832 384) == h && rsaVerify (cut b 832 384) (b.take 448) (cut b 448 384)

/-- The code of a key record. -/
def keyCode (s : State) (b : List Byte) : Nat :=
  let op := byteAt b 2
  firstCode [
    (leAt b 0 2 ≠ 1 || anySet b 4 4 || anySet b 24 40, mbLength),
    ((op ≠ 1 && op ≠ 2) || 3 < byteAt b 3 || (op = 2 && anySet b 64 384), mbRange),
    (cut b 8 8 ≠ serialBytes, mbSerial), (leAt b 16 8 ≤ s.nor.enrollCtr, mbCounter), (!keySigned s b, mbSignature)]

/-- The slot after an accepted record. -/
def keySlotAfter (s : State) (b : List Byte) : KeySlot :=
  if byteAt b 2 = 1 then { state := 1, modulus := cut b 64 384, keyId := sha256 (cut b 64 384) }
  else { keySlot s (byteAt b 3) with state := 2 }

/-- KEY: enrol or revoke a plan key. -/
def execKey (r : MboxReq) (s : State) : Res :=
  mboxRun 1216 r (fun p s => match p with
    | none => (mbLength, [], s)
    | some b =>
      let code := keyCode s b
      if code ≠ mbOk then (code, [], authFailure code s)
      else (mbOk, [], { s with nor := { s.nor with
        slots := tabSet {} s.nor.slots (byteAt b 3) (keySlotAfter s b), enrollCtr := leAt b 16 8 } })) s

/-- CLAIM: the owner key hash is fused, once and for all. -/
def execClaim (r : MboxReq) (s : State) : Res :=
  mboxRun 384 r (fun p s => match p with
    | none => (mbLength, [], s)
    | some b =>
      if s.nor.ownerHash.isSome || s.job.state ≠ 0 then (mbState, [], s)
      else (mbOk, [], { s with nor := { s.nor with ownerHash := some (sha256 b) } })) s

/-- RAISE_SVN. -/
def execRaiseSvn (r : MboxReq) (s : State) : Res :=
  mboxRun 1 r (fun p s => match p with
    | none => (mbLength, [], s)
    | some b =>
      let v := byteAt b 0
      if s.job.state ≠ 0 then (mbState, [], s)
      else if v ≤ s.nor.svn || (List.range 4).any fun c => decide (imageSvn (runningBytes s c) < v) then (mbRange, [], s)
      else (mbOk, [], { s with nor := { s.nor with svn := v } })) s

/-! ## SC_STATUS (R401) -/


def scStatus (s : State) : Nat :=
  bitNat s.nor.ownerHash.isSome + 2 * bitNat s.sc.debug + 4 * (s.sc.debugAuth % 2) + 8 * bitNat s.sc.lockout +
    16 * bitNat s.sc.zeroized + 32 * (s.gz.shImage % 2) + 64 * (s.sc.bootResult % 4)

end Sys2Proof.Machine
end

