-- ==== Sys2Proof/Machine/MemOps.lean ====
section
/-! DEFINITION. Drain, fence and map-out of pseudo-channels (R319 to R321), MEM_RECONFIGURE's end, refresh (R316), and the
outcomes of a parity remedy (R310 to R314). -/

namespace Sys2Proof.Machine

/-! ## Pseudo-channels -/

def setPc (d p : Nat) (x : PcState) (s : State) : State :=
  let m := mmDie s.mm d
  { s with mm := { s.mm with dies := tabPut s.mm.dies d { m with pcs := tabSet {} m.pcs p x } } }

def dayNs : Nat := 86400000000000

/-- Errors of the last 24 h. -/
def recentErrs (s : State) (x : PcState) : List (Nat × Nat) := x.errs.filter fun e => decide (s.now < e.2 + dayNs)

/-- ERR_LINES: distinct lines of the last 24 h. -/
def errLines (s : State) (d p : Nat) : Nat := (recentErrs s (mmPc s.mm d p)).length

/-- Detail of CHANNEL_MAPPED_OUT (R314). -/
def mappedDetail (s : State) (d p cause : Nat) : List Byte :=
  leBytes 1 d ++ leBytes 1 p ++ leBytes 1 cause ++ [0] ++ leBytes 4 (errLines s d p)

/-- A pseudo-channel becomes FENCED; a loaded job halts (R319, R320). -/
def fence (d p cause : Nat) (s : State) : State :=
  let x := mmPc s.mm d p
  if 2 ≤ x.state then s
  else
    let s := setPc d p { x with state := 2 } s
    requestHalt (raise evChannelMappedOut sevFault (uMd d) (mappedDetail s d p cause) s)

def isPc (die pc : Nat) : Bool := decide (die < 4) && decide (pc < 128)

/-- PC_DRAIN: requests are held, those in flight complete, and the pseudo-channel is retrained. -/
def execPcDrain (die pc : Nat) (s : State) : Res :=
  onUnit (isPc die pc) (
    let x := mmPc s.mm die pc
    if x.state = 0 then setPc die pc { x with state := 1 } s else s)

/-- PC_DRAIN_COMPLETE: back to ACTIVE; the second failed retraining in a row fences. -/
def execPcDrainComplete (die pc : Nat) (retrained : Bool) (s : State) : Res :=
  onUnit (isPc die pc) (
    let x := mmPc s.mm die pc
    if x.state ≠ 1 then s
    else if retrained then setPc die pc { x with state := 0, retrainFails := 0 } s
    else
      let s := setPc die pc { x with state := 0, retrainFails := x.retrainFails + 1 } s
      if 1 ≤ x.retrainFails then fence die pc 2 s else s)

/-- PC_FENCE. -/
def execPcFence (die pc : Nat) (s : State) : Res := onUnit (isPc die pc) (fence die pc 3 s)

/-- REFRESH keeps contents (R316). -/
def execRefresh (now die : Nat) (s : State) : Res := onUnit (decide (die < 4)) (atTime now s)

/-! ## MEM_RECONFIGURE_COMPLETE (R309, R321) -/

/-- Put the map-out list in force for the pseudo-channels lo to hi; those listed for the first time are announced. A fence
or an entry no longer listed ends; one that drains goes on draining. -/
def applyMapouts (lo hi : Nat) (s : State) : State :=
  (List.range 4).foldl (fun s d => (List.range' lo (hi - lo)).foldl (fun s p =>
    let x := mmPc s.mm d p
    if s.nor.mapout.contains (d, p) then
      if x.state = 3 then s
      else
        let s := setPc d p { x with state := 3 } s
        raise evChannelMappedOut sevInfo (uMd d) (mappedDetail s d p 0) s
    else if x.state = 1 then s
    else setPc d p { x with state := 0 } s) s) s

/-- What the overflow ring still holds is discarded and counted (R309). -/
def dropOvf (s : State) : State :=
  let n := s.hq.ovf.length
  let left := s.hq.attachLeft
  let s := tallyBy tlEventDropped n { s with hq := { s.hq with ovf := [], ovfIndex := (s.hq.ovfIndex + n) % ovfCapacity, attachLeft := none } }
  match left with
  | some (_, seq) => deliver (hostAttached seq s) s
  | none => s

/-- MEM_RECONFIGURE_COMPLETE: the decode is rebuilt, HBM3E zero-filled, and the command completes. -/
def execMemReconfigureComplete (s : State) : Res :=
  .next (match s.mm.reconfig with
  | none => s
  | some (slot, tag, spread) =>
    let s := dropOvf (drainOvf s)
    let s := applyMapouts 0 96 { s with mm := { s.mm with reconfig := none, spread } }
    let s := { s with mm := zeroHbm s.mm }
    let s := { s with hq := { s.hq with ovfBase := ovfRing s.mm } }
    finishStarted { slot, tag, opcode := 0x0052 } 0 [] s)

/-! ## Parity (R310 to R314) -/

/-- A memory error at an address: the line is poisoned, PARITY_MEM counts, MM_LAST_ERR and the pseudo-channel's errors move,
and 64 distinct lines in 24 h fence it (R311, R319). -/
def memError (addr source content : Nat) (s : State) : State :=
  match decodeAddr s.mm addr with
  | .mem d p _ =>
    let line := addr / 64
    let (_, mem, dev, pc) := memoryCodes s.mm addr
    let s := { s with mm := memPoison s.mm line }
    let x := mmPc s.mm d p
    let s := setPc d p { x with errs := (line, s.now) :: (recentErrs s x).filter fun e => e.1 != line } s
    let s := noteLastErr d (line * 64) mem source p s
    let s := raise evParityMem sevDegrade (uMd d) (parityMemDetail (line * 64) mem dev pc source content) (tally tlParityMem s)
    if 64 ≤ errLines s d p then fence d p 1 s else s
  | _ => s

/-- An error of on-die SRAM at POINT 4 or 6: PARITY_MEM with MEMORY 2, and the unit queued for self-test. -/
def sramError (u : UnitId) (source : Nat) (s : State) : State :=
  queueUnit u 2 (raise evParityMem sevDegrade u (parityMemDetail 0 2 (if u.kind = 1 then u.index else 0) 0xFF source 0) (tally tlParityMem s))

/-- The record of an operation, at its location on a die, covers an address. -/
def opCovers (s : State) (die addr : Nat) (o : RowOp) : Bool := match getTable s o.table with
  | some t =>
    let (loc, _) := locate s t.desc o.fold die o.slot
    loc ≤ addr && addr < loc + recordBytes t.desc
  | none => false

/-- The APPLY, repair or migrate of the record at an address, in its queue. -/
def recordOp (s : State) (die addr : Nat) : Option (Nat × Nat × RowOp) :=
  (getRu s die).queues.findSome? fun q =>
    (q.2.zipIdx.find? fun x => (match x.1.kind with
      | .apply => !x.1.busy
      | .repair _ => !x.1.busy
      | .promote _ => true
      | .demote _ _ => true
      | _ => false) && opCovers s die addr x.1).map fun x => (q.1, x.2, x.1)

/-- The slot of a table's fold-load destination that holds an address. -/
def foldCovers (s : State) (addr : Nat) (j : FoldJob) : Bool := match j.target.kind, getTable s j.target.num with
  | 0, some t => (List.range 4).any fun d =>
      let b := foldBase t.desc (1 - t.current) d
      j.dieMask.getLsbD d && b ≤ addr && addr < b + t.desc.localRows.getD d 0 * recordBytes t.desc
  | _, _ => false

/-- A fold load leaves the record at an address as it stands. -/
def skipRecord (addr : Nat) (s : State) : State :=
  let keep := fun (j : FoldJob) => if foldCovers s addr j then { j with kept := addr :: j.kept } else j
  { s with folds := { s.folds with loading := s.folds.loading.map keep } }

/-- POINT 3: the record is left unchanged and, for an APPLY or a repair, its slot is discarded; the apply engine is queued for
test. -/
def recordError (u sender : UnitId) (addr : Nat) (s : State) : State :=
  let s := queueUnit u 2 (raise evParityPath sevFault u (parityPathDetail addr 3 3 sender) s)
  let die := u.index / 8
  match recordOp s die addr with
  | none => skipRecord addr s
  | some (q, i, o) => match getTable s o.table, o.kind with
    | some t, .apply => settleApply die q i o t.desc {} none s
    | some t, .repair _ => settleApply die q i o t.desc {} none s
    | _, _ => dropOp die q i s

/-- Instructions of a tile that may be reading its SRAM: those in its engines, its drover and its embedding queue, and the one
at the program counter; ENGINE code, address and opcode of each (R281, R282). -/
def readers (t : Tile) : List (Nat × Nat × Nat) :=
  (t.engines.filterMap fun e => e.2.head?.map fun x => (e.1, x.addr, x.opcode)) ++
    (t.moves.map fun x => (enDrover, x.addr, x.opcode)) ++ (t.embs.map fun x => (enEmbed, x.addr, x.opcode)) ++
    [(enSequencer, t.pc, opcodeOf (fetchWord t))]

/-- POINT 4 fails: the tile traps for one of the instructions that may have been reading; which is free (log 70). -/
def sramTrap (p addr : Nat) (s : State) : State :=
  let (w, s) := freeWord s
  let l := readers (getTile s p)
  let r := l.getD (w.toNat % l.length) (enSequencer, 0, 0)
  trapAs p tcParity r.1 r.2.1 r.2.2 addr [] s

/-- PARITY_RETRY: how the remedy of a mismatch at POINT ended, with `failed` failed attempts (3: every attempt failed). -/
def execParityRetry (now point : Nat) (u : UnitId) (addr failed content source : Nat) (sender : UnitId) (s : State) : Res :=
  let s := atTime now s
  onUnit (unitExists u) (
    if failed = 0 then s
    else if failed < 3 then parityPassed u sender addr point failed s
    else match point with
      | 1 => memError addr source content s
      | 2 => memError addr 1 content s
      | 3 => recordError u sender addr s
      | 4 =>
        let s := sramError u source s
        if u.kind = 1 then sramTrap u.index addr s else s
      | 6 => coreFault u.index addr (sramError u source s)
      | _ => parityPathFault u sender addr point s)

end Sys2Proof.Machine
end

