-- ==== Sys2Proof/Machine/Graze.lean ====
section
/-! DEFINITION. Grazing slices (R367 to R370), in-service self-test, quarantine and requalification (R371 to R378), tile
rotation (R380), firmware activation (R382, R383), and the host-complex reset (R413). -/

namespace Sys2Proof.Machine

/-! ## Slices (R368 to R370) -/

/-- The open GRAZE leg that names the unit of a task. -/
def grazeLegFor (s : State) (task unit : Nat) : Option LegOcc :=
  s.run.legs.find? fun o => o.kind == kGraze && decide (o.startAt ≤ s.now) && decide (s.now ≤ o.deadline) && usetHasTask s o.uset task unit

/-- Tasks 13 and 14 wait for legs that use the unit under test (R367). -/
def unitInUse (s : State) (task unit : Nat) : Bool :=
  s.run.legs.any fun o =>
    (task == 13 && o.uset.mds.getLsbD unit && [kApply, kGather, kServe, kReturn].contains o.kind) ||
      (task == 14 && o.uset.lgs.getLsbD unit && o.kind == kReturn)

/-- A slice may start now: no blackout (R382), a GRAZE leg open, the unit free. -/
def sliceOpen (s : State) (task unit : Nat) : Option LegOcc :=
  if s.gz.blackout || unitInUse s task unit then none else grazeLegFor s task unit

/-- A stack's present temperature is that of its last retraining. -/
def noteRetrained (stack : Nat) (s : State) : State :=
  let old := (List.range 12).map fun i => s.gz.retrainTemps.getD i 0
  { s with gz := { s.gz with retrainTemps := old.set stack (s.pw.stackTemps.getD stack 0) } }

/-- A stack of the die has moved by HBM_RETRAIN_DC since its last retraining. -/
def retrainDue (s : State) (die : Nat) : Bool :=
  (List.range 3).any fun i =>
    let k := 3 * die + i
    decide ((s.gz.retrainDc : Int) ≤ s.pw.stackTemps.getD k 0 - s.gz.retrainTemps.getD k 0) ||
      decide ((s.gz.retrainDc : Int) ≤ s.gz.retrainTemps.getD k 0 - s.pw.stackTemps.getD k 0)

/-- The HBM3E pseudo-channels of a die that a retraining pass takes, in order. -/
def retrainPcs (s : State) (die : Nat) : List Nat := (List.range 96).filter fun p => (mmPc s.mm die p).state < 2

/-- The steps of a pass: lines of a scrub pass, pseudo-channels of a retraining pass, 1,024ths of the others. -/
def passSteps (s : State) (task unit : Nat) : Nat :=
  match task with
  | 0 => activeHbm s.mm unit * (hbmPcBytes / 64)
  | 1 => activeLp s.mm unit * (lpPcBytes / 64)
  | 6 => (retrainPcs s unit).length
  | _ => 1024

/-- Where a slice brings the pass: `amount` lines further, one pseudo-channel further, or to D = `amount`/1,024. -/
def sliceReaches (s : State) (task unit amount : Nat) : Nat :=
  let x := getTask s task unit
  if task ≤ 1 then x.pos + amount else if task = 6 then x.pos + 1 else max x.done amount

/-- D at a position, in 1/1,024. -/
def fractionAt (s : State) (task unit reach : Nat) : Nat :=
  let n := passSteps s task unit
  if n ≤ reach then 1024 else 1024 * reach / n

/-- The address of a line of a die's HBM3E (task 0) or LPDDR5X (task 1), by die offset (R304, R307). -/
def scrubAddr (m : Mm) (task die line : Nat) : Nat :=
  let o := 64 * line
  let striped := fun (base o : Nat) => base + (4 * (o / 4096) + die) * 4096 + o % 4096
  if task = 0 then
    if o < spreadBytes m / 4 then striped 0 o else localBase m die + (o - spreadBytes m / 4)
  else if o < pastureLen m die then pastureBase m die + o
  else striped (carveBase m) (o - pastureLen m die)

/-- A retraining slice drains the next pseudo-channel (R319). -/
def drainNext (die : Nat) (o : LegOcc) (s : State) : State :=
  let x := getTask s 6 die
  let s := setTask 6 die { x with drainedIn := some (o.tick, o.leg) } s
  match (retrainPcs s die)[x.pos]? with
  | some p => noteRetrained (3 * die + p / 32) (setPc die p { mmPc s.mm die p with state := 1 } s)
  | none => s

/-- One pseudo-channel per die drains at a time, and one per GRAZE leg (R319, R367). -/
def drainOpen (s : State) (task unit : Nat) (o : LegOcc) : Bool :=
  task != 6 || ((getTask s 6 unit).drainedIn != some (o.tick, o.leg) && (List.range 96).all fun p => (mmPc s.mm unit p).state != 1)

/-- A slice has run: a scrub slice has read its lines, those in `bad` (die offsets) failing every attempt (R311, R318); a
retraining slice drains. The pass ends with its last step; GRAZE_STARVED is armed again at D ≥ E - 1/32. -/
def advanceTask (o : LegOcc) (task unit amount : Nat) (bad : List Nat) (s : State) : State :=
  let x := getTask s task unit
  let reach := sliceReaches s task unit amount
  let failed := bad.filter fun l => decide (task ≤ 1) && x.pos ≤ l && decide (l < min reach (passSteps s task unit))
  let done := fractionAt s task unit reach
  let s := if task = 6 then drainNext unit o s else s
  let x := getTask s task unit
  let s := if 1024 ≤ done then
      setTask task unit { x with done := 0, pos := 0, startAt := s.now, passes := min (x.passes + 1) (2 ^ 32 - 1) } s
    else setTask task unit { x with done, pos := reach } s
  let x := getTask s task unit
  let s := if laggingBy 32 s task unit then s else setTask task unit { x with starved := false } s
  let s := failed.foldl (fun s l => memError (scrubAddr s.mm task unit l) 2 0 s) s
  if task ≤ 1 then { s with gz := { s.gz with scrubs := s.gz.scrubs.drop 1 } } else s

/-- GRAZE_SLICE: a slice of a leg-bound task that is due brings D no further than E + 1/64. -/
def execGrazeSlice (now task unit : Nat) (work : SliceWork) (s : State) : Res :=
  let s := atTime now s
  onUnit (legBound task && decide (unit < taskUnits task)) (match sliceOpen s task unit with
    | none => s
    | some o =>
      if taskActive s task unit && drainOpen s task unit o &&
          (mayReach s task unit (sliceReaches s task unit work.amount) (passSteps s task unit) || (task == 6 && retrainDue s unit)) then
        advanceTask o task unit work.amount work.bad s
      else s)

/-- The unit of R378 that a task tests, queued ahead of its schedule. -/
def queuedFor (s : State) (task unit : Nat) : Bool :=
  s.gz.queued.any fun q => match q.1 with
    | 0 => task == 12 && q.2.1 == unit
    | 1 => task == 13 && q.2.1 / 8 == unit
    | 2 => task == 13 && q.2.1 == unit
    | 3 => task == 14 && q.2.1 == unit
    | _ => false

/-- FORCED_SLICE: a behind task, or a queued test, takes one slice ahead of foreground work in a GRAZE leg. -/
def execForcedSlice (now task unit : Nat) (work : SliceWork) (lengthNs : Nat) (s : State) : Res :=
  let s := atTime now s
  onUnit (legBound task && decide (unit < taskUnits task)) (match sliceOpen s task unit with
    | none => s
    | some o =>
      let x := getTask s task unit
      if (isBehind s task unit || queuedFor s task unit) && x.forcedIn ≠ some (o.tick, o.leg) && drainOpen s task unit o then
        let s := tally tlGrazeForced (setTask task unit { x with forcedNs := lengthNs, forcedIn := some (o.tick, o.leg) } s)
        advanceTask o task unit work.amount work.bad s
      else s)

/-- TASK_PERIOD_END: the period ends with D < 1, or the task has stayed behind. -/
def execTaskPeriodEnd (now task unit : Nat) (s : State) : Res :=
  let s := atTime now s
  onUnit (legBound task && decide (unit < taskUnits task)) (
    let x := getTask s task unit
    if taskActive s task unit && decide (x.startAt + taskPeriod s task unit ≤ s.now) then
      let s := raise evGrazeStarved sevDegrade uModule (starvedDetail s task unit 1) (tally tlGrazeMissed s)
      setTask task unit { x with startAt := s.now, starved := false } s
    else s)

/-! ## Free tasks (R367) -/

/-- SENSOR_CALIBRATION: the die's sensor gives its last reading meanwhile. -/
def execSensorCalibration (now die : Nat) (s : State) : Res := onUnit (decide (die < 9)) (taskRan 7 die (atTime now s))

/-- LASER_AGEING_COMPENSATION: bias currents of the 48 lasers. -/
def execLaserAgeingCompensation (now : Nat) (bias : List Nat) (s : State) : Res :=
  let s := atTime now s
  .next (taskRan 8 0 ((List.range 6).foldl (fun s lm =>
    if laserWorks (getLaser s lm) then setLaser lm { getLaser s lm with bias := (bias.drop (8 * lm)).take 8 } s else s) s))

/-- NOR_LOG_LEVELLING. -/
def execNorLogLevelling (now : Nat) (s : State) : Res := .next (taskRan 9 0 (atTime now s))

/-! ## Failures (R374 to R378) -/

def bistDetail (kind test index step cov origin action : Nat) : List Byte :=
  leBytes 1 kind ++ leBytes 1 test ++ leBytes 2 index ++ leBytes 4 step ++ leBytes 2 cov ++ leBytes 1 origin ++ leBytes 1 action

/-- Tiles of a compute die, and of the module, that are not, and that are, quarantined. -/
def tilesLeft (s : State) (cd : Nat) : Nat := (List.range 40).countP fun i => !s.nor.quarTiles.getLsbD (40 * cd + i)
def tilesQuarantined (s : State) : Nat := (List.range 160).countP fun i => s.nor.quarTiles.getLsbD i

def quarantineDetail (s : State) (p : Nat) (logical : Option Nat) : List Byte :=
  leBytes 1 p ++ leBytes 1 (logical.getD 0xFF) ++ leBytes 1 (tilesLeft s (p / 40)) ++ [0] ++ leBytes 2 (tilesQuarantined s) ++
    leBytes 2 0 ++ leBytes 8 s.tk.tick

/-- A job is under way. -/
def jobLive (s : State) : Bool := s.tk.state == 1 || running s

def tileBit (p : Nat) : BitVec 160 := 1 <<< p
def engineBit (e : Nat) : BitVec 32 := 1 <<< e

/-- A tile fails: it stops, is quarantined, and a job that maps it halts. -/
def failTile (p test step cov origin : Nat) (s : State) : State :=
  let logical := logicalOf s p
  let halts := logical.isSome && jobLive s
  let s := modTile p (fun t => { t with issuing := false }) { s with
    nor := { s.nor with quarTiles := s.nor.quarTiles ||| tileBit p }
    tiles := { s.tiles with pendMap := match s.tiles.pendMap with
      | some (n, m, r) => if m.any fun e => e.2 == p then none else some (n, m, r)
      | none => none } }
  let s := raise evBistFail sevFault (uTile p) (bistDetail 0 test p step cov origin (if halts then 2 else 1)) s
  let s := raise evTileQuarantined sevDegrade (uTile p) (quarantineDetail s p logical) s
  if halts then requestHalt s else dropQuarantined s

/-- Apply engines of a die not quarantined. -/
def enginesLeft (s : State) (die : Nat) : Nat := (List.range 8).countP fun i => !s.nor.quarEngines.getLsbD (8 * die + i)

/-- An apply engine fails; the last of a die halts the job. -/
def failEngine (e test step cov origin : Nat) (s : State) : State :=
  let s := { s with nor := { s.nor with quarEngines := s.nor.quarEngines ||| engineBit e } }
  let last := enginesLeft s (e / 8) == 0
  let halts := last && jobLive s
  let s := raise evBistFail (if last then sevFault else sevDegrade) (eventUnit 1 e)
    (bistDetail 1 test e step cov origin (if halts then 2 else 1)) s
  if halts then requestHalt s else s

/-- An embedding engine, link-side update engine or shear unit fails: no job starts until a cold boot passes it. -/
def failOther (kind index test step cov origin : Nat) (s : State) : State :=
  let halts := jobLive s
  let s := { s with gz := { s.gz with failed := s.gz.failed ++ [(kind, index)] } }
  requestHalt (raise evBistFail sevFault (eventUnit kind index)
    (bistDetail kind test index step cov origin (if halts then 2 else 0)) s)

def failUnit (kind index test step cov origin : Nat) (s : State) : State :=
  match kind with
  | 0 => failTile index test step cov origin s
  | 1 => failEngine index test step cov origin s
  | _ => failOther kind index test step cov origin s

/-! ## Self-test (R371 to R373, R376, R377) -/

/-- A unit of R378 that is tested in service. -/
def testExists (kind index : Nat) : Bool := kind < 4 && index < [160, 32, 4, 12].getD kind 0

/-- The task that tests a unit, and its unit of R367. -/
def testTask (kind index : Nat) : Nat × Nat :=
  match kind with
  | 0 => (12, index)
  | 1 => (13, index / 8)
  | 2 => (13, index)
  | _ => (14, index)

def unitQuarantined (s : State) (kind index : Nat) : Bool :=
  (kind == 0 && s.nor.quarTiles.getLsbD index) || (kind == 1 && s.nor.quarEngines.getLsbD index)

def getBist (s : State) (kind index : Nat) : BistReg :=
  match kind with
  | 0 => tabGet {} s.gz.bistTile index
  | 1 => tabGet {} s.gz.bistUnit (index / 8)
  | 2 => tabGet {} s.gz.bistUnit index
  | _ => tabGet {} s.gz.bistUnit (4 + index)

def setBist (kind index : Nat) (x : BistReg) (s : State) : State :=
  match kind with
  | 0 => { s with gz := { s.gz with bistTile := tabSet {} s.gz.bistTile index x } }
  | 1 => { s with gz := { s.gz with bistUnit := tabSet {} s.gz.bistUnit (index / 8) x } }
  | 2 => { s with gz := { s.gz with bistUnit := tabSet {} s.gz.bistUnit index x } }
  | _ => { s with gz := { s.gz with bistUnit := tabSet {} s.gz.bistUnit (4 + index) x } }

def isQueued (s : State) (kind index : Nat) : Bool := s.gz.queued.any fun q => q.1 == kind && q.2.1 == index

/-- ORIGIN of a test of a unit: that of its queue entry, or periodic. -/
def testOrigin (s : State) (kind index : Nat) : Nat :=
  ((s.gz.queued.find? fun q => q.1 == kind && q.2.1 == index).map (·.2.2)).getD 0

def dequeue (kind index : Nat) (s : State) : State :=
  { s with gz := { s.gz with queued := s.gz.queued.filter fun q => !(q.1 == kind && q.2.1 == index) } }

/-- What the end of a slice leaves: GZ_BIST_, the tallies, and the unit's failure. `fail` says what a failing rerun does. -/
def sliceEnd (kind index : Nat) (o : BistOutcome) (fail : State → State) (s : State) : State :=
  let x := getBist s kind index
  let us := (if x.ended then 0 else x.usUsed) + o.us
  let result := if o.rerunFail then (if kind ≤ 1 then 3 else 2) else if o.passEnds then 1 else x.result
  let s := setBist kind index { logicCov := o.logicCov, sramCov := o.sramCov, result, usUsed := us, ended := o.passEnds || o.rerunFail }
    (tally tlBistSlices s)
  if o.rerunFail then fail (dequeue kind index s)
  else
    let s := if o.firstFail then tally tlBistRetry s else s
    if o.passEnds then dequeue kind index s else s

/-- The unit may be tested now: named by an open GRAZE leg, free, a tile blocked in wait.leg with every token free. -/
def testOpen (s : State) (kind index : Nat) : Bool :=
  let (task, unit) := testTask kind index
  (sliceOpen s task unit).isSome && !unitQuarantined s kind index &&
    (kind != 0 || ((s.gz.bistEn || isQueued s 0 index) && (logicalOf s index).elim false (parkedTile s)))

/-- BIST_SLICE: 1 to 40 µs on one unit; a passing slice changes no state of the unit. -/
def execBistSlice (now kind index : Nat) (outcome : BistOutcome) (s : State) : Res :=
  let s := atTime now s
  onUnit (testExists kind index) (
    if testOpen s kind index && decide (1 ≤ outcome.us) && decide (outcome.us ≤ 40) then
      sliceEnd kind index outcome
        (failUnit kind index outcome.test outcome.step outcome.logicCov (testOrigin s kind index)) s
    else s)

/-- BIST_QUEUE_PASS: GZ_BIST_REQ command 1. -/
def execBistQueuePass (kind index : Nat) (s : State) : Res :=
  .next (if testExists kind index && !unitQuarantined s kind index then queueTest kind index 3 s else s)

/-- A requalification fails: the unit stays quarantined, and BIST_FAIL is raised again. -/
def requalFail (kind index : Nat) (o : BistOutcome) (s : State) : State :=
  raise evBistFail (if kind = 0 || enginesLeft s (index / 8) = 0 then sevFault else sevDegrade) (eventUnit kind index)
    (bistDetail kind o.test index o.step o.logicCov 3 1) s

/-- REQUALIFY: a full pass at once, on a quarantined tile or apply engine, while no plan is loaded. -/
def execRequalify (kind index : Nat) (outcome : BistOutcome) (s : State) : Res :=
  .next (
    if s.job.state ≠ 0 || 1 < kind || !testExists kind index || !unitQuarantined s kind index then s
    else
      let s := sliceEnd kind index { outcome with passEnds := true } (requalFail kind index outcome) s
      if outcome.rerunFail then s
      else if kind = 0 then { s with nor := { s.nor with quarTiles := s.nor.quarTiles &&& ~~~(tileBit index) } }
      else { s with nor := { s.nor with quarEngines := s.nor.quarEngines &&& ~~~(engineBit index) } })

/-- A privileged block fails: INDEX 0 PLLs, 1 fuses, 2 Normomas, 3 on the driver dies. -/
def privFail (index origin action : Nat) (s : State) : State :=
  raise evBistFail (if index < 3 then sevFatal else sevDegrade) uXd (bistDetail 4 2 index 0 0 origin action) s

/-- The eight links of an optical driver die. -/
def dieLinks (k : Nat) : List Nat := (List.range 8).map (8 * k + ·)

/-- Driver dies tested: those that fail leave their links DOWN with cause training failed, the others' links train. -/
def testDrivers (ok : BitVec 12) (origin : Nat) (s : State) : State :=
  let bad := (List.range 12).filter fun k => !ok.getLsbD k
  let s := { s with lg := { s.lg with driverFail := bad } }
  let s := (List.range 96).foldl (fun s li =>
    if bad.contains (li / 8) then goDown li 2 s
    else startTraining li (if linkUp (getLink s li) then goDown li 5 s else s)) s
  bad.foldl (fun s k => privFail (3 + k) origin 0 s) s

/-- PRIV_TEST: GZ_BIST_REQ command 2, inside the clock and supply window and with no plan loaded. -/
def execPrivTest (inWindow : Bool) (pass : BitVec 3) (drivers : BitVec 12) (s : State) : Res :=
  .next (
    if s.job.state ≠ 0 then { s with gz := { s.gz with privStatus := 2 } }
    else if !inWindow then { s with gz := { s.gz with privStatus := 1 } }
    else
      let all := if drivers = 0xFFF then 8 else 0
      let s := { s with gz := { s.gz with privStatus := 3, privPass := BitVec.ofNat 4 (pass.toNat + all) } }
      let s := ((List.range 3).filter fun i => !pass.getLsbD i).foldl (fun s i => privFail i 3 0 s) s
      testDrivers drivers 3 s)

/-! ## Tile rotation (R264, R380) -/

/-- The next physical tile in use on the same compute die; the last passes to the first. -/
def nextTile (used : List Nat) (p : Nat) : Nat :=
  let die := used.filter fun q => q / 40 == p / 40
  ((die.find? fun q => decide (p < q)).orElse fun _ => die.head?).getD p

def insertAll (l : List Nat) : List Nat := l.foldl (fun a x => insertSorted x a) []

def rotatedMap (s : State) : Tab Nat :=
  let used := insertAll ((s.tiles.map.map (·.2)).filter fun p => !s.nor.quarTiles.getLsbD p)
  s.tiles.map.map fun e => (e.1, nextTile used e.2)

/-- TILE_ROTATION: every 24 h while a job runs; a pending tile-map switch makes it try again at a later tick. -/
def execTileRotation (now : Nat) (s : State) : Res :=
  let s := atTime now s
  .next (
    if s.gz.rotateEn && running s && s.tiles.pendMap.isNone && s.tiles.moving.isEmpty && !s.gz.blackout &&
        decide ((getTask s 10 0).startAt + 24 * hourNs ≤ s.now) then
      taskRan 10 0 { s with tiles := { s.tiles with pendMap := some (s.tk.tick + 2, rotatedMap s, true) } }
    else s)

/-! ## The host complex (R413) -/

/-- The host caches are invalidated, dirty lines lost; on path 0 the host is lost. -/
def hostReset (s : State) : State :=
  let s := { s with boot := { s.boot with cachesValid := false, hostRunning := false } }
  if s.hq.attach.path = 0 then hostLost 1 sevDegrade s else s

/-- Queued host-core tests run, and a verified image boots, unless HOST_RST_N holds it. -/
def bootHost (s : State) : State :=
  let s := { s with gz := { s.gz with queued := s.gz.queued.filter fun q => q.1 != testHostCore } }
  let up := s.boot.hostRstN && imageOk s 1 s.gz.hostImage
  { s with boot := { s.boot with hostRunning := up, cachesValid := up } }

/-- HOST_RST_N: while low the host cores stay in reset (R421). -/
def execHostRstN (now : Nat) (level : Bool) (s : State) : Res :=
  let s := atTime now s
  let s := { s with boot := { s.boot with hostRstN := level } }
  .next (
    if level then (if s.boot.phase = 7 then bootHost s else s)
    else hostReset s)

/-! ## Firmware activation (R382, R383) -/

def fwDetail (target image result version blackoutUs tick : Nat) : List Byte :=
  leBytes 1 target ++ leBytes 1 image ++ leBytes 1 result ++ [0] ++ leBytes 4 version ++ leBytes 2 (min blackoutUs 0xFFFF) ++
    leBytes 2 0 ++ leBytes 4 tick

/-- The blackout ends: buffered events go out ahead of those that followed them into the overflow ring. -/
def flushBuffer (s : State) : State :=
  let held := s.gz.buffer
  let s := { s with gz := { s.gz with blackout := false, buffer := [] } }
  let first := (held.head?).elim 0 (·.seq)
  let (older, newer) := s.hq.ovf.partition fun e => decide (e.seq < first)
  let s := held.foldl (fun s e => deliver e s) { s with hq := { s.hq with ovf := older } }
  { s with hq := { s.hq with ovf := s.hq.ovf ++ newer } }

/-- A host-core activation: a host-complex reset into the named image. -/
def activateHost (image tick : Nat) (s : State) : State :=
  let s := hostReset s
  let s := setBootImage 1 image { s with gz := { s.gz with hostImage := image, fwPending := none, fwState := 0 } }
  raise evFirmwareActivated sevInfo uModule (fwDetail 1 image 0 (imageVersion (imageBytes s 1 image)) 0 tick) (bootHost s)

/-- A shepherd activation: policy state is saved and the new image starts; the blackout begins. -/
def beginBlackout (image tick : Nat) (s : State) : State :=
  { s with gz := { s.gz with fwPending := some (0, image, tick), fwState := 2, fwSince := s.now, blackout := true } }

def activate (target image tick : Nat) (s : State) : State :=
  if target = 1 then activateHost image tick s else beginBlackout image tick s

def refuseFw (code : Nat) (s : State) : State := { s with gz := { s.gz with fwCode := code } }

/-- FW_GO: at tick GZ_FW_TICK under R24 while a job runs, at once otherwise; GZ_FW_STATUS says why a request is rejected. -/
def execFwGo (target image : Nat) (s : State) : Res :=
  .next (
    let t := target % 2
    let i := image % 2
    if jobLive s && decide (s.gz.fwTick < s.tk.tick + 2) then refuseFw 1 s
    else if !imageOk s t i then refuseFw 2 s
    else if s.gz.fwPending.isSome then refuseFw 3 s
    else if jobLive s then { s with gz := { s.gz with fwPending := some (t, i, s.gz.fwTick), fwState := 1, fwCode := 0 } }
    else activate t i s.tk.tick (refuseFw 0 s))

def blackoutLimit : Nat := 200000

/-- The new shepherd image runs: it is the boot image now. -/
def fwRunning (image tick : Nat) (s : State) : State :=
  let us := (s.now - s.gz.fwSince) / 1000
  let s := flushBuffer (setBootImage 0 image { s with gz := { s.gz with shImage := image, fwPending := none, fwState := 0 } })
  raise evFirmwareActivated sevInfo uModule (fwDetail 0 image 0 (imageVersion (imageBytes s 0 image)) us tick) s

/-- FW_ACTIVATION: at the boundary of the effective tick the activation begins; in a blackout, the new image has started. -/
def execFwActivation (now : Nat) (s : State) : Res :=
  let s := atTime now s
  .next (match s.gz.fwPending with
    | none => s
    | some (t, i, n) =>
      if s.gz.blackout then
        if s.now ≤ s.gz.fwSince + blackoutLimit then fwRunning i n s else s
      else if n ≤ s.tk.tick || !jobLive s then activate t i n s
      else s)

/-- FW_REVERT: the new image is not running within 200 µs; the old one starts again from the saved state. -/
def execFwRevert (now blackoutUs : Nat) (s : State) : Res :=
  let s := atTime now s
  .next (match s.gz.fwPending with
    | none => s
    | some (_, _, n) =>
      if s.gz.blackout && decide (s.gz.fwSince + blackoutLimit ≤ s.now) then
        let s := flushBuffer { s with gz := { s.gz with fwPending := none, fwState := 0, fwCode := 4 } }
        let old := s.gz.shImage
        raise evFirmwareActivated sevWarn uModule (fwDetail 0 old 1 (imageVersion (imageBytes s 0 old)) blackoutUs n) s
      else s)

end Sys2Proof.Machine
end

