-- ==== Sys2Proof/Machine/Boot.lean ====
section
/-! DEFINITION. Power-up and the phases of a cold boot (R388, R402 to R404, R418 to R420), module warm reset and its recovery
(R317, R405, R406), scan (R379), and the order of events after a reset (R414). -/

namespace Sys2Proof.Machine

/-! ## Events of a boot (R414) -/

/-- Place of an event in the order of R414. -/
def heldRank (h : HeldEvent) : Nat :=
  if h.code = evHostLost || h.code = evThermtrip then 0
  else if h.code = evSecurityViolation then 1
  else if h.code = evBistFail && byteAt h.detail 0 = 4 then 2
  else if h.code = evChannelMappedOut then (if byteAt h.detail 2 = 0 then 3 else 4)
  else if h.code = evLinkDown then 5
  else if h.code = evLinkDegraded then 6
  else if h.code = evBistFail then 7
  else if h.code = evTileQuarantined then 8
  else 9

/-- Rank, then unit order. -/
def heldKey (h : HeldEvent) : Nat := heldRank h * 2 ^ 32 + unitWord h.unit

def insertHeld (h : HeldEvent) : List HeldEvent → List HeldEvent
  | [] => [h]
  | x :: t => if heldKey x ≤ heldKey h then x :: insertHeld h t else h :: x :: t

def sortHeld (l : List HeldEvent) : List HeldEvent := l.foldl (fun a h => insertHeld h a) []

/-- Enter a phase that ends the boot, and raise what it held. -/
def endBoot (phase : Nat) (s : State) : State :=
  let held := sortHeld s.boot.heldEvents
  let s := { s with boot := { s.boot with phase, phaseAt := s.now, heldEvents := [] } }
  held.foldl (fun s h => raise h.code h.severity h.unit h.detail s) s

def enterPhase (n : Nat) (s : State) : State := { s with boot := { s.boot with phase := n, phaseAt := s.now } }

/-! ## Verification (R388) -/

/-- Try the boot image of a component, then the other; whether one passed. -/
def verifyComponent (comp : Nat) (s : State) : Bool × State :=
  let i := bootImageOf s comp
  if imageOk s comp i then (true, s)
  else
    let s := securityViolation 4 comp 0 0 s
    if imageOk s comp (1 - i) then (true, setBootImage comp (1 - i) { s with sc := { s.sc with bootResult := 1 } })
    else (false, s)

/-- Components 3 and 0: the boot goes on, or the boot ROM stays in recovery mode. -/
def verifyRom (s : State) : Bool × State :=
  let (ok3, s) := verifyComponent 3 s
  let (ok0, s) := if ok3 then verifyComponent 0 s else (false, s)
  if ok3 && ok0 then (true, { s with gz := { s.gz with shImage := bootImageOf s 0 } })
  else (false, { s with sc := { s.sc with bootResult := 2 }, boot := { s.boot with recovery := true } })

/-- Components 2 and 1: the links stay OFF, the host cores in reset, when both images fail. -/
def verifyRest (s : State) : State :=
  let (ok2, s) := verifyComponent 2 s
  let (_, s) := verifyComponent 1 s
  bootHost { s with lg := { s.lg with opticsOk := ok2 }, gz := { s.gz with hostImage := bootImageOf s 1 } }

/-! ## Cold boot (R402, R403, R419) -/

/-- A cold reset: only fuses and NOR flash are kept; PHASE 0 begins. -/
def coldBoot (cause : Nat) (s : State) : State :=
  let s := darkState s
  { s with boot := { s.boot with powered := true, cause } }

/-- The module may power up: PWR_EN is high, the input has been in range, no trip or shutdown waits for PWR_EN to fall. -/
def mayPower (s : State) : Bool := s.boot.pwrEn && s.boot.inputOk && !s.boot.powered && s.boot.thermtripN && s.boot.alertN

def tryPower (s : State) : State := if mayPower s then coldBoot s.boot.nextCause s else s

/-- PWR_EN_RISE. -/
def execPwrEnRise (now : Nat) (s : State) : Res :=
  let s := atTime now s
  .next (tryPower { s with boot := { s.boot with pwrEn := true } })

/-- PWR_EN_FALL: every state is lost; THERMTRIP_N and ALERT_N are released. -/
def execPwrEnFall (now : Nat) (s : State) : Res :=
  let s := atTime now s
  let s := if s.boot.powered then powerOff 0 s else s
  .next { s with boot := { s.boot with pwrEn := false, thermtripN := true, alertN := true } }

/-- INPUT_OUT_OF_RANGE: the stages turn off; in a warm reset the memories' contents go with them (R317). -/
def execInputOutOfRange (now : Nat) (s : State) : Res :=
  let s := atTime now s
  let s := if s.boot.powered then powerOff (if s.boot.warm then 5 else 0) s else s
  .next { s with boot := { s.boot with inputOk := false } }

/-- INPUT_IN_RANGE: for 10 ms. -/
def execInputInRange (now : Nat) (s : State) : Res :=
  let s := atTime now s
  .next (tryPower { s with boot := { s.boot with inputOk := true } })

/-- PHASE 0 ends: PGOOD is released, and the ROM runs once MOD_RST_N is high (R419, R420). -/
def endPower (s : State) : State :=
  let s := { s with boot := { s.boot with pgood := true } }
  if s.boot.modRstN then enterPhase 1 s else s

/-- PHASE 1: the trip before this boot is reported, and components 3 and 0 are verified. -/
def endRom (images : BitVec 8) (s : State) : State :=
  let s := reportTrip { s with nor := { s.nor with verified := images } }
  let (ok, s) := verifyRom s
  if ok then enterPhase 2 s else s

/-- PHASE 2: failed blocks are XD's units 0 PLLs, 1 fuses, 2 Normomas (log 48). -/
def endPriv (failed : List UnitId) (s : State) : State :=
  let bad := (List.range 3).filter fun i => failed.contains ⟨4, i⟩
  let s := { s with gz := { s.gz with
    privStatus := 3, privPass := BitVec.ofNat 4 (((List.range 3).map fun i => if bad.contains i then 0 else 2 ^ i).sum) } }
  match bad with
  | [] => enterPhase 3 s
  | i :: _ =>
    let s := bad.foldl (fun s i => privFail i 4 3 s) { s with boot := { s.boot with failCode := i + 1 } }
    endBoot 9 s

/-- Lasers of the bays that hold a module come on, and all 96 links train (R177). -/
def startOptics (s : State) : State :=
  let s := (List.range 6).foldl (fun s lm => if s.boot.bays.getLsbD lm then setLaser lm { getLaser s lm with state := 1, ok := 0xFF } s else s) s
  (List.range 96).foldl (fun s li => startTraining li s) s

/-- PHASE 3: the shepherds and the PCIe endpoint are up. -/
def endXd (s : State) : State :=
  let s := verifyRest { s with net := { s.net with pcieUp := s.net.perstN } }
  enterPhase 4 (startOptics s)

/-- Pseudo-channels in a list of failed units, as MD 128 × die + pseudo-channel (log 48), are left FENCED with CAUSE 2. -/
def fenceFailed (failed : List UnitId) (s : State) : State :=
  failed.foldl (fun s u => if u.kind = 3 && u.index < 512 then fence (u.index / 128) (u.index % 128) 2 s else s) s

/-- PHASE 4: the map-out list and the boot configuration are in force (R309, R321); failing driver dies are known (R377). -/
def endMemory (failed : List UnitId) (s : State) : State :=
  let s := applyMapouts 0 128 { s with mm := { s.mm with trained := true, carveout := s.nor.bootConfig.getD 16 } }
  let s := fenceFailed failed { s with hq := { s.hq with ovfBase := ovfRing s.mm } }
  let bad := (List.range 12).filter fun k => failed.contains ⟨7, k⟩
  let s := { s with lg := { s.lg with driverFail := bad }
                    gz := { s.gz with privPass := if bad.isEmpty then s.gz.privPass ||| 8 else s.gz.privPass } }
  let s := bad.foldl (fun s k => privFail (3 + k) 4 0 ((dieLinks k).foldl (fun s li => goDown li 2 s) s)) s
  enterPhase 5 s

/-- PHASE 5: march and zero fill (R315). -/
def endFill (failed : List UnitId) (s : State) : State :=
  let s := fenceFailed failed s
  enterPhase 6 { s with mm := zeroAll s.mm }

/-- PHASE 6: full passes of every unit; a failing batch's number and coverage are free values (log 48). -/
def endColdBist (failed : List UnitId) (s : State) : State :=
  endBoot 7 (failed.foldl (fun s u => match testUnit u with
    | some (k, i) =>
      if u.kind = 5 || u.kind = 7 || !testExists k i || unitQuarantined s k i then s
      else
        let (w, s) := freeWord s
        failUnit k i (w.toNat % 2) (w.toNat / 2 % 960) (w.toNat / 2048 % 10001) 4 s
    | none => s) s)

/-- BOOT_PHASE_COMPLETE: `failed` names the units that failed in the phase, `images` the outcome of verifying image
2 × component + image. -/
def execBootPhaseComplete (now : Nat) (failed : List UnitId) (images : BitVec 8) (s : State) : Res :=
  let s := atTime now s
  .next (
    if !s.boot.powered || s.boot.recovery || s.boot.warm || s.boot.scan then s
    else match s.boot.phase with
      | 0 => endPower s
      | 1 => endRom images s
      | 2 => endPriv failed s
      | 3 => endXd s
      | 4 => endMemory failed s
      | 5 => endFill failed s
      | 6 => endColdBist failed s
      | _ => s)

/-- Typical durations of the phases in ms (R403). -/
def phaseMs (n : Nat) : Nat := [100, 500, 600, 800, 14000, 6000, 22000].getD n 0

/-- BOOT_PHASE_TIMEOUT: three times the typical duration. -/
def execBootPhaseTimeout (now : Nat) (s : State) : Res :=
  let s := atTime now s
  .next (
    if !s.boot.powered || s.boot.recovery || s.boot.warm || s.boot.scan || 6 < s.boot.phase ||
        s.now < s.boot.phaseAt + 3 * phaseMs s.boot.phase * 1000000 then s
    else endBoot 9 { s with boot := { s.boot with failCode := 4 } })

/-! ## Module warm reset (R402, R405, R406) -/

/-- Memories through a warm reset: contents, map-outs and fences stay; registers do not. -/
def warmMemory (m : Mm) : Mm :=
  { m with
    selfRefresh := true, reconfig := none, doubleRefresh := 0
    dies := m.dies.map fun e => (e.1, { pcs := e.2.pcs.map fun p => (p.1, { p.2 with state := if p.2.state = 1 then 0 else p.2.state }) }) }

/-- The row units through a warm reset: what stands in HBM3E, for the recoveries of R111 and R112. -/
def warmRu (r : RowUnit) : RowUnit :=
  { gens := r.gens, wptr := r.wptr, lastSeg := r.lastSeg, poolBase := r.poolBase, poolSize := r.poolSize
    ringBase := r.ringBase, ringSize := r.ringSize }

/-- MOD_RST_N falls or the watchdog fires: all logic is reset, the memories enter self-refresh, every link drops. Always-on
SRAM keeps the commit, attach and job records and the snapshot state; the security unit stands on its own supply. -/
def warmReset (cause : Nat) (s : State) : State :=
  let s := hostLost (if s.hq.attach.path = 0 then 1 else 2) sevDegrade s
  { now := s.now, out := s.out, freeCtr := s.freeCtr, pending := s.pending, nor := s.nor, sc := s.sc
    mm := warmMemory s.mm
    hq := { attach := s.hq.attach, ovfBase := s.hq.ovfBase, ovf := s.hq.ovf, ovfIndex := s.hq.ovfIndex, nextSeq := s.hq.nextSeq }
    record := s.record, commit := s.commit
    snap := s.snap.map fun n => { n with paused := true, rebound := 0 }
    job := { reloaded := false }
    ru := s.ru.map fun e => (e.1, warmRu e.2)
    lg := { lasers := s.lg.lasers, driverFail := s.lg.driverFail, links := s.lg.links.map fun e => (e.1, { served := e.2.served }) }
    net := { cages := s.net.cages, perstN := s.net.perstN }
    gz := { failed := s.gz.failed, queued := s.gz.queued.filter fun q => q.1 == testHostCore }
    boot := { s.boot with
      phase := 8, phaseAt := s.now, failCode := 0, cause, warmCount := min (s.boot.warmCount + 1) (2 ^ 32 - 1), warm := true
      hostRunning := false, cachesValid := false } }

/-- Recovery of an interrupted APPLY under R111, where the commit record calls for it; RU_ registers other than its result
take their reset values. -/
def recoverRows (s : State) : State :=
  let s := if s.commit.valid && s.commit.tickAtomic then recoverAtomic s else s
  { s with ru := s.ru.map fun e => (e.1, {
      gens := e.2.gens, lastSeg := e.2.lastSeg, recResult := e.2.recResult, recRows := e.2.recRows
      wptr := if s.commit.tickAtomic then s.commit.ringMark.getD e.1 0 else e.2.wptr }) }

/-- The recovery sequence, to READY. -/
def warmRecover (images : BitVec 8) (s : State) : State :=
  let (ok, s) := verifyRom { s with nor := { s.nor with verified := images }, sc := { s.sc with bootResult := 0 }
                                    boot := { s.boot with warm := false } }
  if !ok then s
  else
    let s := recoverRows { s with mm := { s.mm with selfRefresh := false } }
    let s := verifyRest { s with net := { s.net with pcieUp := s.net.perstN } }
    endBoot 7 ((List.range 96).foldl (fun s li => startTraining li s) s)

/-- MOD_RST_N_FALL: acted on at the falling edge. -/
def execModRstNFall (now : Nat) (s : State) : Res :=
  let s := atTime now s
  let s := { s with boot := { s.boot with modRstN := false } }
  .next (if s.boot.powered && s.boot.phase = 7 then warmReset 8 s else s)

/-- MOD_RST_N_RISE: a waiting cold boot goes on, or the warm reset's recovery runs. -/
def execModRstNRise (now : Nat) (images : BitVec 8) (s : State) : Res :=
  let s := atTime now s
  let s := { s with boot := { s.boot with modRstN := true } }
  .next (
    if s.boot.warm then warmRecover images s
    else if s.boot.powered && s.boot.phase = 0 && s.boot.pgood && !s.boot.scan then enterPhase 1 s
    else s)

/-- WATCHDOG: no shepherd has serviced it for 500 ms. -/
def execWatchdog (now : Nat) (images : BitVec 8) (s : State) : Res :=
  let s := atTime now s
  .next (
    if s.boot.powered && s.boot.phase = 7 then
      let s := warmReset 9 s
      if s.boot.modRstN then warmRecover images s else s
    else s)

/-! ## Scan (R379) -/

/-- JTAG_EXTEST_ENTRY: refused while locked; otherwise keys are zeroized, the job aborted, links and memory traffic stopped. -/
def execJtagExtestEntry (now : Nat) (s : State) : Res :=
  let s := atTime now s
  .next (
    if !s.boot.powered then s
    else if !s.sc.debug then securityViolation 2 0 0 0 s
    else
      let d := darkState s
      { d with
        now := s.now
        sc := { s.sc with zeroized := true }
        lg := { lasers := s.lg.lasers }
        boot := { d.boot with powered := true, pgood := s.boot.pgood, scan := true, cause := s.boot.cause, warmCount := s.boot.warmCount } })

/-- JTAG_SCAN_EXIT, by instruction or TRST. -/
def execJtagScanExit (now : Nat) (s : State) : Res :=
  let s := atTime now s
  .next (if s.boot.scan then coldBoot 3 s else s)

end Sys2Proof.Machine
end

