-- ==== Sys2Proof/Machine/Branch.lean ====
section
/-! DEFINITION. The branch and sync class (R290), hurdle releases, and the engines' staggered restart (R244). -/

namespace Sys2Proof.Machine

/-- Go to a target; at or above 0x0004_0000 the branch traps (R290). -/
def takeBranch (p target : Nat) (s : State) : State :=
  if imemBytes ≤ target then trapHere p tcAddress enSequencer target [] s else jumpTo p target s

/-- A conditional branch on sA and sB. -/
def branchIf (p op : Nat) (f : Fields) (c : Word64 → Word64 → Bool) (s : State) : Res :=
  issue p op f (okBranch f) (fun s =>
    let t := getTile s p
    if c (readS t f.a) (readS t f.b) then takeBranch p f.imm.toNat s else advance p s) s

/-- jmp: PC = target (R290). -/
def execJmp (tile : Nat) (f : Fields) (s : State) : Res :=
  issue tile 0x21 f (okJmp f) (takeBranch tile f.imm.toNat) s

/-- beq: taken if sA = sB (R290). -/
def execBeq (tile : Nat) (f : Fields) (s : State) : Res := branchIf tile 0x22 f (fun a b => a == b) s

/-- bne: taken if sA ≠ sB (R290). -/
def execBne (tile : Nat) (f : Fields) (s : State) : Res := branchIf tile 0x23 f (fun a b => a != b) s

/-- blt: taken if sA < sB, signed (R290). -/
def execBlt (tile : Nat) (f : Fields) (s : State) : Res := branchIf tile 0x24 f (fun a b => a.slt b) s

/-- bge: taken if sA ≥ sB, signed (R290). -/
def execBge (tile : Nat) (f : Fields) (s : State) : Res := branchIf tile 0x25 f (fun a b => !a.slt b) s

/-- bltu: taken if sA < sB, unsigned (R290). -/
def execBltu (tile : Nat) (f : Fields) (s : State) : Res := branchIf tile 0x26 f (fun a b => a.ult b) s

/-- bgeu: taken if sA ≥ sB, unsigned (R290). -/
def execBgeu (tile : Nat) (f : Fields) (s : State) : Res := branchIf tile 0x27 f (fun a b => !a.ult b) s

/-- jal: sD = address of the jal + 8; PC = target (R290). A target that traps leaves sD. -/
def execJal (tile : Nat) (f : Fields) (s : State) : Res :=
  issue tile 0x28 f (okJal f) (fun s =>
    let pc := (getTile s tile).pc
    if imemBytes ≤ f.imm.toNat then takeBranch tile f.imm.toNat s
    else takeBranch tile f.imm.toNat (modTile tile (writeS f.d (BitVec.ofNat 64 (pc + 8))) s)) s

/-- jr: PC = sA; ALIGN unless a multiple of 8 (R290). -/
def execJr (tile : Nat) (f : Fields) (s : State) : Res :=
  issue tile 0x29 f (okJr f) (fun s =>
    let a := (readS (getTile s tile) f.a).toNat
    if a % 8 ≠ 0 then trapHere tile tcAlign enSequencer a [] s else takeBranch tile a s) s

/-- The tokens of a mask. -/
def maskTokens (f : Fields) : List Nat := (List.range 16).filter fun k => immF f k 1 == 1

/-- wait.tok: blocks until every token in the mask is free; what they wrote is then visible (R267, R268). -/
def execWaitTok (tile : Nat) (f : Fields) (s : State) : Res :=
  issue tile 0x2A f (okWaitTok f) (fun s =>
    let t := getTile s tile
    if (maskTokens f).any (tokBusy t) then s
    else advance tile (setTile tile { t with unseen := t.unseen.filter fun u => match u.tok with
      | some k => !(maskTokens f).contains k
      | none => true } s)) s

/-- wait.leg: blocks until the next occurrence of leg L, then sets the leg tag (R278). -/
def execWaitLeg (now tile : Nat) (f : Fields) (s : State) : Res :=
  issue tile 0x2B f (okWaitLeg f) (fun s => settleTile tile (seekLeg tile (immF f 0 5) f.d.toNat s)) (atTime now s)

/-- hurdle: waits until every token is free, arrives, and blocks until the release (R276). -/
def execHurdle (now tile : Nat) (f : Fields) (s : State) : Res :=
  issue tile 0x2C f (okHurdle f) (fun s =>
    if outstanding (getTile s tile) then s else arriveHurdle tile (immF f 0 6) s) (atTime now s)

/-- A hurdle instance releases once its delay or countdown has expired (R276, R277). `instanceDie` is 4 but for DIE scope. -/
def execHurdleRelease (now h instanceDie : Nat) (s : State) : Res :=
  let s := atTime now s
  .next (match (getHurdle s h instanceDie).releaseAt with
    | some r => if r ≤ s.now then releaseHurdle h instanceDie s else s
    | none => s)

/-- An engine's first busy phase after a release point starts once its stagger is over (R244). -/
def execEngineStaggerStart (now tile engine : Nat) (s : State) : Res :=
  let s := atTime now s
  onUnit (decide (tile < 160) && decide (engine < 16))
    (match tabFind (getTile s tile).stagger engine with
     | some r =>
       if r ≤ ticks13 s.now && !(tabGet [] (getTile s tile).engines engine).isEmpty then
         openGate (staggerGate tile engine) (modTile tile (fun t => { t with stagger := tabDel t.stagger engine }) s)
       else s
     | none => s)

/-- ARRIVE from a child module (R277). -/
def execArrive (now : Nat) (rx : Rx) (m : MarkMsg) (s : State) : Res :=
  onUnit (decide (rx.li < 96)) (deliverRx now rx (.mark m) (fun s =>
    let i := getHurdle s m.hurdle 4
    if i.gen = m.tickNum && (childChips s).contains m.sourceChip then
      hurdleFull m.hurdle 4 (hurdleEnt s m.hurdle)
        (setHurdle m.hurdle 4 { i with childArrived := insertSorted m.sourceChip i.childArrived } s)
    else s) s)

/-- RELEASE from the parent: forwarded with the bellwether's SOURCE_CHIP, and the module releases when its countdown expires
(R28, R277). -/
def execRelease (now : Nat) (rx : Rx) (m : MarkMsg) (s : State) : Res :=
  onUnit (decide (rx.li < 96)) (deliverRx now rx (.mark m) (fun s =>
    let i := getHurdle s m.hurdle 4
    if i.gen = m.tickNum then
      let due := s.now + (m.countdownNs - s.tk.latencyNs)
      sendDown { hurdleMsg s 5 i.gen m.hurdle with sourceChip := m.sourceChip } due (setHurdle m.hurdle 4 { i with releaseAt := some due } s)
    else s) s)

end Sys2Proof.Machine
end

