-- ==== Sys2Proof/Machine/Drover.lean ====
section
/-! DEFINITION. The drover class (R269 to R271, R299), the GSCALE pages (R133) and the moves of tiles (R264). -/

namespace Sys2Proof.Machine

/-! ## GSCALE pages of CSR space (R133) -/

/-- CSR offset of a bank's page. -/
def gscalePage (bank : Nat) : Nat := 0x13000 + 0x1000 * bank

/-- The address range lies in the GSCALE pages, which adjoin. -/
def inGscale (a n : Nat) : Bool := csrBase + gscalePage 0 ≤ a && a + n ≤ csrBase + gscalePage 2

/-- The word at an offset of a page: step tag, then scale; beyond 256 entries reserved. -/
def gscaleWord (s : State) (bank off : Nat) : Word32 :=
  if off / 8 < 256 then
    let g := tabGet {} s.tb.gscale (gscaleKey bank (off / 8))
    if off / 4 % 2 = 0 then g.tag else g.scale
  else 0

/-- Write one 4-byte half; any write sets WRITTEN. -/
def gscalePut (bank off : Nat) (w : Word32) (s : State) : State :=
  if off / 8 < 256 then
    let k := gscaleKey bank (off / 8)
    let g := tabGet {} s.tb.gscale k
    let g : Gscale := if off / 4 % 2 = 0 then { g with tag := w, written := true } else { g with scale := w, written := true }
    { s with tb := { s.tb with gscale := tabSet {} s.tb.gscale k g } }
  else s

def gscaleBank (a : Nat) : Nat := if a < csrBase + gscalePage 1 then 0 else 1

/-- Offset in its page of an address in the GSCALE pages. -/
def gscaleOff (a : Nat) : Nat := a - csrBase - gscalePage (gscaleBank a)

def gscaleRead (s : State) (a n : Nat) : List Byte :=
  (List.range (n / 4)).flatMap fun i => leBytes 4 (gscaleWord s (gscaleBank (a + 4 * i)) (gscaleOff (a + 4 * i))).toNat

def gscaleWrite (a : Nat) (bs : List Byte) (s : State) : State :=
  (List.range (bs.length / 4)).foldl (fun s i =>
    gscalePut (gscaleBank (a + 4 * i)) (gscaleOff (a + 4 * i)) (BitVec.ofNat 32 (leAt bs (4 * i) 4)) s) s

/-! ## dmv -/

/-- Row i of an end: base and signed stride. -/
def rowAddr (base : Nat) (stride : Int) (i : Nat) : Int := base + stride * i

/-- A fault: cause and address. -/
abbrev TrapAt := Nat × Nat

/-- The lowest cause of two. -/
def firstTrap (a b : Option TrapAt) : Option TrapAt :=
  match a, b with
  | some x, some y => some (if y.1 < x.1 then y else x)
  | some x, none => some x
  | none, y => y

def natAddr (x : Int) : Nat := if x < 0 then (x % 2 ^ 64).toNat else x.toNat

/-- Rows of tile memory out of its range. -/
def tileRowsFault (base : Nat) (stride : Int) (rows n : Nat) : Option TrapAt :=
  ((List.range rows).find? fun i => rowAddr base stride i < 0 || (tmemBytes : Int) < rowAddr base stride i + n).map fun i =>
    (tcAddress, natAddr (rowAddr base stride i))

/-- Rows of device memory that decode to an error, or to CSR space outside the GSCALE pages. -/
def devRowsFault (s : State) (base : Nat) (stride : Int) (rows n : Nat) : Option TrapAt :=
  ((List.range rows).find? fun i =>
    let a := rowAddr base stride i
    a < 0 || !(devOk s.mm a.toNat n || inGscale a.toNat n)).map fun i => (tcDecode, natAddr (rowAddr base stride i))

/-- Host rows that the region table does not permit. -/
def hostRowsFault (s : State) (base : Nat) (stride : Int) (rows n : Nat) (write : Bool) : Option TrapAt :=
  ((List.range rows).find? fun i =>
    let a := natAddr (rowAddr base stride i)
    decide (a < hostBit) || (hostPlace s.hq a n write == .refused)).map fun i => (tcRegion, natAddr (rowAddr base stride i))

/-- Host rows as resolved at issue. -/
def hostRows (s : State) (base : Nat) (stride : Int) (rows n : Nat) (write : Bool) : List (Nat × Bool × Nat) :=
  (List.range rows).filterMap fun i =>
    let a := natAddr (rowAddr base stride i) % hostBit
    (regionEntry s.hq a n write).map fun e => (e.1, !e.2.target, if e.2.target then e.2.xlat + (a - e.2.base) else a)

/-- An end of a transfer: its fault, or where it lies. -/
def endOf (s : State) (kind tile : Nat) (base : Nat) (stride : Int) (rows n : Nat) (write : Bool) : Option TrapAt × End :=
  match kind with
  | 0 => (tileRowsFault base stride rows n, .own base)
  | 1 =>
    (if (physicalOf s tile).isNone && !isMoving s tile then some (tcAddress, base) else tileRowsFault base stride rows n, .tile tile base)
  | _ =>
    if base < hostBit then (devRowsFault s base stride rows n, .dev base)
    else (hostRowsFault s base stride rows n write, .host (hostRows s base stride rows n write))

/-- A tile's leg tag as a move carries it. -/
def tagFields (t : Tile) : Nat × Nat × Nat := match t.tag with
  | some g => (g.tick, g.leg, g.step)
  | none => (0, 0, 0)

def ownRgns (e : End) (rows n : Nat) (stride : Int) : List Rgn :=
  match e with
  | .own a => [{ base := a, stride, rows, bytes := n }]
  | _ => []

/-- Queue a drover transfer. -/
def queueMove (p : Nat) (x : MoveEnt) (s : State) : State :=
  modTile p (fun t =>
    let x := { x with order := t.order, dirty := x.reads.any (rgnUnseen t) }
    { t with
      order := t.order + 1
      moves := t.moves ++ [x]
      unseen := if x.writes.isEmpty then t.unseen else { order := x.order, tok := x.tok, rgns := x.writes } :: t.unseen }) s

/-- The drover's queue of eight is full, or the token is busy. -/
def moveStall (t : Tile) (f : Fields) : Bool := tokStall t f || 8 ≤ t.moves.length

/-- dmv: a transfer of rows between the tile's memory and another end (R269, R299). -/
def execDmv (tile : Nat) (f : Fields) (s : State) : Res :=
  issue tile 0xA1 f (okDmv f) (fun s =>
    let t := getTile s tile
    if moveStall t f then s
    else
      let shape := (readS t f.d).toNat
      let n := shape % 2 ^ 21
      let rows := shape / 2 ^ 32 % 2 ^ 16 + 1
      let src := (readS t f.a).toNat
      let dst := (readS t f.b).toNat
      let sStr := ((readS t f.c).setWidth 32).toInt
      let dStr := ((readS t f.c >>> 32).setWidth 32).toInt
      let badShape := n < 4 || 2 ^ 20 < n || n % 4 ≠ 0 || shape / 2 ^ 21 % 2 ^ 11 ≠ 0 || shape / 2 ^ 48 ≠ 0
      let align : Option TrapAt :=
        if badShape || src % 4 ≠ 0 || sStr % 4 ≠ 0 then some (tcAlign, src)
        else if dst % 4 ≠ 0 || dStr % 4 ≠ 0 then some (tcAlign, dst) else none
      let (fs, es) := endOf s (immF f 30 2) (immF f 20 8) src sStr rows n false
      let (fd, ed) := endOf s (immF f 28 2) (immF f 20 8) dst dStr rows n true
      match firstTrap align (firstTrap fs fd) with
      | some (c, a) => trapHere tile c enDrover a [] s
      | none =>
        let (tick, leg, step) := tagFields t
        let x : MoveEnt := {
          order := 0, op := .copy es ed rows n sStr dStr, tok := tokOf f, addr := t.pc, opcode := 0xA1, tick, leg, step
          reads := ownRgns es rows n sStr, writes := ownRgns ed rows n dStr }
        let s := noteMoving es leg tick (noteMoving ed leg tick s)
        advance tile (queueMove tile x (bumpInFlight true es (bumpInFlight true ed s)))) s

/-- dmv.dense: hand a tensor's gradient groups to the link groups (R270). Under the tag of an abandoned step it completes
at once with no effect (R280). -/
def execDmvDense (tile : Nat) (f : Fields) (s : State) : Res :=
  issue tile 0xA2 f (okDense f) (fun s =>
    let t := getTile s tile
    if moveStall t f then s
    else
      let base := (readS t f.a).toNat
      let first := (readS t f.b).toNat
      let count := (readS t f.c).toNat
      let num := immF f 20 12
      let isReturn := match t.tag with
        | some g => g.kind == kReturn
        | none => false
      let abandoned := match t.tag with
        | some g => g.abandoned || g.dropped
        | none => false
      let (tick, leg, step) := tagFields t
      let groups := (List.range count).map (first + ·)
      let past := match tensorOf s num with
        | some x => decide (groupCount x < first + count)
        | none => true
      let bytes := match tensorOf s num with
        | some x => if count = 0 then 0 else 4096 * (count - 1) + 4 * groupLen x (first + count - 1)
        | none => 0
      let fa : Option TrapAt := if tmemBytes < base + bytes then some (tcAddress, base) else none
      let fl : Option TrapAt := if isReturn then none else some (tcLeg, 0)
      let fe : Option TrapAt :=
        if count = 0 || 2 ^ 30 < count || past || (groups.any fun g => (returnRun s tick).sent.contains (num, g)) then some (tcExchange, 0)
        else none
      if isReturn && abandoned then advance tile s
      else match firstTrap fa (firstTrap fl fe) with
        | some (c, a) => trapHere tile c enDrover a [] s
        | none =>
          let x : MoveEnt := {
            order := 0, op := .dense num first count base, tok := tokOf f, addr := t.pc, opcode := 0xA2, tick, leg, step
            reads := [rgnOne base bytes], writes := [] }
          let s := modReturn tick step (fun r => { r with sent := groups.map (fun g => (num, g)) ++ r.sent }) s
          advance tile (queueMove tile x s)) s

/-! ## Completion -/

/-- Bytes of row i at the source; the line of a poison marker met in device memory. Another tile's memory holds what has
reached it: every agent sees a completed instruction's data (R271). -/
def moveRead (p : Nat) (x : MoveEnt) (src : End) (n : Nat) (stride : Int) (i : Nat) (s : State) : List Byte × Option Nat × State :=
  match src with
  | .own a =>
    if x.dirty then let (b, s) := freeBytes n s; (b, none, s)
    else (tmemBytesAt (getTile s p) (rowAddr a stride i).toNat n, none, s)
  | .tile l a =>
    (tmemBytesAt (getTile s ((physicalOf s l).getD p)) (rowAddr a stride i).toNat n, none, s)
  | .dev a =>
    let r := (rowAddr a stride i).toNat
    if inGscale r n then (gscaleRead s r n, none, s)
    else match poisonIn s.mm r n with
      | some line => let (b, s) := freeBytes n s; (b, some line, s)
      | none => (memRead s.mm r n, none, s)
  | .host rows => match rows[i]? with
    | some (_, true, _) => let (b, s) := freeBytes n s; (b, none, s)
    | some (_, false, a) => (memRead s.mm a n, poisonIn s.mm a n, s)
    | none => ([], none, s)

def moveWrite (p : Nat) (dst : End) (stride : Int) (i : Nat) (bs : List Byte) (s : State) : State :=
  match dst with
  | .own a => tileWrite p (rowAddr a stride i).toNat bs s
  | .tile l a => tileWrite ((physicalOf s l).getD p) (rowAddr a stride i).toNat bs s
  | .dev a =>
    let r := (rowAddr a stride i).toNat
    if inGscale r bs.length then gscaleWrite r bs s else putMem r bs s
  | .host rows => match rows[i]? with
    | some (_, true, a) => emit (.hostWrite a bs) s
    | some (_, false, a) => putMem a bs s
    | none => s

def dropMove (p i : Nat) (s : State) : State := modTile p (fun t => { t with moves := t.moves.eraseIdx i }) s

/-- A queued instruction of the tile finds a poisoned line: PARITY (R312). -/
def trapParity (p engine addr opcode line : Nat) (s : State) : State := trapAs p tcParity engine addr opcode line [] s

/-- A transfer's every write reaches its destination (R271). -/
def finishCopy (p i : Nat) (x : MoveEnt) (src dst : End) (rows n : Nat) (sStr dStr : Int) (s : State) : State :=
  let (bad, s) := (List.range rows).foldl (fun (acc : Option Nat × State) r =>
    let (b, l, s) := moveRead p x src n sStr r acc.2
    (acc.1.or l, moveWrite p dst dStr r b s)) (none, dropMove p i s)
  let s := bumpInFlight false src (bumpInFlight false dst s)
  match bad with
  | some line => trapParity p enDrover x.addr x.opcode line s
  | none => s

/-- Gradient groups are handed to the link groups as leaf contributions (R150, R270). -/
def finishDense (p i : Nat) (x : MoveEnt) (t : Tensor) (ts : TreeSet) (first count base : Nat) (s : State) : State :=
  let s := (List.range count).foldl (fun s k =>
    let n := groupLen t (first + k)
    let (bs, s) := if x.dirty then freeBytes (4 * n) s else (tmemBytesAt (getTile s p) (base + 4096 * k) (4 * n), s)
    sendLeaf t ts (first + k) x.tick x.step (decodeElems false bs) s) (dropMove p i s)
  pumpDense s

/-- DMV_COMPLETE: the transfer at `index` of the tile's drover queue completes, and its token is free (R267, R271). -/
def execDmvComplete (tile index : Nat) (s : State) : Res :=
  onUnit (decide (tile < 160)) (
    match (getTile s tile).moves[index]? with
    | none => s
    | some x =>
      match x.op with
      | .copy src dst rows n sStr dStr =>
        if endReady s src && endReady s dst then settleTile tile (finishCopy tile index x src dst rows n sStr dStr s) else s
      | .dense num first count base =>
        match tensorOf s num with
        | none => settleTile tile (dropMove tile index s)
        | some t => match treeSetOf s t with
          | none => settleTile tile (dropMove tile index s)
          | some ts =>
            if t.shear ≠ 0 && !denseFree s t x.step then s
            else settleTile tile (finishDense tile index x t ts first count base s))

end Sys2Proof.Machine
end

