-- ==== Sys2Proof/Machine/Manage.lean ====
section
/-! DEFINITION. The management protocols: SPDM attestation (R393 to R396) and PLDM firmware update (R388, R398). -/

namespace Sys2Proof.Machine

/-! ## Measurements (R395, R396) -/

def zeros32 : List Byte := List.replicate 32 0

/-- Entries of a table in the order of their numbers, empty ones as zeros: what governs a tick (R7). -/
def tableImage {α : Type} (raw : α → List Byte) (count size tick : Nat) (t : Tab (List (Nat × α))) : List Byte :=
  (List.range count).flatMap fun n => match versionAt tick (tabGet [] t n) with
    | some v => padTo size (raw v)
    | none => List.replicate size 0

/-- The timetable slot that is active, as loaded. -/
def activeRaw (s : State) : Option (List Byte) := (activeTt s).map (·.raw)

/-- One latch of measurement i. -/
def measurement (s : State) (i : Nat) : List Byte :=
  match i with
  | 1 => sha256 (Config.romBytes ++ Config.fuseBytes s.nor.svn (s.nor.ownerHash.getD []))
  | 2 => sha256 (runningBytes s 0)
  | 3 => if s.boot.hostRunning then sha256 (runningBytes s 1) else zeros32
  | 4 => if s.lg.opticsOk then sha256 (runningBytes s 2) else zeros32
  | 5 => sha256 (runningBytes s 3)
  | 6 => if s.job.state = 0 then zeros32 else s.job.measure
  | 7 => if s.job.state = 0 then zeros32 else sha256 (tableImage (·.raw) 64 160 s.tk.tick s.tb.programs)
  | 8 => if s.job.state = 0 then zeros32 else sha256 (tableImage (·.raw) 256 128 s.tk.tick s.tb.flocks)
  | 9 => (activeRaw s).elim zeros32 sha256
  | _ => leBytes 8 s.tk.tick ++ leBytes 1 (scStatus s) ++ List.replicate 7 0

def measurements (s : State) : List (Nat × List Byte) := (List.range 10).map fun i => (i + 1, measurement s (i + 1))

/-! ## SPDM (R394) -/

def spdmAt (s : State) (ep : Nat) : Nat := tabGet 0 s.sc.spdm ep
def setSpdm (ep n : Nat) (s : State) : State := { s with sc := { s.sc with spdm := tabSet 0 s.sc.spdm ep n } }

/-- Answer a request that needs the negotiation to have reached `need` on the endpoint; otherwise it is unexpected. -/
def spdmRun (ep need : Nat) (f : State → SpdmReply × State) (s : State) : Res :=
  .next (
    if !s.boot.powered then s
    else if spdmAt s ep < need then emit (.spdm ep .errorUnexpected) s
    else
      let (r, s) := f s
      emit (.spdm ep r) s)

/-- GET_VERSION: SPDM 1.3, and the connection starts again. -/
def execGetVersion (endpoint : Nat) (s : State) : Res := spdmRun endpoint 0 (fun s => (.version 0x13, setSpdm endpoint 1 s)) s

/-- GET_CAPABILITIES: CERT, CHAL, MEAS with signature, CTExponent 17. -/
def execGetCapabilities (endpoint : Nat) (s : State) : Res :=
  spdmRun endpoint 1 (fun s => (.capabilities true true true 17, setSpdm endpoint (max 2 (spdmAt s endpoint)) s)) s

/-- NEGOTIATE_ALGORITHMS: bits of DSP0274 for RSAPSS_3072, SHA_256 twice, and the DMTF measurement specification (log 46). -/
def execNegotiateAlgorithms (endpoint : Nat) (s : State) : Res :=
  spdmRun endpoint 2 (fun s => (.algorithms 8 1 2 1, setSpdm endpoint 3 s)) s

/-- GET_DIGESTS: slot 0 only. -/
def execGetDigests (endpoint : Nat) (s : State) : Res := spdmRun endpoint 3 (fun s => (.digests 1 (sha256 Config.certChain), s)) s

/-- GET_CERTIFICATE: a portion of the chain of slot 0; the other slots are empty. -/
def execGetCertificate (endpoint slot offset length : Nat) (s : State) : Res :=
  spdmRun endpoint 3 (fun s =>
    if slot ≠ 0 || Config.certChain.length < offset then (.errorInvalid, s)
    else
      let p := cut Config.certChain offset length
      (.certificate p (Config.certChain.length - offset - p.length), s)) s

/-- A signature by the identity key: RSASSA-PSS with a fresh salt (R386; log 6). -/
def identitySignature (msg : List Byte) (s : State) : List Byte × State :=
  let (salt, s) := freeBytes 32 s
  (Config.identitySign (salt ++ msg), s)

/-- CHALLENGE: signed, or Busy while the key store is zeroized. -/
def execChallenge (endpoint slot : Nat) (nonce : List Byte) (s : State) : Res :=
  spdmRun endpoint 3 (fun s =>
    if s.sc.zeroized then (.errorBusy, s)
    else if slot ≠ 0 then (.errorInvalid, s)
    else
      let h := sha256 Config.certChain
      let (sig, s) := identitySignature (h ++ nonce) s
      (.challengeAuth 0 h sig, s)) s

/-- GET_MEASUREMENTS: every index latched at one instant. -/
def execGetMeasurements (endpoint : Nat) (signed : Bool) (nonce : List Byte) (s : State) : Res :=
  spdmRun endpoint 3 (fun s =>
    let ms := measurements s
    if !signed then (.measurements ms none, s)
    else if s.sc.zeroized then (.errorBusy, s)
    else
      let (sig, s) := identitySignature (ms.flatMap (·.2) ++ nonce) s
      (.measurements ms (some sig), s)) s

/-- SPDM_UNSUPPORTED_REQUEST: ErrorCode UnsupportedRequest naming the request. -/
def execSpdmUnsupportedRequest (endpoint code : Nat) (s : State) : Res :=
  .next (if s.boot.powered then emit (.spdm endpoint (.errorUnsupported code)) s else s)

/-! ## PLDM firmware update (R398) -/

/-- RETRY_REQUEST_UPDATE (DSP0267; log 46). -/
def pldmRetry : Nat := 0x8A
/-- A VerifyResult other than success (log 46). -/
def pldmVerifyFailed : Nat := 1

/-- REQUEST_UPDATE: told to retry while an activation is pending or a blackout is in progress. -/
def execRequestUpdate (endpoint : Nat) (s : State) : Res :=
  .next (
    if !s.boot.powered then s
    else if s.gz.fwPending.isSome || s.gz.blackout then emit (.pldm endpoint pldmRetry 0) s
    else emit (.pldm endpoint pldmOk 0) { s with sc := { s.sc with updating := some endpoint } })

/-- An update accepts a component: any of the four, in recovery mode 0 and 3. -/
def componentOk (s : State) (comp : Nat) : Bool := decide (comp < 4) && (!s.boot.recovery || comp == 0 || comp == 3)

/-- FIRMWARE_IMAGE_TRANSFER: the image that is not running is written and verified; in recovery mode success ends in a cold
reset (R388). -/
def execFirmwareImageTransfer (component : Nat) (image : List Byte) (s : State) : Res :=
  .next (match s.sc.updating with
    | none => s
    | some ep =>
      if !s.boot.powered then s
      else if !componentOk s component then emit (.pldm ep pldmInvalidData 0) s
      else
        let i := 1 - runningImage s component % 2
        let ok := verifyImage s component image
        let s := { s with nor := { s.nor with images := tabPut s.nor.images (2 * component + i) image } }
        let s := setImageOk component i ok s
        if !ok then emit (.pldm ep pldmVerifyFailed 0) (securityViolation 4 component 0 0 s)
        else
          let s := emit (.pldm ep pldmOk 0) s
          if s.boot.recovery then coldBoot 4 (setBootImage component i s) else s)

/-- The image an activation of a component switches to. -/
def newImage (s : State) (comp : Nat) : Nat := 1 - runningImage s comp % 2

/-- Activation at once, with no job running: a shepherd image through its blackout, a host image by a host-complex reset;
the other components run it from now on. -/
def activateNow (comp : Nat) (s : State) : State :=
  if comp ≤ 1 then activate comp (newImage s comp) s.tk.tick s else setBootImage comp (newImage s comp) s

/-- ACTIVATE_FIRMWARE: while a job runs the image stays verified and pending. -/
def execActivateFirmware (now component : Nat) (s : State) : Res :=
  let s := atTime now s
  .next (match s.sc.updating with
    | none => s
    | some ep =>
      if !s.boot.powered then s
      else if s.gz.fwPending.isSome then emit (.pldm ep pldmRetry 0) s
      else if 3 < component || !imageOk s component (newImage s component) then emit (.pldm ep pldmInvalidData 0) s
      else
        let s := emit (.pldm ep pldmOk 0) { s with sc := { s.sc with updating := none } }
        if jobLive s then s else activateNow component s)

end Sys2Proof.Machine
end

