-- ==== Sys2Proof/Machine/Csr.lean ====
section
/-! DEFINITION. Reading CSR space: every page of R430, its registers in the layouts of R44, R115, R183, R322, R350, R366, R384,
R401, R415, R423, R432, the attach record (R348), trap records (R282) and tallies (R437). A slot is 8 bytes. -/

namespace Sys2Proof.Machine

/-! ## TK_ module page (R44, R415, R423) -/

def slotReg (x : Slot) : Nat := x.status % 16 + 16 * bitNat x.tt.isSome + 2 ^ 32 * ttIdOf x.tt

def tkStatus (s : State) : Nat :=
  s.tk.state + 8 * bitNat (s.tk.bellwether && 1 ≤ s.tk.state && s.tk.state ≤ 3) + 16 * s.tk.active + 32 * bitNat s.tk.switch.isSome + 64 * bitNat s.run.goWait +
    128 * bitNat (s.run.legs.any (·.late)) + 256 * s.tk.holdoverTicks + 4096 * formOf s + 8192 * policyOf s

def overrunReg (o : LastOverrun) : Nat :=
  o.leg + 32 * o.kind + 256 * o.cause + 512 * o.remoteChip + 2 ^ 32 * o.latenessNs

def tkReg (s : State) (i : Nat) : Nat :=
  [tkStatus s, s.tk.tick, s.tk.step, s.tk.switch.elim (2 ^ 64 - 1) (·.1), s.tk.epoch, slotReg s.tk.slotA, slotReg s.tk.slotB, s.tk.periodUs,
   s.tk.leadNs, s.tk.timeSrc, s.tk.parentLi + 256 * s.tk.parentChip + 2 ^ 20 * s.tk.depth, s.tk.latencyNs, s.tk.alignErr,
   overrunReg s.tk.lastOverrun, s.tk.lastStretch % 2 ^ 32, s.boot.phase + 16 * s.boot.failCode, s.boot.cause + 2 ^ 32 * s.boot.warmCount, 0,
   s.tk.tickinOffset + 2 ^ 32 * s.tk.tickinTick, s.tk.tickinCount].getD i 0

/-! ## RU_ pages (R115) -/

def ruModule (s : State) (i : Nat) : Nat :=
  let c := s.commit
  [c.step, c.tick, c.seq, c.openStep, bitNat c.tickAtomic + 2 * bitNat c.valid + 4 * bitNat c.rollbackOk].getD i 0

/-- The generation of the newest open step, empty before that step's first contribution (R99, R115). -/
def openGen (s : State) (r : RowUnit) : Gen :=
  let g := r.gens.getD r.gen {}
  if g.step = some s.tk.step then g else {}

/-- STATE of a row unit: RECOVER while the walk of R112 is owed, between a warm reset and the PLAN_LOAD that runs or discards
it (DEDUCED, log 65). -/
def ruState (s : State) (r : RowUnit) : Nat := if !s.job.reloaded && s.commit.openStep ≠ allOnes then 3 else r.state

def ruStatus (s : State) (r : RowUnit) : Nat :=
  let g := openGen s r
  ruState s r + 4 * bitNat (s.job.state == 0 || s.job.header.tickAtomic) + 8 * r.gen + 16 * bitNat g.full + 32 * bitNat g.ringFull

def ruDie (s : State) (d i : Nat) : Nat :=
  let r := getRu s d
  [ruStatus s r, r.poolBase, r.poolSize, (openGen s r).used, r.hwm, r.ringBase, r.ringSize, r.wptr, ringReserved s r,
   r.touched % 2 ^ 32 + 2 ^ 32 * (r.applied % 2 ^ 32), r.satRow + 2 ^ 40 * r.satTable, r.recResult + 2 ^ 32 * r.recRows].getD i 0

/-! ## MM_ pages (R322) -/

def mmModule (s : State) (i : Nat) : Nat :=
  if i = 0 then s.mm.spread + 64 * s.mm.carveout
  else if i = 1 then hbmTop s.mm
  else if i < 6 then localBase s.mm (i - 2)
  else if i < 10 then pastureBase s.mm (i - 6)
  else 0

/-- The next line of a scrub pass, and passes completed. -/
def scrubPos (s : State) (task d : Nat) : Nat :=
  let x := getTask s task d
  x.pos + 2 ^ 38 * min x.passes (2 ^ 26 - 1)

def pcReg (s : State) (d n : Nat) : Nat :=
  let x := mmPc s.mm d n
  x.state + 4 * min (errLines s d n) 0xFFFF + 2 ^ 18 * (x.retrainFails % 4)

def mmDieReg (s : State) (d i : Nat) : Nat :=
  let m := mmDie s.mm d
  match i with
  | 1 => m.hbmPeriodH + 256 * m.lpPeriodH
  | 2 => scrubPos s 0 d
  | 3 => scrubPos s 1 d
  | 4 => m.errAddr + 2 ^ 48 * m.errMemory + 2 ^ 50 * m.errSource + 2 ^ 52 * m.errPc
  | _ => if 0x80 ≤ i && i < 0x100 then pcReg s d (i - 0x80) else 0

/-! ## PW_ page (R366) -/

/-- The largest applied ratio: cap, thermal, and the pace of an open leg (R356). -/
def appliedRatio (s : State) : Nat :=
  let pace := s.run.legs.map fun o => match paceOf s o.kind with
    | some p => (1024 - p.pace + 15) / 16
    | none => 0
  (s.pw.capRatio :: s.pw.thermal.map (·.2) ++ pace).foldl max 0

def pwStatus (s : State) : Nat :=
  appliedRatio s + 64 * ((causesNow s).map fun b => 2 ^ b).sum + 2 ^ 11 * bitNat s.pw.capUnmet + 2 ^ 12 * bitNat s.pw.ocpTrip +
    2 ^ 13 * s.pw.moduleState

def tempWord (s : State) (w : Nat) : Nat := leNat ((List.range 8).map fun i => if 12 ≤ 8 * w + i then 0 else tempAt s (8 * w + i))

def pwReg (s : State) (i : Nat) : Nat :=
  if 0x20 ≤ i && i < 0x40 then
    let p := legPower s (i - 0x20)
    p.learned + 2 ^ 12 * p.bubble
  else [pwStatus s, s.pw.cap + 4096 * s.pw.capSrc, bitNat s.pw.standby, s.pw.lat.getD 0 0, s.pw.lat.getD 1 0, s.pw.lat.getD 2 0,
    s.pw.lat.getD 3 0, s.pw.ocpLimit, s.pw.idleW, min (floorW s) 4095, s.pw.p10, tempWord s 0, tempWord s 1, 0].getD i 0

/-! ## GZ_ page (R384) -/

/-- The unit of a task with the least D. -/
def leastUnit (s : State) (task : Nat) : Nat :=
  ((List.range (taskUnits task)).tail).foldl (fun b u => if (getTask s task u).done < (getTask s task b).done then u else b) 0

def taskReg (s : State) (task : Nat) : Nat :=
  let u := leastUnit s task
  let x := getTask s task u
  x.done % 1024 + 2 ^ 10 * dueOf s task u + 2 ^ 32 * x.passes

def behindBits (s : State) : Nat :=
  ((List.range 15).map fun j => if (List.range (taskUnits j)).any fun u => isBehind s j u then 2 ^ j else 0).sum

def bistReg (x : BistReg) : Nat := x.logicCov + 2 ^ 14 * x.sramCov + 2 ^ 28 * x.result + 2 ^ 32 * x.usUsed

def quarantineWord (s : State) (w : Nat) : Nat :=
  if w < 5 then s.nor.quarTiles.toNat / 2 ^ (32 * w) % 2 ^ 32 else s.nor.quarEngines.toNat

def gzReg (s : State) (i : Nat) : Nat :=
  if i = 0 then bitNat s.gz.rotateEn + 2 * bitNat s.gz.bistEn + 4 * s.gz.bistPeriodH + 128 * s.gz.retrainMin + 2 ^ 13 * s.gz.retrainDc
  else if i = 1 then behindBits s
  else if i = 3 then s.gz.privStatus + 4 * s.gz.privPass.toNat
  else if i = 5 then s.gz.fwTick
  else if i = 6 then s.gz.fwState + 4 * s.gz.fwCode + 32 * s.gz.shImage + 64 * s.gz.hostImage
  else if 8 ≤ i && i < 14 then quarantineWord s (i - 8)
  else if 0x10 ≤ i && i < 0x1F then taskReg s (i - 0x10)
  else if 0x20 ≤ i && i < 0x30 then bistReg (tabGet {} s.gz.bistUnit (i - 0x20))
  else if 0x80 ≤ i && i < 0x120 then bistReg (tabGet {} s.gz.bistTile (i - 0x80))
  else 0

/-! ## SC_ pages (R401) -/

def scReg (s : State) (i : Nat) : Nat :=
  if i = 0 then scStatus s
  else if i = 1 then Config.serial % 2 ^ 64
  else if i = 2 then s.nor.svn
  else if i = 3 then s.nor.enrollCtr
  else if i < 8 then
    let k := keySlot s (i - 4)
    k.state + 2 ^ 32 * leAt k.keyId 0 4
  else if i < 12 then (liveNonce s).elim 0 fun b => leAt b (8 * (i - 8)) 8
  else if i = 13 then s.sc.mboxState + 4 * s.sc.mboxCode
  else 0

def mboxWord (s : State) (i : Nat) : Nat := leNat ((List.range 8).map fun k => tabGet 0 s.sc.mbox (8 * i + k))

/-! ## HQ_ pages (R348, R350) -/

def hqReg (s : State) (i : Nat) : Nat :=
  let h := s.hq
  if 0x20 ≤ i && i < 0x30 then (regionAt s (i - 0x20)).base
  else if 0x30 ≤ i && i < 0x40 then (regionAt s (i - 0x30)).size
  else if 0x40 ≤ i && i < 0x50 then (regionAt s (i - 0x40)).xlat
  else if 0x50 ≤ i && i < 0x60 then regionCtl (regionAt s (i - 0x50))
  else [h.attach.state + 4 * h.attach.path + 8 * bitNat (!h.ovf.isEmpty), h.adminBase, h.log2 + 32 * bitNat h.enable, 0, h.beat, h.hbMs,
    2 ^ 32 * h.windowHi, h.ovfBase, h.ptpPort + 4 * bitNat h.ptpEn].getD i 0

def attachMagic : List Byte := [0x41, 0x5A, 0x39, 0x36, 0x48, 0x4F, 0x53, 0x54]

/-- The attach record (R348). -/
def attachRecord (s : State) : List Byte :=
  let a := s.hq.attach
  attachMagic ++ leBytes 4 a.generation ++ leBytes 1 a.state ++ leBytes 1 s.job.state ++ leBytes 1 a.path ++ [0] ++
    leBytes 8 (if s.job.state = 0 then 0 else s.job.planId) ++ leBytes 8 a.lostTick ++ leBytes 8 s.hq.ovfBase ++ leBytes 4 s.hq.ovfIndex ++
    leBytes 4 s.hq.ovf.length ++ leBytes 8 s.hq.nextSeq ++ List.replicate 8 0 ++
    padTo 128 (a.log.flatMap fun l => leBytes 4 l.1 ++ leBytes 2 l.2.1 ++ leBytes 2 l.2.2) ++
    leBytes 128 ((s.hq.queues.map fun q => 2 ^ q.1).sum + 1)

/-! ## LG_ pages (R183) -/

def laserStatus (x : Laser) : Nat := x.state + 4 * x.ok.toNat + 2 ^ 10 * x.eol.toNat

def lgModule (s : State) (i : Nat) : Nat :=
  if i = 0 then s.lg.chip
  else if 8 ≤ i && i < 14 then laserStatus (getLaser s (i - 8))
  else 0

def routeEntry (s : State) (c : Nat) : Nat := tabGet 0x7F7F7F7F s.lg.route c

def linkStatus (l : Link) : Nat :=
  l.state + 8 * laneCount l.txMask + 64 * laneCount l.rxMask + 512 * l.txMask.toNat + 2 ^ 13 * l.rxMask.toNat + 2 ^ 17 * l.peerLi +
    2 ^ 24 * l.downCause + 2 ^ 32 * l.peerChip

def lgGroup (s : State) (k i : Nat) : Nat :=
  if i < 8 then linkStatus (getLink s (8 * k + i))
  else if 16 ≤ i && i < 24 then ((getLink s (8 * k + (i - 16))).ser.zipIdx.map fun x => x.1 * 2 ^ (16 * x.2)).sum
  else 0

/-! ## MM_EFF_BASE and tile pages (R282, R432) -/

def effReg (s : State) (n : Nat) : Nat :=
  let e := tabGet {} s.folds.eff n
  e.base % 2 ^ 48 + 2 ^ 48 * e.image + 2 ^ 49 * bitNat e.present

/-- The 64-byte trap record. -/
def trapRecord (t : Tile) : List Byte := match t.trap with
  | none => List.replicate 64 0
  | some r => leBytes 1 r.cause ++ leBytes 1 r.engine ++ leBytes 1 r.logical ++ leBytes 1 r.physical ++ leBytes 4 r.instrAddr ++
      leBytes 8 r.tick ++ leBytes 1 r.leg ++ leBytes 1 r.opcode ++ List.replicate 6 0 ++ leBytes 8 r.addr ++ padTo 16 r.detail ++
      List.replicate 16 0

def tileState (s : State) (p : Nat) : Nat :=
  let st := if s.nor.quarTiles.getLsbD p then 3 else if (getTile s p).trap.isSome then 2 else if s.job.state = 0 then 0 else 1
  st + 4 * (logicalOf s p).getD 0xFF

def tilePage (s : State) (p i : Nat) : Nat :=
  if i < 8 then leAt (trapRecord (getTile s p)) (8 * i) 8 else if i = 8 then tileState s p else 0

/-! ## The map (R429, R430) -/

/-- Per-table tally n of the four blocks in order. -/
def tableTallyAt (s : State) (n : Nat) : Nat := tabGet 0 s.tallies.table n

/-- The 8-byte slot at an offset that is a multiple of 8. -/
def csrSlot (s : State) (off : Nat) : Nat :=
  let p := off / 4096
  let i := off % 4096 / 8
  if p = 0 then tkReg s i
  else if p = 1 then ruModule s i
  else if p < 6 then ruDie s (p - 2) i
  else if p = 6 then mmModule s i
  else if p < 11 then mmDieReg s (p - 7) i
  else if p = 0xB then pwReg s i
  else if p = 0xC then gzReg s i
  else if p = 0xD then scReg s i
  else if p = 0xE then mboxWord s i
  else if p = 0xF then hqReg s i
  else if p < 0x12 then 0
  else if p = 0x12 then (if i < 40 then leAt (attachRecord s) (8 * i) 8 else 0)
  else if p < 0x15 then
    (gscaleWord s (p - 0x13) (8 * i)).toNat + 2 ^ 32 * (gscaleWord s (p - 0x13) (8 * i + 4)).toNat
  else if p = 0x15 then lgModule s i
  else if p < 0x1A then
    let c := 2 * (512 * (p - 0x16) + i)
    routeEntry s c + 2 ^ 32 * routeEntry s (c + 1)
  else if p < 0x26 then lgGroup s (p - 0x1A) i
  else if p = 0x26 then tabGet 0 s.tallies.module i
  else if p < 0x37 then
    let n := 2 * (512 * (p - 0x27) + i)
    tableTallyAt s n + 2 ^ 32 * tableTallyAt s (n + 1)
  else if p < 0x40 then
    let n := 512 * (p - 0x37) + i
    if n < 4128 then effReg s n else 0
  else if p < 0xE0 then tilePage s (p - 0x40) i
  else 0

/-- The pages served: all once the XD phase is over, only the security unit's in recovery mode and after a failed boot
(R388, R403, R404). -/
def csrServed (s : State) (off : Nat) : Bool :=
  s.boot.powered && !s.boot.scan &&
    (if s.boot.recovery || s.boot.phase = 9 then off / 4096 == 0xD || off / 4096 == 0xE else 4 ≤ s.boot.phase && s.boot.phase ≤ 7)

/-- A naturally aligned access of 4 or 8 bytes. -/
def csrAligned (off n : Nat) : Bool := (n == 4 || n == 8) && off % n == 0

/-- A read of n bytes; one that is not naturally aligned gives free bytes (log 13). -/
def csrRead (off n : Nat) (s : State) : List Byte × State :=
  if csrAligned off n then
    let w := csrSlot s (off / 8 * 8)
    (leBytes n (if off % 8 = 0 then w else w / 2 ^ 32), s)
  else freeBytes n s

end Sys2Proof.Machine
end

