-- ==== Sys2Proof/Machine/CsrWrite.lean ====
section
/-! DEFINITION. Register writes (R4, R5, R429): the access code of every register, command registers doing what their own
command does; the window aperture (R15, R343), region table (R342), tile reset (R412) and tallies (R436). -/

namespace Sys2Proof.Machine

/-! ## Commands that are a register write -/

/-- TILE_RESET: ignored while ticks run, on a quarantined tile, and while a tile-map switch is pending. -/
def execTileReset (tile : Nat) (s : State) : Res :=
  onUnit (decide (tile < 160)) (
    if running s || s.nor.quarTiles.getLsbD tile || s.tiles.pendMap.isSome then s else resetTile tile s)

/-- Clear the tally at a CSR offset: a module tally of 8 bytes, or a per-table tally of 4. -/
def clearTally (off : Nat) (s : State) : State :=
  if off / 4096 = 0x26 then { s with tallies := { s.tallies with module := tabDel s.tallies.module (off % 4096 / 8) } }
  else if 0x27 ≤ off / 4096 && off / 4096 < 0x37 then
    { s with tallies := { s.tallies with table := tabDel s.tallies.table ((off - 0x27000) / 4) } }
  else s

/-- TALLY_CLEAR: writing 0 clears; other values are ignored. -/
def execTallyClear (offset value : Nat) (s : State) : Res := .next (if value = 0 then clearTally offset s else s)

/-- GSCALE_WRITE: half 0 the step tag, 1 the scale, 2 the whole entry. -/
def execGscaleWrite (bank flock half : Nat) (value : Word64) (s : State) : Res :=
  onUnit (decide (bank < 2) && decide (flock < 256) && decide (half < 3)) (
    let lo := value.setWidth 32
    let hi := (value >>> (32 : Nat)).setWidth 32
    match half with
    | 0 => gscalePut bank (8 * flock) lo s
    | 1 => gscalePut bank (8 * flock + 4) lo s
    | _ => gscalePut bank (8 * flock + 4) hi (gscalePut bank (8 * flock) lo s))

def setRegion (n : Nat) (r : HqRegion) (s : State) : State := { s with hq := { s.hq with regions := tabSet {} s.hq.regions n r } }

/-- The ranges of an entry are legal: within bits [62:0], and for TARGET 1 within the carve-out. -/
def regionLegal (s : State) (r : HqRegion) (target : Bool) : Bool :=
  decide (0 < r.size) && decide (r.base + r.size ≤ hostBit) &&
    (!target || (decide (carveBase s.mm ≤ r.xlat) && decide (r.xlat + r.size ≤ lpEnd)))

/-- HQ_REGION_CTL_WRITE: while VALID is 1 only VALID may be cleared. -/
def execHqRegionCtlWrite (n : Nat) (value : Word32) (s : State) : Res :=
  onUnit (decide (n < 16)) (
    let r := regionAt s n
    if r.valid then (if value.getLsbD 0 then s else setRegion n { r with valid := false } s)
    else
      let t := value.getLsbD 3
      setRegion n { r with
        valid := value.getLsbD 0 && regionLegal s r t
        read := value.getLsbD 1, write := value.getLsbD 2, target := t } s)

/-- HQ_REGION_CTL_READ: it returns once no access resolved through the entry is open. -/
def execHqRegionCtlRead (n : Nat) (s : State) : Res :=
  onUnit (decide (n < 16)) (readRegionCtl { entry := n, window := false, off := 0, len := 8 } s)

/-! ## Writes by page. `lo` and `hi`: the halves of the slot that are written. -/

/-- The slot's new value. -/
def mergeHalves (old : Nat) (lo hi : Option Nat) : Nat := hi.getD (old / 2 ^ 32) * 2 ^ 32 + lo.getD (old % 2 ^ 32)

def inRange (lo x hi : Nat) : Bool := decide (lo ≤ x) && decide (x ≤ hi)

/-- A lead that some valid slot's period allows (R21, R44). -/
def leadLegal (s : State) (v : Nat) : Bool :=
  inRange 1000 v 50000 && [s.tk.slotA, s.tk.slotB].all fun x => x.tt.elim true fun t => decide (8 * v ≤ t.periodUs * 1000)

def tkWrite (i : Nat) (lo hi : Option Nat) (s : State) : State :=
  match i, lo with
  | 4, _ => if s.tk.state = 0 then { s with tk := { s.tk with epoch := mergeHalves s.tk.epoch lo hi } } else s
  | 8, some v => if s.tk.state = 0 && leadLegal s (v % 65536) then { s with tk := { s.tk with leadNs := v % 65536 } } else s
  | 9, some v =>
    if s.tk.state = 0 && v % 4 ≠ 3 then
      { s with tk := { s.tk with timeSrc := v % 4 }, net := { s.net with facility := none, rate := none, ppsFirst := true } }
    else s
  | 17, some v => if v / 256 % 2 = 1 then outcomeState (execTileReset (v % 256) s) s else s
  | _, _ => s

def mib64 : Nat := 2 ^ 26
def gib64 : Nat := 2 ^ 36

/-- RU_ registers of a die: pool and ring only while no job is loaded; a base lies on this die (R115, R306), below the
overflow ring (R309). -/
def ruWrite (d i : Nat) (lo hi : Option Nat) (s : State) : State :=
  let r := getRu s d
  let free := s.job.state == 0
  match i with
  | 1 =>
    let v := mergeHalves r.poolBase lo hi % 2 ^ 48
    if free && v % 4096 == 0 && inLocal s.mm d v 1 then modRu d (fun r => { r with poolBase := v }) s else s
  | 2 =>
    let v := mergeHalves r.poolSize lo hi % 2 ^ 40
    if free && inRange mib64 v gib64 && v % 2 ^ 20 == 0 then modRu d (fun r => { r with poolSize := v }) s else s
  | 4 => modRu d (fun r => { r with hwm := mergeHalves r.hwm lo hi % 2 ^ 40 }) s
  | 5 =>
    let v := mergeHalves r.ringBase lo hi % 2 ^ 48
    if free && v % 4096 == 0 && inLocal s.mm d v 1 then modRu d (fun r => { r with ringBase := v }) s else s
  | 6 =>
    let v := mergeHalves r.ringSize lo hi % 2 ^ 40
    if free && inRange mib64 v gib64 && v % 64 == 0 then modRu d (fun r => { r with ringSize := v }) s else s
  | _ => s

/-- MM_PC_CTL and MM_SCRUB_CFG of a die (R322). -/
def mmWrite (d i : Nat) (lo : Option Nat) (s : State) : State :=
  match i, lo with
  | 0, some v =>
    let pc := v / 4 % 128
    if v % 4 = 1 then outcomeState (execPcDrain d pc s) s
    else if v % 4 = 2 then outcomeState (execPcFence d pc s) s
    else s
  | 1, some v =>
    let m := mmDie s.mm d
    let m := if inRange 1 (v % 256) 24 then { m with hbmPeriodH := v % 256 } else m
    let m := if inRange 1 (v / 256 % 256) 48 then { m with lpPeriodH := v / 256 % 256 } else m
    { s with mm := { s.mm with dies := tabPut s.mm.dies d m } }
  | _, _ => s

/-- PW_ registers (R366). -/
def pwWrite (now i : Nat) (lo : Option Nat) (s : State) : State :=
  match lo with
  | none => s
  | some v =>
    if i = 1 then outcomeState (execPwCapWrite now (v % 4096) s) s
    else if i = 2 then { s with pw := { s.pw with standby := v % 2 == 1 } }
    else if 3 ≤ i && i < 7 then
      (if v % 65536 ≤ 50000 then { s with pw := { s.pw with lat := s.pw.lat.set (i - 3) (v % 65536) } } else s)
    else if i = 7 then (if inRange 40 (v % 256) 125 then { s with pw := { s.pw with ocpLimit := v % 256 } } else s)
    else s

/-- GZ_CFG: each field in its range. -/
def gzCfg (v : Nat) (g : Gz) : Gz :=
  let p := v / 4 % 32
  let m := v / 128 % 64
  let c := v / 2 ^ 13 % 16
  { g with
    rotateEn := v % 2 == 1, bistEn := v / 2 % 2 == 1
    bistPeriodH := if inRange 1 p 24 then p else g.bistPeriodH
    retrainMin := if inRange 1 m 60 then m else g.retrainMin
    retrainDc := if inRange 1 c 15 then c else g.retrainDc }

/-- The outcome of a full pass started by a register write: free (log 69). -/
def freeOutcome (s : State) : BistOutcome × State :=
  let (w, s) := freeWord s
  ({ test := if w.getLsbD 0 then 1 else 0, step := (w >>> (16 : Nat)).toNat % 2 ^ 16, logicCov := (w >>> (32 : Nat)).toNat % 10001
     sramCov := (w >>> (46 : Nat)).toNat % 10001, us := 0, firstFail := w.getLsbD 1, rerunFail := w.getLsbD 2, passEnds := true }, s)

/-- GZ_BIST_REQ (R376, R377, R384): commands 2 and 3 run at once; what PRIV_TEST and REQUALIFY carry as their outcomes is free
here (log 69). -/
def bistRequest (cmd kind index : Nat) (s : State) : State :=
  match cmd with
  | 1 => outcomeState (execBistQueuePass kind index s) s
  | 2 =>
    let (w, s) := freeWord s
    outcomeState (execPrivTest (w.getLsbD 0) ((w >>> (1 : Nat)).setWidth 3) ((w >>> (4 : Nat)).setWidth 12) s) s
  | 3 =>
    let (o, s) := freeOutcome s
    outcomeState (execRequalify kind index o s) s
  | _ => s

/-- GZ_ registers (R384). -/
def gzWrite (i : Nat) (lo hi : Option Nat) (s : State) : State :=
  match i, lo with
  | 0, some v => { s with gz := gzCfg v s.gz }
  | 2, some v => bistRequest (v % 4) (v / 4 % 8) (v / 32 % 256) s
  | 4, some v => if v / 4 % 2 = 1 then outcomeState (execFwGo (v % 2) (v / 2 % 2) s) s else s
  | 5, _ => { s with gz := { s.gz with fwTick := mergeHalves s.gz.fwTick lo hi } }
  | _, _ => s

/-- SC_MBOX_CMD (R391). -/
def mboxCommand (now cmd : Nat) (s : State) : State :=
  match cmd with
  | 1 => outcomeState (execNonce now .csr s) s
  | 2 => outcomeState (execUnlock now .csr s) s
  | 3 => outcomeState (execKey .csr s) s
  | 4 => outcomeState (execClaim .csr s) s
  | 5 => outcomeState (execRaiseSvn .csr s) s
  | _ => s

/-- Mailbox bytes 8w to 8w + 7; ignored while STATE is BUSY. -/
def mboxWrite (w : Nat) (lo hi : Option Nat) (s : State) : State :=
  if s.sc.mboxState = 1 then s
  else
    let b := leBytes 8 (mergeHalves (mboxWord s w) lo hi)
    { s with sc := { s.sc with mbox := b.zipIdx.foldl (fun t x => tabSet 0 t (8 * w + x.2) x.1) s.sc.mbox } }

/-- A region entry's BASE, SIZE or XLAT: only while VALID is 0. -/
def regionWrite (n : Nat) (f : HqRegion → HqRegion) (s : State) : State :=
  if (regionAt s n).valid then s else setRegion n (f (regionAt s n)) s

/-- HQ_ADMIN_CFG: LOG2 only while ENABLE is 0; enabling starts at slot 0 of the ring (log 18). -/
def adminCfg (v : Nat) (s : State) : State :=
  let en := v / 32 % 2 == 1
  let log2 := if !s.hq.enable && inRange 4 (v % 32) 16 then v % 32 else s.hq.log2
  let fresh := en && !s.hq.enable
  { s with hq := { s.hq with
    log2, enable := en, adminPos := if fresh then 0 else s.hq.adminPos, adminStale := s.hq.adminStale && !fresh
    rereads := if en then s.hq.rereads else 0 } }

/-- HQ_ registers (R350). -/
def hqWriteReg (now i : Nat) (lo hi : Option Nat) (s : State) : State :=
  let page := fun (old : Nat) (bits : Nat) => mergeHalves old lo hi % 2 ^ bits / 4096 * 4096
  if 0x20 ≤ i && i < 0x30 then regionWrite (i - 0x20) (fun r => { r with base := page r.base 63 }) s
  else if 0x30 ≤ i && i < 0x40 then regionWrite (i - 0x30) (fun r => { r with size := page r.size 63 }) s
  else if 0x40 ≤ i && i < 0x50 then regionWrite (i - 0x40) (fun r => { r with xlat := page r.xlat 48 }) s
  else if 0x50 ≤ i && i < 0x60 then match lo with
    | some v => outcomeState (execHqRegionCtlWrite (i - 0x50) (BitVec.ofNat 32 v) s) s
    | none => s
  else match i, lo, hi with
    | 1, _, _ => if s.hq.enable then s else { s with hq := { s.hq with adminBase := mergeHalves s.hq.adminBase lo hi } }
    | 2, some v, _ => adminCfg v s
    | 3, some v, _ =>
      if v % 4 = 1 then outcomeState (execHqAttach now (v / 4 % 2) s) s
      else if v % 4 = 2 then outcomeState (execHqDetach now s) s
      else s
    | 4, some v, _ => outcomeState (execHqHeartbeat now v s) s
    | 5, some v, _ =>
      let ms := v % 65536
      if ms = 0 || inRange 10 ms 10000 then { s with hq := { s.hq with hbMs := ms } } else s
    | 6, _, some v => { s with hq := { s.hq with windowHi := v % 65536 } }
    | 8, some v, _ => { s with hq := { s.hq with ptpPort := v % 4, ptpEn := v / 4 % 2 == 1 } }
    | _, _, _ => s

/-- LG_ module page: LG_CHIP_ID only while no job is loaded; LG_LASER_CTL. -/
def lgWrite (now i : Nat) (lo : Option Nat) (s : State) : State :=
  match lo with
  | none => s
  | some v =>
    if i = 0 then (if s.job.state = 0 then { s with lg := { s.lg with chip := v % 4096 } } else s)
    else if 16 ≤ i && i < 22 && v % 2 = 1 then outcomeState (execLaserDrain now (i - 16) s) s
    else s

/-- One LG_ROUTE entry, while no job is loaded. -/
def routeWrite (c : Nat) (v : Option Nat) (s : State) : State := match v with
  | some v => if s.job.state = 0 then { s with lg := { s.lg with route := tabSet 0x7F7F7F7F s.lg.route c (v % 2 ^ 32) } } else s
  | none => s

/-- LG_LINK_CTL of a group (R183). -/
def linkWrite (now k i : Nat) (lo : Option Nat) (s : State) : State :=
  match lo with
  | none => s
  | some v =>
    if 8 ≤ i && i < 16 then
      let li := 8 * k + (i - 8)
      match v % 4 with
      | 1 => outcomeState (execLinkCtlRetrain now li s) s
      | 2 => outcomeState (execLinkCtlTakeDown now li s) s
      | 3 => outcomeState (execLinkCtlBringUp now li s) s
      | _ => s
    else s

/-- A write of 0 to a half of a packed pair, or to a module tally. R8 does not say what a 4-byte write of 0 to one half of a
64-bit tally does; the model clears the whole tally, since any write of zero clears it (DESIGN CHOICE, log 13). -/
def tallyWrite (off : Nat) (lo hi : Option Nat) (s : State) : State :=
  if off / 4096 = 0x26 then (if lo.getD 0 = 0 && hi.getD 0 = 0 then clearTally off s else s)
  else
    let s := if lo = some 0 then clearTally off s else s
    if hi = some 0 then clearTally (off + 4) s else s

def gscaleHalves (b i : Nat) (lo hi : Option Nat) (s : State) : State :=
  let s := match lo with
    | some v => gscalePut b (8 * i) (BitVec.ofNat 32 v) s
    | none => s
  match hi with
  | some v => gscalePut b (8 * i + 4) (BitVec.ofNat 32 v) s
  | none => s

/-- A write to the slot at an offset that is a multiple of 8. -/
def csrPut (now off : Nat) (lo hi : Option Nat) (s : State) : State :=
  let p := off / 4096
  let i := off % 4096 / 8
  if p = 0 then tkWrite i lo hi s
  else if 2 ≤ p && p < 6 then ruWrite (p - 2) i lo hi s
  else if 7 ≤ p && p < 11 then mmWrite (p - 7) i lo s
  else if p = 0xB then pwWrite now i lo s
  else if p = 0xC then gzWrite i lo hi s
  else if p = 0xD then (match i, lo with
    | 12, some v => mboxCommand now (v % 8) s
    | _, _ => s)
  else if p = 0xE then mboxWrite i lo hi s
  else if p = 0xF then hqWriteReg now i lo hi s
  else if 0x10 ≤ p && p < 0x12 then
    (if lo.isSome then outcomeState (execDoorbell now (512 * (p - 0x10) + i) s) s else s)
  else if 0x13 ≤ p && p < 0x15 then gscaleHalves (p - 0x13) i lo hi s
  else if p = 0x15 then lgWrite now i lo s
  else if 0x16 ≤ p && p < 0x1A then
    let c := 2 * (512 * (p - 0x16) + i)
    routeWrite (c + 1) hi (routeWrite c lo s)
  else if 0x1A ≤ p && p < 0x26 then linkWrite now (p - 0x1A) i lo s
  else if 0x26 ≤ p && p < 0x37 then tallyWrite off lo hi s
  else s

/-- A write of n bytes: naturally aligned and to a page that is served; otherwise ignored (log 13). -/
def csrWrite (now off n value : Nat) (s : State) : State :=
  if csrAligned off n && csrServed s off then
    if n = 8 then csrPut now off (some (value % 2 ^ 32)) (some (value / 2 ^ 32 % 2 ^ 32)) s
    else if off % 8 = 0 then csrPut now off (some (value % 2 ^ 32)) none s
    else csrPut now (off - 4) none (some (value % 2 ^ 32)) s
  else s

/-- REGISTER_WRITE, at an offset of the CSR aperture. -/
def execRegisterWrite (now offset size : Nat) (value : Word64) (s : State) : Res :=
  .next (csrWrite now offset size value.toNat (atTime now s))

/-! ## The endpoint's apertures (R343) -/

/-- A BAR of the endpoint's one function. -/
structure Aperture where
  bar : Nat
  wide : Bool
  prefetchable : Bool
  bytes : Nat
  deriving DecidableEq, Repr

/-- The CSR, window and doorbell apertures. -/
def apertures : List Aperture :=
  [{ bar := 0, wide := true, prefetchable := false, bytes := 2 ^ 26 }, { bar := 2, wide := true, prefetchable := true, bytes := 2 ^ 32 },
   { bar := 4, wide := true, prefetchable := false, bytes := 2 ^ 20 }]

/-- Physical and virtual functions, MSI-X vectors, maximum payload and read request in bytes, tag bits. -/
def physicalFunctions : Nat := 1
def virtualFunctions : Nat := 0
def msixVectors : Nat := 32
def maxPayload : Nat := 512
def maxReadRequest : Nat := 4096
def tagBits : Nat := 10

/-- A read of n bytes through the CSR aperture, which the opcode table gives no command (log 71): none where the page is not
served. -/
def csrApertureRead (off n : Nat) (s : State) : Option (List Byte) × State :=
  if csrServed s off then
    let (b, s) := csrRead off n s
    (some b, s)
  else (none, s)

/-- A read through the doorbell aperture returns 0. -/
def doorbellRead (n : Nat) : List Byte := List.replicate n 0

/-! ## The window aperture (R15, R343) -/

/-- Status of a completion: 0 successful, 1 Unsupported Request. -/
def cplOk : Nat := 0
def cplUnsupported : Nat := 1

def windowAddr (s : State) (offset : Nat) : Nat := s.hq.windowHi * 2 ^ 32 + offset

/-- The access lies in CSR space. -/
def windowCsr (a n : Nat) : Bool := decide (csrBase ≤ a) && decide (a + n ≤ csrEnd)

/-- The region entry whose control a read takes, if it is HQ_REGION_CTL. -/
def ctlRead (off : Nat) : Option Nat := if 0xF280 ≤ off && off < 0xF300 then some ((off - 0xF280) / 8) else none

/-- WINDOW_READ: completes with data, marked poisoned where a line is, or with Unsupported Request. -/
def execWindowRead (now offset length : Nat) (s : State) : Res :=
  let s := atTime now s
  .next (
    let a := windowAddr s offset
    if !s.net.pcieUp || 2 ^ 32 < offset + length then s
    else if windowCsr a length then
      let off := a - csrBase
      if !csrServed s off then emit (.completion cplUnsupported false []) s
      else match (if csrAligned off length then ctlRead off else none) with
        | some n => readRegionCtl { entry := n, window := true, off := off % 8, len := length } s
        | none =>
          let (b, s) := csrRead off length s
          emit (.completion cplOk false b) s
    else if devOk s.mm a length then
      emit (.completion cplOk (poisonIn s.mm a length).isSome (memRead s.mm a length)) (rouse s)
    else emit (.completion cplUnsupported false []) s)

/-- WINDOW_WRITE: placed in arrival order. -/
def execWindowWrite (now offset : Nat) (data : List Byte) (s : State) : Res :=
  let s := atTime now s
  .next (
    let a := windowAddr s offset
    if !s.net.pcieUp || 2 ^ 32 < offset + data.length then s
    else if windowCsr a data.length then
      if csrServed s (a - csrBase) then csrWrite now (a - csrBase) data.length (leNat data) s
      else emit (.completion cplUnsupported false []) s
    else if devOk s.mm a data.length then
      let s := rouse s
      { s with mm := memWrite s.mm a data }
    else emit (.completion cplUnsupported false []) s)

end Sys2Proof.Machine
end

