-- ==== Sys2Proof/Machine/Digests.lean ====
section
/-! DEFINITION. Digest rounds, comparison, descent and repair (R187 to R196). -/

namespace Sys2Proof.Machine

/-! ## Rounds (R190) -/

/-- DIGEST_ROUND_START: at each multiple of DIGEST_INTERVAL; a job of one module runs no rounds (R191). -/
def execDigestRoundStart (s : State) : Res :=
  let d := s.digest
  .next (
    if running s && 1 < s.job.exchange.chips && s.tk.tick % s.job.header.digestInterval == 0 && d.round != some s.tk.tick then
      { s with digest := { d with
        round := some s.tk.tick, void := false, slices := 0, leaves := [], prevRound := d.round, prevLeaves := d.leaves
        roots := [], compared := false, located := [] } }
    else s)

/-- DIGEST_SLICE `j` of the round, in time or missed; one of which nothing is heard by its deadline is missed too (R190,
`missSlices`). -/
def execDigestSlice (now j : Nat) (inTime : Bool) (s : State) : Res :=
  let s := atTime now s
  .next (match s.digest.round with
  | none => s
  | some c =>
    if s.tk.tick ≠ c + j || s.digest.slices ≠ j || digestSpan s ≤ j then s
    else
      if inTime then endSlice c ((sliceBlocks s j).foldl digestBlock s) else missSlice c s)

/-- DIGEST_ROOT at the bellwether (R191). -/
def execDigestRoot (now : Nat) (rx : Rx) (round : Nat) (root : Word64) (void : Bool) (s : State) : Res :=
  onUnit (decide (rx.li < 96)) (deliverRx now rx (.digestRoot round root void) (fun s =>
    if s.tk.bellwether then noteRoot rx.src round (if void then none else some root) s else s) s)

/-! ## Queries (R192, R194) -/

/-- Leaves that this module holds of a round: they are kept for two. -/
def heldLeaves (s : State) (round : Nat) : Option (List (Nat × Nat × Word64)) :=
  if s.digest.round = some round then some s.digest.leaves
  else if s.digest.prevRound = some round then some s.digest.prevLeaves
  else none

/-- The answer to a query: pairs of region and root, or the digests of a node's children with their node indices. -/
def answerQuery (s : State) (q : DigestNode) : Option (List (Nat × Word64)) :=
  (heldLeaves s q.round).map fun ls =>
    if q.region = 0xFFFF then
      (((presentRegions s).drop (8 * q.node)).take 8).map fun r => (r, regionRoot (leavesOf ls s r))
    else if q.level = 0 then []
    else
      let kids := treeLevel (leavesOf ls s q.region) (q.level - 1)
      (((kids.zipIdx).drop (16 * q.node)).take 16).map fun x => (x.2, x.1)

/-- DIGEST_QUERY: the module answers with a DIGEST_REPLY. -/
def execDigestQuery (now : Nat) (rx : Rx) (n : DigestNode) (s : State) : Res :=
  onUnit (decide (rx.li < 96)) (deliverRx now rx (.digestQuery n) (fun s => match answerQuery s n with
    | some ds => originate 3 rx.src 0 (.digestReply n ds) s
    | none => s) s)

/-! ## Repair orders (R193, R196) -/

def repairsPerOutlier : Nat := 64

/-- Detail of REPLICA_DIVERGED (R196). -/
def divergedDetail (region block outlier reference result majority outliers slice : Nat) : List Byte :=
  leBytes 2 region ++ leBytes 4 block ++ leBytes 2 outlier ++ leBytes 2 reference ++ leBytes 1 result ++ leBytes 2 majority ++
    leBytes 1 (min outliers 255) ++ leBytes 2 slice

/-- REPLICA_DIVERGED of one located block. Only the bellwether knows MAJORITY and OUTLIERS (log 38). -/
def raiseDiverged (r : Repair) (result : Nat) (s : State) : State :=
  let (m, s) := freeWord s
  let (n, s) := freeWord s
  let (maj, outs) := if s.tk.bellwether then (s.digest.majority, s.digest.outliers) else (m.toNat % 65536, n.toNat % 256)
  raise evReplicaDiverged (if result = 2 then sevDegrade else sevWarn) uModule
    (divergedDetail r.region r.block r.outlier r.reference result maj outs (sliceOf s r.region r.block)) s

/-- Groups of a tensor whose elements or block scales lie in the bytes [lo, hi) of its image (R52). -/
def groupsInBytes (t : Tensor) (lo hi : Nat) : List Nat :=
  let eb := elemBytes t.wFormat t.elements
  let bits := codeBits t.wFormat
  (List.range (groupCount t)).filter fun g =>
    let e0 := 1024 * g
    let e1 := e0 + groupLen t g
    (decide (lo * 8 < e1 * bits) && decide (e0 * bits < min hi eb * 8)) ||
      (codeScaled t.wFormat && decide (lo < eb + (e1 + 31) / 32) && decide (eb + e0 / 32 < hi))

/-- The link groups that received a dense block's all-gather: those of its groups' leaf parents on this module. -/
def gatherGroups (s : State) (r b : Nat) : List Nat := match tensorOf s r with
  | none => []
  | some t => match treeSetOf s t with
    | none => []
    | some ts =>
      ((groupsInBytes t (b * blockBytes) (b * blockBytes + blockLen s r b)).filterMap fun g =>
        (leafParent t ts g s.lg.chip).map fun x => (nodeAt ts x.1).lg).dedup

/-- What the outlier queues for self-test, or scrubs (R193). -/
def queueRepairTests (r : Repair) (s : State) : State :=
  if r.region < 4096 then (gatherGroups s r.region r.block).foldl (fun s k => queueTest 3 k 1 s) s
  else match s.job.header.regions[r.region - 4096]? with
    | some e =>
      if e.kind = 1 then
        (s.tiles.map.filter fun x => e.writers.getLsbD x.1).foldl (fun s x => queueTest 0 x.2 1 s) s
      else { s with gz := { s.gz with scrubs := s.gz.scrubs ++
        [(blockAddr s r.region 0 r.block, blockLen s r.region r.block)] } }
    | none => s

def isRepair (region block outlier : Nat) (r : Repair) : Bool := r.region == region && r.block == block && r.outlier == outlier

def addRepair (r : Repair) (s : State) : State :=
  if s.digest.repairs.any (isRepair r.region r.block r.outlier) then s
  else { s with digest := { s.digest with repairs := s.digest.repairs ++ [r] } }

def dropRepair (r : Repair) (s : State) : State :=
  { s with digest := { s.digest with repairs := s.digest.repairs.filter fun x => !(isRepair r.region r.block r.outlier x) } }

def modRepair (r : Repair) (s : State) : State :=
  { s with digest := { s.digest with repairs := s.digest.repairs.map fun x => if isRepair r.region r.block r.outlier x then r else x } }

/-- A block of an outlier is located: order its repair, up to 64 an outlier (R192, R193). -/
def locateBlock (outlier reference region block : Nat) (s : State) : State :=
  if repairsPerOutlier ≤ s.digest.located.countP (fun x => x.1 == outlier) then tally tlDigestDeferred s
  else
    let tick := s.tk.tick + 2
    let s := { s with digest := { s.digest with located := (outlier, region, block) :: s.digest.located } }
    let s := addRepair { tick, region, block, outlier, reference } s
    let m : RepairOrderMsg := { tick, region, block, outlier, reference }
    [reference, outlier].foldl (fun s c => if c = s.lg.chip then s else originate 3 c 0 (.repairOrder m) s) s

/-! ## Descent (R192) -/

/-- Send a query to outlier and reference; the bellwether answers its own. -/
def sendQuery (q : Query) (s : State) : State :=
  let n : DigestNode := { round := q.round, region := q.region, level := q.level, node := q.node }
  let mine := answerQuery s n
  let q := { q with
    fromOutlier := if q.outlier = s.lg.chip then mine else none
    fromRef := if q.reference = s.lg.chip then mine else none }
  let s := { s with digest := { s.digest with queries := s.digest.queries ++ [q] } }
  [q.outlier, q.reference].foldl (fun s c => if c = s.lg.chip then s else originate 3 c 0 (.digestQuery n) s) s

/-- Pairs whose digests differ: what only one side names differs too. -/
def differing (a b : List (Nat × Word64)) : List Nat :=
  (a.filter fun x => !(b.contains x)).map (·.1)

/-- Both replies of a query are in: go one level down, or name the blocks. -/
def descend (q : Query) (a b : List (Nat × Word64)) (s : State) : State :=
  let s := { s with digest := { s.digest with queries := s.digest.queries.erase q } }
  (differing a b).foldl (fun s k =>
    let next : Query := { round := q.round, outlier := q.outlier, reference := q.reference, region := q.region, level := 0, node := 0 }
    if q.region = 0xFFFF then
      let top := topLevel (regionBlocks s k)
      if top = 0 then locateBlock q.outlier q.reference k 0 s else sendQuery { next with region := k, level := top } s
    else if q.level = 1 then locateBlock q.outlier q.reference q.region k s
    else sendQuery { next with level := q.level - 1, node := k } s) s

/-- Fill a reply into the first query that awaits it. -/
def fillReply (src : Nat) (n : DigestNode) (ds : List (Nat × Word64)) : List Query → List Query
  | [] => []
  | q :: t =>
    if q.round = n.round && q.region = n.region && q.level = n.level && q.node = n.node then
      if q.outlier = src && q.fromOutlier.isNone then { q with fromOutlier := some ds } :: t
      else if q.reference = src && q.fromRef.isNone then { q with fromRef := some ds } :: t
      else q :: fillReply src n ds t
    else q :: fillReply src n ds t

/-- Descend every query whose replies are both in. -/
def descendReady (s : State) : State :=
  s.digest.queries.foldl (fun s q => match q.fromOutlier, q.fromRef with
    | some a, some b => descend q a b s
    | _, _ => s) s

/-- DIGEST_REPLY at the bellwether. -/
def execDigestReply (now : Nat) (rx : Rx) (n : DigestNode) (digests : List (Nat × Word64)) (s : State) : Res :=
  onUnit (decide (rx.li < 96)) (deliverRx now rx (.digestReply n digests) (fun s =>
    descendReady { s with digest := { s.digest with queries := fillReply rx.src n digests s.digest.queries } }) s)

/-- DESCENT_TIMEOUT: descents of a round still open one interval after its start are dropped, each outlier's counting one. -/
def execDescentTimeout (now : Nat) (s : State) : Res :=
  let s := atTime now s
  let old := s.digest.queries.filter fun q => decide (q.round + s.job.header.digestInterval ≤ s.tk.tick)
  .next (tallyBy tlDigestLate ((old.map (·.outlier)).dedup.length)
    { s with digest := { s.digest with queries := s.digest.queries.filter fun q => !(old.contains q) } })

/-! ## Comparison (R191) -/

/-- The value that more than half of the roots hold. -/
def majorityRoot (rs : List (Nat × Word64)) : Option Word64 :=
  (rs.find? fun x => decide (rs.length < 2 * rs.countP fun y => y.2 == x.2)).map (·.2)

/-- The root that the others are held against: the majority's, or the bellwether's in a job of two modules. -/
def referenceRoot (s : State) (rs : List (Nat × Word64)) : Option Word64 :=
  if s.job.exchange.chips = 2 then (rs.find? fun x => x.1 == s.lg.chip).map (·.2) else majorityRoot rs

def minChip (l : List Nat) : Nat := l.foldl min 4095

/-- Start the descents: a query for each group of eight present regions, for each outlier. -/
def startDescents (round : Nat) (root : Word64) (rs : List (Nat × Word64)) (s : State) : State :=
  let holders := (rs.filter fun x => x.2 == root).map (·.1)
  let outliers := (rs.filter fun x => x.2 != root).map (·.1)
  let s := { s with digest := { s.digest with majority := holders.length, outliers := outliers.length } }
  let groups := ((presentRegions s).length + 7) / 8
  outliers.foldl (fun s c => (List.range groups).foldl (fun s g =>
    sendQuery { round, outlier := c, reference := minChip holders, region := 0xFFFF, level := 0, node := g } s) s) s

/-- DIGEST_COMPARE at the boundary of C + SPAN. Chips whose root has not arrived count as void. -/
def execDigestCompare (now : Nat) (s : State) : Res :=
  let s := atTime now s
  .next (match s.digest.round with
  | none => s
  | some c =>
    if !s.tk.bellwether || s.digest.compared || s.tk.tick ≠ c + digestSpan s then s
    else
      let s := { s with digest := { s.digest with compared := true } }
      let rs := s.digest.roots.filterMap fun x => x.2.map fun r => (x.1, r)
      match rs with
      | [] => s
      | (_, r) :: _ =>
        if rs.all fun x => x.2 == r then tally tlDigestRounds s
        else match referenceRoot s rs with
          | some root => startDescents c root rs s
          | none =>
            let (w, s) := freeWord s
            haltTree (raise evReplicaDiverged sevFault uModule
              (divergedDetail (w.toNat % 65536) (w.toNat / 2 ^ 16 % 2 ^ 32) 0xFFFF 0xFFFF 3 0 0 (w.toNat / 2 ^ 48)) s))

/-! ## Repair (R193) -/

/-- REPAIR_ORDER at the reference or the outlier. -/
def execRepairOrder (now : Nat) (rx : Rx) (m : RepairOrderMsg) (s : State) : Res :=
  onUnit (decide (rx.li < 96)) (deliverRx now rx (.repairOrder m) (fun s =>
    if m.outlier = s.lg.chip || m.reference = s.lg.chip then
      addRepair { tick := m.tick, region := m.region, block := m.block, outlier := m.outlier, reference := m.reference } s
    else s) s)

def boundaryImage (s : State) (region : Nat) : Nat := ((s.digest.boundary.find? fun x => x.1 == region).map (·.2)).getD (effOf s region).image

def chunkBytes : Nat := 240

def chunkCount (s : State) (r : Repair) : Nat := (blockLen s r.region r.block + chunkBytes - 1) / chunkBytes

/-- The reference reads and digests the block, and sends it. -/
def sendBlock (r : Repair) (s : State) : State :=
  let (bs, s) := readBlock r.region (boundaryImage s r.region) r.block s
  (List.range (chunkCount s r)).foldl (fun s i =>
    originate 3 r.outlier 0 (.repairData { region := r.region, block := r.block, chunk := i, refDigest := crc64 bs
                                           payload := (bs.drop (chunkBytes * i)).take chunkBytes }) s) s

/-- The outlier digests its own block. -/
def digestBefore (r : Repair) (s : State) : State :=
  if r.before.isSome then s
  else
    let (bs, s) := readBlock r.region (boundaryImage s r.region) r.block s
    modRepair { r with before := some (crc64 bs), started := true } s

/-- REPAIR_TICK: what reference and outlier do in tick R. -/
def execRepairTick (now : Nat) (s : State) : Res :=
  let s := atTime now s
  .next ((s.digest.repairs.filter fun r => r.tick == s.tk.tick && !r.started).foldl (fun s r =>
    if r.reference = s.lg.chip then
      let s := sendBlock r s
      if s.tk.bellwether then modRepair { r with started := true } s else dropRepair r s
    else if r.outlier = s.lg.chip then digestBefore r s
    else s) s)

/-- The outlier's part ends: REPAIR_DONE to the bellwether, the event, and the self-tests. -/
def endRepair (r : Repair) (result : Nat) (digest : Word64) (s : State) : State :=
  let s := queueRepairTests r (raiseDiverged r result (dropRepair r s))
  if bellNow s = s.lg.chip then s
  else originate 3 (bellNow s) 0 (.repairDone { region := r.region, block := r.block, result, digest }) s

/-- RESULT of a repair whose data are all in. -/
def repairResult (before after ref : Word64) : Nat := if after ≠ ref then 2 else if before = ref then 1 else 0

/-- One chunk is written over the outlier's block; after the last it digests the block again. -/
def takeChunk (r : Repair) (m : RepairDataMsg) (s : State) : State :=
  let image := boundaryImage s r.region
  let s := { s with mm := memWrite s.mm (blockAddr s r.region image r.block + chunkBytes * m.chunk) m.payload }
  let r := { r with chunks := m.chunk :: r.chunks, refDigest := m.refDigest }
  let s := modRepair r s
  if r.chunks.length < chunkCount s r then s
  else
    let (bs, s) := readBlock r.region image r.block s
    endRepair r (repairResult (r.before.getD 0) (crc64 bs) r.refDigest) (crc64 bs) s

/-- REPAIR_DATA at the outlier; after the boundary of R + 1 the repair has failed (R193). -/
def execRepairData (now : Nat) (rx : Rx) (m : RepairDataMsg) (s : State) : Res :=
  onUnit (decide (rx.li < 96)) (deliverRx now rx (.repairData m) (fun s =>
    match s.digest.repairs.find? (isRepair m.region m.block s.lg.chip) with
    | none => s
    | some r =>
      if r.chunks.contains m.chunk || chunkCount s r ≤ m.chunk || s.tk.tick < r.tick then s
      else if r.tick < s.tk.tick then
        let (bs, s) := readBlock r.region (effOf s r.region).image r.block s
        endRepair r 2 (crc64 bs) s
      else
        let s := digestBefore r s
        match s.digest.repairs.find? (isRepair m.region m.block s.lg.chip) with
        | some r => takeChunk r m s
        | none => s) s)

/-- REPAIR_DONE at the bellwether (R196). -/
def execRepairDone (now : Nat) (rx : Rx) (m : RepairDoneMsg) (s : State) : Res :=
  onUnit (decide (rx.li < 96)) (deliverRx now rx (.repairDone m) (fun s =>
    match s.digest.repairs.find? (isRepair m.region m.block rx.src) with
    | some r => if s.tk.bellwether then raiseDiverged r m.result (dropRepair r s) else s
    | none => s) s)

/-- REPAIR_DEADLINE: the boundary of R + 1 passed without the end of a repair. -/
def execRepairDeadline (now region block outlier : Nat) (s : State) : Res :=
  let s := atTime now s
  .next (match s.digest.repairs.find? (isRepair region block outlier) with
  | none => s
  | some r =>
    if s.tk.tick ≤ r.tick then s
    else if outlier = s.lg.chip then
      let (bs, s) := readBlock r.region (effOf s r.region).image r.block s
      endRepair r 2 (crc64 bs) s
    else if s.tk.bellwether then raiseDiverged r 2 (dropRepair r s)
    else dropRepair r s)

/-- DIGEST_ABORT ends the module's part in the round. -/
def execDigestAbort (now : Nat) (rx : Rx) (round : Nat) (s : State) : Res :=
  onUnit (decide (rx.li < 96)) (deliverRx now rx (.digestAbort round) (fun s =>
    if s.digest.round = some round then
      pumpDense { s with digest := { s.digest with round := none, leaves := [], slices := 0, sliceImages := [], roots := [] } }
    else s) s)

end Sys2Proof.Machine
end

