-- ==== Sys2Proof/Machine/Embed.lean ====
section
/-! DEFINITION. Embedding look-ups (R74 to R80, R272), gradient hand-over (R273) and result posts (R274). -/

namespace Sys2Proof.Machine

/-! ## From index to row (R74) -/

def hashRow (d : Desc) (i : Nat) : Nat := (i * d.hashA + d.hashB) % 2 ^ 64 / 2 ^ (64 - Nat.log2 d.rowCount)

/-- component_row. -/
def componentRow (s : State) (c j : Nat) : Option Nat :=
  match getTable s c with
  | none => none
  | some t =>
    if t.desc.mode = 1 then some (hashRow t.desc j)
    else if j < t.desc.rowCount then some j else none

/-- How an index resolves: missing, invalid, or to one or two rows (table, row). -/
inductive Resolved where
  | missing
  | invalid
  | rows (l : List (Nat × Nat))
  deriving DecidableEq, Repr

def resolve (s : State) (t : Nat) (d : Desc) (i : Nat) : Resolved :=
  if i = 2 ^ 64 - 1 then .missing
  else if d.indexLimit ≠ 0 && d.indexLimit ≤ i then .invalid
  else match d.mode with
    | 0 => if d.rowCount ≤ i then .invalid else .rows [(t, i)]
    | 1 => .rows [(t, hashRow d i)]
    | _ =>
      match componentRow s d.compQ (i / d.compM), componentRow s d.compR (i % d.compM) with
      | some q, some r => .rows [(d.compQ, q), (d.compR, r)]
      | _, _ => .invalid

def resolvedRows : Resolved → List (Nat × Nat)
  | .rows l => l
  | _ => []

/-- A surviving row with its owner. -/
def uniqOf (s : State) (tick : Nat) (x : Nat × Nat) : Uniq :=
  match getTable s x.1 with
  | none => { chip := 0, die := 0, table := x.1, row := x.2, slot := 0 }
  | some t => match ownerAt s t.desc.ownerMap tick x.2 with
    | some (c, die, slot, _) => { chip := c, die, table := x.1, row := x.2, slot }
    | none => { chip := 0, die := 0, table := x.1, row := x.2, slot := 0 }

/-- Order of the unique list: owner chip, owner die, table, row (R77). -/
def uniqLe (a b : Uniq) : Bool :=
  a.chip < b.chip || (a.chip == b.chip && (a.die < b.die || (a.die == b.die && (a.table < b.table || (a.table == b.table && a.row ≤ b.row)))))

/-- Entries of the sort-unique working store (R77). -/
def sortUniqueStore : Nat := 262144

/-- Unique list and slot map of a batch's surviving rows, `room` entries of the store being left: rows beyond it are kept
apart, one by one (R77, R78). -/
def sortUnique (room : Nat) (es : List Uniq) : List Uniq × List Nat :=
  let inStore := es.take room
  let unique := (sortBy uniqLe inStore).dedup
  let slots := inStore.map fun e => unique.idxOf e
  let rest := es.drop room
  (unique ++ rest, slots ++ rest.zipIdx.map fun x => unique.length + x.2)

/-- Regroup a flat list by the sizes given. -/
def regroup {α : Type} : List Nat → List α → List (List α)
  | [], _ => []
  | n :: ns, l => l.take n :: regroup ns (l.drop n)

/-! ## Operand memory of the embedding engine -/

/-- An operand region in tile memory, device memory, or, through the region table, host memory (R272, R342): its fault, or
where it lies. One region is one access (log 62). -/
def operandEnd (s : State) (dev : Bool) (a n : Nat) (write : Bool) : Option TrapAt × End :=
  if !dev then (if tmemBytes < a + n then some (tcAddress, a) else none, .own a)
  else if a < hostBit then (if devOk s.mm a n then none else some (tcDecode, a), .dev a)
  else if n = 0 then (none, .host [])
  else (hostRowsFault s a 0 1 n write, .host (hostRows s a 0 1 n write))

/-- Read an operand region; the poisoned line met. -/
def endFetch (p : Nat) (e : End) (n : Nat) (s : State) : List Byte × Option Nat × State :=
  match e with
  | .own a => let (b, s) := tileRead p a n s; (b, none, s)
  | .dev a => (memRead s.mm a n, poisonIn s.mm a n, s)
  | .host ((_, true, _) :: _) => let (b, s) := freeBytes n s; (b, none, s)
  | .host ((_, false, a) :: _) => (memRead s.mm a n, poisonIn s.mm a n, s)
  | _ => ([], none, s)

/-- The tile memory that an operand region covers. -/
def endRgns (e : End) (n : Nat) : List Rgn := ownRgns e 1 n 0

/-- A whole number of 64-byte units. -/
def unit64 (n : Nat) : Nat := (n + 63) / 64 * 64

/-! ## Tags -/

def tagKind (t : Tile) : Option Nat := t.tag.map (·.kind)
def tagAbandoned (t : Tile) : Bool := match t.tag with
  | some g => g.abandoned || g.dropped
  | none => false

/-- The embedding queue of eight is full, or the token is busy. -/
def embStall (t : Tile) (f : Fields) : Bool := tokStall t f || 8 ≤ t.embs.length

def queueEmb (p : Nat) (x : EmbEnt) (s : State) : State :=
  modTile p (fun t =>
    let x := { x with order := t.order, dirty := x.reads.any (rgnUnseen t) }
    { t with
      order := t.order + 1
      embs := t.embs ++ [x]
      unseen := if x.writes.isEmpty then t.unseen else { order := x.order, tok := x.tok, rgns := x.writes } :: t.unseen }) s

def dropEmb (p i : Nat) (s : State) : State := modTile p (fun t => { t with embs := t.embs.eraseIdx i }) s

/-! ## emb.look (R76, R272) -/

/-- Consecutive offsets do not decrease, and differ by at most 65,535. -/
def offsetsOk : List Nat → Bool
  | a :: b :: t => decide (a ≤ b) && decide (b - a ≤ 65535) && offsetsOk (b :: t)
  | _ => true

/-- Vectors that a batch delivers: bags, or surviving indices with POOL NONE. -/
def resultCount (d : Desc) (bags survivors : Nat) : Nat := if d.poolMode = 2 then survivors else bags

/-- Bytes of a batch's results; with POOL NONE the 16-bit counts follow (R272). -/
def resultBytes (d : Desc) (bags survivors : Nat) : Nat :=
  resultCount d bags survivors * unit64 (elemBytes d.outFormat d.width) + (if d.poolMode = 2 then 2 * bags else 0)

/-- Indices that find the store full: those one of whose rows falls beyond its `room` (R78). -/
def overflowed : Nat → List (List Uniq) → Nat
  | _, [] => 0
  | room, r :: rs => (if room < r.length then 1 else 0) + overflowed (room - r.length) rs

/-- Resolve, sort and send a batch whose operands are sound. -/
def issueLook (p die table bags dst handle : Nat) (dstDev : Bool) (f : Fields) (d : Desc) (offsets idx : List Nat) (s : State) : State :=
  let t := getTile s p
  let serve := tagKind t == some kServe
  let (tick, leg, step) := tagFields t
  let res := idx.map (resolve s table d)
  let s := tableTally 0 table (res.countP (· == .missing)) s
  let s := tableTally 1 table (res.countP (· == .invalid)) s
  let rows := res.map resolvedRows
  let survivors := rows.countP fun r => !r.isEmpty
  match operandEnd s dstDev dst (resultBytes d bags survivors) true with
  | (some (c, a), _) => trapHere p c enEmbed a [] s
  | (none, place) =>
    let uniqs := rows.map fun r => r.map (uniqOf s tick)
    let es := uniqs.flatten
    let used := (getRu s die).suUsed
    let room := sortUniqueStore - used
    let s := tallyBy tlSuOverflow (overflowed room uniqs) s
    let s := modRu die (fun r => { r with suUsed := min sortUniqueStore (used + es.length) }) s
    let (unique, slots) := sortUnique room es
    let b : Batch := {
      id := s.ex.nextBatch, tile := p, die, table, handle, offsets, index := regroup (rows.map (·.length)) slots, unique
      place, tok := tokOf f, serve, tick, leg, step, fold := foldAt s table tick, ready := unique.isEmpty }
    let x : EmbEnt := {
      order := 0, op := .look b.id, step := if serve then none else some step, tick, tok := tokOf f, addr := t.pc, opcode := 0xC1
      reads := [], writes := endRgns place (resultBytes d bags survivors) }
    let s := bumpInFlight true place { s with ex := { s.ex with batches := s.ex.batches ++ [b], nextBatch := b.id + 1 } }
    let s := queueEmb p x s
    let s := if serve then s else modTile p (fun t => { t with handles := tabPut t.handles handle b.id }) s
    advance p (sendBatch b s)

/-- emb.look: issue a look-up batch (R272, R300). Under the tag of an abandoned step it completes at once (R280). -/
def execEmbLook (tile : Nat) (f : Fields) (s : State) : Res :=
  issue tile 0xC1 f (okLook f) (fun s =>
    let t := getTile s tile
    let gather := tagKind t == some kGather
    if embStall t f then s
    else if gather && tagAbandoned t then advance tile s
    else
      let bags := (readS t f.d).toNat
      let iBase := (readS t f.a).toNat
      let oBase := (readS t f.b).toNat
      let dst := (readS t f.c).toNat
      let table := immF f 20 12
      let iDev := immF f 3 1 == 1
      let oDev := immF f 2 1 == 1
      let dDev := immF f 1 1 == 1
      let handle := immF f 11 4
      let badBags := bags = 0 || 65536 < bags
      let (fo, oEnd) := operandEnd s oDev oBase (if badBags then 0 else 4 * (bags + 1)) false
      let fl : Option TrapAt := if gather || tagKind t == some kServe then none else some (tcLeg, 0)
      let busy := gather && (tabFind t.handles handle).isSome
      let fe : Option TrapAt := if badBags || busy || (getTable s table).isNone then some (tcExchange, 0) else none
      match firstTrap (if badBags then none else fo) (firstTrap fl fe) with
      | some (c, a) => trapHere tile c enEmbed a [] s
      | none =>
        let (ob, bad, s) := endFetch tile oEnd (4 * (bags + 1)) s
        match bad with
        | some line => trapHere tile tcParity enEmbed line [] s
        | none =>
          let offs := (List.range (bags + 1)).map fun i => leAt ob (4 * i) 4
          let lo := offs.headD 0
          let hi := offs.getLastD 0
          if !offsetsOk offs then trapHere tile tcExchange enEmbed 0 [] s
          else match operandEnd s iDev (iBase + 8 * lo) (8 * (hi - lo)) false with
            | (some (c, a), _) => trapHere tile c enEmbed a [] s
            | (none, iEnd) =>
              let (ib, bad, s) := endFetch tile iEnd (8 * (hi - lo)) s
              match bad, getTable s table with
              | some line, _ => trapHere tile tcParity enEmbed line [] s
              | none, some tb =>
                issueLook tile (immF f 9 2) table bags dst handle dDev f tb.desc (offs.map (· - lo))
                  ((List.range (hi - lo)).map fun i => leAt ib (8 * i) 8) s
              | none, none => s) s

/-! ## Pooling (R75, R79) -/

/-- A unique row decoded to FP32. -/
def uniqValues (s : State) (b : Batch) (slot : Nat) : List Word32 :=
  match b.unique[slot]? with
  | none => []
  | some u => match getTable s u.table, tabFind b.got slot with
    | some t, some g => decode32 t.desc.wFormat t.desc.width g.bytes
    | _, _ => []

def zipAdd (a b : List Word32) : List Word32 := (a.zip b).map fun p => add32 p.1 p.2
def zipMul (a b : List Word32) : List Word32 := (a.zip b).map fun p => mul32 p.1 p.2

/-- The row of an index position: itself, or the combination of two components (R75). -/
def positionRow (s : State) (b : Batch) (d : Desc) (slots : List Nat) : List Word32 :=
  match slots with
  | [q, r] =>
    let x := uniqValues s b q
    let y := uniqValues s b r
    match d.combine with
    | 0 => zipAdd x y
    | 1 => zipMul x y
    | _ => x ++ y
  | [u] => uniqValues s b u
  | _ => []

/-- The index positions of a bag. -/
def bagSlots (b : Batch) (i : Nat) : List (List Nat) :=
  (b.index.drop (b.offsets.getD i 0)).take (b.offsets.getD (i + 1) 0 - b.offsets.getD i 0)

/-- The pooled vector of a bag: summed left to right, and divided by the count for MEAN. -/
def poolBag (s : State) (b : Batch) (d : Desc) (i : Nat) : List Word32 :=
  let rows := ((bagSlots b i).filter fun x => !x.isEmpty).map (positionRow s b d)
  match rows with
  | [] => List.replicate d.width 0
  | h :: t =>
    let sum := t.foldl zipAdd h
    if d.poolMode = 1 then sum.map fun x => div32 x (rne32 (fpNat rows.length)) else sum

def outVector (d : Desc) (v : List Word32) : List Byte :=
  let bs := encodeRne d.outFormat v
  padTo (unit64 bs.length) bs

/-- The results of a batch as they land (R79, R272). -/
def batchResults (s : State) (b : Batch) (d : Desc) : List Byte :=
  let bags := b.offsets.length - 1
  if d.poolMode = 2 then
    let rows := (b.index.filter fun x => !x.isEmpty).map (positionRow s b d)
    rows.flatMap (outVector d) ++ (List.range bags).flatMap fun i => leBytes 2 ((bagSlots b i).countP fun x => !x.isEmpty)
  else (List.range bags).flatMap fun i => outVector d (poolBag s b d i)

/-- ROW_ZEROED and INDEX_DROPPED of the requests that the batch's leg claimed, on whichever tile, and whose bags the batch
looked up: bags of its table all of whose rows are among its own (R214, R219; log 61). -/
def markRequests (b : Batch) (d : Desc) (s : State) : State :=
  let zeroRows := (b.unique.zipIdx.filter fun u => match tabFind b.got u.2 with
    | some g => g.zeroed
    | none => false).map fun u => (u.1.table, u.1.row)
  let upd := fun (e : RingEnt) =>
    let bags := (e.bags.filter fun g => g.1 == b.table).map fun g => g.2.map (resolve s b.table d)
    let res := (bags.filter fun g => g.all fun r => (resolvedRows r).all fun x =>
      b.unique.any fun u => u.table == x.1 && u.row == x.2).flatten
    { e with
      zeroed := e.zeroed || res.any fun r => (resolvedRows r).any fun x => zeroRows.contains x
      dropped := e.dropped || res.any fun r => (resolvedRows r).isEmpty }
  let mine := fun (e : RingEnt) => match e.claimed with
    | some (leg, tick, _) => leg == b.leg && tick == b.tick
    | none => false
  { s with hq := { s.hq with entries := s.hq.entries.map fun e => if mine e then upd e else e } }

/-- Every result of a batch has been written: the token is free. -/
def finishLook (p i : Nat) (b : Batch) (d : Desc) (s : State) : State :=
  let bags := b.offsets.length - 1
  let empty := (List.range bags).countP fun k => (bagSlots b k).all (·.isEmpty)
  let s := if d.poolMode = 2 then s else tableTally 2 b.table empty s
  let s := bumpInFlight false b.place (moveWrite p b.place 0 0 (batchResults s b d) (dropEmb p i s))
  let s := if b.serve then markRequests b d s else s
  if b.serve then { s with ex := { s.ex with batches := s.ex.batches.filter fun x => x.id ≠ b.id } }
  else modBatch b.id (fun b => { b with written := true }) s

/-- EMB_LOOK_COMPLETE: every row of the batch has been returned and its results are written (R79, R145). -/
def execEmbLookComplete (tile batch : Nat) (s : State) : Res :=
  onUnit (decide (tile < 160)) (
    match (getTile s tile).embs.findIdx? (fun x => x.op == .look batch), s.ex.batches.find? (fun b => b.id == batch) with
    | some i, some b => match getTable s b.table with
      | some t => if b.ready then settleTile tile (finishLook tile i b t.desc s) else s
      | none => s
    | _, _ => s)

/-! ## emb.grad (R80, R273) -/

/-- Bytes of a batch's gradients from its base: the last one's padding is not read. -/
def gradBytes (d : Desc) (fmt count : Nat) : Nat :=
  let n := elemBytes fmt d.width
  if count = 0 then 0 else (count - 1) * unit64 n + n

def batchSurvivors (b : Batch) : Nat := b.index.countP fun x => !x.isEmpty

/-- emb.grad: hand over the gradients of a handle's batch (R273, R300). -/
def execEmbGrad (tile : Nat) (f : Fields) (s : State) : Res :=
  issue tile 0xC2 f (okGrad f) (fun s =>
    let t := getTile s tile
    let isReturn := tagKind t == some kReturn
    if embStall t f then s
    else if isReturn && tagAbandoned t then advance tile s
    else
      let base := (readS t f.a).toNat
      let dev := immF f 1 1 == 1
      let fmt := immF f 4 4
      let b := (tabFind t.handles (immF f 11 4)).bind fun id => s.ex.batches.find? fun b => b.id == id
      let sameStep := match b, t.tag with
        | some b, some g => b.step == g.step
        | _, _ => true
      let fl : Option TrapAt := if isReturn && sameStep then none else some (tcLeg, 0)
      match b with
      | none => trapHere tile (if isReturn then tcExchange else tcLeg) enEmbed 0 [] s
      | some b => match getTable s b.table with
        | none => s
        | some tb =>
          let n := gradBytes tb.desc fmt (resultCount tb.desc (b.offsets.length - 1) (batchSurvivors b))
          let fe : Option TrapAt := if b.usedBy then some (tcExchange, 0) else none
          let (fm, src) := operandEnd s dev base n false
          match firstTrap fm (firstTrap fl fe) with
          | some (c, a) => trapHere tile c enEmbed a [] s
          | none =>
            let (tick, _, step) := tagFields t
            let x : EmbEnt := {
              order := 0, op := .grad b.id src fmt, step := some step, tick, tok := tokOf f, addr := t.pc, opcode := 0xC2
              reads := endRgns src n, writes := [] }
            advance tile (queueEmb tile x (bumpInFlight true src (modBatch b.id (fun b => { b with usedBy := true }) s)))) s

/-- Send a row gradient of an index position: to its row, or split over two components (R75, R80). -/
def sendPosition (b : Batch) (d : Desc) (bf16 : Bool) (tick : Nat) (slots : List Nat) (g : List Word32) (s : State) : State :=
  let give := fun (slot : Nat) (bf : Bool) (v : List Word32) (s : State) => match b.unique[slot]? with
    | some u => sendGrad tick b.step u.table u.row bf v s
    | none => s
  match slots with
  | [q, r] =>
    match d.combine with
    | 0 => give r bf16 g (give q bf16 g s)
    | 1 => give r false (zipMul g (uniqValues s b q)) (give q false (zipMul g (uniqValues s b r)) s)
    | _ => give r bf16 (g.drop (d.width / 2)) (give q bf16 (g.take (d.width / 2)) s)
  | [u] => give u bf16 g s
  | _ => s

/-- Send every contribution of a batch's gradients. -/
def sendGradients (b : Batch) (d : Desc) (fmt tick : Nat) (bytes : List Byte) (s : State) : State :=
  let n := elemBytes fmt d.width
  let at_ := fun (i : Nat) => decodeElems (fmt == 2) ((bytes.drop (i * unit64 n)).take n)
  let bf16 := fmt == 2
  if d.poolMode = 2 then
    ((b.index.filter fun x => !x.isEmpty).zipIdx).foldl (fun s x => sendPosition b d bf16 tick x.1 (at_ x.2) s) s
  else
    (List.range (b.offsets.length - 1)).foldl (fun s i =>
      let slots := (bagSlots b i).filter fun x => !x.isEmpty
      let h := at_ i
      let mean := d.poolMode == 1
      let g := if mean then h.map fun x => div32 x (rne32 (fpNat slots.length)) else h
      slots.foldl (fun s x => sendPosition b d (bf16 && !mean) tick x g s) s) s

/-- Read a queued instruction's source. -/
def gradRead (p : Nat) (x : EmbEnt) (src : End) (n : Nat) (s : State) : List Byte × Option Nat × State :=
  match src with
  | .own a => if x.dirty then let (b, s) := freeBytes n s; (b, none, s) else (tmemBytesAt (getTile s p) a n, none, s)
  | e => endFetch p e n s

/-- EMB_GRAD_COMPLETE: every contribution has been handed to a row unit or a link interface (R273); a poisoned line traps
(R312). -/
def execEmbGradComplete (tile index : Nat) (s : State) : Res :=
  onUnit (decide (tile < 160)) (
    match (getTile s tile).embs[index]? with
    | some x => match x.op with
      | .grad id src fmt =>
        match s.ex.batches.find? fun b => b.id == id with
        | some b => match getTable s b.table with
          | some tb =>
            if !b.written then s
            else
              let n := gradBytes tb.desc fmt (resultCount tb.desc (b.offsets.length - 1) (batchSurvivors b))
              let (bytes, bad, s) := gradRead tile x src n s
              let s := bumpInFlight false src (dropEmb tile index s)
              settleTile tile (match bad with
                | some line => trapParity tile enEmbed x.addr x.opcode line s
                | none => sendGradients b tb.desc fmt x.tick bytes s)
          | none => s
        | none => s
      | _ => s
    | none => s)

/-! ## emb.post (R274) -/

/-- The position of a claim list has its reply. -/
def markAnswered (which : ClaimList → Bool) (position : Nat) (t : Tile) : Tile :=
  let done := fun (c : Claim) => if c.position = position then { c with answered := true } else c
  { t with claims := t.claims.map fun l => if which l then { l with claims := l.claims.map done } else l }

/-- emb.post: post a claim position's result, and write the reply (R215, R274). -/
def execEmbPost (now tile : Nat) (f : Fields) (s : State) : Res :=
  issue tile 0xC3 f (okPost f) (fun s =>
    let t := getTile s tile
    if embStall t f then s
    else
      let pos := (readS t f.a).toNat
      let base := (readS t f.b).toNat
      let dev := immF f 1 1 == 1
      let own := fun (l : ClaimList) => match t.tag with
        | some g => g.kind == kServe && l.leg == g.leg && l.tick == g.tick
        | none => false
      let claim := (t.claims.find? own).bind fun l => l.claims.find? fun c => c.position == pos && !c.answered
      let ent := claim.bind fun c => s.hq.entries.find? fun e => e.queue == c.queue && e.slot == c.slot
      match claim, ent.bind (fun e => (ringModel s (byteAt e.hdr 2)).map fun m => (e, m)) with
      | some c, some (e, m) =>
        let n := elemBytes m.outFormat m.outCount
        match operandEnd s dev base n false with
        | (some (k, a), _) => trapHere tile k enEmbed a [] s
        | (none, src) =>
          let (bytes, bad, s) := endFetch tile src n s
          match bad with
          | some line => trapHere tile tcParity enEmbed line [] s
          | none =>
            advance tile (answer 0 bytes e (modTile tile (markAnswered own c.position) s))
      | _, _ => trapHere tile tcLeg enEmbed 0 [] s) (atTime now s)

end Sys2Proof.Machine
end

