-- ==== Sys2Proof/Machine/FoldOps.lean ====
section
/-! DEFINITION. FOLD_LOAD_COMPLETE and FOLD_RELEASE (R197, R200, R202). -/

namespace Sys2Proof.Machine

/-! ## FOLD_RELEASE (R200) -/

/-- No queued, waiting or held operation of a table names the fold. -/
def foldUnnamed (s : State) (t fold : Nat) : Bool :=
  let named := fun (o : RowOp) => o.table == t && o.fold == fold
  s.ru.all fun r => !(r.2.queues.any (fun q => q.2.any named)) && !(r.2.input.any named) && !(r.2.heldMig.any named)

/-- No APPLY of a step begun before the tick remains. -/
def noApplyBefore (s : State) (tick : Nat) : Bool :=
  s.ru.all fun r => r.2.gens.all fun g => !(uncommitted s g && decide (g.tick < tick))

/-- No leg that started before the tick is still open: its look-ups and those of a SERVE leg above all (R224) use the old
fold. -/
def noLegBefore (s : State) (tick : Nat) : Bool := !(s.run.legs.any fun o => decide (o.tick < tick))

/-- A way of the set of slot `j` that holds an old-fold row is written back if dirty and invalidated. -/
def releaseWay (d : Desc) (die table fold j w : Nat) (s : State) : State :=
  let e := tagEntry s d die j w
  if tagValid e && tagFold e == fold then
    let slot := victimSlot d j e
    setTag d die j w 0 (demoteRow d die w { kind := .demote w none, table, row := 0, slot, cls := 2, tick := s.tk.tick, fold } s)
  else s

def releaseSet (d : Desc) (die table fold j : Nat) (s : State) : State :=
  match poisonIn s.mm (tagLine d die j) 128 with
  | some line => structPoison 3 line s
  | none => (List.range 16).foldl (fun s w => releaseWay d die table fold j w s) s

def releaseFold (t : Nat) (x : Table) (s : State) : State :=
  if x.desc.sLog2 = 0 then s
  else (List.range 4).foldl (fun s die =>
    (List.range (2 ^ x.desc.sLog2)).foldl (fun s j => releaseSet x.desc die t (1 - x.current) j s) s) s

/-- FOLD_RELEASE: once nothing names the old fold of a table, its ways are released and FOLD_SWITCHED is raised. The old
base of a tensor or region is released at its switch (R202). -/
def execFoldRelease (kind num : Nat) (s : State) : Res :=
  .next (match s.folds.releases.find? fun r => r.1.kind == kind && r.1.num == num, getTable s num with
  | some (t, tick), some x =>
    if foldUnnamed s num (1 - x.current) && noApplyBefore s tick && noLegBefore s tick then
      let s := releaseFold num x { s with folds := { s.folds with releases := s.folds.releases.erase (t, tick) } }
      raise evFoldSwitched sevInfo uModule (foldDetail t x.current tick (s.tk.tick - tick)) s
    else s
  | _, _ => s)

/-! ## FOLD_LOAD_COMPLETE (R197, R202) -/

/-- A record that INIT writes. -/
def initRecord (d : Desc) : List Byte := putAt (List.replicate (recordBytes d) 0) 2 [BitVec.ofNat 8 d.flock]

/-- A record that COPY writes from a source record; `bad` when it is to be POISONED. -/
def copiedRecord (d : Desc) (age : Nat) (bad : Bool) (rec_ : List Byte) : List Byte :=
  let flags := setFlag (recFlags rec_) 1 false
  let rec_ := putAt (putAt (putAt rec_ 1 [if bad then setFlag flags 0 true else flags]) 3 [0]) 12 (leBytes 2 age)
  withEpoch d (recEpoch rec_) rec_

/-- Write one slot of the non-current fold; the count of poisoned rows so far. -/
def loadSlotRow (j : FoldJob) (x : Table) (die i : Nat) (acc : Nat × State) : Nat × State :=
  let s := acc.2
  let dst := pastureAddr x.desc (1 - x.current) die i
  if j.kept.any fun a => dst ≤ a && decide (a < dst + recordBytes x.desc) then acc
  else if j.init then (acc.1, putMem dst (initRecord x.desc) s)
  else
    let src := j.words.getD die 0 + i * recordBytes x.desc
    let rec_ := memRead s.mm src (recordBytes x.desc)
    let lost := (poisonIn s.mm src (recordBytes x.desc)).isSome
    let torn := !lost && recEpoch rec_ != recTrailer x.desc rec_
    let new := copiedRecord x.desc (getRu s die).age (lost || torn) rec_
    let s := if torn then tally tlFoldTorn s else s
    (if recPoisoned new then acc.1 + 1 else acc.1, putMem dst new s)

def loadDie (j : FoldJob) (x : Table) (acc : Nat × State) (die : Nat) : Nat × State :=
  (List.range (x.desc.localRows.getD die 0)).foldl (fun acc i => loadSlotRow j x die i acc) acc

def jobDies (j : FoldJob) : List Nat := (List.range 4).filter fun d => j.dieMask.getLsbD d

/-- Copy `n` bytes; a poisoned source line poisons the lines it fills. -/
def copySpan (src dst n : Nat) (s : State) : State :=
  let bad := (linesOf dst n).filter fun l => (poisonIn s.mm (src + (l * 64 - dst)) (min 64 (dst + n - l * 64))).isSome
  let s := putMem dst (memRead s.mm src n) s
  { s with mm := bad.foldl memPoison s.mm }

/-- Image 0 of a new base, and on a root state image 0, each whole with its padding: the bytes written. -/
def loadImages (j : FoldJob) (bytes state : Nat) (s : State) : Nat × State :=
  let w := fun i => j.words.getD i 0
  let put := fun (src dst n : Nat) (s : State) => if j.init then memZero dst n s else copySpan src dst n s
  let s := put (w 0) (w 1) bytes s
  let s := if state = 0 then s else put (w 2) (w 3) state s
  let region := targetRegion j.target
  (bytes + state, { s with folds := { s.folds with
    loaded := tabPut s.folds.loaded region { base := w 1, stateBase := if state = 0 then 0 else w 3 } } })

/-- What a fold load has written when it completes: rows or bytes, and rows poisoned. -/
def runFoldLoad (j : FoldJob) (s : State) : (Nat × Nat) × State :=
  match j.target.kind with
  | 0 => (match getTable s j.target.num with
    | some x =>
      let dies := jobDies j
      let (bad, s) := dies.foldl (loadDie j x) (0, s)
      (((dies.map fun d => x.desc.localRows.getD d 0).sum, bad),
        { s with tb := { s.tb with tables := tabPut s.tb.tables j.target.num { x with foldLoaded := true } } })
    | none => ((0, 0), s))
  | 1 => (match tensorOf s j.target.num with
    | some t =>
      let (n, s) := loadImages j (imgBytes t.wFormat t.elements) (if rootsTensor s t then stateBytes s t else 0) s
      ((n, 0), s)
    | none => ((0, 0), s))
  | _ =>
    let (n, s) := loadImages j ((s.job.header.regions[j.target.num]?).elim 0 (·.bytes)) 0 s
    ((n, 0), s)

/-- FOLD_LOAD_COMPLETE: the load that has started on the target has written every slot, and its command completes. -/
def execFoldLoadComplete (target num : Nat) (s : State) : Res :=
  .next (match s.folds.loading.find? fun j => j.target.kind == target && j.target.num == num with
  | some j =>
    let s := { s with folds := { s.folds with loading := s.folds.loading.erase j } }
    let ((n, bad), s) := runFoldLoad j s
    finishStarted { slot := j.slot, tag := j.tag, opcode := 0x0023 } 0 [(0, n), (1, bad)] s
  | none => s)

end Sys2Proof.Machine
end

