-- ==== Sys2Proof/Machine/Matrix.lean ====
section
/-! DEFINITION. The matrix engines (R226 to R243, R296 to R298). -/

namespace Sys2Proof.Machine

/-! ## Output tiles (R240) -/

def accGet (t : Tile) (n i : Nat) : Word32 := tabGet 0 t.acc (1024 * n + i)

def accSet (n : Nat) : List (Nat × Word32) → Tab Word32 → Tab Word32
  | [], m => m
  | (i, v) :: r, m => accSet n r (tabSet 0 m (1024 * n + i) v)

def accClear (n : Nat) (m : Tab Word32) : Tab Word32 := m.filter fun e => e.1 / 1024 ≠ n

/-! ## Products and group sums (R233 to R236) -/

/-- A stored operand row: element values, scale codes per group (127 without scales). -/
structure OpRow where
  vals : List Fp
  scales : List Nat
  deriving DecidableEq, Repr

def opRow (fmt k : Nat) (bs : List Byte) : OpRow :=
  { vals := (List.range k).map fun i => elemValue fmt (elemCode fmt bs i)
    scales := (List.range (k / 32)).map fun g => if codeScaled fmt then byteAt bs (elemBytes fmt k + g) else 127 }

/-- Round to E8M11: twelve significant bits, nearest even; zero is +0 (R233). -/
def rn12 : Fp → Fp
  | .fin n m e =>
    if m = 0 then .fin false 0 0
    else
      let q : Int := (Nat.log2 m : Int) + e - 11
      .fin n (roundUnits 0 0 m e q).1 q
  | x => x

/-- Neighbours combined, five levels: the balanced tree over 32 positions (R234). -/
def pairWith {α : Type} (g : α → α → α) : List α → List α
  | a :: b :: t => g a b :: pairWith g t
  | l => l

def treeWith {α : Type} (g : α → α → α) : Nat → List α → List α
  | 0, l => l
  | n + 1, l => treeWith g n (pairWith g l)

/-- A narrow product: exact; with an operand of zero, +0 (R234). -/
def narrowProduct (a b : Fp) : Fp :=
  match fpMul a b with
  | .fin n m e => if m = 0 then .fin false 0 0 else .fin n m e
  | x => x

def narrowSum (a b : List Fp) : Fp :=
  (treeWith (fun x y => rn12 (fpAdd x y)) 5 ((a.zip b).map fun x => narrowProduct x.1 x.2)).headD .nan

/-- FP32 rounding of a value with operands' flags: a NaN from no NaN is invalid (R61). -/
def wideRound (anyNan : Bool) (x : Fp) : Nat × FpFlags :=
  let (c, fl) := fpRound fmtFp32 0 0 x
  (c, fl ||| (if fpIsNan x && !anyNan then flInvalid else 0))

def wideProduct (a b : Fp) : Nat × FpFlags := wideRound (fpIsNan a || fpIsNan b) (fpMul a b)

def wideSum (a b : List Fp) : Nat × FpFlags :=
  (treeWith (fun x y =>
    let r := fpOp2 fmtFp32 fpAdd x.1 y.1
    (r.1, r.2 ||| x.2 ||| y.2)) 5 ((a.zip b).map fun x => wideProduct x.1 x.2)).headD (0, 0)

/-- The pair takes the narrow path (R63, R227). -/
def narrowPath (fa fb : Nat) : Bool := 3 ≤ fa && fb ≠ 2

/-- Group g of a row and a column, promoted into C (R235, R236): the new element, the flags, whether an operand was NaN. -/
def promote (narrow : Bool) (a b : OpRow) (g : Nat) (c : Word32) : Word32 × FpFlags × Bool :=
  let as := (a.vals.drop (32 * g)).take 32
  let bs := (b.vals.drop (32 * g)).take 32
  let sa := a.scales.getD g 127
  let sb := b.scales.getD g 127
  let srcNan := sa = 255 || sb = 255 || as.any fpIsNan || bs.any fpIsNan
  let (sum, fl) := if narrow then (narrowSum as bs, (0 : FpFlags))
    else
      let r := wideSum as bs
      (fpDecode fmtFp32 r.1, r.2)
  let v := if sa = 255 || sb = 255 then (fmtNan fmtFp32, flNan)
    else fpRound fmtFp32 0 0 (scaleBy ((sa : Int) + sb - 254) sum)
  let r := fpOp2 fmtFp32 fpAdd c.toNat v.1
  (BitVec.ofNat 32 r.1, fl ||| v.2 ||| r.2, srcNan)

/-- One output element over the groups from g on, n of them (R231): its value, flags, and the first NaN it becomes. -/
def mmaElem (narrow : Bool) (a b : OpRow) : Nat → Nat → Word32 → Word32 × FpFlags × Option Bool
  | 0, _, c => (c, 0, none)
  | n + 1, g, c =>
    let (c', fl, src) := promote narrow a b g c
    let (r, fl', nan) := mmaElem narrow a b n (g + 1) c'
    (r, fl ||| fl', if isNan32 c' && !isNan32 c then some src else nan)

/-- Flags of the matrix path: never inexact (R237). -/
def matrixFlags (fl : FpFlags) : FpFlags := fl &&& ~~~flInexact

/-! ## Issue -/

/-- Put an instruction in an engine's queue; it names a token, and what it writes is unseen until awaited. -/
def queueEngine (p e : Nat) (x : EngEnt) (s : State) : State :=
  noteStagger p e <| modTile p (fun t =>
    let x := { x with order := t.order, dirty := x.reads.any (rgnUnseen t) }
    { t with
      order := t.order + 1
      engines := tabSet [] t.engines e (tabGet [] t.engines e ++ [x])
      unseen := if x.writes.isEmpty then t.unseen else { order := x.order, tok := x.tok, rgns := x.writes } :: t.unseen }) s

/-- The engine's queue of four is full, or the token is busy: issue stalls (R226, R265). -/
def engineStall (t : Tile) (f : Fields) : Bool := tokStall t f || 4 ≤ (tabGet [] t.engines (immF f 20 4)).length

def mEngine (f : Fields) : Nat := immF f 20 4
def mAcc (f : Fields) : Nat := immF f 24 8

/-- mma: C ← C + A × Bᵀ, with ZERO from +0 (R231, R297). -/
def execMma (tile : Nat) (zero : Bool) (f : Fields) (s : State) : Res :=
  let op := if zero then 0x82 else 0x81
  issue tile op f (okMma f) (fun s =>
    let t := getTile s tile
    if engineStall t f then s
    else
      let k := 32 * (immF f 8 7 + 1)
      let fa := immF f 4 4
      let fb := immF f 0 4
      let da := readS t f.a
      let db := readS t f.b
      let bad := match descFault da (storedBytes fa k), descFault db (storedBytes fb k) with
        | some x, some y => some (if y.1 < x.1 then y else x)
        | some x, none => some x
        | none, y => y
      match bad with
      | some (c, a) => trapHere tile c (mEngine f) a [] s
      | none =>
        advance tile (queueEngine tile (mEngine f)
          { order := 0, acc := mAcc f
            op := .mma zero fa fb (immF f 8 7 + 1) (descBase da) (descStride da) (descBase db) (descStride db)
            tok := tokOf f, addr := t.pc, opcode := op
            reads := [descRgn da (storedBytes fa k), descRgn db (storedBytes fb k)], writes := [] } s)) s

/-- drain: read an output tile, fuse, convert, write 32 rows (R241, R298). -/
def execDrain (tile : Nat) (f : Fields) (s : State) : Res :=
  issue tile 0x83 f (okDrain f) (fun s =>
    let t := getTile s tile
    if engineStall t f then s
    else
      let fuse := immF f 13 2
      let tfmt := immF f 11 2
      let target := immF f 4 4
      let dd := readS t f.a
      let dt := readS t f.b
      let bad := match descFault dd (storedBytes target 32), (if fuse = 0 then none else descFault dt (storedBytes tfmt 32)) with
        | some x, some y => some (if y.1 < x.1 then y else x)
        | some x, none => some x
        | none, y => y
      match bad with
      | some (c, a) => trapHere tile c (mEngine f) a [] s
      | none =>
        advance tile (queueEngine tile (mEngine f)
          { order := 0, acc := mAcc f
            op := .drain (descBase dd) (descStride dd) fuse (descBase dt) (descStride dt) tfmt (immF f 9 2) (immF f 8 1 == 1) target
              (readS t f.c)
            tok := tokOf f, addr := t.pc, opcode := 0x83
            reads := if fuse = 0 then [] else [descRgn dt (storedBytes tfmt 32)]
            writes := [descRgn dd (storedBytes target 32)] } s)) s

/-! ## Completion -/

/-- The instruction at the head of an engine's queue, once its stagger is over and every earlier instruction on its output
tile has completed (R232, R244). -/
def engineHead (s : State) (p e : Nat) : Option EngEnt :=
  let t := getTile s p
  match tabGet [] t.engines e with
  | [] => none
  | x :: _ =>
    if staggered s.now e t || accBehind t x then none else some x

def popEngine (p e : Nat) (s : State) : State :=
  openGate (staggerGate p e) <| modTile p (fun t => { t with
    engines := tabSet [] t.engines e ((tabGet [] t.engines e).drop 1), stagger := tabDel t.stagger e }) s

/-- Free words. -/
def freeWords32 (n : Nat) (s : State) : List Word32 × State :=
  ((List.range n).map (fun i => (Config.freeWord (s.freeCtr + i)).setWidth 32), { s with freeCtr := s.freeCtr + n })

/-- The effect of a matrix instruction on its output tile (R231, R237). -/
def runMma (p e : Nat) (x : EngEnt) (zero : Bool) (fa fb kg aBase aStride bBase bStride : Nat) (s : State) : State :=
  if x.dirty then
    let (ws, s) := freeWords32 1024 s
    modTile p (fun t => { t with acc := accSet x.acc (ws.zipIdx.map fun w => (w.2, w.1)) t.acc }) s
  else
    let t := getTile s p
    let k := 32 * kg
    let rows := fun (fmt base stride : Nat) => (List.range 32).map fun i =>
      opRow fmt k (tmemBytesAt t (base + i * stride) (storedBytes fmt k))
    let as := rows fa aBase aStride
    let bs := rows fb bBase bStride
    let narrow := narrowPath fa fb
    let out := (as.zipIdx.map fun a => bs.zipIdx.map fun b =>
      let i := 32 * a.2 + b.2
      (i, mmaElem narrow a.1 b.1 kg 0 (if zero then 0 else accGet t x.acc i))).flatten
    let fl := out.foldl (fun a r => a ||| r.2.2.1) 0
    let nans := out.filterMap fun r => r.2.2.2.map fun src => (r.1, src)
    let s := modTile p (fun t => { t with
      acc := accSet x.acc (out.map fun r => (r.1, r.2.1)) t.acc, vflags := t.vflags ||| matrixFlags fl }) s
    noteNans p e x.addr x.opcode 0 x.acc nans s

/-- mma completes: its token is released (R227). -/
def execMmaComplete (tile engine : Nat) (s : State) : Res :=
  onUnit (decide (tile < 160) && decide (engine < 16))
    (match engineHead s tile engine with
     | some x => match x.op with
       | .mma zero fa fb kg aBase aStride bBase bStride =>
         settleTile tile (runMma tile engine x zero fa fb kg aBase aStride bBase bStride (popEngine tile engine s))
       | .drain _ _ _ _ _ _ _ _ _ _ => s
     | none => s)

/-- An element of a drain before conversion, with its flags (R241): invalid only from ∞ − ∞ (R237). -/
def drainElem (fuse tfmt : Nat) (c : Word32) (tcode : Nat) : Nat × FpFlags :=
  if fuse = 0 then (c.toNat, 0)
  else
    let tv := convRes (codeFmt tfmt) fmtFp32 0 0 tcode
    if fuse = 1 then fpOp2 fmtFp32 fpAdd c.toNat tv.code
    else
      let r := fpOp2 fmtFp32 fpMul c.toNat tv.code
      (r.1, r.2 &&& ~~~flInvalid)

/-- One row of a drain: stored bytes, flags, NaN results (R241 to R243). -/
def drainRow (t : Tile) (step acc fuse tBase tStride tfmt rm target : Nat) (key : Word64) (i : Nat) :
    List Byte × FpFlags × List NanAt :=
  let tb := tmemBytesAt t (tBase + i * tStride) (storedBytes tfmt 32)
  let ys := (List.range 32).map fun j => drainElem fuse tfmt (accGet t acc (32 * i + j)) (elemCode tfmt tb j)
  let draw := fun j => srDraw step ((key.toNat + 32 * i + j) % 2 ^ 64)
  let (bs, cs, fl) := encodeStaged target rm draw (ys.map fun y => fpDecode fmtFp32 y.1)
  let nans := (List.range 32).filterMap fun j =>
    if fpIsNan (elemValue target (cs.getD j 0)) then
      some (32 * i + j, isNan32 (accGet t acc (32 * i + j)) || (fuse ≠ 0 && fpIsNan (elemValue tfmt (elemCode tfmt tb j))))
    else none
  (bs, ys.foldl (fun a y => a ||| y.2) fl, nans)

/-- The effect of a drain: its rows, its flags, CLEAR. -/
def runDrain (p e : Nat) (x : EngEnt) (dBase dStride fuse tBase tStride tfmt rm : Nat) (clear : Bool) (target : Nat)
    (key : Word64) (s : State) : State :=
  let t := getTile s p
  let clr := fun (t : Tile) => if clear then { t with acc := accClear x.acc t.acc } else t
  let put := fun (rows : List (List Byte)) (s : State) =>
    modTile p (fun t => { soil x.writes t with
      tmem := rows.zipIdx.foldl (fun m r => putTmem m (dBase + r.2 * dStride) r.1) t.tmem }) s
  if x.dirty then
    let (bs, s) := freeBytes (32 * storedBytes target 32) s
    modTile p clr (put ((List.range 32).map fun i => (bs.drop (i * storedBytes target 32)).take (storedBytes target 32)) s)
  else
    let rows := (List.range 32).map (drainRow t s.tk.step x.acc fuse tBase tStride tfmt rm target key)
    let fl := rows.foldl (fun a r => a ||| r.2.1) 0
    let s := orFlags p (matrixFlags fl) (modTile p clr (put (rows.map (·.1)) s))
    noteNans p e x.addr x.opcode target x.acc (rows.map fun r => r.2.2).flatten s

/-- drain completes: its token is released (R241). -/
def execDrainComplete (tile engine : Nat) (s : State) : Res :=
  onUnit (decide (tile < 160) && decide (engine < 16))
    (match engineHead s tile engine with
     | some x => match x.op with
       | .drain dBase dStride fuse tBase tStride tfmt rm clear target key =>
         settleTile tile
           (runDrain tile engine x dBase dStride fuse tBase tStride tfmt rm clear target key (popEngine tile engine s))
       | .mma _ _ _ _ _ _ _ _ => s
     | none => s)

end Sys2Proof.Machine
end

