-- ==== Sys2Proof/Machine/Recv.lean ====
section
/-! DEFINITION. The exchange's carriages as they arrive: IDX, ROW, GRAD, DENSE, ACCEPT and BULK (R142 to R159), and carriages
in transit (R174, R175). -/

namespace Sys2Proof.Machine

/-! ## Whom a row belongs to (R139, R158, R159) -/

/-- What this module does with an entry for a row: serve it, forward it to a position's new owner, or drop it. -/
inductive Duty where
  | here (die slot : Nat)
  | forward (chip : Nat)
  | misrouted
  deriving DecidableEq, Repr

/-- The handover that moved a row's position away from this module and still forwards: until tick N + 16. -/
def forwarding (s : State) (m k tick : Nat) : Bool :=
  s.handovers.any fun h => h.map == m && h.pos == k && h.oldChip == s.lg.chip && (match h.switchTick with
    | some n => n ≤ tick && s.tk.tick < n + 16
    | none => false)

def dutyOf (s : State) (table row tick : Nat) : Duty :=
  match getTable s table with
  | none => .misrouted
  | some t =>
    if t.desc.rowCount ≤ row then .misrouted
    else match ownerAt s t.desc.ownerMap tick row with
      | none => .misrouted
      | some (chip, die, slot, k) =>
        if chip = s.lg.chip then .here die slot
        else if forwarding s t.desc.ownerMap k tick then .forward chip
        else .misrouted

/-- Forward a carriage unchanged but for what belongs to one hop; a fourth link discards it (R159, R170). -/
def forwardOn (rx : Rx) (dest : Nat) (body : Body) (s : State) : State :=
  if 2 ≤ rx.hops then tally tlRouteHops s
  else route { cls := rx.cls, hops := rx.hops + 1, loc := false, dest, lg := 0, src := rx.src, body } none s

/-! ## IDX (R144) -/

/-- Neighbouring entries with the same duty, with the first one's sequence number. -/
def dutyRuns (s : State) (tick : Nat) : Nat → List IdxEntry → List (Duty × Nat × List IdxEntry)
  | _, [] => []
  | seq, e :: es =>
    let d := dutyOf s e.table e.row tick
    match dutyRuns s tick (seq + 1) es with
    | (.forward c, n, l) :: rest => if d = .forward c then (d, seq, e :: l) :: rest else (d, seq, [e]) :: (.forward c, n, l) :: rest
    | rest => (d, seq, [e]) :: rest

def takeRun (rx : Rx) (m : IdxMsg) (tick : Nat) (s : State) (r : Duty × Nat × List IdxEntry) : State :=
  match r.1 with
  | .forward chip => forwardOn rx chip (.idx { m with firstSeq := r.2.1, entries := r.2.2 }) s
  | .misrouted => s
  | .here die slot => match r.2.2 with
    | e :: _ =>
      enqueueOp die { readOp s (rx.cls == 1) tick m.leg e.table e.row slot with src := rx.src, seq := r.2.1 } s
    | [] => s

def isForward (d : Duty) : Bool := match d with
  | .forward _ => true
  | _ => false

/-- A carriage that is forwarded, or dropped, in whole or in part counts once (R159). -/
def countDuties (ds : List Duty) (s : State) : State :=
  let s := if ds.any isForward then tally tlExchForwarded s else s
  if ds.contains .misrouted then tally tlExchMisrouted s else s

/-- IDX_RECEIVE: each entry becomes a LOOKUP or a SERVE_READ in its home queue (R144), or goes on to the row's new owner
(R159; log 29). -/
def execIdxReceive (now : Nat) (rx : Rx) (m : IdxMsg) (s : State) : Res :=
  onUnit (decide (rx.li < 96)) (deliverRx now rx (.idx m) (fun s =>
    let tick := expandTick s m.tick16
    let runs := dutyRuns s tick m.firstSeq m.entries
    runs.foldl (takeRun rx m tick) (countDuties (runs.map (·.1)) s)) s)

/-! ## ROW (R145) -/

/-- ROW_SEND: the open carriages for a chip whose 64 cycles are over are sent. -/
def execRowSend (now dest : Nat) (s : State) : Res :=
  let s := atTime now s
  .next (([0, 1] : List Nat).foldl (fun s cls =>
    match s.ex.openRows.find? (isOpenFor dest cls) with
    | some r => if windowOver s.now r.startNs then flushRow dest cls s else s
    | none => s) s)

/-- The reply that a sequence number from a chip answers: its own request, or one that an old owner forwarded (log 29). -/
def findReply (s : State) (t16 leg chip seq : Nat) : Option Reply :=
  let hit := fun (c : Nat) (r : Reply) => r.tick16 == t16 && r.leg == leg && r.seq == seq && r.chip == c
  match s.ex.replies.find? (hit chip) with
  | some r => some r
  | none => (s.handovers.filter fun h => h.newChip == chip).findSome? fun h => s.ex.replies.find? (hit h.oldChip)

/-- Take row `j` of a ROW carriage; false when its sequence number is not awaited. -/
def takeRow (src : Nat) (m : RowMsg) (j : Nat) (s : State) : Bool × State :=
  match findReply s m.tick16 m.leg src (m.firstSeq + j) with
  | none => (false, s)
  | some r =>
    match (s.ex.batches.find? fun b => b.id == r.batch).bind fun b => b.unique[r.slot]? with
    | none => (true, { s with ex := { s.ex with replies := s.ex.replies.erase r } })
    | some u =>
      let w := tableWidthBytes s u.table
      let st := rowStride w
      let z := m.zeroed.getLsbD j
      let s := if 256 < st then gotRow r.batch r.slot m.part (m.payload.take (w - 256 * m.part)) z s
        else gotWhole r.batch r.slot ((m.payload.drop (j * st)).take w) z s
      let whole := match (s.ex.batches.find? fun b => b.id == r.batch).bind fun b => tabFind b.got r.slot with
        | some g => g.parts == 0
        | none => true
      (true, if whole then { s with ex := { s.ex with replies := s.ex.replies.erase r } } else s)

/-- The chip whose carriage a leg was blocked on after its deadline (R35). -/
def noteRemote (leg tick src : Nat) (s : State) : State :=
  modOcc leg tick (fun o => if o.deadline < s.now then { o with remote := some src } else o) s

/-- A carriage whose leg is not open: it answers nothing, but its entries leave their window. -/
def dropReplies (src : Nat) (m : RowMsg) (s : State) : State :=
  (List.range m.rows).foldl (fun s j => match findReply s m.tick16 m.leg src (m.firstSeq + j) with
    | some r => { s with ex := { s.ex with replies := s.ex.replies.erase r } }
    | none => s) s

/-- ROW_RECEIVE: rows answer their sequence numbers; a stale carriage is discarded and counted (R145). On a halted module the
look-ups in flight go on to their end (R408). -/
def execRowReceive (now : Nat) (rx : Rx) (m : RowMsg) (s : State) : Res :=
  onUnit (decide (rx.li < 96)) (deliverRx now rx (.row m) (fun s =>
    let tick := expandTick s m.tick16
    if (legOcc s m.leg tick).isNone && s.tk.state != 4 then releaseWindows (dropReplies rx.src m (tally tlRowStale s))
    else
      let s := noteRemote m.leg tick rx.src s
      let (stale, s) := (List.range m.rows).foldl (fun (acc : Bool × State) j =>
        let (ok, s) := takeRow rx.src m j acc.2
        (acc.1 || !ok, s)) (false, s)
      releaseWindows (if stale then tally tlRowStale s else s)) s)

/-! ## GRAD (R149) -/

/-- GRAD_RECEIVE: the contribution enters its row's home queue, which accepts it (R149); whether it is stale shows when it
starts (R102). -/
def execGradReceive (now : Nat) (rx : Rx) (m : GradMsg) (s : State) : Res :=
  onUnit (decide (rx.li < 96)) (deliverRx now rx (.grad m) (fun s =>
    let tick := expandTick s m.tick16
    match dutyOf s m.table m.row tick with
    | .forward chip => forwardOn rx chip (.grad m) (tally tlExchForwarded s)
    | .misrouted => tally tlExchMisrouted s
    | .here die slot =>
      let first := gradPartLen m.bf16 * m.part
      let width := (getTable s m.table).elim 0 (·.desc.width)
      let elems := (decodeElems m.bf16 m.payload).take (width - first)
      enqueueOp die (accOp rx.src (expandStep s m.step32) tick m.table m.row slot first elems) s) s)

/-! ## DENSE (R150, R151) -/

/-- DENSE_RECEIVE: into staging, or down the all-gather (R150, R151). -/
def execDenseReceive (now : Nat) (rx : Rx) (lg : Nat) (m : DenseMsg) (s : State) : Res :=
  onUnit (decide (rx.li < 96) && decide (lg < 12)) (deliverRx now rx (.dense m) (fun s =>
    let tick := expandTick s m.tick16
    let s := noteRemote (returnLeg s tick) tick rx.src s
    pumpDense (if m.kind = 2 then takeGather rx.src lg m s else takeDense rx.src lg m s)) s)

/-! ## ACCEPT (R149) -/

/-- ACCEPT_SEND: the cumulative counts that have grown go to their sources. -/
def execAcceptSend (now : Nat) (s : State) : Res :=
  let s := atTime now s
  .next ((s.ex.gotCnt.filter fun c => countOf s.ex.toldCnt c.1 c.2.1 < c.2.2).foldl (fun s c =>
    originate 3 c.1 0 (.accept c.2.1 (returnLeg s (expandTick s c.2.1)) c.2.2)
      { s with ex := { s.ex with toldCnt := countSet s.ex.toldCnt c.1 c.2.1 c.2.2 } }) s)

/-- ACCEPT: the count of what a destination has accepted; windows open (R147, R149). -/
def execAccept (now : Nat) (rx : Rx) (tick16 leg count : Nat) (s : State) : Res :=
  onUnit (decide (rx.li < 96)) (deliverRx now rx (.accept tick16 leg count) (fun s =>
    releaseWindows { s with ex := { s.ex with
      accCnt := countSet s.ex.accCnt rx.src tick16 (max count (countOf s.ex.accCnt rx.src tick16)) } }) s)

/-! ## BULK (R157, R168) -/

/-- Write one chunk of a record of a position that comes to this module: into pasture, HOT clear. -/
def writeChunk (src : Nat) (m : BulkMsg) (s : State) : State :=
  match getTable s m.table with
  | none => s
  | some t =>
    match s.handovers.find? fun h => h.map == t.desc.ownerMap && h.newChip == s.lg.chip && h.oldChip == src && h.newBase ≤ m.slot && !h.released with
    | none => s
    | some h =>
      let bs := if m.chunk = 0 then putAt m.payload 1 [setFlag (recFlags m.payload) 1 false] else m.payload
      putMem (pastureAddr t.desc t.current h.newDie m.slot + 256 * m.chunk) bs s

/-- Apply the carriages of a source that are next in BSEQ order. -/
def bulkFuel (src : Nat) : Nat → State → State
  | 0, s => s
  | n + 1, s =>
    let want := tabGet 0 s.bulk.nextIn src
    match s.bulk.early.find? fun e => e.1 == src && e.2.bseq == want with
    | none => s
    | some (_, m) =>
      let s := { s with bulk := { s.bulk with
        nextIn := tabSet 0 s.bulk.nextIn src (want + 1)
        early := s.bulk.early.filter fun e => !(e.1 == src && e.2.bseq == want) } }
      bulkFuel src n (writeChunk src m s)

/-- BULK_RECEIVE: chunks apply in BSEQ order; one that is early waits (R157, R168). -/
def execBulkReceive (now : Nat) (rx : Rx) (m : BulkMsg) (s : State) : Res :=
  onUnit (decide (rx.li < 96)) (deliverRx now rx (.bulk m) (fun s =>
    let s := { s with bulk := { s.bulk with early := s.bulk.early ++ [(rx.src, m)] } }
    bulkFuel rx.src s.bulk.early.length s) s)

/-! ## Transit (R174, R175) -/

/-- The stomped copy on the egress link. -/
def stompEgress (c : Carriage) (s : State) : State :=
  match nextHop s c.src c.dest c.cls with
  | some li => sendStomped li c s
  | none => s

/-- The unit that finds a parity error at an XD crossing: the egress link interface. -/
def egressUnit (s : State) (c : Carriage) (li : Nat) : UnitId := uLi ((nextHop s c.src c.dest c.cls).getD li)

/-- A carriage received in order for another chip. -/
def passOn (rx : Rx) (c : Carriage) (p : Nat) (crossing : Crossing) (s : State) : State :=
  if 2 ≤ rx.hops then freeBuffer rx.li p (tally tlRouteHops s)
  else match crossing with
    | .parity n =>
      let u := egressUnit s c rx.li
      let s := (List.range n).foldl (fun s _ => stompEgress c s) s
      if n < 3 then route c (some (rx.li, p)) (parityPassed u (uLi rx.li) 0 5 n s)
      else parityPathFault u (uLi rx.li) 0 5 (freeBuffer rx.li p s)
    | _ => route c (some (rx.li, p)) s

/-- TRANSIT_CARRIAGE: forward on the next hop (R174); a bad ingress CRC or parity stomps the egress copy (R175). -/
def execTransitCarriage (now : Nat) (rx : Rx) (dest lg : Nat) (body : Body) (crossing : Crossing) (s : State) : Res :=
  onUnit (decide (rx.li < 96)) (
    if dest = s.lg.chip || bodySpecial body then atTime now s
    else
      let c : Carriage := { cls := rx.cls, hops := rx.hops + 1, loc := false, dest, lg, src := rx.src, body }
      match crossing with
      | .crcFail =>
        let s := atTime now s
        crcError rx.li (if (getLink s rx.li).state = 2 && decide (rx.hops < 2) then stompEgress c s else s)
      | _ =>
        let (ok, s) := rxHeader rx (atTime now s)
        if ok then pump rx.li (passOn rx c (poolOf body rx.cls rx.hops) crossing s) else s)

end Sys2Proof.Machine
end

