-- ==== Sys2Proof/Machine/Reduce.lean ====
section
/-! DEFINITION. Lane-end trees and the reduction unit's instructions (R252 to R256, R295). -/

namespace Sys2Proof.Machine

/-! ## The lane-end tree (R252) -/

/-- One level: neighbours combined, flags ORed. -/
def levelUp (g : Nat → Nat → Nat × FpFlags) : List Nat → List Nat × FpFlags
  | a :: b :: t =>
    let r := g a b
    let (l, fl) := levelUp g t
    (r.1 :: l, r.2 ||| fl)
  | l => (l, 0)

/-- Levels of the balanced tree. -/
def treeUp (g : Nat → Nat → Nat × FpFlags) : Nat → List Nat → List Nat × FpFlags
  | 0, l => (l, 0)
  | n + 1, l =>
    let (l, fl) := levelUp g l
    let (r, fl') := treeUp g n l
    (r, fl ||| fl')

/-- The FP32 code in every lane. -/
def broadcast (c : Nat) : BitVec 2048 := ofLanes 0 (List.replicate 64 c)

/-- A lane-end reduction; `unit` stands for an inactive lane. -/
def laneTree (p op : Nat) (f : Fields) (unit : Nat) (g : Nat → Nat → Nat × FpFlags) (s : State) : Res :=
  issueNext p op f (okVred f) (fun s =>
    let t := getTile s p
    let mask := readMask t (vMask f)
    let xs := (vLanes t 0 f.a).zipIdx.map fun x => if mask.getLsbD x.2 then x.1 else unit
    let (r, fl) := treeUp g 6 xs
    let c := r.headD 0
    let nan := fpIsNan (fpDecode fmtFp32 c)
    let src := xs.any fun x => fpIsNan (fpDecode fmtFp32 x)
    let s := orFlags p fl (modTile p (writeV f.d (broadcast c)) s)
    noteNans p enVector t.pc op 0 0 (if nan then [(0, src)] else []) s) s

/-- vrsum: balanced-tree sum of 64 FP32 lanes (R252). -/
def execVrsum (tile : Nat) (f : Fields) (s : State) : Res := laneTree tile 0x61 f 0 (fpOp2 fmtFp32 fpAdd) s

/-- vrmax (R252). -/
def execVrmax (tile : Nat) (f : Fields) (s : State) : Res := laneTree tile 0x62 f (fmtInf fmtFp32 true) (fpOp2 fmtFp32 fpMax) s

/-- vrmin (R252). -/
def execVrmin (tile : Nat) (f : Fields) (s : State) : Res := laneTree tile 0x63 f (fmtInf fmtFp32 false) (fpOp2 fmtFp32 fpMin) s

/-! ## Channels -/

/-- Set every state lane of a channel to N = 0 and +0 (R253). -/
def clearChan (c : Nat) (t : Tab ChanLane) : Tab ChanLane := t.filter fun e => e.1 / 64 ≠ c

/-- rclr (R253). -/
def execRclr (tile : Nat) (f : Fields) (s : State) : Res :=
  issueNext tile 0x64 f (okRclr f) (modTile tile fun t => { t with chans := clearChan (vChan f) t.chans }) s

/-- The merge of a left side and a right side (R255). -/
def mergeChan (a b : ChanLane) : ChanLane × FpFlags :=
  if a.n = 0 then (b, 0)
  else if b.n = 0 then (a, 0)
  else
    let n := a.n + b.n
    let d := subF b.mean a.mean
    let fb := floatOf b.n
    let fn := floatOf n
    let q := divF (n32 fb) (n32 fn)
    let mean := fmaF (n32 d) (n32 q) a.mean
    let m := addF a.m2 b.m2
    let dd := mulF (n32 d) (n32 d)
    let fa := floatOf a.n
    let w := mulF (n32 fa) (n32 q)
    let x := mulF (n32 dd) (n32 w)
    let m2 := addF (n32 m) (n32 x)
    let sum := addF a.sum b.sum
    let sq := addF a.sq b.sq
    ({ n, mean := n32 mean, m2 := n32 m2, sum := n32 sum, sq := n32 sq },
      d.2 ||| fb.2 ||| fn.2 ||| q.2 ||| mean.2 ||| m.2 ||| dd.2 ||| fa.2 ||| w.2 ||| x.2 ||| m2.2 ||| sum.2 ||| sq.2)

def mergeLevel : List ChanLane → List ChanLane × FpFlags
  | a :: b :: t =>
    let r := mergeChan a b
    let (l, fl) := mergeLevel t
    (r.1 :: l, r.2 ||| fl)
  | l => (l, 0)

def mergeTree : Nat → List ChanLane → List ChanLane × FpFlags
  | 0, l => (l, 0)
  | n + 1, l =>
    let (l, fl) := mergeLevel l
    let (r, fl') := mergeTree n l
    (r, fl ||| fl')

/-- An invalid NaN. -/
def badStat : Nat × FpFlags := (fmtNan fmtFp32, flInvalid ||| flNan)

/-- M2 ÷ a count, with the count's rounding. -/
def overCount (m2 : Word32) (n : Nat) : Nat × FpFlags :=
  let c := floatOf n
  let r := divF m2 (n32 c)
  (r.1, r.2 ||| c.2)

/-- The quantity that Q selects (R255). -/
def statOf (q : Nat) (c : ChanLane) : Nat × FpFlags :=
  match q with
  | 0 => (c.sum.toNat, 0)
  | 1 => (c.sq.toNat, 0)
  | 2 => if c.n = 0 then badStat else (c.mean.toNat, 0)
  | 3 => if c.n = 0 then badStat else overCount c.m2 c.n
  | 4 => if c.n ≤ 1 then badStat else overCount c.m2 (c.n - 1)
  | 5 => floatOf c.n
  | _ => (c.m2.toNat, 0)

/-- rread: merge a channel's state lanes and broadcast a statistic; the channel is unchanged (R255). -/
def execRread (tile : Nat) (f : Fields) (s : State) : Res :=
  issueNext tile 0x65 f (okRread f) (fun s =>
    let t := getTile s tile
    let lanes := (List.range 64).map fun k => tabGet {} t.chans (64 * vChan f + k)
    let (r, fl) := mergeTree 6 lanes
    let (c, fl') := statOf (immF f 0 3) (r.headD {})
    let nan := fpIsNan (fpDecode fmtFp32 c)
    let src := lanes.any fun l => isNan32 l.mean || isNan32 l.m2 || isNan32 l.sum || isNan32 l.sq
    let s := orFlags tile (fl ||| fl' ||| (if nan then flNan else 0)) (modTile tile (writeV f.d (broadcast c)) s)
    noteNans tile enReduce t.pc 0x65 0 0 (if nan then [(0, src)] else []) s) s

/-! ## VFLAGS (R256) -/

/-- vfrd: copy VFLAGS to a scalar register (R256). -/
def execVfrd (tile : Nat) (f : Fields) (s : State) : Res :=
  issueNext tile 0x66 f (okVfrd f) (modTile tile fun t => writeS f.d (t.vflags.setWidth 64) t) s

/-- vfclr: clear the bits set in sA (R256). -/
def execVfclr (tile : Nat) (f : Fields) (s : State) : Res :=
  issueNext tile 0x67 f (okVfclr f) (modTile tile fun t => { t with vflags := t.vflags &&& ~~~((readS t f.a).setWidth 5) }) s

end Sys2Proof.Machine
end

