-- ==== Sys2Proof/Machine/Scalar.lean ====
section
/-! DEFINITION. The scalar class (R289): 64-bit arithmetic, comparisons, constants, loads and stores. -/

namespace Sys2Proof.Machine

/-- sD takes a value computed from sA and sB. -/
def scalarRR (p op : Nat) (f : Fields) (g : Word64 → Word64 → Word64) (s : State) : Res :=
  issueNext p op f (okRRR f) (fun s => modTile p (fun t => writeS f.d (g (readS t f.a) (readS t f.b)) t) s) s

/-- sD takes a value computed from sA and the sign-extended immediate. -/
def scalarRI (p op : Nat) (f : Fields) (legal : Bool) (g : Word64 → Word64 → Word64) (s : State) : Res :=
  issueNext p op f legal (fun s => modTile p (fun t => writeS f.d (g (readS t f.a) (immS f)) t) s) s

/-- A shift count, modulo 64. -/
def shiftCount (b : Word64) : Nat := b.toNat % 64

def boolWord (b : Bool) : Word64 := if b then 1 else 0

/-- add: sD = sA + sB (R289). -/
def execAdd (tile : Nat) (f : Fields) (s : State) : Res :=
  scalarRR tile 0x01 f (fun a b => a + b) s

/-- sub: sD = sA − sB (R289). -/
def execSub (tile : Nat) (f : Fields) (s : State) : Res :=
  scalarRR tile 0x02 f (fun a b => a - b) s

/-- mul: sD = the low 64 bits of sA × sB (R289). -/
def execMul (tile : Nat) (f : Fields) (s : State) : Res :=
  scalarRR tile 0x03 f (fun a b => a * b) s

/-- and: bitwise AND (R289). -/
def execAnd (tile : Nat) (f : Fields) (s : State) : Res :=
  scalarRR tile 0x04 f (fun a b => a &&& b) s

/-- or: bitwise OR (R289). -/
def execOr (tile : Nat) (f : Fields) (s : State) : Res :=
  scalarRR tile 0x05 f (fun a b => a ||| b) s

/-- xor: bitwise XOR (R289). -/
def execXor (tile : Nat) (f : Fields) (s : State) : Res :=
  scalarRR tile 0x06 f (fun a b => a ^^^ b) s

/-- shl: sD = sA << (sB mod 64) (R289). -/
def execShl (tile : Nat) (f : Fields) (s : State) : Res :=
  scalarRR tile 0x07 f (fun a b => a <<< shiftCount b) s

/-- shr: logical right shift by sB mod 64 (R289). -/
def execShr (tile : Nat) (f : Fields) (s : State) : Res :=
  scalarRR tile 0x08 f (fun a b => a >>> shiftCount b) s

/-- sra: arithmetic right shift by sB mod 64 (R289). -/
def execSra (tile : Nat) (f : Fields) (s : State) : Res :=
  scalarRR tile 0x09 f (fun a b => a.sshiftRight (shiftCount b)) s

/-- slt: 1 if sA < sB signed, else 0 (R289). -/
def execSlt (tile : Nat) (f : Fields) (s : State) : Res :=
  scalarRR tile 0x0A f (fun a b => boolWord (a.slt b)) s

/-- sltu: 1 if sA < sB unsigned, else 0 (R289). -/
def execSltu (tile : Nat) (f : Fields) (s : State) : Res :=
  scalarRR tile 0x0B f (fun a b => boolWord (a.ult b)) s

/-- addi: sD = sA + IMM (R289). -/
def execAddi (tile : Nat) (f : Fields) (s : State) : Res :=
  scalarRI tile 0x11 f (okRRI f) (fun a i => a + i) s

/-- muli: the low 64 bits of sA × IMM (R289). -/
def execMuli (tile : Nat) (f : Fields) (s : State) : Res :=
  scalarRI tile 0x13 f (okRRI f) (fun a i => a * i) s

/-- andi: sA AND IMM (R289). -/
def execAndi (tile : Nat) (f : Fields) (s : State) : Res :=
  scalarRI tile 0x14 f (okRRI f) (fun a i => a &&& i) s

/-- ori: sA OR IMM (R289). -/
def execOri (tile : Nat) (f : Fields) (s : State) : Res :=
  scalarRI tile 0x15 f (okRRI f) (fun a i => a ||| i) s

/-- xori: sA XOR IMM (R289). -/
def execXori (tile : Nat) (f : Fields) (s : State) : Res :=
  scalarRI tile 0x16 f (okRRI f) (fun a i => a ^^^ i) s

/-- shli: left shift by IMM[5:0] (R289). -/
def execShli (tile : Nat) (f : Fields) (s : State) : Res :=
  scalarRI tile 0x17 f (okShiftI f) (fun a i => a <<< shiftCount i) s

/-- shri: logical right shift by IMM[5:0] (R289). -/
def execShri (tile : Nat) (f : Fields) (s : State) : Res :=
  scalarRI tile 0x18 f (okShiftI f) (fun a i => a >>> shiftCount i) s

/-- srai: arithmetic right shift by IMM[5:0] (R289). -/
def execSrai (tile : Nat) (f : Fields) (s : State) : Res :=
  scalarRI tile 0x19 f (okShiftI f) (fun a i => a.sshiftRight (shiftCount i)) s

/-- slti: 1 if sA < IMM signed, else 0 (R289). -/
def execSlti (tile : Nat) (f : Fields) (s : State) : Res :=
  scalarRI tile 0x1A f (okRRI f) (fun a i => boolWord (a.slt i)) s

/-- sltiu: 1 if sA < the sign-extended IMM unsigned, else 0 (R289). -/
def execSltiu (tile : Nat) (f : Fields) (s : State) : Res :=
  scalarRI tile 0x1B f (okRRI f) (fun a i => boolWord (a.ult i)) s

/-- lih: sD = (IMM << 32) OR sA[31:0] (R289). -/
def execLih (tile : Nat) (f : Fields) (s : State) : Res :=
  scalarRI tile 0x1C f (okRRI f) (fun a i => i <<< 32 ||| (a.setWidth 32).setWidth 64) s

/-- The tile address sA + IMM of a scalar load or store. -/
def scalarAddr (t : Tile) (f : Fields) : Nat := (readS t f.a + immS f).toNat

/-- What a scalar access breaks: ALIGN unless a multiple of 8, ADDRESS at or above 2 MiB. -/
def scalarFault (a : Nat) : Option Nat := if a % 8 ≠ 0 then some tcAlign else if tmemBytes ≤ a then some tcAddress else none

/-- ld: sD = the 64-bit word at tile address sA + IMM (R289). -/
def execLd (tile : Nat) (f : Fields) (s : State) : Res :=
  issueNext tile 0x1D f (okRRI f) (fun s =>
    let a := scalarAddr (getTile s tile) f
    match scalarFault a with
    | some c => trapHere tile c enSequencer a [] s
    | none =>
      let (bs, s) := tileRead tile a 8 s
      modTile tile (writeS f.d (BitVec.ofNat 64 (leNat bs))) s) s

/-- st: stores sB at tile address sA + IMM (R289). -/
def execSt (tile : Nat) (f : Fields) (s : State) : Res :=
  issueNext tile 0x1E f (okStore f) (fun s =>
    let t := getTile s tile
    let a := scalarAddr t f
    match scalarFault a with
    | some c => trapHere tile c enSequencer a [] s
    | none => tileWrite tile a (leBytes 8 (readS t f.b).toNat) s) s

end Sys2Proof.Machine
end

