-- ==== Sys2Proof/Machine/System.lean ====
section
/-! DEFINITION. The system class (R266, R301). -/

namespace Sys2Proof.Machine

/-- nop (R301). -/
def execNop (tile : Nat) (f : Fields) (s : State) : Res := issueNext tile 0xE1 f (okNop f) id s

/-- Clocks since job start at 1.3 GHz (R266). -/
def jobClocks (s : State) : Nat := (s.now - s.job.startAt) * 13 / 10

/-- The value of a sysrd code (R266); a field of the leg tag is undefined while the tile has none. -/
def sysValue (p code : Nat) (s : State) : Word64 × State :=
  let t := getTile s p
  let tagged := fun (g : LegTag → Word64) => match t.tag with
    | some x => (g x, s)
    | none => freeWord s
  match code with
  | 0 => (BitVec.ofNat 64 ((logicalOf s p).getD 0xFF), s)
  | 1 => (BitVec.ofNat 64 p, s)
  | 2 => (BitVec.ofNat 64 s.lg.chip, s)
  | 3 => tagged fun x => BitVec.ofNat 64 x.tick
  | 4 => tagged fun x => BitVec.ofNat 64 x.step
  | 5 => tagged fun x =>
      BitVec.ofNat 64 (x.leg + 32 * x.kind + (if x.abandoned then 256 else 0) + x.tick % 2 ^ 48 * 65536)
  | _ => (BitVec.ofNat 64 (jobClocks s), s)

/-- sysrd: copy a system value into a scalar register (R266). -/
def execSysrd (now tile : Nat) (f : Fields) (s : State) : Res :=
  issueNext tile 0xE2 f (okSysrd f) (fun s =>
    let (v, s) := sysValue tile f.imm.toNat s
    modTile tile (writeS f.d v) s) (atTime now s)

/-- trap: cause SOFTWARE, IMM in DETAIL bytes 0 to 3 (R282, R301). -/
def execTrap (now tile : Nat) (f : Fields) (s : State) : Res :=
  issue tile 0xE3 f (okTrap f) (trapHere tile tcSoftware enSequencer 0 (leBytes 4 f.imm.toNat)) (atTime now s)

end Sys2Proof.Machine
end

