-- ==== Sys2Proof/Machine/Vector.lean ====
section
/-! DEFINITION. The vector class (R247 to R251, R292 to R294). -/

namespace Sys2Proof.Machine

/-! ## Loads and stores -/

/-- Bytes of an element in memory; a packed sub-byte element counts as one byte (R247). -/
def memElem (v m : Nat) : Nat := if isInt v then viewBits v / 8 else max 1 (codeBits m / 8)

/-- Base address sA + OFFSET, modulo 2^64. -/
def vBase (t : Tile) (f : Fields) : Nat := (readS t f.a + BitVec.ofInt 64 (vOffset f)).toNat

/-- Stride of a STRIDED access, modulo 2^64. -/
def vStride (t : Tile) (f : Fields) : Nat := (readS t f.b).toNat

/-- Byte offset of element l in a UNIT vector. -/
def unitOffset (v m l : Nat) : Nat := if isInt v then l * (viewBits v / 8) else l * codeBits m / 8

/-- Address of element l (R247). -/
def elemAddr (t : Tile) (f : Fields) (l : Nat) : Nat :=
  if vMode f = 1 then (vBase t f + l * vStride t f) % 2 ^ 64
  else (vBase t f + unitOffset (vView f) (vMfmt f) l) % 2 ^ 64

/-- The access carries block scales. -/
def vScaled (f : Fields) : Bool := isFloat (vView f) && vMode f == 0 && codeScaled (vMfmt f)

/-- Address of the block scale of element l. -/
def scaleAddr (t : Tile) (f : Fields) (l : Nat) : Nat :=
  (vBase t f + elemBytes (vMfmt f) (viewLanes (vView f)) + l / 32) % 2 ^ 64

def activeOf (t : Tile) (f : Fields) : List Nat :=
  (List.range (viewLanes (vView f))).filter fun l => (readMask t (vMask f)).getLsbD l

/-- What a load or store breaks: ALIGN at its base, ADDRESS at the first active element outside tile memory (R247). -/
def vecFault (t : Tile) (f : Fields) : Option (Nat × Nat) :=
  let n := memElem (vView f) (vMfmt f)
  if vBase t f % n ≠ 0 then some (tcAlign, vBase t f)
  else
    let acts := activeOf t f
    match acts.find? fun l => tmemBytes < elemAddr t f l + n with
    | some l => some (tcAddress, elemAddr t f l)
    | none =>
      if vScaled f then
        match acts.find? fun l => tmemBytes ≤ scaleAddr t f l with
        | some l => some (tcAddress, scaleAddr t f l)
        | none => none
      else none

/-- A loaded element in the view (R248): copied where nothing converts. -/
def loadRes (v m : Nat) (x : Fp) (w : Nat) : LaneRes :=
  if ownFormat v m then { code := w }
  else
    let (c, fl) := fpRound (viewFmt v) 0 0 x
    let sig := (m = 1 || m = 2) && fpSignalling (codeFmt m) w
    { code := c, flags := fl ||| (if sig then flInvalid else 0), nan := fpIsNan x, src := fpIsNan x }

/-- Lanes of a STRIDED load; an inactive lane does not read. -/
def stridedLanes (p : Nat) (t : Tile) (f : Fields) : List Nat → State → List LaneRes × State
  | [], s => ([], s)
  | l :: ls, s =>
    let v := vView f
    let m := vMfmt f
    if (readMask t (vMask f)).getLsbD l then
      let (bs, s) := tileRead p (elemAddr t f l) (memElem v m) s
      let (rs, s) := stridedLanes p t f ls s
      (loadRes v m (elemValue m (leNat bs)) (leNat bs) :: rs, s)
    else
      let (rs, s) := stridedLanes p t f ls s
      ({ code := 0 } :: rs, s)

/-- Read tile memory from an address on, modulo 2^64. -/
def wrapRead (p a n : Nat) (s : State) : List Byte × State :=
  if a + n ≤ 2 ^ 64 then tileRead p a n s
  else
    let (x, s) := tileRead p a (2 ^ 64 - a) s
    let (y, s) := tileRead p 0 (a + n - 2 ^ 64) s
    (x ++ y, s)

/-- Lanes of a UNIT load: one stored vector (R247). -/
def unitLanes (p : Nat) (t : Tile) (f : Fields) (s : State) : List LaneRes × State :=
  let v := vView f
  let m := vMfmt f
  let n := viewLanes v
  if isInt v then
    let (bs, s) := wrapRead p (vBase t f) 256 s
    ((List.range n).map (fun l => { code := leAt bs (l * (viewBits v / 8)) (viewBits v / 8) }), s)
  else
    let (bs, s) := wrapRead p (vBase t f) (storedBytes m n) s
    ((List.range n).map (fun l => loadRes v m (storedValue m n bs l) (elemCode m bs l)), s)

/-- vld: load from tile memory with conversion to the view (R247, R248). -/
def execVld (tile : Nat) (f : Fields) (s : State) : Res :=
  issueNext tile 0x41 f (okVld f) (fun s =>
    let t := getTile s tile
    match vecFault t f with
    | some (c, a) => trapHere tile c enVector a [] s
    | none =>
      let (rs, s) := if vMode f = 1 then stridedLanes tile t f (List.range (viewLanes (vView f))) s else unitLanes tile t f s
      vecOp tile f rs s) s

/-- Element codes that a store writes, its block scales, and its flags (R248, R53, R58). Inactive lanes count as zero. -/
def storeCodes (step : Nat) (t : Tile) (f : Fields) : List Nat × List Nat × FpFlags :=
  let v := vView f
  let m := vMfmt f
  let src := vLanes t v f.d
  let mask := readMask t (vMask f)
  let xs := src.zipIdx.map fun x => if mask.getLsbD x.2 then fpDecode (viewFmt v) x.1 else .fin false 0 0
  let key := (readS t f.c).toNat
  let draw := fun l => srDraw step ((key + l) % 2 ^ 64)
  let (bs, cs, fl) := if v = 0 then encodeStaged m (vRm f) draw xs else encodeVec m (vRm f) draw xs
  let sig := src.zipIdx.any fun x => mask.getLsbD x.2 && fpSignalling (viewFmt v) x.1
  (cs, (bs.drop (elemBytes m (viewLanes v))).map (·.toNat), fl ||| (if sig then flInvalid else 0))

/-- A byte of two packed FP4 lanes, where an inactive lane keeps its old half. -/
def nibblePair (mask : BitVec 256) (cs : List Nat) (k old : Nat) : Byte :=
  let lo := if mask.getLsbD (2 * k) then cs.getD (2 * k) 0 else old % 16
  let hi := if mask.getLsbD (2 * k + 1) then cs.getD (2 * k + 1) 0 else old / 16
  BitVec.ofNat 8 (lo + 16 * hi)

/-- Write several pieces of tile memory. -/
def tileWrites (p : Nat) (ws : List (Nat × List Byte)) (s : State) : State :=
  modTile p (fun t => { soil (ws.map fun w => rgnOne w.1 w.2.length) t with
    tmem := ws.foldl (fun m w => putTmem m w.1 w.2) t.tmem }) s

/-- The pieces of tile memory that a store of element codes writes; an inactive lane stores nothing (R246). -/
def storePieces (t : Tile) (f : Fields) (cs scales : List Nat) : List (Nat × List Byte) :=
  let v := vView f
  let m := vMfmt f
  let mask := readMask t (vMask f)
  let acts := activeOf t f
  let at_ := fun (i : Nat) => (vBase t f + i) % 2 ^ 64
  let scaled := if vScaled f then ((List.range (viewLanes v / 32)).filter (fun b => acts.any fun l => l / 32 == b)).map
    (fun b => (at_ (elemBytes m (viewLanes v) + b), [BitVec.ofNat 8 (scales.getD b 0)])) else []
  if isFloat v && codeBits m < 8 then
    let ks := (List.range (viewLanes v / 2)).filter fun k => mask.getLsbD (2 * k) || mask.getLsbD (2 * k + 1)
    ks.map (fun k => (at_ k, [nibblePair mask cs k (tabGet 0 t.tmem (at_ k)).toNat])) ++ scaled
  else acts.map (fun l => (elemAddr t f l, leBytes (memElem v m) (cs.getD l 0))) ++ scaled

/-- vst: store to tile memory with conversion and rounding (R247, R248). -/
def execVst (tile : Nat) (f : Fields) (s : State) : Res :=
  issueNext tile 0x42 f (okVst f) (fun s =>
    let t := getTile s tile
    match vecFault t f with
    | some (c, a) => trapHere tile c enVector a [] s
    | none =>
      let v := vView f
      if ownFormat v (vMfmt f) then tileWrites tile (storePieces t f (vLanes t v f.d) []) s
      else
        let (cs, scales, fl) := storeCodes s.tk.step t f
        let nans := (activeOf t f).filter fun l => fpIsNan (elemValue (vMfmt f) (cs.getD l 0))
        let s := orFlags tile fl (tileWrites tile (storePieces t f cs scales) s)
        noteNans tile enVector t.pc 0x42 (vMfmt f) 0 (nans.map fun l => (l, true)) s) s

/-! ## Element-wise operations -/

/-- One source: a floating operation. -/
def float1 (p op : Nat) (f : Fields) (legal : Bool) (g : FpFmt → Nat → Nat × FpFlags) (s : State) : Res :=
  issueNext p op f legal (fun s =>
    let t := getTile s p
    let v := vView f
    vecOp p f ((vLanes t v f.a).map fun a => floatRes (viewFmt v) [a] (g (viewFmt v) a)) s) s

/-- Two sources: a floating operation. -/
def float2 (p op : Nat) (f : Fields) (legal : Bool) (g : FpFmt → Nat → Nat → Nat × FpFlags) (s : State) : Res :=
  issueNext p op f legal (fun s =>
    let t := getTile s p
    let v := vView f
    vecOp p f (((vLanes t v f.a).zip (vLanes t v f.b)).map fun x => floatRes (viewFmt v) [x.1, x.2] (g (viewFmt v) x.1 x.2)) s) s

/-- An integer or bitwise operation on lanes of width w: no flags. -/
def int2 (p op : Nat) (f : Fields) (legal : Bool) (g : Nat → Nat → Nat → Nat) (s : State) : Res :=
  issueNext p op f legal (fun s =>
    let t := getTile s p
    let v := vView f
    vecOp p f (plainRes (((vLanes t v f.a).zip (vLanes t v f.b)).map fun x => g (viewBits v) x.1 x.2 % 2 ^ viewBits v)) s) s

/-- A floating sum or difference in a float view, modulo 2^width in an integer view (R250). -/
def addSub (p op : Nat) (f : Fields) (g : FpFmt → Nat → Nat → Nat × FpFlags) (h : Nat → Nat → Nat → Nat) (s : State) : Res :=
  if isInt (vView f) then int2 p op f (okV3 isAnyView true f) h s else float2 p op f (okV3 isAnyView true f) g s

/-- vadd: A + B (R250). -/
def execVadd (tile : Nat) (f : Fields) (s : State) : Res :=
  addSub tile 0x43 f (fun m => fpOp2 m fpAdd) (fun _ a b => a + b) s

/-- vsub: A − B (R250). -/
def execVsub (tile : Nat) (f : Fields) (s : State) : Res :=
  addSub tile 0x44 f (fun m => fpOp2 m (fun x y => fpAdd x (fpNeg y))) (fun w a b => a + 2 ^ w - b) s

/-- vmul: A × B (R250). -/
def execVmul (tile : Nat) (f : Fields) (s : State) : Res := float2 tile 0x45 f (okV3 isFloat true f) (fun m => fpOp2 m fpMul) s

/-- vfma: A × B + C, rounded once (R250). -/
def execVfma (tile : Nat) (f : Fields) (s : State) : Res :=
  issueNext tile 0x46 f (okVfma f) (fun s =>
    let t := getTile s tile
    let v := vView f
    let m := viewFmt v
    vecOp tile f ((((vLanes t v f.a).zip (vLanes t v f.b)).zip (vLanes t v f.c)).map fun x =>
      floatRes m [x.1.1, x.1.2, x.2] (fpFmaOp m x.1.1 x.1.2 x.2)) s) s

/-- vmin: NaN if any source is NaN; min(−0, +0) = −0 (R250). -/
def execVmin (tile : Nat) (f : Fields) (s : State) : Res := float2 tile 0x47 f (okV3 isFloat true f) (fun m => fpOp2 m fpMin) s

/-- vmax: NaN if any source is NaN; max(−0, +0) = +0 (R250). -/
def execVmax (tile : Nat) (f : Fields) (s : State) : Res := float2 tile 0x48 f (okV3 isFloat true f) (fun m => fpOp2 m fpMax) s

/-- A sign operation: no flags; a NaN gives the canonical NaN (R47, R250). -/
def signOp (neg : Bool) (m : FpFmt) (a : Nat) : Nat × FpFlags :=
  if fpIsNan (fpDecode m a) then (fmtNan m, 0)
  else
    let top := 2 ^ (m.ebits + m.mbits)
    (if neg && a / top % 2 = 0 then a % top + top else a % top, 0)

/-- vabs: the sign bit cleared (R250). -/
def execVabs (tile : Nat) (f : Fields) (s : State) : Res := float1 tile 0x49 f (okV2 isFloat true f) (signOp false) s

/-- vneg: the sign bit inverted (R250). -/
def execVneg (tile : Nat) (f : Fields) (s : State) : Res := float1 tile 0x4A f (okV2 isFloat true f) (signOp true) s

/-- vdiv: A ÷ B, correctly rounded (R250). -/
def execVdiv (tile : Nat) (f : Fields) (s : State) : Res := float2 tile 0x4B f (okV3 isFloat false f) fpDivOp s

/-- vsqrt: √A, correctly rounded (R250). -/
def execVsqrt (tile : Nat) (f : Fields) (s : State) : Res := float1 tile 0x4C f (okV2 isFloat false f) (fun m => fpOp1 m fpSqrt) s

/-- vrsqrt: 1 ÷ √A, correctly rounded; rsqrt(±0) is ±infinity with no flag (R61, R250). -/
def execVrsqrt (tile : Nat) (f : Fields) (s : State) : Res := float1 tile 0x4D f (okV2 isFloat false f) (fun m => fpOp1 m fpRsqrt) s

/-- floor of a value that is not NaN nor infinite. -/
def fpFloor (neg : Bool) (m : Nat) (e : Int) : Int :=
  let v := fpInt neg m e (min e 0)
  v / 2 ^ (-(min e 0)).toNat

/-- 2^A (R250): the function of a finite A is open among the FP32 values less than one unit in the last place away (log 4). -/
def exp2Op (a : Nat) : Nat × FpFlags :=
  match fpDecode fmtFp32 a with
  | .nan => (fmtNan fmtFp32, flNan ||| (if fpSignalling fmtFp32 a then flInvalid else 0))
  | .inf n => (if n then 0 else fmtInf fmtFp32 false, 0)
  | .fin neg m e =>
    let k := fpFloor neg m e
    if 128 ≤ k then (fmtInf fmtFp32 false, flOverflow ||| flInexact)
    else
      -- A − k as a fraction of 96 bits, and whether bits below them are set
      let x := fpInt neg m e (min e (-96)) - k * 2 ^ (-(min e (-96))).toNat
      let cut := (-(min e (-96)) - 96).toNat
      let b := exp2Bounds k (x.toNat / 2 ^ cut) (x.toNat % 2 ^ cut ≠ 0)
      let c := heldTo b.1 b.2 (Config.exp2 (BitVec.ofNat 32 a)).toNat
      let inexact := b.1 ≠ b.2
      (c, (if inexact then flInexact else 0) ||| (if inexact && c < 2 ^ 23 then flUnderflow else 0) |||
        (if c = fmtInf fmtFp32 false then flOverflow else 0))

/-- vexp2 (R250). -/
def execVexp2 (tile : Nat) (f : Fields) (s : State) : Res := float1 tile 0x4E f (okV2 isFp32 false f) (fun _ => exp2Op) s

/-- log2 A (R250): the function of a positive finite A is open among the FP32 values less than one unit in the last place
away (log 4). -/
def log2Op (a : Nat) : Nat × FpFlags :=
  match fpDecode fmtFp32 a with
  | .nan => (fmtNan fmtFp32, flNan ||| (if fpSignalling fmtFp32 a then flInvalid else 0))
  | .inf n => if n then (fmtNan fmtFp32, flNan ||| flInvalid) else (fmtInf fmtFp32 false, 0)
  | .fin neg m e =>
    if m = 0 then (fmtInf fmtFp32 true, flOverflow)
    else if neg then (fmtNan fmtFp32, flNan ||| flInvalid)
    else if m = 2 ^ Nat.log2 m then
      let k : Int := (Nat.log2 m : Int) + e
      ((fpRound fmtFp32 0 0 (.fin (k < 0) k.natAbs 0)).1, 0)
    else
      let b := log2Bounds m e
      (heldTo b.1 b.2 (Config.log2 (BitVec.ofNat 32 a)).toNat, flInexact)

/-- vlog2 (R250). -/
def execVlog2 (tile : Nat) (f : Fields) (s : State) : Res := float1 tile 0x4F f (okV2 isFp32 false f) (fun _ => log2Op) s

/-! ## Compares and selection -/

/-- A lane of width w as a signed integer. -/
def laneInt (w x : Nat) : Int := if 2 ^ (w - 1) ≤ x then (x : Int) - 2 ^ w else x

/-- A compare: bits 0 to lanes − 1 of the destination mask, the bits above cleared (R246, R250). -/
def compare (p op : Nat) (f : Fields) (g : Fp → Fp → Bool) (h : Int → Int → Bool) (s : State) : Res :=
  issueNext p op f (okVcmp f) (fun s =>
    let t := getTile s p
    let v := vView f
    let mask := readMask t (vMask f)
    let old := readMask t (f.d.toNat - 32)
    let xs := ((vLanes t v f.a).zip (vLanes t v f.b)).zipIdx
    let bit := fun (x : (Nat × Nat) × Nat) =>
      if mask.getLsbD x.2 then
        (if isFloat v then g (fpDecode (viewFmt v) x.1.1) (fpDecode (viewFmt v) x.1.2)
         else h (laneInt (viewBits v) x.1.1) (laneInt (viewBits v) x.1.2))
      else old.getLsbD x.2
    let sig := isFloat v && xs.any fun x => mask.getLsbD x.2 &&
      (fpSignalling (viewFmt v) x.1.1 || fpSignalling (viewFmt v) x.1.2)
    let new := BitVec.ofNat 256 (packBits 1 (xs.map fun x => if bit x then 1 else 0))
    orFlags p (if sig then flInvalid else 0) (modTile p (writeMask (f.d.toNat - 32) new) s)) s

/-- vcmp.eq (R250). -/
def execVcmpEq (tile : Nat) (f : Fields) (s : State) : Res := compare tile 0x50 f fpEq (fun a b => decide (a = b)) s

/-- vcmp.ne: true for a NaN operand (R250). -/
def execVcmpNe (tile : Nat) (f : Fields) (s : State) : Res :=
  compare tile 0x51 f (fun a b => !fpEq a b) (fun a b => decide (a ≠ b)) s

/-- vcmp.lt (R250). -/
def execVcmpLt (tile : Nat) (f : Fields) (s : State) : Res := compare tile 0x52 f fpLt (fun a b => decide (a < b)) s

/-- vcmp.le (R250). -/
def execVcmpLe (tile : Nat) (f : Fields) (s : State) : Res :=
  compare tile 0x53 f (fun a b => fpLt a b || fpEq a b) (fun a b => decide (a ≤ b)) s

/-- vsel: A where the C mask bit is 1, otherwise B (R250). DESIGN CHOICE (log 67): a selected lane is copied bit for bit in a
float view too, as by a move (R47), so a NaN keeps its payload and no flag is raised. -/
def execVsel (tile : Nat) (f : Fields) (s : State) : Res :=
  issueNext tile 0x54 f (okVsel f) (fun s =>
    let t := getTile s tile
    let v := vView f
    let m := readMask t (f.c.toNat - 32)
    vecOp tile f (plainRes (((vLanes t v f.a).zip (vLanes t v f.b)).zipIdx.map fun x =>
      if m.getLsbD x.2 then x.1.1 else x.1.2)) s) s

/-! ## Conversion -/

/-- vcvt: a narrowing writes one half of the 16-bit destination, a widening reads one half (R251). DEDUCED (log 68): the mask
governs destination lanes, and the lane number that R60 adds to the key is the destination's. -/
def execVcvt (tile : Nat) (f : Fields) (s : State) : Res :=
  issueNext tile 0x55 f (okVcvt f) (fun s =>
    let t := getTile s tile
    let src := vLanes t (cvtSrc f) f.a
    let mask := readMask t (vMask f)
    let half := 64 * vHalf f
    if vView f = 0 then
      let rs := ((src.drop half).take 64).map (convRes (viewFmt (cvtSrc f)) fmtFp32 0 0)
      retireVec tile f (activeLanes mask 0 rs) s
    else
      let key := (readS t f.b).toNat
      let draw := fun l => srDraw s.tk.step ((key + l) % 2 ^ 64)
      let rs := src.zipIdx.map fun x => convRes fmtFp32 (viewFmt (vView f)) (vRm f) (draw (half + x.2)) x.1
      retireVec tile f (activeLanes mask half rs) s) s

/-! ## Bitwise operations and moves -/

/-- vand: bitwise (R250). -/
def execVand (tile : Nat) (f : Fields) (s : State) : Res := int2 tile 0x56 f (okV3 isInt false f) (fun _ a b => a &&& b) s

/-- vor: bitwise (R250). -/
def execVor (tile : Nat) (f : Fields) (s : State) : Res := int2 tile 0x57 f (okV3 isInt false f) (fun _ a b => a ||| b) s

/-- vxor: bitwise (R250). -/
def execVxor (tile : Nat) (f : Fields) (s : State) : Res := int2 tile 0x58 f (okV3 isInt false f) (fun _ a b => a ^^^ b) s

/-- vshl: left shift by B modulo the width (R250). -/
def execVshl (tile : Nat) (f : Fields) (s : State) : Res :=
  int2 tile 0x59 f (okV3 isInt false f) (fun w a b => a * 2 ^ (b % w)) s

/-- vshr: logical right shift by B modulo the width (R250). -/
def execVshr (tile : Nat) (f : Fields) (s : State) : Res :=
  int2 tile 0x5A f (okV3 isInt false f) (fun w a b => a / 2 ^ (b % w)) s

/-- vsra: arithmetic right shift by B modulo the width (R250). -/
def execVsra (tile : Nat) (f : Fields) (s : State) : Res :=
  int2 tile 0x5B f (okV3 isInt false f) (fun w a b => ((laneInt w a / 2 ^ (b % w)) % 2 ^ w).toNat) s

/-- vmov: copies active lanes bit for bit (R293). -/
def execVmov (tile : Nat) (f : Fields) (s : State) : Res :=
  issueNext tile 0x5C f (okV2 isAnyView false f) (fun s =>
    vecOp tile f (plainRes (vLanes (getTile s tile) (vView f) f.a)) s) s

/-- An operation on two mask registers, 256 bits (R293). -/
def maskOp (p op : Nat) (f : Fields) (g : BitVec 256 → BitVec 256 → BitVec 256) (s : State) : Res :=
  issueNext p op f (okMaskOp f) (fun s => modTile p (fun t =>
    writeMask (f.d.toNat - 32) (g (readMask t (f.a.toNat - 32)) (readMask t (f.b.toNat - 32))) t) s) s

/-- mand (R293). -/
def execMand (tile : Nat) (f : Fields) (s : State) : Res := maskOp tile 0x5D f (fun a b => a &&& b) s

/-- mor (R293). -/
def execMor (tile : Nat) (f : Fields) (s : State) : Res := maskOp tile 0x5E f (fun a b => a ||| b) s

/-- mxor (R293). -/
def execMxor (tile : Nat) (f : Fields) (s : State) : Res := maskOp tile 0x5F f (fun a b => a ^^^ b) s

end Sys2Proof.Machine
end

