-- ==== Sys2Proof/Machine/Dispatch.lean ====
section
/-! DEFINITION. One arm per command: a direct call of its meaning. -/

namespace Sys2Proof.Machine

def exec (i : Instr) (s : State) : Host.Outcome State Fault Refusal :=
  match i with
  | .planLoad e => Sys2Proof.Machine.execPlanLoad e s
  | .jobStart now e => Sys2Proof.Machine.execJobStart now e s
  | .jobReset now e => Sys2Proof.Machine.execJobReset now e s
  | .queueCreate e => Sys2Proof.Machine.execQueueCreate e s
  | .queueDelete e => Sys2Proof.Machine.execQueueDelete e s
  | .timetableLoad e => Sys2Proof.Machine.execTimetableLoad e s
  | .timetableSwitch e => Sys2Proof.Machine.execTimetableSwitch e s
  | .bellwetherHandover e => Sys2Proof.Machine.execBellwetherHandover e s
  | .tileMapSwitch e => Sys2Proof.Machine.execTileMapSwitch e s
  | .descriptorLoad e => Sys2Proof.Machine.execDescriptorLoad e s
  | .programLoad e => Sys2Proof.Machine.execProgramLoad e s
  | .flockLoad e => Sys2Proof.Machine.execFlockLoad e s
  | .foldLoad e => Sys2Proof.Machine.execFoldLoad e s
  | .foldSwitch e => Sys2Proof.Machine.execFoldSwitch e s
  | .rowRepair e => Sys2Proof.Machine.execRowRepair e s
  | .commitRollback e => Sys2Proof.Machine.execCommitRollback e s
  | .handoverPrepare e => Sys2Proof.Machine.execHandoverPrepare e s
  | .handoverCopyDone map => Sys2Proof.Machine.execHandoverCopyDone map s
  | .handoverSwitch e => Sys2Proof.Machine.execHandoverSwitch e s
  | .snapshotStart e => Sys2Proof.Machine.execSnapshotStart e s
  | .snapshotAbort e => Sys2Proof.Machine.execSnapshotAbort e s
  | .mapoutAdd e => Sys2Proof.Machine.execMapoutAdd e s
  | .mapoutRemove e => Sys2Proof.Machine.execMapoutRemove e s
  | .memReconfigure e => Sys2Proof.Machine.execMemReconfigure e s
  | .bootConfig e => Sys2Proof.Machine.execBootConfig e s
  | .rdmaMrRegister e => Sys2Proof.Machine.execRdmaMrRegister e s
  | .rdmaMrDeregister e => Sys2Proof.Machine.execRdmaMrDeregister e s
  | .rdmaQpSet e => Sys2Proof.Machine.execRdmaQpSet e s
  | .nvmfAttach e => Sys2Proof.Machine.execNvmfAttach e s
  | .nonce now r => Sys2Proof.Machine.execNonce now r s
  | .nonceExpiry now => Sys2Proof.Machine.execNonceExpiry now s
  | .unlock now r => Sys2Proof.Machine.execUnlock now r s
  | .key r => Sys2Proof.Machine.execKey r s
  | .claim r => Sys2Proof.Machine.execClaim r s
  | .raiseSvn r => Sys2Proof.Machine.execRaiseSvn r s
  | .linkCtlRetrain now li => Sys2Proof.Machine.execLinkCtlRetrain now li s
  | .linkCtlTakeDown now li => Sys2Proof.Machine.execLinkCtlTakeDown now li s
  | .linkCtlBringUp now li => Sys2Proof.Machine.execLinkCtlBringUp now li s
  | .laserDrain now lm => Sys2Proof.Machine.execLaserDrain now lm s
  | .laserDrainComplete lm => Sys2Proof.Machine.execLaserDrainComplete lm s
  | .pcDrain die pc => Sys2Proof.Machine.execPcDrain die pc s
  | .pcDrainComplete die pc retrained => Sys2Proof.Machine.execPcDrainComplete die pc retrained s
  | .pcFence die pc => Sys2Proof.Machine.execPcFence die pc s
  | .bistQueuePass kind index => Sys2Proof.Machine.execBistQueuePass kind index s
  | .privTest inWindow pass drivers => Sys2Proof.Machine.execPrivTest inWindow pass drivers s
  | .requalify kind index outcome => Sys2Proof.Machine.execRequalify kind index outcome s
  | .fwGo target image => Sys2Proof.Machine.execFwGo target image s
  | .fwActivation now => Sys2Proof.Machine.execFwActivation now s
  | .fwRevert now blackoutUs => Sys2Proof.Machine.execFwRevert now blackoutUs s
  | .hqAttach now path => Sys2Proof.Machine.execHqAttach now path s
  | .hqDetach now => Sys2Proof.Machine.execHqDetach now s
  | .hqHeartbeat now beat => Sys2Proof.Machine.execHqHeartbeat now beat s
  | .heartbeatTimeout now => Sys2Proof.Machine.execHeartbeatTimeout now s
  | .doorbell now queue => Sys2Proof.Machine.execDoorbell now queue s
  | .doorbellReread now => Sys2Proof.Machine.execDoorbellReread now s
  | .adminPoll now => Sys2Proof.Machine.execAdminPoll now s
  | .staleDescriptorTimeout now queue ms => Sys2Proof.Machine.execStaleDescriptorTimeout now queue ms s
  | .tileReset tile => Sys2Proof.Machine.execTileReset tile s
  | .tallyClear offset value => Sys2Proof.Machine.execTallyClear offset value s
  | .gscaleWrite bank flock half value => Sys2Proof.Machine.execGscaleWrite bank flock half value s
  | .pwCapWrite now watts => Sys2Proof.Machine.execPwCapWrite now watts s
  | .hqRegionCtlWrite n value => Sys2Proof.Machine.execHqRegionCtlWrite n value s
  | .registerWrite now offset size value => Sys2Proof.Machine.execRegisterWrite now offset size value s
  | .add tile f => Sys2Proof.Machine.execAdd tile f s
  | .sub tile f => Sys2Proof.Machine.execSub tile f s
  | .mul tile f => Sys2Proof.Machine.execMul tile f s
  | .and tile f => Sys2Proof.Machine.execAnd tile f s
  | .or tile f => Sys2Proof.Machine.execOr tile f s
  | .xor tile f => Sys2Proof.Machine.execXor tile f s
  | .shl tile f => Sys2Proof.Machine.execShl tile f s
  | .shr tile f => Sys2Proof.Machine.execShr tile f s
  | .sra tile f => Sys2Proof.Machine.execSra tile f s
  | .slt tile f => Sys2Proof.Machine.execSlt tile f s
  | .sltu tile f => Sys2Proof.Machine.execSltu tile f s
  | .addi tile f => Sys2Proof.Machine.execAddi tile f s
  | .muli tile f => Sys2Proof.Machine.execMuli tile f s
  | .andi tile f => Sys2Proof.Machine.execAndi tile f s
  | .ori tile f => Sys2Proof.Machine.execOri tile f s
  | .xori tile f => Sys2Proof.Machine.execXori tile f s
  | .shli tile f => Sys2Proof.Machine.execShli tile f s
  | .shri tile f => Sys2Proof.Machine.execShri tile f s
  | .srai tile f => Sys2Proof.Machine.execSrai tile f s
  | .slti tile f => Sys2Proof.Machine.execSlti tile f s
  | .sltiu tile f => Sys2Proof.Machine.execSltiu tile f s
  | .lih tile f => Sys2Proof.Machine.execLih tile f s
  | .ld tile f => Sys2Proof.Machine.execLd tile f s
  | .st tile f => Sys2Proof.Machine.execSt tile f s
  | .jmp tile f => Sys2Proof.Machine.execJmp tile f s
  | .beq tile f => Sys2Proof.Machine.execBeq tile f s
  | .bne tile f => Sys2Proof.Machine.execBne tile f s
  | .blt tile f => Sys2Proof.Machine.execBlt tile f s
  | .bge tile f => Sys2Proof.Machine.execBge tile f s
  | .bltu tile f => Sys2Proof.Machine.execBltu tile f s
  | .bgeu tile f => Sys2Proof.Machine.execBgeu tile f s
  | .jal tile f => Sys2Proof.Machine.execJal tile f s
  | .jr tile f => Sys2Proof.Machine.execJr tile f s
  | .waitTok tile f => Sys2Proof.Machine.execWaitTok tile f s
  | .waitLeg now tile f => Sys2Proof.Machine.execWaitLeg now tile f s
  | .hurdle now tile f => Sys2Proof.Machine.execHurdle now tile f s
  | .hurdleRelease now h instanceDie => Sys2Proof.Machine.execHurdleRelease now h instanceDie s
  | .engineStaggerStart now tile engine => Sys2Proof.Machine.execEngineStaggerStart now tile engine s
  | .vld tile f => Sys2Proof.Machine.execVld tile f s
  | .vst tile f => Sys2Proof.Machine.execVst tile f s
  | .vadd tile f => Sys2Proof.Machine.execVadd tile f s
  | .vsub tile f => Sys2Proof.Machine.execVsub tile f s
  | .vmul tile f => Sys2Proof.Machine.execVmul tile f s
  | .vfma tile f => Sys2Proof.Machine.execVfma tile f s
  | .vmin tile f => Sys2Proof.Machine.execVmin tile f s
  | .vmax tile f => Sys2Proof.Machine.execVmax tile f s
  | .vabs tile f => Sys2Proof.Machine.execVabs tile f s
  | .vneg tile f => Sys2Proof.Machine.execVneg tile f s
  | .vdiv tile f => Sys2Proof.Machine.execVdiv tile f s
  | .vsqrt tile f => Sys2Proof.Machine.execVsqrt tile f s
  | .vrsqrt tile f => Sys2Proof.Machine.execVrsqrt tile f s
  | .vexp2 tile f => Sys2Proof.Machine.execVexp2 tile f s
  | .vlog2 tile f => Sys2Proof.Machine.execVlog2 tile f s
  | .vcmpEq tile f => Sys2Proof.Machine.execVcmpEq tile f s
  | .vcmpNe tile f => Sys2Proof.Machine.execVcmpNe tile f s
  | .vcmpLt tile f => Sys2Proof.Machine.execVcmpLt tile f s
  | .vcmpLe tile f => Sys2Proof.Machine.execVcmpLe tile f s
  | .vsel tile f => Sys2Proof.Machine.execVsel tile f s
  | .vcvt tile f => Sys2Proof.Machine.execVcvt tile f s
  | .vand tile f => Sys2Proof.Machine.execVand tile f s
  | .vor tile f => Sys2Proof.Machine.execVor tile f s
  | .vxor tile f => Sys2Proof.Machine.execVxor tile f s
  | .vshl tile f => Sys2Proof.Machine.execVshl tile f s
  | .vshr tile f => Sys2Proof.Machine.execVshr tile f s
  | .vsra tile f => Sys2Proof.Machine.execVsra tile f s
  | .vmov tile f => Sys2Proof.Machine.execVmov tile f s
  | .mand tile f => Sys2Proof.Machine.execMand tile f s
  | .mor tile f => Sys2Proof.Machine.execMor tile f s
  | .mxor tile f => Sys2Proof.Machine.execMxor tile f s
  | .vrsum tile f => Sys2Proof.Machine.execVrsum tile f s
  | .vrmax tile f => Sys2Proof.Machine.execVrmax tile f s
  | .vrmin tile f => Sys2Proof.Machine.execVrmin tile f s
  | .rclr tile f => Sys2Proof.Machine.execRclr tile f s
  | .rread tile f => Sys2Proof.Machine.execRread tile f s
  | .vfrd tile f => Sys2Proof.Machine.execVfrd tile f s
  | .vfclr tile f => Sys2Proof.Machine.execVfclr tile f s
  | .mma tile zero f => Sys2Proof.Machine.execMma tile zero f s
  | .mmaComplete tile engine => Sys2Proof.Machine.execMmaComplete tile engine s
  | .drain tile f => Sys2Proof.Machine.execDrain tile f s
  | .drainComplete tile engine => Sys2Proof.Machine.execDrainComplete tile engine s
  | .dmv tile f => Sys2Proof.Machine.execDmv tile f s
  | .dmvComplete tile index => Sys2Proof.Machine.execDmvComplete tile index s
  | .dmvDense tile f => Sys2Proof.Machine.execDmvDense tile f s
  | .embLook tile f => Sys2Proof.Machine.execEmbLook tile f s
  | .embLookComplete tile batch => Sys2Proof.Machine.execEmbLookComplete tile batch s
  | .embGrad tile f => Sys2Proof.Machine.execEmbGrad tile f s
  | .embGradComplete tile index => Sys2Proof.Machine.execEmbGradComplete tile index s
  | .embPost now tile f => Sys2Proof.Machine.execEmbPost now tile f s
  | .nop tile f => Sys2Proof.Machine.execNop tile f s
  | .sysrd now tile f => Sys2Proof.Machine.execSysrd now tile f s
  | .trap now tile f => Sys2Proof.Machine.execTrap now tile f s
  | .tileMoveComplete now logical => Sys2Proof.Machine.execTileMoveComplete now logical s
  | .markSend now => Sys2Proof.Machine.execMarkSend now s
  | .markReceive now rx m => Sys2Proof.Machine.execMarkReceive now rx m s
  | .tickStart now meas => Sys2Proof.Machine.execTickStart now meas s
  | .holdoverTick now meas => Sys2Proof.Machine.execHoldoverTick now meas s
  | .stretchLimit now => Sys2Proof.Machine.execStretchLimit now s
  | .jobFirstTick now => Sys2Proof.Machine.execJobFirstTick now s
  | .legStart now leg => Sys2Proof.Machine.execLegStart now leg s
  | .applyStart now => Sys2Proof.Machine.execApplyStart now s
  | .legDeadline now tick leg => Sys2Proof.Machine.execLegDeadline now tick leg s
  | .legComplete now tick leg kind step => Sys2Proof.Machine.execLegComplete now tick leg kind step s
  | .unitWake now u => Sys2Proof.Machine.execUnitWake now u s
  | .unplannedWake now u => Sys2Proof.Machine.execUnplannedWake now u s
  | .ackReceive now rx m => Sys2Proof.Machine.execAckReceive now rx m s
  | .applyGoReceive now rx m => Sys2Proof.Machine.execApplyGoReceive now rx m s
  | .applyEndReceive now rx m => Sys2Proof.Machine.execApplyEndReceive now rx m s
  | .haltReceive now rx m => Sys2Proof.Machine.execHaltReceive now rx m s
  | .paceReceive now rx m => Sys2Proof.Machine.execPaceReceive now rx m s
  | .echoTimer now => Sys2Proof.Machine.execEchoTimer now s
  | .echoReq now rx timeNs => Sys2Proof.Machine.execEchoReq now rx timeNs s
  | .echoRsp now rx timeNs => Sys2Proof.Machine.execEchoRsp now rx timeNs s
  | .planDigest now rx m => Sys2Proof.Machine.execPlanDigest now rx m s
  | .planDigestTimeout now => Sys2Proof.Machine.execPlanDigestTimeout now s
  | .planVerdictTimeout now => Sys2Proof.Machine.execPlanVerdictTimeout now s
  | .arrive now rx m => Sys2Proof.Machine.execArrive now rx m s
  | .release now rx m => Sys2Proof.Machine.execRelease now rx m s
  | .idxReceive now rx m => Sys2Proof.Machine.execIdxReceive now rx m s
  | .rowSend now dest => Sys2Proof.Machine.execRowSend now dest s
  | .rowReceive now rx m => Sys2Proof.Machine.execRowReceive now rx m s
  | .gradReceive now rx m => Sys2Proof.Machine.execGradReceive now rx m s
  | .denseReceive now rx lg m => Sys2Proof.Machine.execDenseReceive now rx lg m s
  | .acceptSend now => Sys2Proof.Machine.execAcceptSend now s
  | .accept now rx tick16 leg count => Sys2Proof.Machine.execAccept now rx tick16 leg count s
  | .bulkReceive now rx m => Sys2Proof.Machine.execBulkReceive now rx m s
  | .transitCarriage now rx dest lg body crossing => Sys2Proof.Machine.execTransitCarriage now rx dest lg body crossing s
  | .lookup now die queue index => Sys2Proof.Machine.execLookup now die queue index s
  | .serveRead now die queue index => Sys2Proof.Machine.execServeRead now die queue index s
  | .accumulate now die queue index => Sys2Proof.Machine.execAccumulate now die queue index s
  | .apply now die queue index => Sys2Proof.Machine.execApply now die queue index s
  | .ringIndexBlock die => Sys2Proof.Machine.execRingIndexBlock die s
  | .migrate now die queue index => Sys2Proof.Machine.execMigrate now die queue index s
  | .exportRow now die queue index => Sys2Proof.Machine.execExportRow now die queue index s
  | .commit now => Sys2Proof.Machine.execCommit now s
  | .foldRelease kind num => Sys2Proof.Machine.execFoldRelease kind num s
  | .digestRoundStart => Sys2Proof.Machine.execDigestRoundStart s
  | .digestSlice now j inTime => Sys2Proof.Machine.execDigestSlice now j inTime s
  | .digestRoot now rx round root void => Sys2Proof.Machine.execDigestRoot now rx round root void s
  | .digestCompare now => Sys2Proof.Machine.execDigestCompare now s
  | .digestQuery now rx n => Sys2Proof.Machine.execDigestQuery now rx n s
  | .digestReply now rx n digests => Sys2Proof.Machine.execDigestReply now rx n digests s
  | .descentTimeout now => Sys2Proof.Machine.execDescentTimeout now s
  | .repairOrder now rx m => Sys2Proof.Machine.execRepairOrder now rx m s
  | .repairTick now => Sys2Proof.Machine.execRepairTick now s
  | .repairData now rx m => Sys2Proof.Machine.execRepairData now rx m s
  | .repairDone now rx m => Sys2Proof.Machine.execRepairDone now rx m s
  | .repairDeadline now region block outlier => Sys2Proof.Machine.execRepairDeadline now region block outlier s
  | .digestAbort now rx round => Sys2Proof.Machine.execDigestAbort now rx round s
  | .snapshotTick now => Sys2Proof.Machine.execSnapshotTick now s
  | .snapshotWriteComplete now extent mib => Sys2Proof.Machine.execSnapshotWriteComplete now extent mib s
  | .snapshotTargetError now extent => Sys2Proof.Machine.execSnapshotTargetError now extent s
  | .carriageCrcError now li stomped => Sys2Proof.Machine.execCarriageCrcError now li stomped s
  | .nak now rx => Sys2Proof.Machine.execNak now rx s
  | .nakRepeat now li => Sys2Proof.Machine.execNakRepeat now li s
  | .link now rx lane => Sys2Proof.Machine.execLink now rx lane s
  | .linkAckTimeout now li => Sys2Proof.Machine.execLinkAckTimeout now li s
  | .retrainTimeout now li => Sys2Proof.Machine.execRetrainTimeout now li s
  | .retrainComplete now li t => Sys2Proof.Machine.execRetrainComplete now li t s
  | .linkState now rx peerLi lastSeq => Sys2Proof.Machine.execLinkState now rx peerLi lastSeq s
  | .linkStateTimeout now li => Sys2Proof.Machine.execLinkStateTimeout now li s
  | .linkTrainComplete now li t => Sys2Proof.Machine.execLinkTrainComplete now li t s
  | .linkId now rx chip peerLi digest => Sys2Proof.Machine.execLinkId now rx chip peerLi digest s
  | .laneDrop now li lane transmit cause ser => Sys2Proof.Machine.execLaneDrop now li lane transmit cause ser s
  | .cdrTrim now passed sers => Sys2Proof.Machine.execCdrTrim now passed sers s
  | .laserEol now lm laser bias power => Sys2Proof.Machine.execLaserEol now lm laser bias power s
  | .laserFailure now lm laser bias power overTemp => Sys2Proof.Machine.execLaserFailure now lm laser bias power overTemp s
  | .laserModuleRemoved now lm => Sys2Proof.Machine.execLaserModuleRemoved now lm s
  | .laserModuleInserted now lm supported => Sys2Proof.Machine.execLaserModuleInserted now lm supported s
  | .windowRead now offset length => Sys2Proof.Machine.execWindowRead now offset length s
  | .windowWrite now offset data => Sys2Proof.Machine.execWindowWrite now offset data s
  | .rdmaWriteReceive now qp rkey addr data => Sys2Proof.Machine.execRdmaWriteReceive now qp rkey addr data s
  | .rdmaReadReceive now qp rkey addr length => Sys2Proof.Machine.execRdmaReadReceive now qp rkey addr length s
  | .rdmaSendReceive now qp data => Sys2Proof.Machine.execRdmaSendReceive now qp data s
  | .eventOverflowDrain now => Sys2Proof.Machine.execEventOverflowDrain now s
  | .pcieLinkLoss now => Sys2Proof.Machine.execPcieLinkLoss now s
  | .pciePerstN now level => Sys2Proof.Machine.execPciePerstN now level s
  | .ptpMessage now port announce facilityNs => Sys2Proof.Machine.execPtpMessage now port announce facilityNs s
  | .ptpAnnounceTimeout now => Sys2Proof.Machine.execPtpAnnounceTimeout now s
  | .ppsIn now => Sys2Proof.Machine.execPpsIn now s
  | .ppsTimeout now => Sys2Proof.Machine.execPpsTimeout now s
  | .tickIn now => Sys2Proof.Machine.execTickIn now s
  | .idleMeasure now watts => Sys2Proof.Machine.execIdleMeasure now watts s
  | .capLoopUpdate now p10 => Sys2Proof.Machine.execCapLoopUpdate now p10 s
  | .ocpTrip now => Sys2Proof.Machine.execOcpTrip now s
  | .ocpRecover now => Sys2Proof.Machine.execOcpRecover now s
  | .ocpShutdown now => Sys2Proof.Machine.execOcpShutdown now s
  | .droopDetect now die minMv cycles => Sys2Proof.Machine.execDroopDetect now die minMv cycles s
  | .droopEnd now die cycles => Sys2Proof.Machine.execDroopEnd now die cycles s
  | .thermalSample now dieTemps stackTemps engine inlet => Sys2Proof.Machine.execThermalSample now dieTemps stackTemps engine inlet s
  | .thermalTrip now die temp => Sys2Proof.Machine.execThermalTrip now die temp s
  | .grazeSlice now task unit work => Sys2Proof.Machine.execGrazeSlice now task unit work s
  | .forcedSlice now task unit work lengthNs => Sys2Proof.Machine.execForcedSlice now task unit work lengthNs s
  | .bistSlice now kind index outcome => Sys2Proof.Machine.execBistSlice now kind index outcome s
  | .taskPeriodEnd now task unit => Sys2Proof.Machine.execTaskPeriodEnd now task unit s
  | .sensorCalibration now die => Sys2Proof.Machine.execSensorCalibration now die s
  | .laserAgeingCompensation now bias => Sys2Proof.Machine.execLaserAgeingCompensation now bias s
  | .norLogLevelling now => Sys2Proof.Machine.execNorLogLevelling now s
  | .tileRotation now => Sys2Proof.Machine.execTileRotation now s
  | .refresh now die => Sys2Proof.Machine.execRefresh now die s
  | .parityRetry now point u addr failed content source sender => Sys2Proof.Machine.execParityRetry now point u addr failed content source sender s
  | .pwrEnRise now => Sys2Proof.Machine.execPwrEnRise now s
  | .bootPhaseComplete now failed images => Sys2Proof.Machine.execBootPhaseComplete now failed images s
  | .bootPhaseTimeout now => Sys2Proof.Machine.execBootPhaseTimeout now s
  | .pwrEnFall now => Sys2Proof.Machine.execPwrEnFall now s
  | .inputOutOfRange now => Sys2Proof.Machine.execInputOutOfRange now s
  | .inputInRange now => Sys2Proof.Machine.execInputInRange now s
  | .modRstNFall now => Sys2Proof.Machine.execModRstNFall now s
  | .watchdog now images => Sys2Proof.Machine.execWatchdog now images s
  | .modRstNRise now images => Sys2Proof.Machine.execModRstNRise now images s
  | .hostRstN now level => Sys2Proof.Machine.execHostRstN now level s
  | .jtagExtestEntry now => Sys2Proof.Machine.execJtagExtestEntry now s
  | .jtagScanExit now => Sys2Proof.Machine.execJtagScanExit now s
  | .getVersion endpoint => Sys2Proof.Machine.execGetVersion endpoint s
  | .getCapabilities endpoint => Sys2Proof.Machine.execGetCapabilities endpoint s
  | .negotiateAlgorithms endpoint => Sys2Proof.Machine.execNegotiateAlgorithms endpoint s
  | .getDigests endpoint => Sys2Proof.Machine.execGetDigests endpoint s
  | .getCertificate endpoint slot offset length => Sys2Proof.Machine.execGetCertificate endpoint slot offset length s
  | .challenge endpoint slot nonce => Sys2Proof.Machine.execChallenge endpoint slot nonce s
  | .getMeasurements endpoint signed nonce => Sys2Proof.Machine.execGetMeasurements endpoint signed nonce s
  | .spdmUnsupportedRequest endpoint code => Sys2Proof.Machine.execSpdmUnsupportedRequest endpoint code s
  | .requestUpdate endpoint => Sys2Proof.Machine.execRequestUpdate endpoint s
  | .firmwareImageTransfer component image => Sys2Proof.Machine.execFirmwareImageTransfer component image s
  | .activateFirmware now component => Sys2Proof.Machine.execActivateFirmware now component s
  | .pldmSetCap now endpoint watts => Sys2Proof.Machine.execPldmSetCap now endpoint watts s
  | .pldmSensorRead endpoint sensor => Sys2Proof.Machine.execPldmSensorRead endpoint sensor s
  | .foldLoadComplete target num => Sys2Proof.Machine.execFoldLoadComplete target num s
  | .memReconfigureComplete => Sys2Proof.Machine.execMemReconfigureComplete s
  | .hqRegionCtlRead n => Sys2Proof.Machine.execHqRegionCtlRead n s
  | .pluggableInsertion port powerW => Sys2Proof.Machine.execPluggableInsertion port powerW s
  | .dynamicAddressAssignment address daa => Sys2Proof.Machine.execDynamicAddressAssignment address daa s
  | .peerRetrain now li => Sys2Proof.Machine.execPeerRetrain now li s

end Sys2Proof.Machine
end

