-- ==== Sys2Proof/Safety.lean ====
section
/-! DEFINITION. The terms in which the statements speak: what a safe step is, where a Trelet instruction issues and goes on,
and the instructions that change registers of their tile alone, with what they do written out from the spec. -/

namespace Sys2Proof.Machine

/-! ## Safe steps -/

/-- The command asks a requalification, the one way off the quarantine list (R374, R376): the command itself, or a write of
the register GZ_BIST_REQ (R384), at 0xC010 of the CSR space, which can request one. -/
def asksRequalify (s : State) : Instr → Bool
  | .requalify _ _ _ => true
  | .registerWrite _ off _ _ => off / 8 == 0x1802
  | .windowWrite _ off _ => (windowAddr s off - csrBase) / 8 == 0x1802
  | _ => false

/-- A step from `s` to `t` is safe: memory keeps its canonical form, what is fused stays (R389 to R391), a tile leaves the
quarantine list where a requalification is asked alone (R374), and no free value is used twice. -/
structure SafeStep (s t : State) : Prop where
  mem : Memory.wf s.mm = true → Memory.wf t.mm = true
  svn : s.nor.svn ≤ t.nor.svn
  counter : s.nor.enrollCtr ≤ t.nor.enrollCtr
  owner : ∀ h, s.nor.ownerHash = some h → t.nor.ownerHash = some h
  quarantine : (∀ c r, s.pending = c :: r → asksRequalify s c = false) →
    ∀ p, s.nor.quarTiles.getLsbD p = true → t.nor.quarTiles.getLsbD p = true
  free : s.freeCtr ≤ t.freeCtr

/-! ## Where a Trelet instruction issues -/

/-- The word at the program counter of tile `p` is this instruction, the encoding is a legal one, and the tile issues
(R265, R284, R287). -/
structure Issues (s : State) (p op : Nat) (f : Fields) (legal : Bool) : Prop where
  tile : p < 160
  can : canIssue s p = true
  pc : (getTile s p).pc < imemBytes
  word : fetchWord (getTile s p) = encodeWord op f
  legal : legal = true

/-- The word at `a` in instruction memory of tile `p` is an instruction of the opcode map (R285, R288). -/
def ListedAt (s : State) (p a : Nat) : Prop :=
  a < imemBytes ∧ listedOpcode (opcodeOf (tabGet 0 (getTile s p).imem (a / 8))) = true

/-- The tile goes on with the next word. -/
def GoesOn (s : State) (p : Nat) : Prop := ListedAt s p ((getTile s p).pc + 8)

/-- Tile `p` becomes `x` with its program counter at `a`; nothing else changes. -/
def tileAt (p a : Nat) (x : Tile) (s : State) : State := setTile p { x with pc := a } s

/-- Tile `p` becomes `x` and goes on with the next word; nothing else changes. -/
def tileNext (p : Nat) (x : Tile) (s : State) : State := tileAt p ((getTile s p).pc + 8) x s

/-! ## Instructions that change their tile's registers alone -/

/-- A Trelet instruction: the command, its opcode, its legal encodings, and what it does to its tile. -/
structure RegOp where
  cmd : Nat → Fields → Instr
  code : Nat
  legal : Fields → Bool
  run : Fields → Tile → Tile

/-- sD takes a value of sA and sB. -/
def rr (cmd : Nat → Fields → Instr) (code : Nat) (g : Word64 → Word64 → Word64) : RegOp :=
  { cmd, code, legal := okRRR, run := fun f t => writeS f.d (g (readS t f.a) (readS t f.b)) t }

/-- sD takes a value of sA and IMM sign-extended. -/
def ri (cmd : Nat → Fields → Instr) (code : Nat) (g : Word64 → Word64 → Word64) : RegOp :=
  { cmd, code, legal := okRRI, run := fun f t => writeS f.d (g (readS t f.a) (f.imm.signExtend 64)) t }

/-- sD takes sA shifted by IMM[5:0]. -/
def sh (cmd : Nat → Fields → Instr) (code : Nat) (g : Word64 → Nat → Word64) : RegOp :=
  { cmd, code, legal := okShiftI, run := fun f t => writeS f.d (g (readS t f.a) (f.imm.toNat % 64)) t }

/-- mD takes a function of two mask registers. -/
def mm2 (cmd : Nat → Fields → Instr) (code : Nat) (g : BitVec 256 → BitVec 256 → BitVec 256) : RegOp :=
  { cmd, code, legal := okMaskOp
    run := fun f t => writeMask (f.d.toNat - 32) (g (readMask t (f.a.toNat - 32)) (readMask t (f.b.toNat - 32))) t }

/-- The scalar arithmetic of R289. -/
def scalarOps : List RegOp :=
  [rr .add 0x01 (fun a b => a + b), rr .sub 0x02 (fun a b => a - b), rr .mul 0x03 (fun a b => a * b),
   rr .and 0x04 (fun a b => a &&& b), rr .or 0x05 (fun a b => a ||| b), rr .xor 0x06 (fun a b => a ^^^ b),
   rr .shl 0x07 (fun a b => a <<< (b.toNat % 64)), rr .shr 0x08 (fun a b => a >>> (b.toNat % 64)),
   rr .sra 0x09 (fun a b => a.sshiftRight (b.toNat % 64)),
   rr .slt 0x0A (fun a b => if a.toInt < b.toInt then 1 else 0), rr .sltu 0x0B (fun a b => if a.toNat < b.toNat then 1 else 0),
   ri .addi 0x11 (fun a i => a + i), ri .muli 0x13 (fun a i => a * i), ri .andi 0x14 (fun a i => a &&& i),
   ri .ori 0x15 (fun a i => a ||| i), ri .xori 0x16 (fun a i => a ^^^ i),
   sh .shli 0x17 (fun a n => a <<< n), sh .shri 0x18 (fun a n => a >>> n), sh .srai 0x19 (fun a n => a.sshiftRight n),
   ri .slti 0x1A (fun a i => if a.toInt < i.toInt then 1 else 0), ri .sltiu 0x1B (fun a i => if a.toNat < i.toNat then 1 else 0),
   ri .lih 0x1C (fun a i => i <<< 32 ||| a &&& 0xFFFFFFFF)]

/-- Mask logic (R293), VFLAGS (R256), clearing a channel (R253), and nop (R301). -/
def registerOps : List RegOp :=
  [mm2 .mand 0x5D (fun a b => a &&& b), mm2 .mor 0x5E (fun a b => a ||| b), mm2 .mxor 0x5F (fun a b => a ^^^ b),
   { cmd := .vfrd, code := 0x66, legal := okVfrd, run := fun f t => writeS f.d (t.vflags.setWidth 64) t },
   { cmd := .vfclr, code := 0x67, legal := okVfclr
     run := fun f t => { t with vflags := t.vflags &&& ~~~((readS t f.a).setWidth 5) } },
   { cmd := .rclr, code := 0x64, legal := okRclr
     run := fun f t => { t with chans := t.chans.filter fun e => e.1 / 64 ≠ vChan f } },
   { cmd := .nop, code := 0xE1, legal := okNop, run := fun _ t => t }]

/-- A branch of R290: its condition on sA and sB. -/
structure BranchOp where
  cmd : Nat → Fields → Instr
  code : Nat
  taken : Word64 → Word64 → Bool

def branchOps : List BranchOp :=
  [{ cmd := .beq, code := 0x22, taken := fun a b => decide (a = b) },
   { cmd := .bne, code := 0x23, taken := fun a b => decide (a ≠ b) },
   { cmd := .blt, code := 0x24, taken := fun a b => decide (a.toInt < b.toInt) },
   { cmd := .bge, code := 0x25, taken := fun a b => decide (b.toInt ≤ a.toInt) },
   { cmd := .bltu, code := 0x26, taken := fun a b => decide (a.toNat < b.toNat) },
   { cmd := .bgeu, code := 0x27, taken := fun a b => decide (b.toNat ≤ a.toNat) }]

/-! ## Element-wise vector instructions -/

/-- A vector instruction: the command, its opcode, its legal encodings, and the results of all its lanes. -/
structure VecOp where
  cmd : Nat → Fields → Instr
  code : Nat
  legal : Fields → Bool
  lanes : Fields → Tile → List LaneRes

/-- Lanes of a register in the instruction's view. -/
def viewOf (f : Fields) (t : Tile) (r : BitVec 6) : List Nat := vLanes t (vView f) r

/-- One floating source. -/
def fp1 (cmd : Nat → Fields → Instr) (code : Nat) (legal : Fields → Bool) (g : FpFmt → Nat → Nat × FpFlags) : VecOp :=
  { cmd, code, legal
    lanes := fun f t => (viewOf f t f.a).map fun a => floatRes (viewFmt (vView f)) [a] (g (viewFmt (vView f)) a) }

/-- Two floating sources. -/
def fp2 (cmd : Nat → Fields → Instr) (code : Nat) (legal : Fields → Bool) (g : FpFmt → Nat → Nat → Nat × FpFlags) : VecOp :=
  { cmd, code, legal
    lanes := fun f t => ((viewOf f t f.a).zip (viewOf f t f.b)).map fun x =>
      floatRes (viewFmt (vView f)) [x.1, x.2] (g (viewFmt (vView f)) x.1 x.2) }

/-- Two integer sources of width w: the result modulo 2^w, without flags. -/
def in2 (cmd : Nat → Fields → Instr) (code : Nat) (legal : Fields → Bool) (g : Nat → Nat → Nat → Nat) : VecOp :=
  { cmd, code, legal
    lanes := fun f t => ((viewOf f t f.a).zip (viewOf f t f.b)).map fun x =>
      { code := g (viewBits (vView f)) x.1 x.2 % 2 ^ viewBits (vView f) } }

/-- Floating in a float view, integer in an integer view. -/
def fi2 (cmd : Nat → Fields → Instr) (code : Nat) (g : FpFmt → Nat → Nat → Nat × FpFlags) (h : Nat → Nat → Nat → Nat) : VecOp :=
  { cmd, code, legal := okV3 isAnyView true
    lanes := fun f t =>
      if isInt (vView f) then (in2 cmd code (okV3 isAnyView true) h).lanes f t
      else (fp2 cmd code (okV3 isAnyView true) g).lanes f t }

/-- The element-wise operations of R250 and R293. -/
def vecOps : List VecOp :=
  [fi2 .vadd 0x43 (fun m => fpOp2 m fpAdd) (fun _ a b => a + b),
   fi2 .vsub 0x44 (fun m => fpOp2 m fun x y => fpAdd x (fpNeg y)) (fun w a b => a + 2 ^ w - b),
   fp2 .vmul 0x45 (okV3 isFloat true) (fun m => fpOp2 m fpMul),
   { cmd := .vfma, code := 0x46, legal := okVfma
     lanes := fun f t => (((viewOf f t f.a).zip (viewOf f t f.b)).zip (viewOf f t f.c)).map fun x =>
       floatRes (viewFmt (vView f)) [x.1.1, x.1.2, x.2] (fpFmaOp (viewFmt (vView f)) x.1.1 x.1.2 x.2) },
   fp2 .vmin 0x47 (okV3 isFloat true) (fun m => fpOp2 m fpMin),
   fp2 .vmax 0x48 (okV3 isFloat true) (fun m => fpOp2 m fpMax),
   fp1 .vabs 0x49 (okV2 isFloat true) (signOp false),
   fp1 .vneg 0x4A (okV2 isFloat true) (signOp true),
   fp2 .vdiv 0x4B (okV3 isFloat false) fpDivOp,
   fp1 .vsqrt 0x4C (okV2 isFloat false) (fun m => fpOp1 m fpSqrt),
   fp1 .vrsqrt 0x4D (okV2 isFloat false) (fun m => fpOp1 m fpRsqrt),
   fp1 .vexp2 0x4E (okV2 isFp32 false) (fun _ => exp2Op),
   fp1 .vlog2 0x4F (okV2 isFp32 false) (fun _ => log2Op),
   { cmd := .vsel, code := 0x54, legal := okVsel
     lanes := fun f t => ((viewOf f t f.a).zip (viewOf f t f.b)).zipIdx.map fun x =>
       { code := if (readMask t (f.c.toNat - 32)).getLsbD x.2 then x.1.1 else x.1.2 } },
   in2 .vand 0x56 (okV3 isInt false) (fun _ a b => a &&& b),
   in2 .vor 0x57 (okV3 isInt false) (fun _ a b => a ||| b),
   in2 .vxor 0x58 (okV3 isInt false) (fun _ a b => a ^^^ b),
   in2 .vshl 0x59 (okV3 isInt false) (fun w a b => a * 2 ^ (b % w)),
   in2 .vshr 0x5A (okV3 isInt false) (fun w a b => a / 2 ^ (b % w)),
   in2 .vsra 0x5B (okV3 isInt false) (fun w a b => ((laneInt w a / 2 ^ (b % w)) % 2 ^ w).toNat),
   { cmd := .vmov, code := 0x5C, legal := okV2 isAnyView false
     lanes := fun f t => (viewOf f t f.a).map fun a => { code := a } }]

/-- Lanes of the destination that a mask register governs, with their results. -/
def governed (f : Fields) (t : Tile) (rs : List LaneRes) : List (Nat × LaneRes) :=
  activeLanes (readMask t (vMask f)) 0 rs

/-- A compare: true on two values of a float view, and on two integers. -/
structure CompareOp where
  cmd : Nat → Fields → Instr
  code : Nat
  fp : Fp → Fp → Bool
  int : Int → Int → Bool

def compareOps : List CompareOp :=
  [{ cmd := .vcmpEq, code := 0x50, fp := fpEq, int := fun a b => decide (a = b) },
   { cmd := .vcmpNe, code := 0x51, fp := fun a b => !fpEq a b, int := fun a b => decide (a ≠ b) },
   { cmd := .vcmpLt, code := 0x52, fp := fpLt, int := fun a b => decide (a < b) },
   { cmd := .vcmpLe, code := 0x53, fp := fun a b => fpLt a b || fpEq a b, int := fun a b => decide (a ≤ b) }]

/-- What a compare writes at bit `l` of its destination mask. -/
def compareBit (e : CompareOp) (f : Fields) (t : Tile) (l : Nat) : Bool :=
  let v := vView f
  if l < viewLanes v then
    let a := (viewOf f t f.a).getD l 0
    let b := (viewOf f t f.b).getD l 0
    if (readMask t (vMask f)).getLsbD l then
      (if isFloat v then e.fp (fpDecode (viewFmt v) a) (fpDecode (viewFmt v) b) else e.int (laneInt (viewBits v) a) (laneInt (viewBits v) b))
    else (readMask t (f.d.toNat - 32)).getLsbD l
  else false

/-! ## Every Trelet instruction -/

/-- A Trelet instruction: the command, its opcode, its legal encodings, and whether the command names an instant. -/
structure TreletOp where
  cmd : Nat → Nat → Fields → Instr
  code : Nat
  legal : Fields → Bool
  timed : Bool

/-- The scalar class, with their opcodes (R285). -/
def treletScalar : List TreletOp :=
  [⟨fun _ p f => .add p f, 0x01, okRRR, false⟩, ⟨fun _ p f => .sub p f, 0x02, okRRR, false⟩,
   ⟨fun _ p f => .mul p f, 0x03, okRRR, false⟩, ⟨fun _ p f => .and p f, 0x04, okRRR, false⟩,
   ⟨fun _ p f => .or p f, 0x05, okRRR, false⟩, ⟨fun _ p f => .xor p f, 0x06, okRRR, false⟩,
   ⟨fun _ p f => .shl p f, 0x07, okRRR, false⟩, ⟨fun _ p f => .shr p f, 0x08, okRRR, false⟩,
   ⟨fun _ p f => .sra p f, 0x09, okRRR, false⟩, ⟨fun _ p f => .slt p f, 0x0A, okRRR, false⟩,
   ⟨fun _ p f => .sltu p f, 0x0B, okRRR, false⟩, ⟨fun _ p f => .addi p f, 0x11, okRRI, false⟩,
   ⟨fun _ p f => .muli p f, 0x13, okRRI, false⟩, ⟨fun _ p f => .andi p f, 0x14, okRRI, false⟩,
   ⟨fun _ p f => .ori p f, 0x15, okRRI, false⟩, ⟨fun _ p f => .xori p f, 0x16, okRRI, false⟩,
   ⟨fun _ p f => .shli p f, 0x17, okShiftI, false⟩, ⟨fun _ p f => .shri p f, 0x18, okShiftI, false⟩,
   ⟨fun _ p f => .srai p f, 0x19, okShiftI, false⟩, ⟨fun _ p f => .slti p f, 0x1A, okRRI, false⟩,
   ⟨fun _ p f => .sltiu p f, 0x1B, okRRI, false⟩, ⟨fun _ p f => .lih p f, 0x1C, okRRI, false⟩,
   ⟨fun _ p f => .ld p f, 0x1D, okRRI, false⟩, ⟨fun _ p f => .st p f, 0x1E, okStore, false⟩]

/-- The branch and sync class, with their opcodes (R285). -/
def treletBranch : List TreletOp :=
  [⟨fun _ p f => .jmp p f, 0x21, okJmp, false⟩, ⟨fun _ p f => .beq p f, 0x22, okBranch, false⟩,
   ⟨fun _ p f => .bne p f, 0x23, okBranch, false⟩, ⟨fun _ p f => .blt p f, 0x24, okBranch, false⟩,
   ⟨fun _ p f => .bge p f, 0x25, okBranch, false⟩, ⟨fun _ p f => .bltu p f, 0x26, okBranch, false⟩,
   ⟨fun _ p f => .bgeu p f, 0x27, okBranch, false⟩, ⟨fun _ p f => .jal p f, 0x28, okJal, false⟩,
   ⟨fun _ p f => .jr p f, 0x29, okJr, false⟩, ⟨fun _ p f => .waitTok p f, 0x2A, okWaitTok, false⟩,
   ⟨fun now p f => .waitLeg now p f, 0x2B, okWaitLeg, true⟩, ⟨fun now p f => .hurdle now p f, 0x2C, okHurdle, true⟩]

/-- The vector class, with their opcodes (R285). -/
def treletVector : List TreletOp :=
  [⟨fun _ p f => .vld p f, 0x41, okVld, false⟩, ⟨fun _ p f => .vst p f, 0x42, okVst, false⟩,
   ⟨fun _ p f => .vadd p f, 0x43, okV3 isAnyView true, false⟩, ⟨fun _ p f => .vsub p f, 0x44, okV3 isAnyView true, false⟩,
   ⟨fun _ p f => .vmul p f, 0x45, okV3 isFloat true, false⟩, ⟨fun _ p f => .vfma p f, 0x46, okVfma, false⟩,
   ⟨fun _ p f => .vmin p f, 0x47, okV3 isFloat true, false⟩, ⟨fun _ p f => .vmax p f, 0x48, okV3 isFloat true, false⟩,
   ⟨fun _ p f => .vabs p f, 0x49, okV2 isFloat true, false⟩, ⟨fun _ p f => .vneg p f, 0x4A, okV2 isFloat true, false⟩,
   ⟨fun _ p f => .vdiv p f, 0x4B, okV3 isFloat false, false⟩, ⟨fun _ p f => .vsqrt p f, 0x4C, okV2 isFloat false, false⟩,
   ⟨fun _ p f => .vrsqrt p f, 0x4D, okV2 isFloat false, false⟩, ⟨fun _ p f => .vexp2 p f, 0x4E, okV2 isFp32 false, false⟩,
   ⟨fun _ p f => .vlog2 p f, 0x4F, okV2 isFp32 false, false⟩, ⟨fun _ p f => .vcmpEq p f, 0x50, okVcmp, false⟩,
   ⟨fun _ p f => .vcmpNe p f, 0x51, okVcmp, false⟩, ⟨fun _ p f => .vcmpLt p f, 0x52, okVcmp, false⟩,
   ⟨fun _ p f => .vcmpLe p f, 0x53, okVcmp, false⟩, ⟨fun _ p f => .vsel p f, 0x54, okVsel, false⟩,
   ⟨fun _ p f => .vcvt p f, 0x55, okVcvt, false⟩, ⟨fun _ p f => .vand p f, 0x56, okV3 isInt false, false⟩,
   ⟨fun _ p f => .vor p f, 0x57, okV3 isInt false, false⟩, ⟨fun _ p f => .vxor p f, 0x58, okV3 isInt false, false⟩,
   ⟨fun _ p f => .vshl p f, 0x59, okV3 isInt false, false⟩, ⟨fun _ p f => .vshr p f, 0x5A, okV3 isInt false, false⟩,
   ⟨fun _ p f => .vsra p f, 0x5B, okV3 isInt false, false⟩, ⟨fun _ p f => .vmov p f, 0x5C, okV2 isAnyView false, false⟩,
   ⟨fun _ p f => .mand p f, 0x5D, okMaskOp, false⟩, ⟨fun _ p f => .mor p f, 0x5E, okMaskOp, false⟩,
   ⟨fun _ p f => .mxor p f, 0x5F, okMaskOp, false⟩]

/-- The reduction class, with their opcodes (R285). -/
def treletReduce : List TreletOp :=
  [⟨fun _ p f => .vrsum p f, 0x61, okVred, false⟩, ⟨fun _ p f => .vrmax p f, 0x62, okVred, false⟩,
   ⟨fun _ p f => .vrmin p f, 0x63, okVred, false⟩, ⟨fun _ p f => .rclr p f, 0x64, okRclr, false⟩,
   ⟨fun _ p f => .rread p f, 0x65, okRread, false⟩, ⟨fun _ p f => .vfrd p f, 0x66, okVfrd, false⟩,
   ⟨fun _ p f => .vfclr p f, 0x67, okVfclr, false⟩]

/-- The matrix, drover, embedding and system classes, with their opcodes (R285). -/
def treletUnit : List TreletOp :=
  [⟨fun _ p f => .mma p false f, 0x81, okMma, false⟩, ⟨fun _ p f => .mma p true f, 0x82, okMma, false⟩,
   ⟨fun _ p f => .drain p f, 0x83, okDrain, false⟩, ⟨fun _ p f => .dmv p f, 0xA1, okDmv, false⟩,
   ⟨fun _ p f => .dmvDense p f, 0xA2, okDense, false⟩, ⟨fun _ p f => .embLook p f, 0xC1, okLook, false⟩,
   ⟨fun _ p f => .embGrad p f, 0xC2, okGrad, false⟩, ⟨fun now p f => .embPost now p f, 0xC3, okPost, true⟩,
   ⟨fun _ p f => .nop p f, 0xE1, okNop, false⟩, ⟨fun now p f => .sysrd now p f, 0xE2, okSysrd, true⟩,
   ⟨fun now p f => .trap now p f, 0xE3, okTrap, true⟩]

def treletOps : List TreletOp := treletScalar ++ treletBranch ++ treletVector ++ treletReduce ++ treletUnit

/-! ## Reading the system, lane trees, conversions -/

/-- The value of a sysrd code (R266); none where it is a field of a leg tag that the tile does not have. -/
def systemValue (s : State) (p code : Nat) : Option Word64 :=
  match code with
  | 0 => some (BitVec.ofNat 64 ((logicalOf s p).getD 0xFF))
  | 1 => some (BitVec.ofNat 64 p)
  | 2 => some (BitVec.ofNat 64 s.lg.chip)
  | 3 => (getTile s p).tag.map fun g => BitVec.ofNat 64 g.tick
  | 4 => (getTile s p).tag.map fun g => BitVec.ofNat 64 g.step
  | 5 => (getTile s p).tag.map fun g =>
      BitVec.ofNat 64 (g.leg + 32 * g.kind + (if g.abandoned then 256 else 0) + g.tick % 2 ^ 48 * 65536)
  | _ => some (BitVec.ofNat 64 ((s.now - s.job.startAt) * 13 / 10))

/-- A lane-end reduction: what an inactive lane counts as, and the operation. -/
structure LaneTree where
  cmd : Nat → Fields → Instr
  code : Nat
  unit : Nat
  op : Nat → Nat → Nat × FpFlags

def laneTrees : List LaneTree :=
  [⟨.vrsum, 0x61, 0, fpOp2 fmtFp32 fpAdd⟩, ⟨.vrmax, 0x62, fmtInf fmtFp32 true, fpOp2 fmtFp32 fpMax⟩,
   ⟨.vrmin, 0x63, fmtInf fmtFp32 false, fpOp2 fmtFp32 fpMin⟩]

/-- The 64 values that a reduction combines. -/
def treeInputs (unit : Nat) (f : Fields) (t : Tile) : List Nat :=
  (vLanes t 0 f.a).zipIdx.map fun x => if (readMask t (vMask f)).getLsbD x.2 then x.1 else unit

/-- The state lanes of the channel that rread names. -/
def chanLanes (f : Fields) (t : Tile) : List ChanLane := (List.range 64).map fun k => tabGet {} t.chans (64 * vChan f + k)

/-- An FP32 value in every lane of the destination, its flags ORed, and its NaN noted; `src`: a source was NaN. -/
def broadcastNan (p engine code c : Nat) (src : Bool) (f : Fields) (fl : FpFlags) (s : State) : State :=
  noteNans p engine (getTile s p).pc code 0 0 (if fpIsNan (fpDecode fmtFp32 c) then [(0, src)] else [])
    (setTile p { writeV f.d (broadcast c) (getTile s p) with vflags := (getTile s p).vflags ||| fl } s)

/-- The statistic that rread reads, with its flags (R255). -/
def channelStat (f : Fields) (t : Tile) : Nat × FpFlags :=
  let m := mergeTree 6 (chanLanes f t)
  let q := statOf (immF f 0 3) (m.1.headD {})
  (q.1, m.2 ||| q.2 ||| (if fpIsNan (fpDecode fmtFp32 q.1) then flNan else 0))

/-- The lanes that a vld loads. -/
def loadedLanes (p : Nat) (f : Fields) (s : State) : List LaneRes × State :=
  if vMode f = 1 then stridedLanes p (getTile s p) f (List.range (viewLanes (vView f))) s else unitLanes p (getTile s p) f s

/-- The governed lanes that a vcvt writes (R251): a widening reads one half, a narrowing writes one. -/
def convertedLanes (step : Nat) (f : Fields) (t : Tile) : List (Nat × LaneRes) :=
  let src := vLanes t (cvtSrc f) f.a
  if vView f = 0 then
    activeLanes (readMask t (vMask f)) 0 (((src.drop (64 * vHalf f)).take 64).map (convRes (viewFmt (cvtSrc f)) fmtFp32 0 0))
  else
    activeLanes (readMask t (vMask f)) (64 * vHalf f) (src.zipIdx.map fun x =>
      convRes fmtFp32 (viewFmt (vView f)) (vRm f) (srDraw step (((readS t f.b).toNat + (64 * vHalf f + x.2)) % 2 ^ 64)) x.1)

/-! ## Drover transfers -/

/-- What a dmv names (R269, R299). -/
structure DmvArgs where
  shape : Nat
  bytes : Nat
  rows : Nat
  src : Nat
  dst : Nat
  srcStride : Int
  dstStride : Int

def dmvArgs (t : Tile) (f : Fields) : DmvArgs :=
  let shape := (readS t f.d).toNat
  { shape, bytes := shape % 2 ^ 21, rows := shape / 2 ^ 32 % 2 ^ 16 + 1, src := (readS t f.a).toNat, dst := (readS t f.b).toNat
    srcStride := ((readS t f.c).setWidth 32).toInt, dstStride := ((readS t f.c >>> 32).setWidth 32).toInt }

/-- ROW_BYTES is 4 to 2^20, the reserved bits are 0, and sizes, bases and strides are multiples of 4. -/
def dmvLegal (d : DmvArgs) : Bool :=
  4 ≤ d.bytes && d.bytes ≤ 2 ^ 20 && d.bytes % 4 == 0 && d.shape / 2 ^ 21 % 2 ^ 11 == 0 && d.shape / 2 ^ 48 == 0 &&
    d.src % 4 == 0 && d.dst % 4 == 0 && d.srcStride % 4 == 0 && d.dstStride % 4 == 0

/-! ## Carriages received -/

/-- The carriage is the next in order on a link that is UP (R171). -/
structure InOrder (s : State) (rx : Rx) : Prop where
  li : rx.li < 96
  up : (getLink s rx.li).state = 2
  seq : rx.seq = ((getLink s rx.li).rxLast + 1) % 65536

/-- The state with the carriage's header taken and its buffer freed (R167, R170). -/
def received (now : Nat) (rx : Rx) (b : Body) (s : State) : State :=
  freeBuffer rx.li (poolOf b rx.cls rx.hops) (rxHeader rx (atTime now s)).2

end Sys2Proof.Machine
end

