-- ==== Sys2Proof/Certificates/Slice0/Obligations.lean ====
section
/-! DEFINITION. The statements about the module, each with the rules of the manual it formalises. -/

open Sys2Proof Sys2Proof.Machine

/-- A step is the command at the front of the queue, run with the rest of the queue; an idle step changes nothing (log 1, the
model's choice). -/
def Obligations.StepRunsTheFront : Prop :=
  (∀ (c : Instr) (r : List Instr) (s : State), s.pending = c :: r → step s = exec c { s with pending := r }) ∧
    ∀ s : State, s.pending = [] → step s = .next s

/-- Cold reset: memory in canonical form, nothing poisoned, nothing waiting. Unwritten bytes read 0 (log 1, the model's choice). -/
def Obligations.ResetMemory : Prop :=
  Memory.wf State.reset.mm = true ∧ State.reset.mm.poison = [] ∧ (∀ a, memByte State.reset.mm a = 0) ∧ State.reset.pending = []

/-- Module memory keeps its canonical form (the model's own, log 1) over every step. -/
def Obligations.StepKeepsMemoryForm : Prop :=
  ∀ s t : State, Memory.wf s.mm = true → step s = .next t → Memory.wf t.mm = true

/-- What is fused stays: the SVN and the enrolment counter never go down, and a fused owner key hash is kept (R389 to R391). -/
def Obligations.StepNeverUnfuses : Prop :=
  ∀ s t : State, step s = .next t →
    s.nor.svn ≤ t.nor.svn ∧ s.nor.enrollCtr ≤ t.nor.enrollCtr ∧ ∀ h, s.nor.ownerHash = some h → t.nor.ownerHash = some h

/-- Quarantine stays until a requalification is asked (R374, R376, R384). -/
def Obligations.QuarantineStays : Prop :=
  ∀ s t : State, (∀ c r, s.pending = c :: r → asksRequalify s c = false) → step s = .next t →
    ∀ p, s.nor.quarTiles.getLsbD p = true → t.nor.quarTiles.getLsbD p = true

/-- A step takes one command, only adds to what was sent, and never goes back in the free values (log 3). -/
def Obligations.StepTakesOneCommand : Prop :=
  ∀ (c : Instr) (r : List Instr) (s t : State), s.pending = c :: r → step s = .next t →
    t.pending = r ∧ s.out <:+ t.out ∧ s.freeCtr ≤ t.freeCtr

/-- A reserved encoding traps ENCODING (R281, R287). -/
def Obligations.ReservedEncodingsTrap : Prop :=
  ∀ e ∈ treletOps, ∀ (now : Nat) (s : State) (p : Nat) (f : Fields),
    Issues s p e.code f (!e.legal f) → e.timed = false ∨ now ≤ s.now →
      exec (e.cmd now p f) s = .next (trapHere p 2 20 0 [] s)

/-- What a trap leaves (R281 to R283). -/
def Obligations.TrapStopsTheTile : Prop :=
  ∀ (s : State) (p cause engine instr opcode addr : Nat) (detail : List Byte),
    ((getTile s p).trap = none → startedOp s 0x0003 = none →
      ∃ r, (getTile (trapAs p cause engine instr opcode addr detail s) p).trap = some r ∧
        r.cause = cause ∧ r.engine = engine ∧ r.physical = p ∧ r.instrAddr = instr ∧ r.opcode = opcode ∧ r.addr = addr ∧
        r.detail = detail ∧ ∀ g, (getTile s p).tag = some g → r.tick = g.tick ∧ r.leg = g.leg + 32 * g.kind) ∧
    (∀ r, (getTile s p).trap = some r → startedOp s 0x0003 = none → (getTile (trapAs p cause engine instr opcode addr detail s) p).trap = some r) ∧
    canIssue (trapAs p cause engine instr opcode addr detail s) p = false

/-- The frame of an instruction that answers `tileAt` (R263, R265). -/
def Obligations.TileStepFrame : Prop :=
  ∀ (s : State) (p a : Nat) (x : Tile),
    (∀ b, memByte (tileAt p a x s).mm b = memByte s.mm b) ∧ (∀ q, q ≠ p → getTile (tileAt p a x s) q = getTile s q) ∧
    getTile (tileAt p a x s) p = { x with pc := a } ∧
    tileAt p a x s = { s with tiles := { s.tiles with tile := (tileAt p a x s).tiles.tile } }

/-- Scalar registers and s0 (R266, R284). -/
def Obligations.ScalarZeroRegister : Prop :=
  ∀ (t : Tile) (r q : BitVec 6) (v : Word64),
    readS (writeS r v t) q = (if q = r ∧ r ≠ 0 then v else readS t q) ∧ readS t 0 = 0

/-- The register instructions (R253, R256, R289, R293, R301). -/
def Obligations.RegisterOperations : Prop :=
  ∀ e ∈ scalarOps ++ registerOps, ∀ (s : State) (p : Nat) (f : Fields),
    Issues s p e.code f (e.legal f) → GoesOn s p →
      exec (e.cmd p f) s = .next (tileNext p (e.run f (getTile s p)) s)

/-- ld and st (R289). -/
def Obligations.ScalarLoadStore : Prop :=
  ∀ (s : State) (p : Nat) (f : Fields) (a : Nat), a = (readS (getTile s p) f.a + f.imm.signExtend 64).toNat →
    a % 8 = 0 → a < 0x200000 → GoesOn s p →
    (Issues s p 0x1D f (okRRI f) → rgnUnseen (getTile s p) (rgnOne a 8) = false →
      exec (.ld p f) s =
        .next (tileNext p (writeS f.d (BitVec.ofNat 64 (leNat (tmemBytesAt (getTile s p) a 8))) (getTile s p)) s)) ∧
    (Issues s p 0x1E f (okStore f) →
      exec (.st p f) s = .next (tileNext p { soil [rgnOne a 8] (getTile s p) with
        tmem := putTmem (getTile s p).tmem a (leBytes 8 (readS (getTile s p) f.b).toNat) } s))

/-- Faults of ld and st (R281, R289). -/
def Obligations.ScalarAddressTraps : Prop :=
  ∀ (s : State) (p : Nat) (f : Fields) (a : Nat), a = (readS (getTile s p) f.a + f.imm.signExtend 64).toNat →
    (a % 8 ≠ 0 → Issues s p 0x1D f (okRRI f) → exec (.ld p f) s = .next (trapHere p 3 20 a [] s)) ∧
    (a % 8 ≠ 0 → Issues s p 0x1E f (okStore f) → exec (.st p f) s = .next (trapHere p 3 20 a [] s)) ∧
    (a % 8 = 0 → 0x200000 ≤ a → Issues s p 0x1D f (okRRI f) → exec (.ld p f) s = .next (trapHere p 4 20 a [] s)) ∧
    (a % 8 = 0 → 0x200000 ≤ a → Issues s p 0x1E f (okStore f) → exec (.st p f) s = .next (trapHere p 4 20 a [] s))

/-- What a write of tile memory leaves. -/
def Obligations.TileMemoryBytes : Prop :=
  ∀ (m : Tab Byte) (a : Nat) (bs : List Byte) (b : Nat),
    tabGet 0 (putTmem m a bs) b = if a ≤ b ∧ b < a + bs.length then bs.getD (b - a) 0 else tabGet 0 m b

/-- Branches (R290). -/
def Obligations.Branches : Prop :=
  (∀ (s : State) (p : Nat) (f : Fields), ListedAt s p f.imm.toNat → GoesOn s p →
    (∀ e ∈ branchOps, Issues s p e.code f (okBranch f) → exec (e.cmd p f) s = .next
      (if e.taken (readS (getTile s p) f.a) (readS (getTile s p) f.b) then tileAt p f.imm.toNat (getTile s p) s
        else tileNext p (getTile s p) s)) ∧
    (Issues s p 0x21 f (okJmp f) → exec (.jmp p f) s = .next (tileAt p f.imm.toNat (getTile s p) s)) ∧
    (Issues s p 0x28 f (okJal f) → exec (.jal p f) s =
      .next (tileAt p f.imm.toNat (writeS f.d (BitVec.ofNat 64 ((getTile s p).pc + 8)) (getTile s p)) s))) ∧
  ∀ (s : State) (p : Nat) (f : Fields) (a : Nat), a = (readS (getTile s p) f.a).toNat → Issues s p 0x29 f (okJr f) →
    (a % 8 = 0 → ListedAt s p a → exec (.jr p f) s = .next (tileAt p a (getTile s p) s)) ∧
    (a % 8 ≠ 0 → exec (.jr p f) s = .next (trapHere p 3 20 a [] s))

/-- The system class (R301), with the values of R266. -/
def Obligations.SystemInstructions : Prop :=
  ∀ (s : State) (p now : Nat) (f : Fields), now ≤ s.now →
    (Issues s p 0xE1 f (okNop f) → GoesOn s p → exec (.nop p f) s = .next (tileNext p (getTile s p) s)) ∧
    (Issues s p 0xE2 f (okSysrd f) → GoesOn s p →
      (∀ v, systemValue s p f.imm.toNat = some v → exec (.sysrd now p f) s = .next (tileNext p (writeS f.d v (getTile s p)) s)) ∧
      (systemValue s p f.imm.toNat = none → exec (.sysrd now p f) s =
        .next (tileNext p (writeS f.d (Config.freeWord s.freeCtr) (getTile s p)) { s with freeCtr := s.freeCtr + 1 }))) ∧
    (Issues s p 0xE2 f true → 7 ≤ f.imm.toNat → exec (.sysrd now p f) s = .next (trapHere p 2 20 0 [] s)) ∧
    (Issues s p 0xE3 f (okTrap f) → exec (.trap now p f) s = .next (trapHere p 11 20 0 (leBytes 4 f.imm.toNat) s))

/-- Element-wise vector instructions (R246, R250, R293). -/
def Obligations.VectorElementwise : Prop :=
  ∀ e ∈ vecOps, ∀ (s : State) (p : Nat) (f : Fields), Issues s p e.code f (e.legal f) →
    exec (e.cmd p f) s =
      .next (advance p (retireVec p f (governed f (getTile s p) (e.lanes f (getTile s p))) s))

/-- Retiring without a tap and without NaN results (R246, R256). -/
def Obligations.VectorRetires : Prop :=
  ∀ (s : State) (p : Nat) (f : Fields) (act : List (Nat × LaneRes)), vTap f = false → nansOf act = [] →
    retireVec p f act s = setTile p { writeV f.d (ofLanes (vView f) (mergeLanes (vLanes (getTile s p) (vView f) f.d) act))
      (getTile s p) with vflags := (getTile s p).vflags ||| orAll act } s

/-- Lanes of a register (R245). -/
def Obligations.LanesRead : Prop :=
  ∀ (v : Nat) (cs : List Nat), v ≤ 5 → cs.length = viewLanes v → (∀ c ∈ cs, c < 2 ^ viewBits v) →
    lanesOf v (ofLanes v cs) = cs

/-- Compares (R246, R250). -/
def Obligations.Compares : Prop :=
  ∀ e ∈ compareOps, ∀ (s : State) (p : Nat) (f : Fields), Issues s p e.code f (okVcmp f) → GoesOn s p →
    ∃ (fl : FpFlags) (m : BitVec 256), exec (e.cmd p f) s =
        .next (tileNext p { writeMask (f.d.toNat - 32) m (getTile s p) with vflags := (getTile s p).vflags ||| fl } s) ∧
      (∀ l, m.getLsbD l = compareBit e f (getTile s p) l) ∧ fl &&& ~~~flInvalid = 0

/-- vld, vst and vcvt (R247, R248, R251). -/
def Obligations.VectorMemory : Prop :=
  ∀ (s : State) (p : Nat) (f : Fields),
    (Issues s p 0x41 f (okVld f) →
      (∀ c a, vecFault (getTile s p) f = some (c, a) → exec (.vld p f) s = .next (trapHere p c 16 a [] s)) ∧
      (vecFault (getTile s p) f = none → ∀ rs u, loadedLanes p f s = (rs, u) → exec (.vld p f) s = .next (advance p (vecOp p f rs u)))) ∧
    (Issues s p 0x42 f (okVst f) →
      (∀ c a, vecFault (getTile s p) f = some (c, a) → exec (.vst p f) s = .next (trapHere p c 16 a [] s)) ∧
      (vecFault (getTile s p) f = none → ownFormat (vView f) (vMfmt f) = true → exec (.vst p f) s =
        .next (advance p (tileWrites p (storePieces (getTile s p) f (vLanes (getTile s p) (vView f) f.d) []) s))) ∧
      (vecFault (getTile s p) f = none → ownFormat (vView f) (vMfmt f) = false →
        ∀ cs scales fl, storeCodes s.tk.step (getTile s p) f = (cs, scales, fl) →
        ∃ nans : List Nat, exec (.vst p f) s = .next (advance p
          (noteNans p 16 (getTile s p).pc 0x42 (vMfmt f) 0 (nans.map fun l => (l, true))
            (orFlags p fl (tileWrites p (storePieces (getTile s p) f cs scales) s)))))) ∧
    (Issues s p 0x55 f (okVcvt f) →
      exec (.vcvt p f) s = .next (advance p (retireVec p f (convertedLanes s.tk.step f (getTile s p)) s)))

/-- Reductions (R252, R255). -/
def Obligations.Reductions : Prop :=
  ∀ (s : State) (p : Nat) (f : Fields),
    (∀ e ∈ laneTrees, ∀ xs, xs = treeInputs e.unit f (getTile s p) → Issues s p e.code f (okVred f) →
      exec (e.cmd p f) s = .next (advance p (broadcastNan p 16 e.code ((treeUp e.op 6 xs).1.headD 0)
        (xs.any fun x => fpIsNan (fpDecode fmtFp32 x)) f (treeUp e.op 6 xs).2 s))) ∧
    (Issues s p 0x65 f (okRread f) → exec (.rread p f) s = .next (advance p (broadcastNan p 17 0x65
      (channelStat f (getTile s p)).1
      ((chanLanes f (getTile s p)).any fun l => isNan32 l.mean || isNan32 l.m2 || isNan32 l.sum || isNan32 l.sq)
      f (channelStat f (getTile s p)).2 s)))

/-- The lane-end tree is balanced (R252). -/
def Obligations.TreeIsBalanced : Prop :=
  ∀ (g : Nat → Nat → Nat × FpFlags) (n : Nat) (xs ys : List Nat), xs.length = 2 ^ n → ys.length = 2 ^ n →
    ∃ a b, (treeUp g n xs).1 = [a] ∧ (treeUp g n ys).1 = [b] ∧ (treeUp g (n + 1) (xs ++ ys)).1 = [(g a b).1] ∧
      (treeUp g (n + 1) (xs ++ ys)).2 = (treeUp g n xs).2 ||| (treeUp g n ys).2 ||| (g a b).2

/-- wait.tok, wait.leg, hurdle, HURDLE_RELEASE, ENGINE_STAGGER_START (R244, R267, R268, R276, R278). -/
def Obligations.Waits : Prop :=
  (∀ (s : State) (p : Nat) (f : Fields), Issues s p 0x2A f (okWaitTok f) →
    ((maskTokens f).any (tokBusy (getTile s p)) = true → exec (.waitTok p f) s = .next s) ∧
    ((maskTokens f).any (tokBusy (getTile s p)) = false → GoesOn s p →
      ∃ us, exec (.waitTok p f) s = .next (tileNext p { getTile s p with unseen := us } s) ∧
        ∀ x, x ∈ us ↔ x ∈ (getTile s p).unseen ∧ ∀ k ∈ maskTokens f, x.tok ≠ some k)) ∧
  (∀ (s u : State) (now p l logical tick : Nat) (f : Fields), Issues s p 0x2B f (okWaitLeg f) → u = atTime now s →
    l = immF f 0 5 → logical = (logicalOf s p).getD 0xFF → tick = targetTick u (getTile s p) l →
    (s.tk.tick < tick ∨ isMoving s logical = true → exec (.waitLeg now p f) s =
      .next (settleTile p (setTile p { getTile s p with blocked := .leg l f.d.toNat tick } u))) ∧
    (tick ≤ s.tk.tick → isMoving s logical = false → ∀ o, legOcc s l tick = some o →
      (o.uset.tiles.getLsbD logical = true → GoesOn s p → ∀ v, v = releasePoint p (setTile p
        (writeS f.d (tagWord o) { getTile s p with tag := some (tagOf o), blocked := .no }) u) →
        exec (.waitLeg now p f) s = .next (settleTile p (tileNext p (getTile v p) v)) ∧
        getTile v p = writeS f.d (tagWord o) { getTile s p with
          tag := some (tagOf o), blocked := .no, stagger := (getTile v p).stagger }) ∧
      (o.uset.tiles.getLsbD logical = false → exec (.waitLeg now p f) s = .next (settleTile p (trapHere p 7 20 0 [] u))))) ∧
  (∀ (s u : State) (now p h l : Nat) (e : HurdleEnt), (∀ f, h = immF f 0 6 → Issues s p 0x2C f (okHurdle f) →
    u = atTime now s → e = hurdleEnt s h → l = (logicalOf s p).getD 0xFF →
    (outstanding (getTile s p) = true → exec (.hurdle now p f) s = .next u) ∧
    (outstanding (getTile s p) = false → l ∉ participants s e (hurdleDie e p) →
      exec (.hurdle now p f) s = .next (trapHere p 8 20 0 [] u)) ∧
    (outstanding (getTile s p) = false → l ∈ participants s e (hurdleDie e p) →
      ∃ t, exec (.hurdle now p f) s = .next t ∧ l ∈ (getHurdle t h (hurdleDie e p)).arrived ∧
        getTile t p = { getTile s p with blocked := .hurdle h, unseen := [] }))) ∧
  (∀ (s : State) (now h die r : Nat), (getHurdle s h die).releaseAt = some r → r ≤ max s.now now →
    exec (.hurdleRelease now h die) s = .next (releaseHurdle h die (atTime now s))) ∧
  ∀ (s : State) (now p e r : Nat), p < 160 → e < 16 → tabFind (getTile s p).stagger e = some r →
    r ≤ 13 * max s.now now → (tabGet [] (getTile s p).engines e).isEmpty = false →
    exec (.engineStaggerStart now p e) s =
      .next (openGate (staggerGate p e) (setTile p { getTile s p with stagger := tabDel (getTile s p).stagger e } (atTime now s)))

/-- Issue of the matrix class (R226, R296 to R298). -/
def Obligations.MatrixIssue : Prop :=
  ∀ (s : State) (p : Nat) (f : Fields) (t : Tile), t = getTile s p →
    (∀ (zero : Bool) (k n m : Nat), k = 32 * (immF f 8 7 + 1) → n = storedBytes (immF f 4 4) k → m = storedBytes (immF f 0 4) k →
      Issues s p (if zero then 0x82 else 0x81) f (okMma f) →
      (engineStall t f = true → exec (.mma p zero f) s = .next s) ∧
      (engineStall t f = false → descFault (readS t f.a) n = none → descFault (readS t f.b) m = none →
        ∃ x, exec (.mma p zero f) s = .next (advance p (queueEngine p (mEngine f) x s)) ∧
          x.op = .mma zero (immF f 4 4) (immF f 0 4) (immF f 8 7 + 1) (descBase (readS t f.a)) (descStride (readS t f.a))
            (descBase (readS t f.b)) (descStride (readS t f.b)) ∧
          x.acc = mAcc f ∧ x.tok = tokOf f ∧ x.addr = t.pc ∧ x.writes = [] ∧
          x.reads = [descRgn (readS t f.a) n, descRgn (readS t f.b) m]) ∧
      (engineStall t f = false → ∀ c a, descFault (readS t f.a) n = some (c, a) → descFault (readS t f.b) m = none →
        exec (.mma p zero f) s = .next (trapHere p c (mEngine f) a [] s))) ∧
    (∀ n m : Nat, n = storedBytes (immF f 4 4) 32 → m = storedBytes (immF f 11 2) 32 → Issues s p 0x83 f (okDrain f) →
      (engineStall t f = true → exec (.drain p f) s = .next s) ∧
      (engineStall t f = false → descFault (readS t f.a) n = none →
        (immF f 13 2 = 0 ∨ descFault (readS t f.b) m = none) →
        ∃ x, exec (.drain p f) s = .next (advance p (queueEngine p (mEngine f) x s)) ∧
          x.op = .drain (descBase (readS t f.a)) (descStride (readS t f.a)) (immF f 13 2) (descBase (readS t f.b))
            (descStride (readS t f.b)) (immF f 11 2) (immF f 9 2) (immF f 8 1 == 1) (immF f 4 4) (readS t f.c) ∧
          x.acc = mAcc f ∧ x.tok = tokOf f ∧ x.addr = t.pc ∧ x.writes = [descRgn (readS t f.a) n] ∧
          x.reads = if immF f 13 2 = 0 then [] else [descRgn (readS t f.b) m]) ∧
      (engineStall t f = false → ∀ c a, descFault (readS t f.a) n = some (c, a) → immF f 13 2 = 0 →
        exec (.drain p f) s = .next (trapHere p c (mEngine f) a [] s)))

/-- MMA_COMPLETE and DRAIN_COMPLETE (R227, R231, R232, R241). -/
def Obligations.MatrixCompletes : Prop :=
  (∀ (s : State) (p e : Nat) (x : EngEnt), p < 160 → e < 16 → engineHead s p e = some x →
    (∀ zero fa fb kg a sa b sb, x.op = .mma zero fa fb kg a sa b sb → exec (.mmaComplete p e) s =
      .next (settleTile p (runMma p e x zero fa fb kg a sa b sb (popEngine p e s)))) ∧
    (∀ d sd fuse t st tf rm clear target key, x.op = .drain d sd fuse t st tf rm clear target key →
      exec (.drainComplete p e) s =
        .next (settleTile p (runDrain p e x d sd fuse t st tf rm clear target key (popEngine p e s))))) ∧
  ∀ (s : State) (p e i j : Nat) (x : EngEnt) (zero : Bool) (fa fb kg a sa b sb : Nat), x.dirty = false → i < 32 → j < 32 →
    startedOp s 0x0003 = none →
    accGet (getTile (runMma p e x zero fa fb kg a sa b sb s) p) x.acc (32 * i + j) =
      (mmaElem (narrowPath fa fb)
        (opRow fa (32 * kg) (tmemBytesAt (getTile s p) (a + i * sa) (storedBytes fa (32 * kg))))
        (opRow fb (32 * kg) (tmemBytesAt (getTile s p) (b + j * sb) (storedBytes fb (32 * kg)))) kg 0
        (if zero then 0 else accGet (getTile s p) x.acc (32 * i + j))).1

/-- dmv, dmv.dense and their completion (R269 to R271, R280). -/
def Obligations.DroverMoves : Prop :=
  (∀ (s : State) (p tick leg step : Nat) (f : Fields) (d : DmvArgs) (es ed : End), d = dmvArgs (getTile s p) f →
    tagFields (getTile s p) = (tick, leg, step) → Issues s p 0xA1 f (okDmv f) →
    moveStall (getTile s p) f = false → dmvLegal d = true →
    endOf s (immF f 30 2) (immF f 20 8) d.src d.srcStride d.rows d.bytes false = (none, es) →
    endOf s (immF f 28 2) (immF f 20 8) d.dst d.dstStride d.rows d.bytes true = (none, ed) →
    ∃ x, exec (.dmv p f) s = .next (advance p (queueMove p x (bumpInFlight true es (bumpInFlight true ed
        (noteMoving es leg tick (noteMoving ed leg tick s)))))) ∧
      x.op = .copy es ed d.rows d.bytes d.srcStride d.dstStride ∧ x.tok = tokOf f ∧ x.addr = (getTile s p).pc) ∧
  (∀ (s : State) (p base first count : Nat) (f : Fields) (g : LegTag) (x : Tensor), Issues s p 0xA2 f (okDense f) →
    moveStall (getTile s p) f = false → (getTile s p).tag = some g → g.kind = 4 → tensorOf s (immF f 20 12) = some x →
    base = (readS (getTile s p) f.a).toNat → first = (readS (getTile s p) f.b).toNat → count = (readS (getTile s p) f.c).toNat →
    (g.abandoned = true ∨ g.dropped = true → exec (.dmvDense p f) s = .next (advance p s)) ∧
    (g.abandoned = false → g.dropped = false → 0 < count → count ≤ 2 ^ 30 → first + count ≤ groupCount x →
      base + 4096 * (count - 1) + 4 * groupLen x (first + count - 1) ≤ 0x200000 →
      (∀ i < count, (immF f 20 12, first + i) ∉ (returnRun s g.tick).sent) →
      ∃ y u, exec (.dmvDense p f) s = .next (advance p (queueMove p y u)) ∧ y.op = .dense (immF f 20 12) first count base ∧
        y.tok = tokOf f ∧ u.tiles = s.tiles ∧ u = modReturn g.tick g.step (fun r => { r with
          sent := (List.range count).map (fun i => (immF f 20 12, first + i)) ++ r.sent }) s)) ∧
  ∀ (s : State) (p i : Nat) (x : MoveEnt), p < 160 → (getTile s p).moves[i]? = some x →
    (∀ es ed rows n ss ds, x.op = .copy es ed rows n ss ds → endReady s es = true → endReady s ed = true →
      exec (.dmvComplete p i) s = .next (settleTile p (finishCopy p i x es ed rows n ss ds s))) ∧
    (∀ num first count base t ts, x.op = .dense num first count base → tensorOf s num = some t → treeSetOf s t = some ts →
      (t.shear = 0 ∨ denseFree s t x.step = true) →
      exec (.dmvComplete p i) s = .next (settleTile p (finishDense p i x t ts first count base s)))

/-- The embedding class (R272 to R274, R280). -/
def Obligations.Embedding : Prop :=
  (∀ (s u v : State) (p bags iBase oBase dst lo : Nat) (f : Fields) (g : LegTag) (tb : Table) (eo ei : End) (ob ib : List Byte)
    (offs : List Nat), Issues s p 0xC1 f (okLook f) → embStall (getTile s p) f = false → (getTile s p).tag = some g →
    bags = (readS (getTile s p) f.d).toNat → iBase = (readS (getTile s p) f.a).toNat → oBase = (readS (getTile s p) f.b).toNat →
    dst = (readS (getTile s p) f.c).toNat →
    (g.kind = 2 → g.abandoned = true ∨ g.dropped = true → exec (.embLook p f) s = .next (advance p s)) ∧
    (g.kind = 6 ∨ (g.kind = 2 ∧ g.abandoned = false ∧ g.dropped = false ∧ tabFind (getTile s p).handles (immF f 11 4) = none) →
      1 ≤ bags → bags ≤ 65536 → getTable s (immF f 20 12) = some tb →
      operandEnd s (immF f 2 1 == 1) oBase (4 * (bags + 1)) false = (none, eo) →
      endFetch p eo (4 * (bags + 1)) s = (ob, none, u) →
      offs = (List.range (bags + 1)).map (fun i => leAt ob (4 * i) 4) → offsetsOk offs = true → lo = offs.headD 0 →
      operandEnd u (immF f 3 1 == 1) (iBase + 8 * lo) (8 * (offs.getLastD 0 - lo)) false = (none, ei) →
      endFetch p ei (8 * (offs.getLastD 0 - lo)) u = (ib, none, v) →
      getTable v (immF f 20 12) = some tb →
      exec (.embLook p f) s = .next (issueLook p (immF f 9 2) (immF f 20 12) bags dst (immF f 11 4) (immF f 1 1 == 1) f tb.desc
        (offs.map (· - lo)) ((List.range (offs.getLastD 0 - lo)).map fun i => leAt ib (8 * i) 8) v))) ∧
  (∀ (s : State) (p id i : Nat) (b : Batch) (t : Table), p < 160 → (getTile s p).embs.findIdx? (fun x => x.op == .look id) = some i →
    s.ex.batches.find? (fun b => b.id == id) = some b → getTable s b.table = some t → b.ready = true →
    exec (.embLookComplete p id) s = .next (settleTile p (finishLook p i b t.desc s))) ∧
  (∀ (s : State) (p base n id : Nat) (f : Fields) (g : LegTag) (b : Batch) (tb : Table) (src : End), Issues s p 0xC2 f (okGrad f) →
    embStall (getTile s p) f = false → (getTile s p).tag = some g → g.kind = 4 → base = (readS (getTile s p) f.a).toNat →
    (g.abandoned = true ∨ g.dropped = true → exec (.embGrad p f) s = .next (advance p s)) ∧
    (g.abandoned = false → g.dropped = false → tabFind (getTile s p).handles (immF f 11 4) = some id →
      s.ex.batches.find? (fun b => b.id == id) = some b → b.step = g.step → b.usedBy = false → getTable s b.table = some tb →
      n = gradBytes tb.desc (immF f 4 4) (resultCount tb.desc (b.offsets.length - 1) (batchSurvivors b)) →
      operandEnd s (immF f 1 1 == 1) base n false = (none, src) →
      ∃ x, exec (.embGrad p f) s = .next (advance p (queueEmb p x (bumpInFlight true src
          (modBatch b.id (fun b => { b with usedBy := true }) s)))) ∧
        x.op = .grad b.id src (immF f 4 4) ∧ x.step = some g.step ∧ x.tick = g.tick ∧ x.tok = tokOf f)) ∧
  (∀ (s u : State) (p i id n fmt : Nat) (src : End) (x : EmbEnt) (b : Batch) (tb : Table) (bytes : List Byte) (bad : Option Nat),
    p < 160 → (getTile s p).embs[i]? = some x → x.op = .grad id src fmt →
    s.ex.batches.find? (fun b => b.id == id) = some b → getTable s b.table = some tb → b.written = true →
    n = gradBytes tb.desc fmt (resultCount tb.desc (b.offsets.length - 1) (batchSurvivors b)) →
    gradRead p x src n s = (bytes, bad, u) →
    (bad = none → exec (.embGradComplete p i) s =
      .next (settleTile p (sendGradients b tb.desc fmt x.tick bytes (bumpInFlight false src (dropEmb p i u))))) ∧
    ∀ line, bad = some line → exec (.embGradComplete p i) s =
      .next (settleTile p (trapParity p 19 x.addr x.opcode line (bumpInFlight false src (dropEmb p i u))))) ∧
  ∀ (s u v : State) (now p base n : Nat) (f : Fields) (g : LegTag) (cl : ClaimList) (c : Claim) (e : RingEnt) (m : Model) (src : End)
    (bytes : List Byte) (own : ClaimList → Bool),
    Issues s p 0xC3 f (okPost f) → embStall (getTile s p) f = false → u = atTime now s → (getTile s p).tag = some g → g.kind = 6 →
    base = (readS (getTile s p) f.b).toNat → own = (fun l => l.leg == g.leg && l.tick == g.tick) →
    (getTile s p).claims.find? own = some cl →
    cl.claims.find? (fun c => c.position == (readS (getTile s p) f.a).toNat && !c.answered) = some c →
    s.hq.entries.find? (fun e => e.queue == c.queue && e.slot == c.slot) = some e →
    ringModel s (byteAt e.hdr 2) = some m → n = elemBytes m.outFormat m.outCount →
    operandEnd s (immF f 1 1 == 1) base n false = (none, src) → endFetch p src n u = (bytes, none, v) →
    exec (.embPost now p f) s = .next (advance p (answer 0 bytes e (modTile p (markAnswered own c.position) v)))

/-- MARK_RECEIVE, ACK_RECEIVE, APPLY_GO_RECEIVE, APPLY_END_RECEIVE, HALT_RECEIVE, PACE_RECEIVE, ECHO_TIMER, ECHO_REQ, ECHO_RSP
(R29 to R42, R160, R161). -/
def Obligations.TreeMessages : Prop :=
  (∀ (s u : State) (now : Nat) (rx : Rx) (m : MarkMsg), InOrder s rx → u = received now rx (.mark m) s →
    (markLink u m.tickNum = some rx.li → s.run.halting = false → sources u m.tickNum = false → s.tk.state = 2 →
      s.tk.tick < m.tickNum → s.run.next = none → slotMatches u m = true →
      ∃ t, exec (.markReceive now rx m) s = .next t ∧ t.run.next = some (NextTick.mk m.tickNum m.stepNum
          (u.now + (m.countdownNs - s.tk.latencyNs)) m.stretchNs m.stretched m.slot m.ttId) ∧
        t.tk.tick = s.tk.tick ∧ t.tk.step = s.tk.step ∧ t.tk.state = 2 ∧
        t.tk.handover = (if m.handover then some (m.tickNum + 1, m.nextChip) else s.tk.handover)) ∧
    (fromParent u rx = true → m.abandon = false →
      ∃ t, exec (.applyGoReceive now rx m) s = .next t ∧ (∀ x, x ∈ t.run.goSteps ↔ x = m.stepNum ∨ x ∈ s.run.goSteps) ∧
        t.tk = s.tk ∧ t.ru = s.ru ∧ t.commit = s.commit) ∧
    (fromParent u rx = true → m.abandon = true → (m.stepNum, m.tickNum) ∉ s.run.abandoned →
      exec (.applyGoReceive now rx m) s = .next (pump rx.li (onAbandon m.tickNum m.stepNum (sendDown m 0 u)))) ∧
    (fromTree u rx = true → ∃ t, exec (.applyEndReceive now rx m) s = .next t ∧ t.run.applyEnded = some m.stepNum ∧
        t.run.goSteps = s.run.goSteps ∧ t.tk = s.tk ∧ t.ru = s.ru ∧ t.commit = s.commit) ∧
    (fromTree u rx = true → exec (.haltReceive now rx m) s =
      .next (pump rx.li (if s.run.halting then sendDown m 0 u else beginHalt (sendDown m 0 u)))) ∧
    (s.tk.state = 1 ∨ running s = true → m.sourceChip ∈ childChips s →
      exec (.ackReceive now rx m) s = .next (pump rx.li (takeAck m u))) ∧
    (s.tk.state = 4 → m.sourceChip ∈ childChips s → exec (.ackReceive now rx m) s = .next (pump rx.li (takeCommitted m u)))) ∧
  (∀ (s u : State) (now : Nat) (rx : Rx) (m : PaceMsg), InOrder s rx → u = received now rx (.pace m) s →
    fromParent u rx = true → ∃ t, exec (.paceReceive now rx m) s = .next t ∧ t.run.paces =
      (if m.pace = 1024 ∨ m.slowChip = s.lg.chip then tabDel s.run.paces m.kind else tabPut s.run.paces m.kind ⟨m.slowChip, m.pace, m.tickNum, m.hold⟩)) ∧
  (∀ (s u : State) (now ns : Nat) (rx : Rx), InOrder s rx → u = received now rx (.echoReq ns) s →
    exec (.echoReq now rx ns) s = .next (pump rx.li (sendOn rx.li (localCarriage u (.echoRsp ns)) u))) ∧
  (∀ (s : State) (now ns : Nat) (rx : Rx), InOrder s rx → rx.li = s.tk.parentLi →
    ∃ t, exec (.echoRsp now rx ns) s = .next t ∧
      t.tk = { s.tk with latencyNs := min ((max s.now now - ns) / 2) (2 ^ 20 - 1) }) ∧
  ∀ (s : State) (now : Nat), exec (.echoTimer now) s = .next (if s.tk.parentLi = 0x7F then atTime now s
    else sendOn s.tk.parentLi (localCarriage (atTime now s) (.echoReq (max s.now now))) (atTime now s))

/-- ARRIVE and RELEASE (R277). -/
def Obligations.HurdleCarriages : Prop :=
  ∀ (s u : State) (now : Nat) (rx : Rx) (m : MarkMsg) (i : HurdleInst), InOrder s rx → u = received now rx (.mark m) s →
    i = getHurdle s m.hurdle 4 →
    (i.gen = m.tickNum → m.sourceChip ∈ childChips s → exec (.arrive now rx m) s = .next (pump rx.li
      (hurdleFull m.hurdle 4 (hurdleEnt s m.hurdle)
        (setHurdle m.hurdle 4 { i with childArrived := insertSorted m.sourceChip i.childArrived } u)))) ∧
    (i.gen = m.tickNum → ∃ t, exec (.release now rx m) s = .next t ∧
      getHurdle t m.hurdle 4 = { i with releaseAt := some (u.now + (m.countdownNs - s.tk.latencyNs)) } ∧ t.run = s.run) ∧
    (i.gen ≠ m.tickNum → ∃ t v, exec (.arrive now rx m) s = .next t ∧ exec (.release now rx m) s = .next v ∧
      t.tiles = s.tiles ∧ v.tiles = s.tiles)

/-- MARK_SEND, TICK_START, HOLDOVER_TICK, STRETCH_LIMIT, JOB_FIRST_TICK, TILE_MOVE_COMPLETE (R29, R32, R39, R264, R410). -/
def Obligations.TickBoundaries : Prop :=
  ∀ (s u : State) (now : Nat), u = atTime now s →
    (canMark s = true → sources s (nextTickNum s) = true → s.run.nominal ≤ u.now + s.tk.leadNs →
      (mergedAck u).lateOpen = false → exec (.markSend now) s =
        .next (underTree (candidateFor s (nextTickNum s)) (sendMark (max s.run.nominal u.now) 0) u)) ∧
    (canMark s = true → sources s (nextTickNum s) = true → s.run.nominal ≤ u.now + s.tk.leadNs →
      (mergedAck u).lateOpen = true → exec (.markSend now) s =
        .next { u with run := { s.run with markHeld := true, heldKind := (mergedAck u).lateKind } }) ∧
    (∀ m n, s.run.next = some n → n.startAt ≤ u.now → s.run.halting = false →
      running s = true ∨ (s.tk.state = 1 ∧ s.tk.bellwether = false) →
      ∃ t, exec (.tickStart now m) s = .next { t with tk := { t.tk with holdoverTicks := 0 } } ∧
        t = startTick n.tick n.step (if n.stretched then n.stretchNs else 0) m u) ∧
    (∀ m v, running s = true → s.run.halting = false → sources s (s.tk.tick + 1) = false → s.run.next = none →
      s.run.nominal ≤ u.now → s.tk.holdoverTicks < 8 →
      v = (if s.tk.holdoverTicks = 0 then markLost 0 sevDegrade (s.tk.tick + 1) none u else u) →
      ∃ t, exec (.holdoverTick now m) s =
          .next (tally tlMarkHoldover { t with tk := { t.tk with state := 3, holdoverTicks := s.tk.holdoverTicks + 1 } }) ∧
        t = startTick (s.tk.tick + 1) (predictedStep v) 0 m v) ∧
    (∀ m, running s = true → s.run.halting = false → sources s (s.tk.tick + 1) = false → s.run.next = none →
      s.run.nominal ≤ u.now → s.tk.holdoverTicks = 8 →
      exec (.holdoverTick now m) s = .next (haltOwn (markLost 2 sevFault (s.tk.tick + 1) none u))) ∧
    (∀ a, a = mergedAck u → s.run.markHeld = true → s.run.halting = false → a.lateOpen = true →
      s.run.nominal + periodNs s / 4 - s.tk.leadNs ≤ u.now → exec (.stretchLimit now) s = .next (haltOwn
        (raise evTickOverrun sevFault uModule (overrunDetail (u.now + s.tk.leadNs - s.run.nominal) a.lateChip a.lateKind true a.latenessNs) u))) ∧
    (s.tk.state = 1 → s.tk.bellwether = true → s.start.matched = true → s.run.halting = false → s.run.nominal ≤ u.now →
      exec (.jobFirstTick now) s = .next (startTick s.start.firstTick s.start.firstStep 0 noMeasure
        (if s.run.next.isNone then sendMark u.now 0 u else u))) ∧
    ∀ l old new t, s.tiles.moving.find? (fun m => m.1 == l) = some (l, old, new) → logicalOf s new = none →
      (physicalOf s l = none → tabFind s.tiles.parked l = some t →
        exec (.tileMoveComplete now l) s = .next (installTile l new t u)) ∧
      ∀ p, physicalOf s l = some p → liftable (getTile s p) = true →
        exec (.tileMoveComplete now l) s = .next (installTile l new (getTile s p) (liftTile l p u))

/-- The numbers of a started tick (R26, R29). -/
def Obligations.TickNumbers : Prop :=
  ∀ (tick step stretch : Nat) (m : TickMeasure) (s : State),
    (startTick tick step stretch m s).tk.tick = tick ∧ (startTick tick step stretch m s).tk.step = step ∧
      (startTick tick step stretch m s).run.tickStartAt = s.now

/-- LEG_START, APPLY_START, LEG_DEADLINE, LEG_COMPLETE, UNIT_WAKE, UNPLANNED_WAKE (R20, R35 to R37, R353). -/
def Obligations.Legs : Prop :=
  ∀ (s u : State) (now : Nat), u = atTime now s →
    (∀ leg e, legEntry s s.tk.tick leg = some e → running s = true → s.run.halting = false → leg ∉ s.run.legsStarted →
      s.run.tickStartAt + e.startNs ≤ u.now → exec (.legStart now leg) s = .next (openLegAt leg e u)) ∧
    (∀ o, applyReady u = some o → s.commit.openStep = allOnes → s.run.halting = false → running s = true →
      ∃ v, exec (.applyStart now) s = .next (openApply o.step o.leg v) ∧ v.run.goWait = false ∧
        (∀ x ∈ v.run.legs, x.leg = o.leg → x.tick = o.tick → x.opened = true ∧ ∃ y ∈ s.run.legs, y.leg = o.leg ∧ y.tick = o.tick ∧ x.waitNs = (unblockLeg u.now .go y).waitNs ∧
            (y.gates = [.go] → x.waitNs = y.waitNs + (u.now - y.blockedFrom))) ∧
        (∀ x ∈ v.run.legs, x.kind = kServe → x.overlap = true) ∧ v.ru = s.ru ∧ v.commit = s.commit) ∧
    (∀ leg tick o, legOcc s leg tick = some o → o.late = false → o.deadline ≤ u.now → s.run.halting = false →
      ∃ v, v = ackNow (modOcc leg tick (fun o => { o with late := true }) u) ∧ exec (.legDeadline now tick leg) s =
        .next (onMerged (if gateWaiting o || o.abandoned then v
          else overrunPolicy o (modOcc leg tick (fun o => { o with acted := true }) v)))) ∧
    (∀ leg tick o, legOcc s leg tick = some o → legDone u o = true →
      ∃ v t, v = settleLate o (waitOf (noteOverrun u) o) o.remote (noteOverrun u) ∧
        t = afterLeg o (freeHeldLegs
          { v with run := { v.run with legs := v.run.legs.filter fun x => !(x.leg == leg && x.tick == tick) } }) ∧
        exec (.legComplete now tick leg o.kind o.step) s =
          .next (idleAfter o.uset (onMerged (if o.late && !(t.run.legs.any (·.late)) then ackNow t else t)))) ∧
    (∀ x g, gapOf u x = some g → g ≤ wakeNs (idleOf u x) → exec (.unitWake now x) s = .next (wake x u)) ∧
    (∀ x, x ≠ uModule → exec (.unplannedWake now x) s = .next (wake x u)) ∧
    ∃ t, exec (.unplannedWake now uModule) s = .next t ∧ t.pw.moduleState = (if s.pw.moduleState = 4 then 0 else s.pw.moduleState) ∧
      (s.pw.moduleState = 4 → t.mm.selfRefresh = false) ∧ t.mm.bytes = s.mm.bytes ∧ t.tk = s.tk

/-- PLAN_DIGEST, PLAN_DIGEST_TIMEOUT, PLAN_VERDICT_TIMEOUT (R138). -/
def Obligations.PlanCheck : Prop :=
  (∀ (s u : State) (now : Nat) (rx : Rx) (m : PlanDigestMsg), InOrder s rx → u = received now rx (.planDigest m) s →
    s.job.state ≠ 0 →
    (m.kind = 0 → bellChip s = s.lg.chip → exec (.planDigest now rx m) s = .next (pump rx.li
      (checkReports { u with start := { s.start with reports := tabPut s.start.reports rx.src m.digest } }))) ∧
    (m.kind ≠ 0 → rx.src = bellChip s → s.start.matched = false →
      exec (.planDigest now rx m) s = .next (pump rx.li (takeVerdict (m.verdict == 0) u)))) ∧
  ∀ (s u : State) (now a : Nat) (c : Started), u = atTime now s → startedOp s 0x0002 = some c → s.start.startedAt = some a →
    (bellChip s = s.lg.chip → a + 100000000 ≤ u.now → exec (.planDigestTimeout now) s = .next (sendVerdict u)) ∧
    (a + 200000000 ≤ u.now → exec (.planVerdictTimeout now) s = .next (failStart c u))

/-- IDX_RECEIVE, ROW_SEND, ROW_RECEIVE, GRAD_RECEIVE, DENSE_RECEIVE, ACCEPT_SEND, ACCEPT, BULK_RECEIVE, TRANSIT_CARRIAGE. -/
def Obligations.ExchangeCarriages : Prop :=
  (∀ (s u : State) (now : Nat) (rx : Rx) (m : IdxMsg), InOrder s rx → u = received now rx (.idx m) s →
    exec (.idxReceive now rx m) s = .next (pump rx.li
      ((dutyRuns u (expandTick u m.tick16) m.firstSeq m.entries).foldl (takeRun rx m (expandTick u m.tick16))
        (countDuties ((dutyRuns u (expandTick u m.tick16) m.firstSeq m.entries).map (·.1)) u)))) ∧
  (∀ (s u : State) (now dest cls : Nat) (r : OpenRow), u = atTime now s → cls < 2 →
    s.ex.openRows.find? (isOpenFor dest cls) = some r → windowOver u.now r.startNs = true →
    s.ex.openRows.find? (isOpenFor dest (1 - cls)) = none → exec (.rowSend now dest) s = .next (flushRow dest cls u)) ∧
  (∀ (s u : State) (now : Nat) (rx : Rx) (m : RowMsg), InOrder s rx → u = received now rx (.row m) s →
    (legOcc s m.leg (expandTick s m.tick16) = none → s.tk.state ≠ 4 → exec (.rowReceive now rx m) s =
      .next (pump rx.li (releaseWindows (dropReplies rx.src m (tally tlRowStale u))))) ∧
    (legOcc s m.leg (expandTick s m.tick16) ≠ none ∨ s.tk.state = 4 → m.rows = 1 → ∀ v,
      (takeRow rx.src m 0 (noteRemote m.leg (expandTick s m.tick16) rx.src u) = (true, v) → exec (.rowReceive now rx m) s = .next (pump rx.li (releaseWindows v))) ∧
      (takeRow rx.src m 0 (noteRemote m.leg (expandTick s m.tick16) rx.src u) = (false, v) →
        exec (.rowReceive now rx m) s = .next (pump rx.li (releaseWindows (tally tlRowStale v)))))) ∧
  (∀ (s u : State) (now tick : Nat) (rx : Rx) (m : GradMsg), InOrder s rx → u = received now rx (.grad m) s →
    tick = expandTick u m.tick16 →
    (∀ die slot t, dutyOf u m.table m.row tick = .here die slot → getTable u m.table = some t →
      exec (.gradReceive now rx m) s = .next (pump rx.li (enqueueOp die
        (accOp rx.src (expandStep u m.step32) tick m.table m.row slot (gradPartLen m.bf16 * m.part)
          ((decodeElems m.bf16 m.payload).take (t.desc.width - gradPartLen m.bf16 * m.part))) u))) ∧
    (∀ chip, dutyOf u m.table m.row tick = .forward chip →
      exec (.gradReceive now rx m) s = .next (pump rx.li (forwardOn rx chip (.grad m) (tally tlExchForwarded u)))) ∧
    (dutyOf u m.table m.row tick = .misrouted →
      exec (.gradReceive now rx m) s = .next (pump rx.li (tally tlExchMisrouted u)))) ∧
  (∀ (s u v : State) (now lg tick : Nat) (rx : Rx) (m : DenseMsg), InOrder s rx → u = received now rx (.dense m) s → lg < 12 →
    tick = expandTick u m.tick16 → v = noteRemote (returnLeg u tick) tick rx.src u → exec (.denseReceive now rx lg m) s =
      .next (pump rx.li (pumpDense (if m.kind = 2 then takeGather rx.src lg m v else takeDense rx.src lg m v)))) ∧
  (∀ (s u : State) (now chip t n : Nat), u = atTime now s → s.ex.gotCnt = [(chip, t, n)] → countOf s.ex.toldCnt chip t < n →
    exec (.acceptSend now) s = .next (originate 3 chip 0 (.accept t (returnLeg u (expandTick u t)) n)
      { u with ex := { s.ex with toldCnt := countSet s.ex.toldCnt chip t n } })) ∧
  (∀ (s u : State) (now t leg n : Nat) (rx : Rx), InOrder s rx → u = received now rx (.accept t leg n) s →
    exec (.accept now rx t leg n) s = .next (pump rx.li (releaseWindows { u with
      ex := { u.ex with accCnt := countSet u.ex.accCnt rx.src t (max n (countOf u.ex.accCnt rx.src t)) } }))) ∧
  (∀ (s u : State) (now : Nat) (rx : Rx) (m : BulkMsg), InOrder s rx → u = received now rx (.bulk m) s → s.bulk.early = [] →
    (tabGet 0 s.bulk.nextIn rx.src = m.bseq → exec (.bulkReceive now rx m) s = .next (pump rx.li (writeChunk rx.src m
      { u with bulk := { s.bulk with nextIn := tabSet 0 s.bulk.nextIn rx.src (m.bseq + 1), early := [] } }))) ∧
    (tabGet 0 s.bulk.nextIn rx.src ≠ m.bseq → exec (.bulkReceive now rx m) s =
      .next (pump rx.li { u with bulk := { s.bulk with early := [(rx.src, m)] } }))) ∧
  ∀ (s u : State) (now dest lg p : Nat) (rx : Rx) (body : Body), InOrder s rx → u = (rxHeader rx (atTime now s)).2 →
    dest ≠ s.lg.chip → bodySpecial body = false → p = poolOf body rx.cls rx.hops →
    (rx.hops < 2 → exec (.transitCarriage now rx dest lg body .clean) s =
      .next (pump rx.li (route (Carriage.mk rx.cls (rx.hops + 1) false dest lg rx.src body 0) (some (rx.li, p)) u))) ∧
    (2 ≤ rx.hops → exec (.transitCarriage now rx dest lg body .clean) s =
      .next (pump rx.li (freeBuffer rx.li p (tally tlRouteHops u))))

/-- LOOKUP, SERVE_READ, ACCUMULATE, APPLY, RING_INDEX_BLOCK, MIGRATE, EXPORT. -/
def Obligations.RowOperations : Prop :=
  (∀ (s u : State) (now die q i : Nat) (o : RowOp) (d : Desc) (r : Option (List Byte)) (v : State), u = atTime now s → die < 4 →
    readRow d die o (dropOp die q i u) = (r, v) →
    (opAt u die q i (· == .lookup) = some (o, d) → exec (.lookup now die q i) s = .next (completeRead o d r v)) ∧
    (opAt u die q i (· == .serveRead) = some (o, d) → exec (.serveRead now die q i) s = .next (completeRead o d r v))) ∧
  (∀ (s u : State) (now die q i : Nat) (o : RowOp) (d : Desc), u = atTime now s → die < 4 → startable u die q i = some o →
    (getTable u o.table).map (·.desc) = some d →
    (o.kind = .accumulate → exec (.accumulate now die q i) s = .next (accumulateOp die o d (dropOp die q i u))) ∧
    ((o.kind = .apply ∨ ∃ a, o.kind = .repair a) → exec (.apply now die q i) s = .next (applyOp die q i o d u)) ∧
    (∀ w v, v = dropOp die q i u → tagPoison v d die o.slot = none →
      (o.kind = .promote w → exec (.migrate now die q i) s = .next (promoteRow d die w o v)) ∧
      (o.kind = .demote w none → exec (.migrate now die q i) s = .next (demoteRow d die w o v)) ∧
      ∀ row slot x, x = demoteRow d die w o v → tagValid (tagEntry x d die slot w) = false → o.kind = .demote w (some (row, slot)) →
        exec (.migrate now die q i) s = .next (issueMigrate die
          (promoteOp o.table row slot x.tk.tick ((getTable x o.table).elim 0 (·.current)) w) x)) ∧
    (∀ w next v line, v = dropOp die q i u → tagPoison v d die o.slot = some line →
      o.kind = .promote w ∨ o.kind = .demote w next → exec (.migrate now die q i) s = .next (structPoison 3 line v)) ∧
    (o.kind = .exportOp → exec (.exportRow now die q i) s = .next (exportRow die o d (dropOp die q i u))) ∧
    (o.kind = .handoverCopy → exec (.exportRow now die q i) s = .next (handoverRow die o d (dropOp die q i u)))) ∧
  ∀ (s : State) (die : Nat) (r : RowUnit) (b : RingBatch) (rest : List RingBatch), die < 4 → r = getRu s die →
    r.batches = b :: rest → b.rows.all (fun x => x.2.2.2.2) = true → exec (.ringIndexBlock die) s =
      .next ((List.range b.rows.length).foldl (fun s k => finishEntry die (b.first + k) s) (modRu die (fun r => { r with
        batches := rest, wptr := (b.base + (64 + (b.rows.map fun x => x.2.2.1).sum)) % r.ringSize / 64 })
        (ringPut r b.base (indexBlock s.commit.openSeq b.rows) s)))

/-- Arrival order does not matter in a slot (R95). -/
def Obligations.AccumulatorOrder : Prop :=
  ∀ (s : State) (a i j : Nat) (xs ys : List Int), (∀ l, lineFenced s.mm l = false) →
    (∀ k, (i ≤ k ∧ k < i + xs.length) ∨ (j ≤ k ∧ k < j + ys.length) → devOk s.mm (a + 6 * k) 6 = true) →
    ∀ b, memByte (addElems a i xs (addElems a j ys s)).mm b = memByte (addElems a j ys (addElems a i xs s)).mm b

/-- owner() puts the rows of a position into distinct slots (R139). -/
def Obligations.OwnersDistinct : Prop :=
  ∀ (s : State) (m tick r q c d c' d' slot k : Nat), ownerAt s m tick r = some (c, d, slot, k) →
    ownerAt s m tick q = some (c', d', slot, k) → r = q

/-- COMMIT (R104, R107). -/
def Obligations.CommitRecord : Prop :=
  ∀ (s : State) (now : Nat),
    (s.commit.openStep ≠ 2 ^ 64 - 1 → diesDone s = true → ∃ t, exec (.commit now) s = .next t ∧
      t.commit.step = s.commit.openStep ∧ t.commit.seq = s.commit.openSeq ∧ t.commit.tick = s.tk.tick ∧
      t.commit.prevMark = s.commit.ringMark ∧ t.commit.openStep = 2 ^ 64 - 1 ∧ t.commit.rollbackOk = s.commit.tickAtomic ∧
      t.commit.valid = true ∧ t.commit.tickAtomic = s.commit.tickAtomic ∧ t.tk.tick = s.tk.tick) ∧
    (s.commit.openStep = 2 ^ 64 - 1 ∨ diesDone s = false → exec (.commit now) s = .next (atTime now s))

/-- FOLD_LOAD_COMPLETE and FOLD_RELEASE (R197, R200). -/
def Obligations.FoldCompletions : Prop :=
  (∀ (s v : State) (kind num n bad : Nat) (j : FoldJob),
    s.folds.loading.find? (fun j => j.target.kind == kind && j.target.num == num) = some j →
    runFoldLoad j { s with folds := { s.folds with loading := s.folds.loading.erase j } } = ((n, bad), v) →
    exec (.foldLoadComplete kind num) s = .next (finishStarted (Started.mk j.slot j.tag 0x0023) 0 [(0, n), (1, bad)] v)) ∧
  ∀ (s : State) (kind num tick : Nat) (t : FoldTarget) (x : Table),
    s.folds.releases.find? (fun r => r.1.kind == kind && r.1.num == num) = some (t, tick) → getTable s num = some x →
    foldUnnamed s num (1 - x.current) = true → noApplyBefore s tick = true →
    noLegBefore s tick = true → ∃ v, exec (.foldRelease kind num) s =
      .next (raise evFoldSwitched sevInfo uModule (foldDetail t x.current tick (v.tk.tick - tick)) v) ∧
      v = releaseFold num x { s with folds := { s.folds with releases := s.folds.releases.erase (t, tick) } }

/-- The digest tree (R189). -/
def Obligations.DigestTree : Prop :=
  (∀ (ls : List (Nat × Nat × Word64)) (s : State) (r b : Nat) (d : Word64), b < regionBlocks s r →
    ls.find? (fun x => x.1 == r && x.2.1 == b) = some (r, b, d) →
    (treeLevel (leavesOf ls s r) 0)[b]? = some d ∧ (treeLevel (leavesOf ls s r) 0).length = regionBlocks s r) ∧
  (∀ (ds : List Word64) (k i : Nat), (treeLevel ds (k + 1))[i]? =
    if 16 * i < (treeLevel ds k).length then
      some (crc64 ((((treeLevel ds k).drop (16 * i)).take 16).flatMap fun d => leBytes 8 d.toNat)) else none) ∧
  (∀ ds : List Word64, ds ≠ [] → treeLevel ds (topLevel ds.length) = [regionRoot ds] ∧
    ∀ j, j < topLevel ds.length → (treeLevel ds j).length ≠ 1) ∧
  ∀ s : State, (s.folds.eff.map (·.1)).Pairwise (· < ·) → ∃ rs : List Nat, rs.Pairwise (· < ·) ∧
    (∀ r, r ∈ rs ↔ ∃ e, (r, e) ∈ s.folds.eff ∧ e.present = true) ∧
    moduleRoot s = crc64 (rs.flatMap fun r => leBytes 8 (regionRoot (leavesOf s.digest.leaves s r)).toNat)

/-- DIGEST_ROUND_START, DIGEST_SLICE, DIGEST_ROOT, DIGEST_COMPARE, DIGEST_QUERY, DIGEST_REPLY, DESCENT_TIMEOUT and DIGEST_ABORT. -/
def Obligations.DigestRounds : Prop :=
  (∀ s : State, running s = true → 1 < s.job.exchange.chips → s.tk.tick % s.job.header.digestInterval = 0 →
    s.digest.round ≠ some s.tk.tick → exec .digestRoundStart s = .next { s with digest := { s.digest with
      round := some s.tk.tick, void := false, slices := 0, leaves := [], prevRound := s.digest.round, prevLeaves := s.digest.leaves,
      roots := [], compared := false, located := [] } }) ∧
  (∀ (s u v : State) (now j c : Nat) (inTime : Bool), u = atTime now s → s.digest.round = some c → s.tk.tick = c + j →
    s.digest.slices = j → j < digestSpan s →
    v = (if inTime = true then (sliceBlocks u j).foldl digestBlock u
      else tally tlDigestLate { u with digest := { s.digest with void := true } }) →
    exec (.digestSlice now j inTime) s = .next
      (let w := pumpDense { v with digest := { v.digest with slices := v.digest.slices + 1, sliceImages := [] } }
       if w.digest.slices = digestSpan w then sendRoot c w else w)) ∧
  (∀ (s u : State) (now round : Nat) (rx : Rx) (root : Word64) (void : Bool), InOrder s rx →
    u = received now rx (.digestRoot round root void) s → s.tk.bellwether = true → exec (.digestRoot now rx round root void) s =
      .next (pump rx.li (noteRoot rx.src round (if void = true then none else some root) u))) ∧
  (∀ (s u v : State) (now c : Nat) (rs : List (Nat × Word64)) (x : Nat × Word64), u = atTime now s → s.digest.round = some c →
    s.tk.bellwether = true → s.digest.compared = false → s.tk.tick = c + digestSpan s →
    rs = s.digest.roots.filterMap (fun x => x.2.map fun r => (x.1, r)) → rs.head? = some x →
    v = { u with digest := { s.digest with compared := true } } →
    ((∀ y ∈ rs, y.2 = x.2) → exec (.digestCompare now) s = .next (tally tlDigestRounds v)) ∧
    ((∃ y ∈ rs, y.2 ≠ x.2) → ∀ root, referenceRoot v rs = some root →
      exec (.digestCompare now) s = .next (startDescents c root rs v)) ∧
    ((∃ y ∈ rs, y.2 ≠ x.2) → referenceRoot v rs = none → ∃ w t, freeWord v = (w, t) ∧
      exec (.digestCompare now) s = .next (haltTree (raise evReplicaDiverged sevFault uModule (divergedDetail (w.toNat % 65536)
        (w.toNat / 2 ^ 16 % 2 ^ 32) 0xFFFF 0xFFFF 3 0 0 (w.toNat / 2 ^ 48)) t)))) ∧
  (∀ (s u : State) (now : Nat) (rx : Rx) (n : DigestNode) (ds : List (Nat × Word64)), InOrder s rx →
    u = received now rx (.digestQuery n) s → answerQuery s n = some ds →
    exec (.digestQuery now rx n) s = .next (pump rx.li (originate 3 rx.src 0 (.digestReply n ds) u))) ∧
  (∀ (s u : State) (now : Nat) (rx : Rx) (n : DigestNode) (ds : List (Nat × Word64)), InOrder s rx →
    u = received now rx (.digestReply n ds) s → exec (.digestReply now rx n ds) s = .next (pump rx.li
      (descendReady { u with digest := { s.digest with queries := fillReply rx.src n ds s.digest.queries } }))) ∧
  (∀ (s : State) (now : Nat), ∃ t, exec (.descentTimeout now) s = .next t ∧
    (∀ q, q ∈ t.digest.queries ↔ q ∈ s.digest.queries ∧ s.tk.tick < q.round + s.job.header.digestInterval) ∧
    t = tallyBy tlDigestLate (((s.digest.queries.filter fun q => decide (q.round + s.job.header.digestInterval ≤ s.tk.tick)).map
      (·.outlier)).dedup.length) { atTime now s with digest := t.digest }) ∧
  ∀ (s u : State) (now round : Nat) (rx : Rx), InOrder s rx → u = received now rx (.digestAbort round) s →
    s.digest.round = some round → exec (.digestAbort now rx round) s = .next (pump rx.li (pumpDense { u with digest :=
      { s.digest with round := none, leaves := [], slices := 0, sliceImages := [], roots := [] } }))

/-- REPAIR_ORDER, REPAIR_TICK, REPAIR_DATA, REPAIR_DONE and REPAIR_DEADLINE. -/
def Obligations.Repairs : Prop :=
  (∀ (s u : State) (now : Nat) (rx : Rx) (m : RepairOrderMsg), InOrder s rx → u = received now rx (.repairOrder m) s →
    m.outlier = s.lg.chip ∨ m.reference = s.lg.chip → exec (.repairOrder now rx m) s = .next (pump rx.li (addRepair
      { tick := m.tick, region := m.region, block := m.block, outlier := m.outlier, reference := m.reference } u))) ∧
  (∀ (s u : State) (now : Nat) (r : Repair), u = atTime now s → s.digest.repairs = [r] → r.tick = s.tk.tick → r.started = false →
    (r.reference = s.lg.chip → s.tk.bellwether = false → exec (.repairTick now) s = .next (dropRepair r (sendBlock r u))) ∧
    (r.reference ≠ s.lg.chip → r.outlier = s.lg.chip → exec (.repairTick now) s = .next (digestBefore r u))) ∧
  (∀ (s u : State) (now : Nat) (rx : Rx) (m : RepairDataMsg) (r : Repair), InOrder s rx → u = received now rx (.repairData m) s →
    s.digest.repairs.find? (isRepair m.region m.block s.lg.chip) = some r → m.chunk ∉ r.chunks → m.chunk < chunkCount s r →
    (r.tick = s.tk.tick → r.before.isSome = true → exec (.repairData now rx m) s = .next (pump rx.li (takeChunk r m u))) ∧
    (r.tick < s.tk.tick → ∀ bs v, readBlock r.region (effOf s r.region).image r.block u = (bs, v) →
      exec (.repairData now rx m) s = .next (pump rx.li (endRepair r 2 (crc64 bs) v)))) ∧
  (∀ (s u : State) (now : Nat) (rx : Rx) (m : RepairDoneMsg) (r : Repair), InOrder s rx → u = received now rx (.repairDone m) s →
    s.digest.repairs.find? (isRepair m.region m.block rx.src) = some r → s.tk.bellwether = true →
    exec (.repairDone now rx m) s = .next (pump rx.li (raiseDiverged r m.result (dropRepair r u)))) ∧
  ∀ (s u : State) (now region block outlier : Nat) (r : Repair), u = atTime now s →
    s.digest.repairs.find? (isRepair region block outlier) = some r → r.tick < s.tk.tick →
    (outlier = s.lg.chip → ∀ bs v, readBlock r.region (effOf s r.region).image r.block u = (bs, v) →
      exec (.repairDeadline now region block outlier) s = .next (endRepair r 2 (crc64 bs) v)) ∧
    (outlier ≠ s.lg.chip → s.tk.bellwether = true →
      exec (.repairDeadline now region block outlier) s = .next (raiseDiverged r 2 (dropRepair r u)))

/-- SNAPSHOT_TICK, SNAPSHOT_WRITE_COMPLETE and SNAPSHOT_TARGET_ERROR (log 34: the places in the work area). -/
def Obligations.Snapshots : Prop :=
  ∀ (s u : State) (now : Nat) (n : Snapshot), u = atTime now s → s.snap = some n →
    (∀ cs, n.started = true → n.copied = false → cs = snapCopies s n.bellwether n.images n.tick n.count →
      (cs.any (copyPoison s) = true → exec (.snapshotTick now) s = .next (voidSnapshot 1 0xFF u)) ∧
      (cs.any (copyPoison s) = false → ∀ v w, v = { u with snap := some { n with
          copied := true
          sections := snapSections s n.bellwether n.images n.tick n.count
          tables := (tableSections s n.tick).zipIdx.map fun x => (x.2, x.1.2)
          copies := (cs.zip (copyPlaces s n.workBase cs)).zipIdx.map fun x =>
            (3 + (recordSections s).length + x.2, x.1.2, copyLen x.1.1) } } →
        w = (cs.zip (copyPlaces s n.workBase cs)).foldl (fun t x => putMem x.2 (copyBytes s x.1) t) v →
        exec (.snapshotTick now) s =
          .next (pumpDense (pumpStream ((List.range 4).foldl (fun t d => walkTo d (walkStart t d) t) w))))) ∧
    (∀ extent mib k, extent < n.extents.length → mib ≠ 0 → k = mibOf n extent mib → k ∈ n.issued → k ∉ n.doneMib →
      exec (.snapshotWriteComplete now extent mib) s = .next (pumpStream { u with snap := some { n with
        doneMib := k :: n.doneMib
        cursors := (List.range 4).map fun d => donePrefix (k :: n.doneMib) (dieUnits { n with doneMib := k :: n.doneMib } d) } })) ∧
    (∀ c, 0 < n.extents.length → n.manifestOut = true →
      s.hq.started.find? (fun c => c.opcode == 0x0040 && c.slot == n.slot && c.tag == n.tag) = some c →
      exec (.snapshotWriteComplete now 0 0) s = .next (finishStarted c 0 [] { u with snap := none })) ∧
    ∀ extent, exec (.snapshotTargetError now extent) s = .next (voidSnapshot 1 extent u)

/-- CARRIAGE_CRC_ERROR, NAK, NAK_REPEAT, LINK, LINK_ACK_TIMEOUT. -/
def Obligations.LinkRetry : Prop :=
  (∀ (s u : State) (now li : Nat), li < 96 → u = atTime now s →
    (exec (.carriageCrcError now li true) s = .next u) ∧
    ((getLink s li).state = 1 ∨ (getLink s li).state = 2 → exec (.carriageCrcError now li false) s =
      .next (if (getLink s li).nakWait = true then tally tlCrcError u else sendNak li (tally tlCrcError u))) ∧
    ((getLink s li).state = 2 → (getLink s li).nakWait = true → exec (.nakRepeat now li) s = .next (sendNak li u)) ∧
    ((getLink s li).state = 2 → (getLink s li).ackOwed = true →
      exec (.linkAckTimeout now li) s = .next (sendLocal li (.link .none) u))) ∧
  (∀ (s : State) (now : Nat) (rx : Rx), InOrder s rx →
    exec (.nak now rx) s = .next (pump rx.li (received now { rx with nak := true } (.link .none) s))) ∧
  (∀ (s : State) (li seq n : Nat), n = (if (getLink s li).nakSeq = seq ∧ 0 < (getLink s li).nakCount then (getLink s li).nakCount else 0) →
    n < 7 → onNak li seq s = resendAll li (setLink li { getLink s li with nakSeq := seq, nakCount := n + 1 } (tally tlLinkRetry s))) ∧
  (∀ (s u : State) (now : Nat) (rx : Rx), rx.li < 96 → (getLink s rx.li).state = 1 → u = atTime now s →
    exec (.nak now rx) s = .next (idleFill rx.li (resendAll rx.li (tally tlLinkRetry u)))) ∧
  ∀ (s u : State) (now : Nat) (rx : Rx) (lane : LaneRequest), InOrder s rx → u = received now rx (.link lane) s →
    (lane = .none → exec (.link now rx lane) s = .next (pump rx.li u)) ∧
    (∀ n, lane = .drop n → exec (.link now rx lane) s = .next (pump rx.li (dropLane rx.li 0 n 3 0 u))) ∧
    ∀ n, lane = .restore n → exec (.link now rx lane) s = .next (pump rx.li (restoreLane rx.li 0 n u))

/-- RETRAIN_TIMEOUT, RETRAIN_COMPLETE, LINK_STATE, LINK_STATE_TIMEOUT, LINK_TRAIN_COMPLETE, LINK_ID, PEER_RETRAIN, LG_LINK_CTL. -/
def Obligations.LinkTraining : Prop :=
  (∀ (s u : State) (now li : Nat) (l : Link), li < 96 → u = atTime now s → l = getLink s li →
    (l.state = 2 → l.replay.isEmpty = false → exec (.retrainTimeout now li) s = .next (leaveLive li 1 0 u)) ∧
    (∀ t, l.state = 3 → (trained t = true → exec (.retrainComplete now li t) s =
        .next (linkService li t.txMask t.rxMask (dropHolds li (modLink li restartSeq u)))) ∧
      (trained t = false → exec (.retrainComplete now li t) s = .next (goDown li 2 u))) ∧
    (exec (.linkStateTimeout now li) s = .next (dropHandoff li u)) ∧
    (∀ t, l.state = 1 → l.admitTx = 0 → (trained t = true → exec (.linkTrainComplete now li t) s = .next (tryUp li
        (sendLinkId li (setLink li { l with admitTx := t.txMask, admitRx := t.rxMask, idAt := u.now } u)))) ∧
      (trained t = false → exec (.linkTrainComplete now li t) s = .next (goDown li 2 u))) ∧
    (l.held = false → (l.state = 2 → exec (.peerRetrain now li) s = .next (startTraining li (leaveLive li 0 1 u))) ∧
      (l.state ≠ 1 → l.state ≠ 2 → l.state ≠ 3 → exec (.peerRetrain now li) s = .next (startTraining li u))) ∧
    (l.state = 2 → exec (.linkCtlRetrain now li) s = .next (leaveLive li 5 0 u)) ∧
    (l.state ≠ 0 → l.state ≠ 5 → exec (.linkCtlTakeDown now li) s =
      .next (modLink li (fun l => { l with held := true }) (goDown li 5 u))) ∧
    (l.state = 0 ∨ 3 < l.state → exec (.linkCtlBringUp now li) s = .next (startTraining li u))) ∧
  (∀ (s u : State) (now peerLi seq li : Nat) (rx : Rx), InOrder s rx → u = received now rx (.linkState peerLi seq) s →
    linkOfPeer u rx.src peerLi = some li → (getLink u li).handoff.isSome = true →
    exec (.linkState now rx peerLi seq) s = .next (pump rx.li (placeEntries li seq u))) ∧
  ∀ (s : State) (now chip peerLi : Nat) (rx : Rx) (digest : List Byte), rx.li < 96 → (getLink s rx.li).state = 1 →
    exec (.linkId now rx chip peerLi digest) s = .next (tryUp rx.li (freeBuffer rx.li 0 (setLink rx.li { getLink s rx.li with
      peerId := some (chip, peerLi, digest), rxLast := rx.seq, ackOwed := true } (atTime now s))))

/-- LANE_DROP, CDR_TRIM, LASER_EOL, LASER_FAILURE, module removal and insertion, LASER_DRAIN, LASER_DRAIN_COMPLETE, ageing. -/
def Obligations.LanesAndLasers : Prop :=
  (∀ (s u v : State) (now li lane ser : Nat) (cause : LaneCause), li < 96 → lane < 4 → (getLink s li).state = 2 → u = atTime now s →
    exec (.laneDrop now li lane true cause ser) s = .next (dropLane li 0 lane (laneCauseCode cause) ser u) ∧
    (v = dropLane li 1 lane (laneCauseCode cause) ser u →
      exec (.laneDrop now li lane false cause ser) s = .next (sendOn li (localCarriage v (.link (.drop lane))) v))) ∧
  (∀ (s u : State) (now li lane : Nat) (sers : List (Nat × Nat)),
    u = taskRan 5 0 (sers.foldl (fun s x => setSer x.1 x.2 s) (atTime now s)) →
    exec (.cdrTrim now [] sers) s = .next u ∧
    (li < 96 → lane < 4 → (getLink u li).dropped.getLsbD lane = true → exec (.cdrTrim now [(li, lane)] sers) s =
      .next (sendOn li (localCarriage u (.link (.restore lane))) (restoreLane li 1 lane u)))) ∧
  (∀ (s u : State) (now lm laser bias power : Nat), lm < 6 → laser < 8 → u = atTime now s →
    ((getLaser s lm).state ≠ 0 → (getLaser s lm).eol.getLsbD laser = false → exec (.laserEol now lm laser bias power) s =
      .next (laserFault lm laser 0 bias power sevWarn
        (setLaser lm { getLaser s lm with eol := (getLaser s lm).eol ||| laserBit laser } u))) ∧
    ∀ hot, (getLaser s lm).ok.getLsbD laser = true → exec (.laserFailure now lm laser bias power hot) s =
      .next ((laserLinks lm laser).foldl (fun t li => dropLane li 0 (laser % 4) 2 0 t)
        (laserFault lm laser (if hot = true then 2 else 1) bias power sevDegrade (setLaser lm { getLaser s lm with
          ok := (getLaser s lm).ok &&& ~~~(laserBit laser), state := 3, fault := true } u)))) ∧
  (∀ (s u : State) (now lm : Nat), lm < 6 →
    u = { atTime now s with boot := { s.boot with bays := s.boot.bays &&& ~~~((1 : BitVec 6) <<< lm) } } →
    ((getLaser s lm).state = 0 → exec (.laserModuleRemoved now lm) s = .next u) ∧
    ((getLaser s lm).state = 2 → exec (.laserModuleRemoved now lm) s =
      .next (setLaser lm { getLaser s lm with state := 0, ok := 0, eol := 0, bias := [] } u)) ∧
    ((getLaser s lm).state ≠ 0 → (getLaser s lm).state ≠ 2 → exec (.laserModuleRemoved now lm) s =
      .next ((moduleLinks lm).foldl (fun t li => if (getLink t li).state = 0 ∨ (getLink t li).state = 5 then t else goDown li 0 t)
        (laserFault lm 0xFF 3 0 0 sevDegrade (setLaser lm { state := 0, fault := true } u))))) ∧
  (∀ (s u : State) (now lm : Nat), lm < 6 → (getLaser s lm).state = 0 →
    u = { atTime now s with boot := { s.boot with bays := s.boot.bays ||| ((1 : BitVec 6) <<< lm) } } →
    exec (.laserModuleInserted now lm true) s =
      .next ((moduleLinks lm).foldl (fun t li => startTraining li t) (setLaser lm { state := 1, ok := 0xFF } u)) ∧
    exec (.laserModuleInserted now lm false) s =
      .next (laserFault lm 0xFF 4 0 0 sevDegrade (setLaser lm { state := 3, fault := true } u))) ∧
  (∀ (s u : State) (now lm : Nat), lm < 6 → u = atTime now s → (getLaser s lm).draining = false → (getLaser s lm).state ≠ 0 →
    (getLaser s lm).state ≠ 2 → exec (.laserDrain now lm) s = .next ((moduleLinks lm).foldl (fun t li => rerouteQueue li t)
      ((moduleLinks lm).foldl (fun t li => modLink li (fun l => { l with held := true }) t)
        (setLaser lm { getLaser s lm with draining := true } u)))) ∧
  (∀ (s : State) (lm : Nat), lm < 6 → (getLaser s lm).draining = true →
    (∀ li ∈ moduleLinks lm, (getLink s li).state ≠ 2 ∨ (getLink s li).replay = []) → exec (.laserDrainComplete lm) s =
      .next (setLaser lm { getLaser s lm with state := 2, ok := 0, draining := false, fault := false }
        ((moduleLinks lm).foldl (fun t li => drainLink li t) s))) ∧
  ∀ (s : State) (now : Nat) (bias : List Nat), exec (.laserAgeingCompensation now bias) s =
    .next (taskRan 8 0 ((List.range 6).foldl (fun t lm => if laserWorks (getLaser t lm) = true then
      setLaser lm { getLaser t lm with bias := (bias.drop (8 * lm)).take 8 } t else t) (atTime now s)))

/-- IDLE_MEASURE, PW_CAP_WRITE, PLDM_SET_CAP, PLDM_SENSOR_READ, CAP_LOOP_UPDATE, OCP_ and DROOP_ commands, THERMAL_SAMPLE, THERMAL_TRIP. -/
def Obligations.PowerAndHeat : Prop :=
  ∀ (s u : State) (now : Nat), u = atTime now s →
    (∀ w, s.job.state ≠ 0 → s.run.legs = [] →
      exec (.idleMeasure now w) s = .next { u with pw := { s.pw with idleW := min w 4095 } }) ∧
    (∀ w, (1400 ≤ w → w ≤ 3000 → s.pw.pldmAt ≠ some u.now → exec (.pwCapWrite now w) s =
        .next { u with pw := { s.pw with cap := w, capSrc := 0, capWritten := true } }) ∧
      (w < 1400 ∨ 3000 < w → exec (.pwCapWrite now w) s = .next u)) ∧
    (∀ ep w, s.boot.powered = true → (1400 ≤ w → w ≤ 3000 → exec (.pldmSetCap now ep w) s = .next (emit (.pldm ep pldmOk w)
        { u with pw := { s.pw with cap := w, capSrc := 1, capWritten := true, pldmAt := some u.now } })) ∧
      (w < 1400 ∨ 3000 < w → exec (.pldmSetCap now ep w) s = .next (emit (.pldm ep pldmInvalidData 0) u))) ∧
    (∀ ep n v, s.boot.powered = true → sensorValue s n = some v → exec (.pldmSensorRead ep n) s = .next (emit (.pldm ep pldmOk v) s)) ∧
    (∀ p v, v = { u with pw := { s.pw with p10 := min p 4095 } } →
      (s.gz.blackout = true ∨ s.pw.ocpTrip = true → exec (.capLoopUpdate now p) s = .next v) ∧
      (s.gz.blackout = false → s.pw.ocpTrip = false → s.pw.capUnmet = true → s.pw.cap ≤ min p 4095 →
        exec (.capLoopUpdate now p) s = .next (noteCause 4 v)) ∧
      (s.gz.blackout = false → s.pw.ocpTrip = false → s.pw.capUnmet = false → exec (.capLoopUpdate now p) s =
        .next (checkUnmet (openLeg v) ((openLeg v).elim v fun o => capStep o v)))) ∧
    (∀ v, s.pw.ocpTrip = false →
      v = { u with pw := { s.pw with ocpTrip := true, ocpSince := u.now, bNum := 1, bDen := 2, capRatio := 32 } } →
      exec (.ocpTrip now) s = .next (raiseCap 3 sevDegrade (openLeg v) (noteCause 3 v))) ∧
    (s.pw.ocpTrip = true → exec (.ocpRecover now) s =
      .next { u with pw := { s.pw with ocpTrip := false, bNum := 1, bDen := 2, capRatio := 32 } }) ∧
    (∀ v, s.pw.ocpTrip = true → s.pw.ocpSince + 10000000 ≤ u.now → v = raiseCap 4 sevFatal (openLeg u) u →
      exec (.ocpShutdown now) s = .next (powerOff 2 { v with boot := { v.boot with alertN := false } })) ∧
    (∀ die mv n, die < 9 → mv < 713 → exec (.droopDetect now die mv n) s = .next (stretchDie die mv n true u)) ∧
    (∀ die n, die < 9 → (getDroop s die).active = true → exec (.droopEnd now die n) s = .next (stretchDie die 0 n false u)) ∧
    (∀ (ds ks : List Int) (e i : Int) (v w : State), ds.length = 9 → ks.length = 12 → v = { u with
        pw := { s.pw with temps := ds ++ [maxInt ks, e, i] ++ List.replicate 4 0, stackTemps := ks }
        mm := { s.mm with doubleRefresh := BitVec.ofNat 12 ((ks.zipIdx.map fun x => if 85 < x.1 then 2 ^ x.2 else 0).sum) } } →
      w = ks.zipIdx.foldl (fun t x => throttle (16 + x.2) 95 x.1 t) (ds.zipIdx.foldl (fun t x => throttle x.2 105 x.1 t) v) →
      (s.gz.blackout = true → exec (.thermalSample now ds ks e i) s = .next v) ∧
      (s.gz.blackout = false → exec (.thermalSample now ds ks e i) s =
        .next (if w.pw.thermal.isEmpty = true then w else noteCause 1 w))) ∧
    ∀ (die : Nat) (t : Int), die < 9 → s.boot.powered = true → 115 ≤ t → exec (.thermalTrip now die t) s = .next (powerOff 1 { u with
      nor := { s.nor with trip := some (die, t, s.tk.tick) }, boot := { s.boot with thermtripN := false } })

/-- GRAZE_SLICE, FORCED_SLICE, BIST_SLICE, TASK_PERIOD_END, BIST_QUEUE_PASS, free tasks, TILE_ROTATION, REQUALIFY, PRIV_TEST. -/
def Obligations.GrazingSlices : Prop :=
  (∀ (s u : State) (now task unit : Nat) (work : SliceWork), u = atTime now s → legBound task = true → unit < taskUnits task →
    (∀ o, sliceOpen u task unit = some o → drainOpen s task unit o = true →
      (taskActive s task unit = true → mayReach u task unit (sliceReaches s task unit work.amount) (passSteps s task unit) = true →
        exec (.grazeSlice now task unit work) s = .next (advanceTask o task unit work.amount work.bad u)) ∧
      ∀ ns, isBehind u task unit = true ∨ queuedFor s task unit = true → (getTask s task unit).forcedIn ≠ some (o.tick, o.leg) →
        exec (.forcedSlice now task unit work ns) s = .next (advanceTask o task unit work.amount work.bad (tally tlGrazeForced
          (setTask task unit { getTask s task unit with forcedNs := ns, forcedIn := some (o.tick, o.leg) } u)))) ∧
    (taskActive s task unit = true → (getTask s task unit).startAt + taskPeriod s task unit ≤ u.now →
      ∀ v, v = raise evGrazeStarved sevDegrade uModule (starvedDetail u task unit 1) (tally tlGrazeMissed u) →
        exec (.taskPeriodEnd now task unit) s =
          .next (setTask task unit { getTask s task unit with startAt := v.now, starved := false } v))) ∧
  (∀ (s u : State) (now kind index : Nat) (o : BistOutcome), u = atTime now s → testExists kind index = true →
    (testOpen u kind index = true → 1 ≤ o.us → o.us ≤ 40 → exec (.bistSlice now kind index o) s =
      .next (sliceEnd kind index o (failUnit kind index o.test o.step o.logicCov (testOrigin s kind index)) u)) ∧
    (unitQuarantined s kind index = false → exec (.bistQueuePass kind index) s = .next (queueTest kind index 3 s)) ∧
    (s.job.state = 0 → kind < 2 → unitQuarantined s kind index = true → ∀ v, v = sliceEnd kind index { o with passEnds := true }
        (requalFail kind index o) s →
      (o.rerunFail = true → exec (.requalify kind index o) s = .next v) ∧
      (o.rerunFail = false → exec (.requalify kind index o) s = .next { v with nor :=
        if kind = 0 then { v.nor with quarTiles := v.nor.quarTiles &&& ~~~(tileBit index) }
        else { v.nor with quarEngines := v.nor.quarEngines &&& ~~~(engineBit index) } }))) ∧
  (∀ (s u : State) (now : Nat), u = atTime now s →
    (∀ die, die < 9 → exec (.sensorCalibration now die) s = .next (taskRan 7 die u)) ∧
    exec (.norLogLevelling now) s = .next (taskRan 9 0 u) ∧
    (s.gz.rotateEn = true → running s = true → s.tiles.pendMap = none → s.tiles.moving = [] → s.gz.blackout = false →
      (getTask s 10 0).startAt + 24 * hourNs ≤ u.now → exec (.tileRotation now) s = .next (taskRan 10 0 { u with
        tiles := { s.tiles with pendMap := some (s.tk.tick + 2, rotatedMap s, true) } }))) ∧
  ∀ (s v : State) (pass : BitVec 3) (drivers : BitVec 12),
    (∀ w, s.job.state ≠ 0 → exec (.privTest w pass drivers) s = .next { s with gz := { s.gz with privStatus := 2 } }) ∧
    (s.job.state = 0 → exec (.privTest false pass drivers) s = .next { s with gz := { s.gz with privStatus := 1 } }) ∧
    (s.job.state = 0 → v = { s with gz := { s.gz with
        privStatus := 3, privPass := BitVec.ofNat 4 (pass.toNat + if drivers = 0xFFF then 8 else 0) } } →
      exec (.privTest true pass drivers) s = .next (testDrivers drivers 3
        (((List.range 3).filter fun i => !pass.getLsbD i).foldl (fun t i => privFail i 3 0 t) v)))

/-- PWR_EN_, INPUT_, BOOT_PHASE_, MOD_RST_N_, WATCHDOG, JTAG_, HOST_RST_N, FW_GO, FW_ACTIVATION, FW_REVERT. -/
def Obligations.FirmwareAndBoot : Prop :=
  ∀ (s u : State) (now : Nat), u = atTime now s →
    (exec (.pwrEnRise now) s = .next (tryPower { u with boot := { s.boot with pwrEn := true } })) ∧
    (exec (.inputInRange now) s = .next (tryPower { u with boot := { s.boot with inputOk := true } })) ∧
    (∀ v, v = (if s.boot.powered = true then powerOff 0 u else u) → exec (.pwrEnFall now) s =
      .next { v with boot := { v.boot with pwrEn := false, thermtripN := true, alertN := true } }) ∧
    (∀ v, v = (if s.boot.powered = true then powerOff (if s.boot.warm = true then 5 else 0) u else u) →
      exec (.inputOutOfRange now) s = .next { v with boot := { v.boot with inputOk := false } }) ∧
    (s.boot.powered = true → s.boot.recovery = false → s.boot.warm = false → s.boot.scan = false →
      (∀ failed images, (s.boot.phase = 0 → exec (.bootPhaseComplete now failed images) s = .next (endPower u)) ∧
        (s.boot.phase = 1 → exec (.bootPhaseComplete now failed images) s = .next (endRom images u)) ∧
        (s.boot.phase = 2 → exec (.bootPhaseComplete now failed images) s = .next (endPriv failed u)) ∧
        (s.boot.phase = 3 → exec (.bootPhaseComplete now failed images) s = .next (endXd u)) ∧
        (s.boot.phase = 4 → exec (.bootPhaseComplete now failed images) s = .next (endMemory failed u)) ∧
        (s.boot.phase = 5 → exec (.bootPhaseComplete now failed images) s = .next (endFill failed u)) ∧
        (s.boot.phase = 6 → exec (.bootPhaseComplete now failed images) s = .next (endColdBist failed u))) ∧
      (s.boot.phase ≤ 6 → s.boot.phaseAt + 3 * phaseMs s.boot.phase * 1000000 ≤ u.now →
        exec (.bootPhaseTimeout now) s = .next (endBoot 9 { u with boot := { s.boot with failCode := 4 } }))) ∧
    (s.boot.powered = true → s.boot.phase = 7 →
      exec (.modRstNFall now) s = .next (warmReset 8 { u with boot := { s.boot with modRstN := false } }) ∧
      ∀ images, exec (.watchdog now images) s =
        .next (if (warmReset 9 u).boot.modRstN = true then warmRecover images (warmReset 9 u) else warmReset 9 u)) ∧
    (∀ images v, v = { u with boot := { s.boot with modRstN := true } } →
      (s.boot.warm = true → exec (.modRstNRise now images) s = .next (warmRecover images v)) ∧
      (s.boot.warm = false → s.boot.powered = true → s.boot.phase = 0 → s.boot.pgood = true → s.boot.scan = false →
        exec (.modRstNRise now images) s = .next (enterPhase 1 v))) ∧
    (s.boot.powered = true → (s.sc.debug = false → exec (.jtagExtestEntry now) s = .next (securityViolation 2 0 0 0 u)) ∧
      (s.sc.debug = true → ∃ t, exec (.jtagExtestEntry now) s = .next t ∧ t.sc = { s.sc with zeroized := true } ∧ t.boot.scan = true ∧
        t.boot.powered = true ∧ t.job = {} ∧ t.nor = s.nor ∧ t.lg = { lasers := s.lg.lasers } ∧ t.mm = {} ∧ t.now = u.now)) ∧
    (s.boot.scan = true → exec (.jtagScanExit now) s = .next (coldBoot 3 u)) ∧
    (exec (.hostRstN now false) s = .next (hostReset { u with boot := { s.boot with hostRstN := false } })) ∧
    (s.boot.phase = 7 → exec (.hostRstN now true) s = .next (bootHost { u with boot := { s.boot with hostRstN := true } })) ∧
    (∀ t i, t < 2 → i < 2 → imageOk s t i = true → s.gz.fwPending = none →
      (jobLive s = true → s.tk.tick + 2 ≤ s.gz.fwTick → exec (.fwGo t i) s =
        .next { s with gz := { s.gz with fwPending := some (t, i, s.gz.fwTick), fwState := 1, fwCode := 0 } }) ∧
      (jobLive s = false → exec (.fwGo t i) s = .next (activate t i s.tk.tick { s with gz := { s.gz with fwCode := 0 } }))) ∧
    (∀ t i n, s.gz.fwPending = some (t, i, n) →
      (s.gz.blackout = true → u.now ≤ s.gz.fwSince + 200000 → exec (.fwActivation now) s = .next (fwRunning i n u)) ∧
      (s.gz.blackout = false → n ≤ s.tk.tick → exec (.fwActivation now) s = .next (activate t i n u)) ∧
      ∀ us v, s.gz.blackout = true → s.gz.fwSince + 200000 ≤ u.now →
        v = flushBuffer { u with gz := { s.gz with fwPending := none, fwState := 0, fwCode := 4 } } →
        exec (.fwRevert now us) s = .next (raise evFirmwareActivated sevWarn uModule
          (fwDetail 0 v.gz.shImage 1 (imageVersion (imageBytes v 0 v.gz.shImage)) us n) v))

/-- NONCE, NONCE_EXPIRY, UNLOCK, KEY, CLAIM, RAISE_SVN (log 41). -/
def Obligations.SecurityMailbox : Prop :=
  (∀ (s u : State) (now : Nat) (r : MboxReq), u = atTime now s → s.boot.powered = true → s.sc.mboxState ≠ 1 →
    (∀ p b, mboxPayload 0 r s = some p → b = (List.range 4).flatMap (fun w => leBytes 8 (Config.nonceWord s.sc.nonceCount w).toNat) →
      exec (.nonce now r) s = .next (mboxReply r mbOk b { u with sc := { s.sc with
        nonce := some (b, u.now), nonceCount := s.sc.nonceCount + 1 } })) ∧
    (s.sc.lockout = true → exec (.unlock now r) s = .next (mboxReply r mbLocked [] (securityViolation 6 mbLocked 0 0 u))) ∧
    (∀ b, s.sc.lockout = false → mboxPayload 832 r s = some b →
      exec (.unlock now r) s = .next (if unlockCode u b = mbOk then mboxReply r mbOk [] (securityViolation 7 0 0 0
          { u with sc := { s.sc with nonce := none, debug := true, debugAuth := byteAt b 2, failures := 0 } })
        else mboxReply r (unlockCode u b) [] (unlockFailed (unlockCode u b) { u with sc := { s.sc with nonce := none } })))) ∧
  (∀ (s u : State) (now t : Nat) (b : List Byte), u = atTime now s → s.sc.nonce = some (b, t) → t + 60000000000 ≤ u.now →
    exec (.nonceExpiry now) s = .next { u with sc := { s.sc with nonce := none } }) ∧
  ∀ (s : State) (r : MboxReq), s.boot.powered = true → s.sc.mboxState ≠ 1 →
    (∀ b, mboxPayload 1216 r s = some b →
      exec (.key r) s = .next (if keyCode s b = mbOk then mboxReply r mbOk [] { s with nor := { s.nor with
          slots := tabSet {} s.nor.slots (byteAt b 3) (keySlotAfter s b), enrollCtr := leAt b 16 8 } }
        else mboxReply r (keyCode s b) [] (authFailure (keyCode s b) s))) ∧
    (∀ b, mboxPayload 384 r s = some b →
      (s.nor.ownerHash = none → s.job.state = 0 → exec (.claim r) s =
        .next (mboxReply r mbOk [] { s with nor := { s.nor with ownerHash := some (sha256 b) } })) ∧
      (s.nor.ownerHash.isSome = true ∨ s.job.state ≠ 0 → exec (.claim r) s = .next (mboxReply r mbState [] s))) ∧
    ∀ b, mboxPayload 1 r s = some b → s.job.state = 0 → s.nor.svn < byteAt b 0 →
      (∀ c < 4, byteAt b 0 ≤ imageSvn (runningBytes s c)) →
      exec (.raiseSvn r) s = .next (mboxReply r mbOk [] { s with nor := { s.nor with svn := byteAt b 0 } })

/-- SPDM and PLDM update requests, PLUGGABLE_INSERTION, DYNAMIC_ADDRESS_ASSIGNMENT (log 46). -/
def Obligations.Management : Prop :=
  (∀ (s : State) (ep : Nat), s.boot.powered = true →
    (exec (.getVersion ep) s = .next (emit (.spdm ep (.version 0x13)) (setSpdm ep 1 s))) ∧
    (1 ≤ spdmAt s ep → exec (.getCapabilities ep) s =
      .next (emit (.spdm ep (.capabilities true true true 17)) (setSpdm ep (max 2 (spdmAt s ep)) s))) ∧
    (2 ≤ spdmAt s ep → exec (.negotiateAlgorithms ep) s = .next (emit (.spdm ep (.algorithms 8 1 2 1)) (setSpdm ep 3 s))) ∧
    (spdmAt s ep < 3 → exec (.getDigests ep) s = .next (emit (.spdm ep .errorUnexpected) s)) ∧
    (3 ≤ spdmAt s ep →
      (exec (.getDigests ep) s = .next (emit (.spdm ep (.digests 1 (sha256 Config.certChain))) s)) ∧
      (∀ off n p, off ≤ Config.certChain.length → p = cut Config.certChain off n → exec (.getCertificate ep 0 off n) s =
        .next (emit (.spdm ep (.certificate p (Config.certChain.length - off - p.length))) s)) ∧
      (∀ nonce sig v, s.sc.zeroized = false → identitySignature (sha256 Config.certChain ++ nonce) s = (sig, v) →
        exec (.challenge ep 0 nonce) s = .next (emit (.spdm ep (.challengeAuth 0 (sha256 Config.certChain) sig)) v)) ∧
      (∀ nonce, exec (.getMeasurements ep false nonce) s = .next (emit (.spdm ep (.measurements (measurements s) none)) s)) ∧
      ∀ nonce sig v, s.sc.zeroized = false → identitySignature ((measurements s).flatMap (·.2) ++ nonce) s = (sig, v) →
        exec (.getMeasurements ep true nonce) s = .next (emit (.spdm ep (.measurements (measurements s) (some sig))) v)) ∧
    (∀ code, exec (.spdmUnsupportedRequest ep code) s = .next (emit (.spdm ep (.errorUnsupported code)) s)) ∧
    (s.gz.fwPending = none → s.gz.blackout = false → exec (.requestUpdate ep) s =
      .next (emit (.pldm ep pldmOk 0) { s with sc := { s.sc with updating := some ep } })) ∧
    (s.gz.fwPending.isSome = true ∨ s.gz.blackout = true →
      exec (.requestUpdate ep) s = .next (emit (.pldm ep pldmRetry 0) s))) ∧
  (∀ (s v : State) (ep c i : Nat) (image : List Byte), s.boot.powered = true → s.sc.updating = some ep → c < 4 →
    i = 1 - runningImage s c % 2 → v = setImageOk c i (verifyImage s c image) { s with nor := { s.nor with
      images := tabPut s.nor.images (2 * c + i) image } } →
    (s.boot.recovery = false → exec (.firmwareImageTransfer c image) s =
      .next (if verifyImage s c image = true then emit (.pldm ep pldmOk 0) v
        else emit (.pldm ep pldmVerifyFailed 0) (securityViolation 4 c 0 0 v))) ∧
    (s.boot.recovery = true → c = 0 ∨ c = 3 → exec (.firmwareImageTransfer c image) s =
      .next (if verifyImage s c image = true then coldBoot 4 (setBootImage c i (emit (.pldm ep pldmOk 0) v))
        else emit (.pldm ep pldmVerifyFailed 0) (securityViolation 4 c 0 0 v)))) ∧
  (∀ (s u v : State) (now ep c : Nat), u = atTime now s → s.boot.powered = true → s.sc.updating = some ep → s.gz.fwPending = none →
    c < 4 → imageOk s c (newImage s c) = true → v = emit (.pldm ep pldmOk 0) { u with sc := { s.sc with updating := none } } →
    (jobLive s = true → exec (.activateFirmware now c) s = .next v) ∧
    (jobLive s = false → exec (.activateFirmware now c) s = .next (activateNow c v))) ∧
  (∀ (s : State) (port w : Nat), port < 4 → exec (.pluggableInsertion port w) s = .next { s with net := { s.net with
    cages := tabPut s.net.cages port (true, decide (16 < w)) } }) ∧
  ∀ (s : State) (a : Nat) (daa : Bool), exec (.dynamicAddressAssignment a daa) s =
    .next { s with sc := { s.sc with i3c := some (a % 128) } }

/-- PC_DRAIN, PC_DRAIN_COMPLETE, PC_FENCE, REFRESH, MEM_RECONFIGURE_COMPLETE, PARITY_RETRY. -/
def Obligations.PseudoChannels : Prop :=
  (∀ (s v : State) (d p : Nat) (x : PcState), d < 4 → p < 128 → x = mmPc s.mm d p →
    (x.state = 0 → exec (.pcDrain d p) s = .next (setPc d p { x with state := 1 } s)) ∧
    (x.state = 1 → exec (.pcDrainComplete d p true) s = .next (setPc d p { x with state := 0, retrainFails := 0 } s)) ∧
    (x.state = 1 → v = setPc d p { x with state := 0, retrainFails := x.retrainFails + 1 } s →
      exec (.pcDrainComplete d p false) s = .next (if 1 ≤ x.retrainFails then fence d p 2 v else v)) ∧
    (x.state < 2 → exec (.pcFence d p) s = .next (requestHalt (raise evChannelMappedOut sevFault (uMd d)
      (mappedDetail (setPc d p { x with state := 2 } s) d p 3) (setPc d p { x with state := 2 } s))))) ∧
  (∀ (s : State) (now d : Nat), d < 4 → exec (.refresh now d) s = .next (atTime now s)) ∧
  (∀ (s u v w : State) (slot tag spread : Nat), s.mm.reconfig = some (slot, tag, spread) → u = dropOvf (drainOvf s) →
    v = applyMapouts 0 96 { u with mm := { u.mm with reconfig := none, spread } } → w = { v with mm := zeroHbm v.mm } →
    exec .memReconfigureComplete s =
      .next (finishStarted { slot, tag, opcode := 0x0052 } 0 [] { w with hq := { w.hq with ovfBase := ovfRing w.mm } })) ∧
  ∀ (s u : State) (now point addr n content source : Nat) (x sender : UnitId), unitExists x = true → u = atTime now s →
    (exec (.parityRetry now point x addr 0 content source sender) s = .next u) ∧
    (0 < n → n < 3 → exec (.parityRetry now point x addr n content source sender) s =
      .next (parityPassed x sender addr point n u)) ∧
    (exec (.parityRetry now 1 x addr 3 content source sender) s = .next (memError addr source content u)) ∧
    (exec (.parityRetry now 2 x addr 3 content source sender) s = .next (memError addr 1 content u)) ∧
    (exec (.parityRetry now 3 x addr 3 content source sender) s = .next (recordError x sender addr u)) ∧
    (x.kind = 1 → exec (.parityRetry now 4 x addr 3 content source sender) s =
      .next (sramTrap x.index addr (sramError x source u))) ∧
    (exec (.parityRetry now 6 x addr 3 content source sender) s = .next (coreFault x.index addr (sramError x source u))) ∧
    (point = 0 ∨ point = 5 ∨ point = 7 → exec (.parityRetry now point x addr 3 content source sender) s =
      .next (parityPathFault x sender addr point u))

/-- HQ_ATTACH, HQ_DETACH, HQ_HEARTBEAT, HEARTBEAT_TIMEOUT, DOORBELL, DOORBELL_REREAD, ADMIN_POLL, stale descriptors, PCIe (log 36). -/
def Obligations.HostQueues : Prop :=
  ∀ (s u : State) (now : Nat), u = atTime now s →
    (∀ path v, s.boot.phase = 7 → s.hq.attach.state ≠ 1 → v = { u with hq := { s.hq with
        attach := { s.hq.attach with state := 1, generation := (s.hq.attach.generation + 1) % 2 ^ 32, path := path % 2 }
        beatAt := u.now, attachSent := 0 } } →
      (s.hq.ovf = [] → exec (.hqAttach now path) s =
        .next (deliver (hostAttached v.hq.nextSeq v) { v with hq := { v.hq with nextSeq := v.hq.nextSeq + 1 } })) ∧
      (s.hq.ovf ≠ [] → exec (.hqAttach now path) s = .next (drainOvf { v with hq := { v.hq with
        attachLeft := some (v.hq.ovf.length, v.hq.nextSeq), nextSeq := v.hq.nextSeq + 1 } }))) ∧
    (exec (.hqDetach now) s = .next (hostLost 3 sevInfo u)) ∧
    (∀ beat, exec (.hqHeartbeat now beat) s =
      .next { u with hq := { s.hq with beat := beat % 2 ^ 32, beatAt := u.now, beatTick := s.tk.tick } }) ∧
    (s.hq.hbMs ≠ 0 → s.hq.beatAt + s.hq.hbMs * 1000000 ≤ u.now →
      exec (.heartbeatTimeout now) s = .next (hostLost 0 sevDegrade u)) ∧
    (exec (.eventOverflowDrain now) s = .next (drainOvf u)) ∧
    (s.gz.blackout = false → exec (.adminPoll now) s = .next (drainAdmin now u)) ∧
    (adminOn s = true →
      (∀ b v, adminHead u = (some b, v) →
        (s.hq.rereads = 0 → exec (.doorbell now 0) s = .next (drainAdmin now u)) ∧
        (s.hq.rereads ≠ 0 → exec (.doorbellReread now) s = .next (drainAdmin now { u with hq := { s.hq with rereads := 0 } }))) ∧
      ∀ v, adminHead u = (none, v) →
        (s.hq.rereads = 0 → exec (.doorbell now 0) s = .next { v with hq := { v.hq with rereads := 16 } }) ∧
        ∀ w, s.hq.rereads ≠ 0 → w = { v with hq := { v.hq with rereads := v.hq.rereads - 1 } } →
          exec (.doorbellReread now) s = .next (if w.hq.rereads = 0 then tally tlEarlyDoorbell w else w)) ∧
    (∀ q x, q ≠ 0 → tabFind s.hq.queues q = some x →
      (x.kind = 1 → s.hq.ovf ≠ [] → exec (.doorbell now q) s = .next (drainOvf u)) ∧
      (x.kind = 1 ∧ s.hq.ovf = [] ∨ x.kind = 2 → exec (.doorbell now q) s = .next (rereadSlot q x u)) ∧
      (2 < x.kind → exec (.doorbell now q) s = .next u)) ∧
    (∀ ms b v, 10 ≤ ms → adminOn s = true → s.hq.adminStale = false →
      hqRead 0 (adminSlot s s.hq.adminPos + 63) 1 u = (b, v) → hostOwned b = true → exec (.staleDescriptorTimeout now 0 ms) s =
        .next (raise evStaleDescriptor sevWarn uHq (staleDetail 0 v.hq.adminPos ms) { v with hq := { v.hq with adminStale := true } })) ∧
    (exec (.pcieLinkLoss now) s = .next (pcieDown u)) ∧
    (exec (.pciePerstN now false) s = .next (pcieDown { u with net := { s.net with perstN := false } })) ∧
    exec (.pciePerstN now true) s =
      .next { u with net := { s.net with perstN := true, pcieUp := decide (3 ≤ s.boot.phase) } }

/-- PTP_MESSAGE, PTP_ANNOUNCE_TIMEOUT, PPS_IN, PPS_TIMEOUT, TICK_IN, RDMA_WRITE_, READ_ and SEND_RECEIVE (log 37). -/
def Obligations.TimeAndRdma : Prop :=
  ∀ (s u : State) (now : Nat), u = atTime now s →
    (∀ f, s.hq.ptpEn = true →
      (exec (.ptpMessage now s.hq.ptpPort true f) s = .next { u with net := { s.net with ptpLast := some u.now, ptpHold := false } }) ∧
      (s.tk.timeSrc = 1 → exec (.ptpMessage now s.hq.ptpPort false f) s = .next (syncFacility f u))) ∧
    (∀ l, s.hq.ptpEn = true → s.net.ptpHold = false → s.net.ptpLast = some l → l + 3 * second ≤ u.now →
      exec (.ptpAnnounceTimeout now) s = .next (tally tlPtpHoldover { u with net := { s.net with ptpHold := true } })) ∧
    (ppsAccepted u = true →
      (s.tk.timeSrc ≠ 2 → exec (.ppsIn now) s = .next { u with net := { s.net with ppsLast := some u.now, ppsHold := false } }) ∧
      (s.tk.timeSrc = 2 → exec (.ppsIn now) s = .next (syncFacility (ppsCount u * second) { u with net := { s.net with
        ppsLast := some u.now, ppsHold := false, ppsFirst := false, ppsSeconds := ppsCount u } }))) ∧
    (∀ l, s.tk.timeSrc = 2 → s.net.ppsHold = false → s.net.ppsLast = some l → l + 3 * second ≤ u.now →
      exec (.ppsTimeout now) s = .next (tally tlPpsHoldover { u with net := { s.net with ppsHold := true } })) ∧
    ((∀ l, s.tk.tickinLast = some l → l + 1000 ≤ u.now) → exec (.tickIn now) s = .next { u with tk := { s.tk with
      tickinLast := some u.now, tickinOffset := (u.now - s.run.tickStartAt) % 2 ^ 32, tickinTick := s.tk.tick % 2 ^ 32
      tickinCount := min (s.tk.tickinCount + 1) (2 ^ 32 - 1) } }) ∧
    ∀ (qp : Nat) (x : Qp), tabFind s.net.qps qp = some x →
      (∀ key a bs, (mrGrants s key a bs.length true = true → exec (.rdmaWriteReceive now qp key a bs) s =
          .next (emit (.rdmaAck qp) { u with mm := memWrite s.mm a bs })) ∧
        (mrGrants s key a bs.length true = false → exec (.rdmaWriteReceive now qp key a bs) s = .next (emit (.rdmaError qp) u))) ∧
      (∀ key a n, (mrGrants s key a n false = true → poisonIn s.mm a n = none → exec (.rdmaReadReceive now qp key a n) s =
          .next (emit (.rdmaReadData qp (memRead s.mm a n)) u)) ∧
        (mrGrants s key a n false = false ∨ (poisonIn s.mm a n).isSome = true → exec (.rdmaReadReceive now qp key a n) s =
          .next (emit (.rdmaError qp) u))) ∧
      ∀ bs, exec (.rdmaSendReceive now qp bs) s =
        .next (emit (.rdmaAck qp) { u with net := { s.net with received := s.net.received ++ [(qp, bs)] } })

/-- TALLY_CLEAR, GSCALE_WRITE, HQ_REGION_CTL_WRITE and _READ, TILE_RESET, REGISTER_WRITE, WINDOW_READ, WINDOW_WRITE (log 13). -/
def Obligations.RegisterAccess : Prop :=
  (∀ (s : State) (off v : Nat), (v = 0 → exec (.tallyClear off v) s = .next (clearTally off s)) ∧
    (v ≠ 0 → exec (.tallyClear off v) s = .next s)) ∧
  (∀ (s : State) (b f : Nat) (v : Word64), b < 2 → f < 256 →
    exec (.gscaleWrite b f 0 v) s = .next (gscalePut b (8 * f) (v.setWidth 32) s) ∧
    exec (.gscaleWrite b f 1 v) s = .next (gscalePut b (8 * f + 4) (v.setWidth 32) s) ∧
    exec (.gscaleWrite b f 2 v) s =
      .next (gscalePut b (8 * f + 4) ((v >>> (32 : Nat)).setWidth 32) (gscalePut b (8 * f) (v.setWidth 32) s))) ∧
  (∀ (s : State) (n : Nat) (v : Word32) (r : HqRegion), n < 16 → r = regionAt s n →
    (r.valid = false → exec (.hqRegionCtlWrite n v) s = .next (setRegion n { r with
      valid := v.getLsbD 0 && regionLegal s r (v.getLsbD 3), read := v.getLsbD 1, write := v.getLsbD 2, target := v.getLsbD 3 } s)) ∧
    (r.valid = true → v.getLsbD 0 = false → exec (.hqRegionCtlWrite n v) s = .next (setRegion n { r with valid := false } s)) ∧
    (r.valid = true → v.getLsbD 0 = true → exec (.hqRegionCtlWrite n v) s = .next s) ∧
    (regionBusy s n = false → exec (.hqRegionCtlRead n) s = .next (emit (.csrRead (BitVec.ofNat 64 (regionCtl r))) s)) ∧
    (regionBusy s n = true → exec (.hqRegionCtlRead n) s = .next { s with hq := { s.hq with
      ctlReads := s.hq.ctlReads ++ [{ entry := n, window := false, off := 0, len := 8 }] } })) ∧
  (∀ (s : State) (p : Nat), p < 160 → running s = false → s.nor.quarTiles.getLsbD p = false → s.tiles.pendMap = none →
    exec (.tileReset p) s = .next (resetTile p s)) ∧
  (∀ (s u : State) (now off : Nat) (v : Word64), u = atTime now s → csrServed s off = true →
    (off % 8 = 0 → exec (.registerWrite now off 8 v) s = .next (csrPut now off (some (v.toNat % 2 ^ 32)) (some (v.toNat / 2 ^ 32)) u)) ∧
    (off % 8 = 0 → exec (.registerWrite now off 4 v) s = .next (csrPut now off (some (v.toNat % 2 ^ 32)) none u)) ∧
    (off % 8 = 4 → exec (.registerWrite now off 4 v) s = .next (csrPut now (off - 4) none (some (v.toNat % 2 ^ 32)) u))) ∧
  (∀ (s u : State) (now off n a : Nat), u = atTime now s → s.net.pcieUp = true → off + n ≤ 2 ^ 32 → a = windowAddr s off →
    (windowCsr a n = false →
      (devOk s.mm a n = true → exec (.windowRead now off n) s =
        .next (emit (.completion cplOk (poisonIn s.mm a n).isSome (memRead s.mm a n)) (rouse u))) ∧
      (devOk s.mm a n = false → exec (.windowRead now off n) s = .next (emit (.completion cplUnsupported false []) u))) ∧
    (windowCsr a n = true → csrServed s (a - csrBase) = false →
      exec (.windowRead now off n) s = .next (emit (.completion cplUnsupported false []) u)) ∧
    (windowCsr a n = true → csrServed s (a - csrBase) = true → csrAligned (a - csrBase) n = true → ∀ e,
      ctlRead (a - csrBase) = some e →
      exec (.windowRead now off n) s = .next (readRegionCtl { entry := e, window := true, off := (a - csrBase) % 8, len := n } u)) ∧
    (windowCsr a n = true → csrServed s (a - csrBase) = true → csrAligned (a - csrBase) n = false ∨ ctlRead (a - csrBase) = none → ∀ bs v,
      csrRead (a - csrBase) n u = (bs, v) → exec (.windowRead now off n) s = .next (emit (.completion cplOk false bs) v))) ∧
  ∀ (s u : State) (now off a : Nat) (bs : List Byte), u = atTime now s → s.net.pcieUp = true → off + bs.length ≤ 2 ^ 32 →
    a = windowAddr s off →
    (windowCsr a bs.length = false →
      (devOk s.mm a bs.length = true →
        exec (.windowWrite now off bs) s = .next { rouse u with mm := memWrite (rouse u).mm a bs }) ∧
      (devOk s.mm a bs.length = false → exec (.windowWrite now off bs) s = .next (emit (.completion cplUnsupported false []) u))) ∧
    (windowCsr a bs.length = true → csrServed s (a - csrBase) = false →
      exec (.windowWrite now off bs) s = .next (emit (.completion cplUnsupported false []) u)) ∧
    (windowCsr a bs.length = true → csrServed s (a - csrBase) = true →
      exec (.windowWrite now off bs) s = .next (csrWrite now (a - csrBase) bs.length (leNat bs) u))

/-- PLAN_LOAD, JOB_START, JOB_RESET, QUEUE_CREATE, QUEUE_DELETE, TIMETABLE_LOAD, _SWITCH, BELLWETHER_HANDOVER, TILE_MAP_SWITCH. -/
def Obligations.AdminJob : Prop :=
  ∀ (e : AdminEntry) (s u : State), e.reserved = false → u = rouse s →
    (∀ st v, e.paramAddr ≠ 0 → e.paramAddr % 64 = 0 → e.paramAddr < hostBit → e.paramBytes ≠ 0 →
      devOk s.mm e.paramAddr e.paramBytes = true → s.job.state = 0 →
      loadPlan (memRead u.mm e.paramAddr e.paramBytes) e.paramAddr u = (st, v) →
      exec (.planLoad e) s = .next (adminComplete e.slot e.tag 0x0001 st [] v)) ∧
    (∀ bs a v, containerFault bs = 0 → signatureBad s bs = false → loadSections bs a s = .ok v → loadPlan bs a s = (0, v)) ∧
    (∀ now v w, v = rouse (atTime now s) → startStatus v e = 0 → w = acceptStart e v → exec (.jobStart now e) s =
      .next (checkReports { w with hq := { w.hq with started := w.hq.started ++ [{ slot := e.slot, tag := e.tag, opcode := 0x0002 }] } })) ∧
    (∀ now v, v = rouse (atTime now s) → startedOp s 0x0002 = none → startedOp s 0x0003 = none →
      (s.job.state = 2 → exec (.jobReset now e) s = .next (haltForReset { v with hq := { v.hq with
        started := v.hq.started ++ [{ slot := e.slot, tag := e.tag, opcode := 0x0003 }] } })) ∧
      (s.job.state ≠ 0 → s.job.state ≠ 2 →
        exec (.jobReset now e) s = .next (adminComplete e.slot e.tag 0x0003 0 [] (endJobReset v)))) ∧
    (∀ b v, paramBlock 64 e u = (some b, v) → anySet b 6 2 = false → anySet b 20 44 = false → byteAt b 5 < 64 → queueBad v b = false →
      exec (.queueCreate e) s = .next (adminComplete e.slot e.tag 0x0004 0 [] (makeQueue b v))) ∧
    ((tabFind s.hq.queues e.arg0).isSome = true → s.job.state ≠ 2 ∨ e.arg0 ∉ s.job.header.rings → exec (.queueDelete e) s =
      .next (adminComplete e.slot e.tag 0x0005 0 [] { u with hq := { u.hq with
        queues := tabDel u.hq.queues e.arg0, entries := u.hq.entries.filter fun x => x.queue != e.arg0 } })) ∧
    (∀ b v, paramBlock ttBytes e u = (some b, v) → v.job.state ≠ 0 → (∀ t, v.tk.switch ≠ some (t, e.arg0)) → e.arg0 ≤ 1 →
      e.arg0 ≠ v.tk.active → timetableStatus b v.tk.leadNs v.tiles.map = 0 → exec (.timetableLoad e) s =
      .next (adminComplete e.slot e.tag 0x0010 0 [] (setSlot e.arg0 { status := 0, tt := some (parseTimetable b) } v))) ∧
    (s.tk.tick + 2 ≤ e.arg0 → s.tk.switch = none → e.arg1 ≤ 1 → (slotTimetable s e.arg1).isSome = true →
      exec (.timetableSwitch e) s =
        .next (adminComplete e.slot e.tag 0x0011 0 [] { u with tk := { s.tk with switch := some (e.arg0, e.arg1) } })) ∧
    (s.tk.tick + 2 ≤ e.arg0 → s.tk.handover = none → e.arg1 ∈ s.job.exchange.candidates → exec (.bellwetherHandover e) s =
      .next (adminComplete e.slot e.tag 0x0012 0 [] { u with tk := { s.tk with handover := some (e.arg0, e.arg1) } })) ∧
    ∀ b v, paramBlock mapBytes e u = (some b, v) → v.job.state ≠ 0 → v.tk.tick + 2 ≤ e.arg0 → v.tiles.pendMap = none →
      v.tiles.moving = [] → mapBad v.nor.quarTiles b = false → exec (.tileMapSwitch e) s = .next (adminComplete e.slot e.tag 0x0013 0 []
        { v with tiles := { v.tiles with pendMap := some (e.arg0, parseMap b, false) } })

/-- DESCRIPTOR_LOAD, PROGRAM_LOAD, FLOCK_LOAD, FOLD_LOAD, FOLD_SWITCH, ROW_REPAIR, COMMIT_ROLLBACK, HANDOVER_PREPARE, _COPY_DONE, _SWITCH. -/
def Obligations.AdminTables : Prop :=
  (∀ (e : AdminEntry) (s u : State), e.reserved = false → u = rouse s →
    (∀ b v, paramBlock 256 e u = (some b, v) → e.arg0 ≤ 4095 → getTable v e.arg0 = none → descStatus v e.arg0 b = 0 →
      exec (.descriptorLoad e) s = .next (adminComplete e.slot e.tag 0x0020 0 [] (putDesc e.arg0 b v))) ∧
    (∀ b v n, paramBlock 160 e u = (some b, v) → e.arg0 ≤ 63 → changePending v v.tb.programs e.arg0 = false →
      v.job.state < 2 ∧ n = 0 ∨ 2 ≤ v.job.state ∧ v.tk.tick + 2 ≤ e.arg1 ∧ n = e.arg1 → programStatus v n e.arg0 b = 0 →
      exec (.programLoad e) s = .next (adminComplete e.slot e.tag 0x0021 0 [] (putProgram e.arg0 n b v))) ∧
    (∀ b v n, paramBlock 128 e u = (some b, v) → e.arg0 ≤ 255 → changePending v v.tb.flocks e.arg0 = false →
      v.job.state < 2 ∧ n = 0 ∨ 2 ≤ v.job.state ∧ v.tk.tick + 2 ≤ e.arg1 ∧ n = e.arg1 → flockStatus v n e.arg0 b = 0 →
      exec (.flockLoad e) s = .next (adminComplete e.slot e.tag 0x0022 0 [] (putFlock e.arg0 n b v))) ∧
    (∀ b v num mask mode kind w, paramBlock 64 e u = (some b, v) → e.arg0 = num + 2 ^ 12 * mask + 2 ^ 16 * mode + 2 ^ 18 * kind →
      num < 4096 → mask < 16 → mode < 2 → kind < 3 → e.arg1 = 0 → e.arg2 = 0 → e.arg3 = 0 →
      w = (List.range 4).map (fun i => leAt b (8 * i) 8) →
      foldWordsReserved v kind num mask (mode == 1) w = false → anySet b 32 32 = false → foldLoadPending v { kind, num } = false →
      v.snap = none → foldLoadBad v kind num mask (mode == 1) w = false → exec (.foldLoad e) s = .next { v with
        folds := { v.folds with loading := v.folds.loading ++ [{
          slot := e.slot, tag := e.tag, target := { kind, num }, dieMask := BitVec.ofNat 4 mask, init := mode == 1, words := w }] }
        hq := { v.hq with started := v.hq.started ++ [{ slot := e.slot, tag := e.tag, opcode := 0x0023 }] } }) ∧
    (∀ b v ts, 0 < e.paramBytes → e.paramBytes ≤ 256 → e.paramBytes % 4 = 0 → paramBlock e.paramBytes e u = (some b, v) →
      ts = parseTargets b → (∀ i < ts.length, leAt b (4 * i) 4 < 2 ^ 14) → v.tk.tick + 2 ≤ e.arg0 → v.folds.switch = none →
      (∀ t ∈ ts, tableHandover v t = false ∧ notLoaded v t = false) → v.snap = none → exec (.foldSwitch e) s =
      .next (adminComplete e.slot e.tag 0x0024 0 [] { v with folds := { v.folds with switch := some (e.arg0, ts.dedup) } })) ∧
    (∀ t, u.snap = none → getTable u e.arg0 = some t → notOwned u e.arg0 e.arg1 = false →
      inMemory u e.arg2 (recordBytes t.desc) = true → exec (.rowRepair e) s =
        .next (adminComplete e.slot e.tag 0x0025 0 [] { u with repairsDue := u.repairsDue ++ [(e.arg0, e.arg1, e.arg2)] })) ∧
    (u.job.state = 3 → u.tk.state = 4 → u.snap = none → u.commit.tickAtomic = true → u.commit.rollbackOk = true →
      e.arg0 = u.commit.step → exec (.commitRollback e) s = .next (adminComplete e.slot e.tag 0x0026 0 [] (rollbackCommit u))) ∧
    (∀ om p q chip die h, u.job.exchange.maps[e.arg0]? = some om → om.pos[e.arg1]? = some p → q = posAt u e.arg0 e.arg1 u.tk.tick p →
      e.arg2 = chip + 2 ^ 12 * die → chip < u.job.exchange.chips → chip < 4096 → die < 4 → u.job.state ≠ 0 → u.snap = none →
      handoverPending u e.arg0 = false → mapFoldLoaded u e.arg0 = false → newPlaceBad u e.arg0 e.arg1 chip die e.arg3 = false →
      h = {
            map := e.arg0, pos := e.arg1, newChip := chip, newDie := die, newBase := e.arg3, oldChip := q.chip, oldDie := q.die,
            oldBase := q.slotBase, entry := if q.chip = u.lg.chip then some (e.slot, e.tag) else none,
            copying := q.chip == u.lg.chip, prepared := !(q.chip == u.lg.chip) } →
      (q.chip ≠ u.lg.chip → exec (.handoverPrepare e) s =
        .next (adminComplete e.slot e.tag 0x0030 0 [] { u with handovers := u.handovers ++ [h] })) ∧
      (q.chip = u.lg.chip → ∀ v, v = copyNext h { u with handovers := u.handovers ++ [h] } → exec (.handoverPrepare e) s =
        .next { v with hq := { v.hq with started := v.hq.started ++ [{ slot := e.slot, tag := e.tag, opcode := 0x0030 }] } })) ∧
    ((∃ h ∈ u.handovers, h.map = e.arg0 ∧ h.pos = e.arg1 ∧ h.released = false ∧ h.prepared = true) →
      (∀ h ∈ u.handovers, h.map = e.arg0 → h.pos = e.arg1 → h.released = false → h.switchTick = none) → u.tk.tick + 2 ≤ e.arg2 →
      exec (.handoverSwitch e) s = .next (adminComplete e.slot e.tag 0x0031 0 []
        (modHandover e.arg0 e.arg1 (fun h => { h with switchTick := some e.arg2 }) u)))) ∧
  ∀ (s : State) (map slot tag : Nat) (h : Handover) (c : Started),
    s.handovers.find? (fun h => h.map == map && h.copying && !h.prepared && (nextCopy s h).isNone) = some h → h.entry = some (slot, tag) →
    s.hq.started.find? (fun c => c.opcode == 0x0030 && c.slot == slot && c.tag == tag) = some c →
    exec (.handoverCopyDone map) s =
      .next (finishStarted c 0 [] (modHandover h.map h.pos (fun h => { h with prepared := true }) s))

/-- SNAPSHOT_START, SNAPSHOT_ABORT, MAPOUT_ADD and _REMOVE, MEM_RECONFIGURE, BOOT_CONFIG, RDMA_ commands, NVMF_ATTACH. -/
def Obligations.AdminDevice : Prop :=
  ∀ (e : AdminEntry) (s u : State), e.reserved = false → u = rouse s →
    (∀ b v n, paramBlock e.paramBytes e u = (some b, v) → n = byteAt b 32 → e.paramBytes = 64 + 32 * n → anySet b 33 31 = false →
      (∀ i < n, anySet b (64 + 32 * i + 1) 1 = false ∧ anySet b (64 + 32 * i + 24) 8 = false) → v.job.state ≠ 0 →
      v.tk.tick + 2 ≤ leAt b 8 8 → snapConflict v = false → snapshotBad v b = false → exec (.snapshotStart e) s = .next { v with
        snap := some {
          id := leAt b 0 8, tick := leAt b 8 8, slot := e.slot, tag := e.tag,
          extents := (List.range n).map (parseExtent b), workBase := leAt b 16 8, workSize := leAt b 24 8 }
        hq := { v.hq with started := v.hq.started ++ [{ slot := e.slot, tag := e.tag, opcode := 0x0040 }] } }) ∧
    (∀ n, u.snap = some n → n.id = e.arg0 →
      exec (.snapshotAbort e) s = .next (adminComplete e.slot e.tag 0x0041 0 [] (voidSnapshot 2 0xFF u))) ∧
    (e.arg0 < 4 → e.arg1 < 128 →
      ((e.arg0, e.arg1) ∈ u.nor.mapout → exec (.mapoutAdd e) s = .next (adminComplete e.slot e.tag 0x0050 0 [] u)) ∧
      ((e.arg0, e.arg1) ∉ u.nor.mapout → u.nor.mapout.length < 32 → exec (.mapoutAdd e) s =
        .next (adminComplete e.slot e.tag 0x0050 0 [] { u with nor := { u.nor with mapout := u.nor.mapout ++ [(e.arg0, e.arg1)] } }))) ∧
    ((e.arg0, e.arg1) ∈ u.nor.mapout → exec (.mapoutRemove e) s = .next (adminComplete e.slot e.tag 0x0051 0 []
      { u with nor := { u.nor with mapout := u.nor.mapout.filter fun y => y != (e.arg0, e.arg1) } })) ∧
    (u.job.state = 0 → u.mm.reconfig = none → e.arg0 ≤ maxSpread u → exec (.memReconfigure e) s = .next { u with
      mm := { u.mm with reconfig := some (e.slot, e.tag, e.arg0) },
      hq := { u.hq with started := u.hq.started ++ [{ slot := e.slot, tag := e.tag, opcode := 0x0052 }] } }) ∧
    (0 < e.arg0 → e.arg0 ≤ 64 → exec (.bootConfig e) s =
      .next (adminComplete e.slot e.tag 0x0053 0 [] { u with nor := { u.nor with bootConfig := some e.arg0 } })) ∧
    (∀ n, n = u.net.nextMr → e.arg2 < 4 → e.arg1 ≠ 0 → devOk u.mm e.arg0 e.arg1 = true → u.net.mrs.length < 1024 →
      exec (.rdmaMrRegister e) s = .next (adminComplete e.slot e.tag 0x0060 0 [(0, keyOf n)] { u with net := { u.net with
        nextMr := n + 1,
        mrs := tabPut u.net.mrs n { base := e.arg0, bytes := e.arg1, read := e.arg2.testBit 0, write := e.arg2.testBit 1 } } })) ∧
    (∀ n r, findMr u e.arg0 = some (n, r) → exec (.rdmaMrDeregister e) s =
      .next (adminComplete e.slot e.tag 0x0061 0 [] { u with net := { u.net with mrs := tabDel u.net.mrs n } })) ∧
    (∀ b v, paramBlock 64 e u = (some b, v) → anySet b 5 3 = false → anySet b 39 25 = false → qpBad v b = false →
      exec (.rdmaQpSet e) s = .next (adminComplete e.slot e.tag 0x0062 0 [] { v with net := { v.net with
        qps := if (parseQp b).ready = true then tabPut v.net.qps (leAt b 0 4) (parseQp b) else tabDel v.net.qps (leAt b 0 4) } })) ∧
    ∀ x h, tabFind u.net.qps e.arg0 = some x → e.arg1 ≠ 0 → h = u.net.nextHandle → h ≤ 65535 → exec (.nvmfAttach e) s =
      .next (adminComplete e.slot e.tag 0x0063 0 [(0, h)] (rebindExtent h { u with net := { u.net with
        nextHandle := h + 1, handles := tabPut u.net.handles h (e.arg0, e.arg1) } }))

/-- Register values after cold reset. -/
def Obligations.ResetRegisters : Prop :=
  (∀ x ∈ [(0x18, 2 ^ 64 - 1), (0x38, 1000), (0x40, 5000), (0x50, 0x7F), (0x1018, 2 ^ 64 - 1), (0x6000, 12 + 16 * 2 ^ 6), (0x6008, 0xD800000000),
      (0xB008, 3000), (0xB018, 10), (0xB020, 2), (0xB028, 1000), (0xB030, 100), (0xB038, 0x7D),
      (0xF010, 4), (0xF028, 100)],
    csrSlot State.reset x.1 = x.2) ∧
  (∀ d < 4, csrSlot State.reset (0x2000 + 0x1000 * d) = 4 ∧ csrSlot State.reset (0x2010 + 0x1000 * d) = 2 ^ 33 ∧
    csrSlot State.reset (0x2030 + 0x1000 * d) = 2 ^ 31 ∧ csrSlot State.reset (0x7008 + 0x1000 * d) = 4 + 12 * 2 ^ 8) ∧
  (∀ l < 32, csrSlot State.reset (0xB100 + 8 * l) = 3000) ∧
  csrSlot State.reset 0xC000 = 3 + 1 * 2 ^ 2 + 10 * 2 ^ 7 + 5 * 2 ^ 13 ∧
  (∀ c < 2048, csrSlot State.reset (0x16000 + 8 * c) = 0x7F7F7F7F7F7F7F7F) ∧
  (∀ k < 12, ∀ i < 8, csrSlot State.reset (0x1A000 + 0x1000 * k + 8 * i) = 0x7F * 2 ^ 17) ∧
  State.reset.boot.powered = false ∧ State.reset.job.state = 0 ∧ State.reset.pending = []
end

