-- ==== Sys2Proof/Laws/Memory.lean ====
section
/-! SUPPORT. Laws of sparse tables and of memory: a read after a write, what a write leaves alone, and that every memory
operation keeps the canonical form. -/

namespace Sys2Proof.Machine

/-! ## Tables -/

section tables
variable {α : Type}

@[simp] theorem tabGet_nil (d : α) (n : Nat) : tabGet d [] n = d := rfl
@[simp] theorem tabFind_nil (n : Nat) : tabFind ([] : Tab α) n = none := rfl

/-- A read after a put. -/
theorem tabGet_tabPut (d : α) (t : Tab α) (n : Nat) (v : α) (m : Nat) :
    tabGet d (tabPut t n v) m = if m = n then v else tabGet d t m := by
  induction t with
  | nil => simp [tabPut, tabGet]
  | cons e t ih =>
    obtain ⟨k, w⟩ := e
    simp only [tabPut]
    split
    · simp [tabGet]
    · split
      · subst_vars
        by_cases h : m = k <;> simp [tabGet, h]
      · by_cases h : m = k
        · subst h
          rename_i h1 h2
          simp [tabGet, Ne.symm h2]
        · simp [tabGet, h, ih]

/-- A read after a removal. -/
theorem tabGet_tabDel (d : α) (t : Tab α) (n m : Nat) :
    tabGet d (tabDel t n) m = if m = n then d else tabGet d t m := by
  induction t with
  | nil => simp [tabDel, tabGet]
  | cons e t ih =>
    obtain ⟨k, w⟩ := e
    simp only [tabDel]
    split
    · subst_vars
      by_cases h : m = k
      · subst h; simpa using ih
      · simp [tabGet, h, ih]
    · by_cases h : m = k
      · subst h
        rename_i h2
        simp [tabGet, Ne.symm h2]
      · simp [tabGet, h, ih]

/-- A read after a write. -/
theorem tabGet_tabSet [DecidableEq α] (d : α) (t : Tab α) (n : Nat) (v : α) (m : Nat) :
    tabGet d (tabSet d t n v) m = if m = n then v else tabGet d t m := by
  unfold tabSet
  split
  · subst_vars; exact tabGet_tabDel v t n m
  · exact tabGet_tabPut d t n v m

theorem tabFind_tabPut (t : Tab α) (n : Nat) (v : α) (m : Nat) :
    tabFind (tabPut t n v) m = if m = n then some v else tabFind t m := by
  induction t with
  | nil => simp [tabPut, tabFind]
  | cons e t ih =>
    obtain ⟨k, w⟩ := e
    simp only [tabPut]
    split
    · simp [tabFind]
    · split
      · subst_vars
        by_cases h : m = k <;> simp [tabFind, h]
      · by_cases h : m = k
        · subst h
          rename_i h1 h2
          simp [tabFind, Ne.symm h2]
        · simp [tabFind, h, ih]

theorem tabFind_tabDel (t : Tab α) (n m : Nat) :
    tabFind (tabDel t n) m = if m = n then none else tabFind t m := by
  induction t with
  | nil => simp [tabDel, tabFind]
  | cons e t ih =>
    obtain ⟨k, w⟩ := e
    simp only [tabDel]
    split
    · subst_vars
      by_cases h : m = k
      · subst h; simpa using ih
      · simp [tabFind, h, ih]
    · by_cases h : m = k
      · subst h
        rename_i h2
        simp [tabFind, Ne.symm h2]
      · simp [tabFind, h, ih]

/-! ### The canonical form -/

variable [DecidableEq α] {d : α}

theorem tabWf_cons (k : Nat) (v : α) (t : Tab α) :
    tabWf d ((k, v) :: t) = true ↔ v ≠ d ∧ (∀ e ∈ t, k < e.1) ∧ tabWf d t = true := by
  induction t generalizing k v with
  | nil => simp [tabWf]
  | cons e t ih =>
    obtain ⟨k', v'⟩ := e
    simp only [tabWf, Bool.and_eq_true, decide_eq_true_eq, List.mem_cons, forall_eq_or_imp]
    constructor
    · rintro ⟨⟨h1, h2⟩, h3⟩
      have h4 := (ih k' v').mp h3
      exact ⟨h1, ⟨h2, fun e he => Nat.lt_trans h2 (h4.2.1 e he)⟩, h3⟩
    · rintro ⟨h1, ⟨h2, _⟩, h3⟩
      exact ⟨⟨h1, h2⟩, h3⟩

omit [DecidableEq α] in
/-- Keys of a table after a put: those it had, and the new one. -/
theorem mem_tabPut_key (t : Tab α) (n : Nat) (v : α) (e : Nat × α) (he : e ∈ tabPut t n v) :
    e.1 = n ∨ ∃ e' ∈ t, e'.1 = e.1 := by
  induction t with
  | nil => simp [tabPut] at he; simp [he]
  | cons x t ih =>
    obtain ⟨k, w⟩ := x
    simp only [tabPut] at he
    split at he
    · rcases List.mem_cons.mp he with rfl | he
      · exact .inl rfl
      · exact .inr ⟨e, he, rfl⟩
    · split at he
      · rcases List.mem_cons.mp he with rfl | he
        · exact .inl rfl
        · exact .inr ⟨e, List.mem_cons_of_mem _ he, rfl⟩
      · rcases List.mem_cons.mp he with rfl | he
        · exact .inr ⟨(k, w), List.mem_cons_self, rfl⟩
        · rcases ih he with h | ⟨e', h', h''⟩
          · exact .inl h
          · exact .inr ⟨e', List.mem_cons_of_mem _ h', h''⟩

omit [DecidableEq α] in
theorem mem_of_mem_tabDel (t : Tab α) (n : Nat) (e : Nat × α) (he : e ∈ tabDel t n) : e ∈ t := by
  induction t with
  | nil => simp [tabDel] at he
  | cons x t ih =>
    obtain ⟨k, w⟩ := x
    simp only [tabDel] at he
    split at he
    · exact List.mem_cons_of_mem _ (ih he)
    · rcases List.mem_cons.mp he with rfl | he
      · exact List.mem_cons_self
      · exact List.mem_cons_of_mem _ (ih he)

theorem tabPut_wf (t : Tab α) (n : Nat) (v : α) (hv : v ≠ d) (h : tabWf d t = true) : tabWf d (tabPut t n v) = true := by
  induction t with
  | nil => simp [tabPut, tabWf, hv]
  | cons x t ih =>
    obtain ⟨k, w⟩ := x
    obtain ⟨h1, h2, h3⟩ := (tabWf_cons k w t).mp h
    simp only [tabPut]
    split
    · rename_i hn
      refine (tabWf_cons _ _ _).mpr ⟨hv, ?_, h⟩
      intro e he
      rcases List.mem_cons.mp he with rfl | he
      · exact hn
      · exact Nat.lt_trans hn (h2 e he)
    · split
      · subst_vars
        exact (tabWf_cons _ _ _).mpr ⟨hv, h2, h3⟩
      · refine (tabWf_cons _ _ _).mpr ⟨h1, ?_, ih h3⟩
        intro e he
        rcases mem_tabPut_key t n v e he with hk | ⟨e', he', hk⟩
        · omega
        · exact hk ▸ h2 e' he'

theorem tabDel_wf (t : Tab α) (n : Nat) (h : tabWf d t = true) : tabWf d (tabDel t n) = true := by
  induction t with
  | nil => rfl
  | cons x t ih =>
    obtain ⟨k, w⟩ := x
    obtain ⟨h1, h2, h3⟩ := (tabWf_cons k w t).mp h
    simp only [tabDel]
    split
    · exact ih h3
    · exact (tabWf_cons _ _ _).mpr ⟨h1, fun e he => h2 e (mem_of_mem_tabDel t n e he), ih h3⟩

/-- Writing the default removes the entry, so the form is kept whatever is written. -/
theorem tabSet_wf (t : Tab α) (n : Nat) (v : α) (h : tabWf d t = true) : tabWf d (tabSet d t n v) = true := by
  unfold tabSet
  split
  · exact tabDel_wf t n h
  · exact tabPut_wf t n v ‹_› h

theorem filter_wf (p : Nat × α → Bool) (t : Tab α) (h : tabWf d t = true) : tabWf d (t.filter p) = true := by
  induction t with
  | nil => rfl
  | cons x t ih =>
    obtain ⟨k, w⟩ := x
    obtain ⟨h1, h2, h3⟩ := (tabWf_cons k w t).mp h
    simp only [List.filter_cons]
    split
    · exact (tabWf_cons _ _ _).mpr ⟨h1, fun e he => h2 e (List.mem_filter.mp he).1, ih h3⟩
    · exact ih h3

end tables

/-! ## Memory -/

/-- The lists of a memory that its canonical form is about. -/
theorem Memory.wf_iff (m : Mm) : Memory.wf m = true ↔ tabWf 0 m.bytes = true ∧ m.poison.Pairwise (· < ·) := by
  simp [Memory.wf]

theorem Memory.wf_of_eq {m n : Mm} (hb : n.bytes = m.bytes) (hp : n.poison = m.poison) (h : Memory.wf m = true) :
    Memory.wf n = true := by
  rw [Memory.wf_iff] at h ⊢
  rw [hb, hp]
  exact h

/-- The memory of the state after reset lists nothing. -/
theorem reset_memory_wf : Memory.wf ({} : Mm) = true := by decide

theorem putBytes_wf (m : Mm) (t : Tab Byte) (a : Nat) (bs : List Byte) (h : tabWf 0 t = true) :
    tabWf 0 (putBytes m t a bs) = true := by
  induction bs generalizing t a with
  | nil => exact h
  | cons b bs ih =>
    simp only [putBytes]
    apply ih
    split
    · exact h
    · exact tabSet_wf t a b h

theorem memWrite_wf {m : Mm} (a : Nat) (bs : List Byte) (h : Memory.wf m = true) : Memory.wf (memWrite m a bs) = true := by
  rw [Memory.wf_iff] at h ⊢
  exact ⟨putBytes_wf m m.bytes a bs h.1, h.2.filter _⟩

theorem mem_insertSorted (x : Nat) (l : List Nat) (y : Nat) : y ∈ insertSorted x l ↔ y = x ∨ y ∈ l := by
  induction l with
  | nil => simp [insertSorted]
  | cons z t ih =>
    simp only [insertSorted]
    split
    · simp
    · split
      · subst_vars; simp
      · simp [ih, or_left_comm]

theorem insertSorted_pairwise (x : Nat) (l : List Nat) (h : l.Pairwise (· < ·)) : (insertSorted x l).Pairwise (· < ·) := by
  induction l with
  | nil => simp [insertSorted]
  | cons z t ih =>
    obtain ⟨h1, h2⟩ := List.pairwise_cons.mp h
    simp only [insertSorted]
    split
    · rename_i hx
      refine List.pairwise_cons.mpr ⟨fun y hy => ?_, h⟩
      rcases List.mem_cons.mp hy with rfl | hy
      · exact hx
      · exact Nat.lt_trans hx (h1 y hy)
    · split
      · exact h
      · refine List.pairwise_cons.mpr ⟨fun y hy => ?_, ih h2⟩
        rcases (mem_insertSorted x t y).mp hy with rfl | hy
        · omega
        · exact h1 y hy

theorem memPoison_wf {m : Mm} (line : Nat) (h : Memory.wf m = true) : Memory.wf (memPoison m line) = true := by
  rw [Memory.wf_iff] at h ⊢
  exact ⟨h.1, insertSorted_pairwise line m.poison h.2⟩

theorem poisonAll_wf (ls : List Nat) {m : Mm} (h : Memory.wf m = true) : Memory.wf (ls.foldl memPoison m) = true := by
  induction ls generalizing m with
  | nil => exact h
  | cons l ls ih => exact ih (memPoison_wf l h)

theorem zeroHbm_wf {m : Mm} (h : Memory.wf m = true) : Memory.wf (zeroHbm m) = true := by
  rw [Memory.wf_iff] at h ⊢
  exact ⟨filter_wf _ _ h.1, h.2.filter _⟩

theorem zeroAll_wf (m : Mm) : Memory.wf (zeroAll m) = true := by
  rw [Memory.wf_iff]
  exact ⟨rfl, List.Pairwise.nil⟩

/-- Lines and bytes picked out of a memory in canonical form are in canonical form. -/
theorem keep_wf {m : Mm} (p : Nat × Byte → Bool) (l : Nat → Bool) (h : Memory.wf m = true) :
    Memory.wf { m with bytes := m.bytes.filter p, poison := m.poison.filter l } = true := by
  rw [Memory.wf_iff] at h ⊢
  exact ⟨filter_wf _ _ h.1, h.2.filter _⟩

/-! ### Reads after writes -/

/-- One byte after bytes are put from `a` on: the byte put there, unless its line is fenced. -/
theorem tabGet_putBytes (m : Mm) (t : Tab Byte) (a : Nat) (bs : List Byte) (x : Nat) :
    tabGet 0 (putBytes m t a bs) x =
      if a ≤ x ∧ x < a + bs.length ∧ lineFenced m (x / 64) = false then bs.getD (x - a) 0 else tabGet 0 t x := by
  induction bs generalizing t a with
  | nil => simp [putBytes]; omega
  | cons b bs ih =>
    simp only [putBytes, ih]
    by_cases hx : x = a
    · subst hx
      by_cases hf : lineFenced m (x / 64) = true
      · simp [hf]
      · simp [hf, tabGet_tabSet]
    · by_cases h1 : a + 1 ≤ x ∧ x < a + 1 + bs.length ∧ lineFenced m (x / 64) = false
      · have h2 : a ≤ x ∧ x < a + (b :: bs).length ∧ lineFenced m (x / 64) = false := by
          refine ⟨by omega, ?_, h1.2.2⟩
          simp only [List.length_cons]; omega
        rw [if_pos h1, if_pos h2]
        have h3 : x - a = (x - (a + 1)) + 1 := by omega
        rw [h3, List.getD_cons_succ]
      · have h2 : ¬(a ≤ x ∧ x < a + (b :: bs).length ∧ lineFenced m (x / 64) = false) := by
          intro ⟨h3, h4, h5⟩
          apply h1
          simp only [List.length_cons] at h4
          exact ⟨by omega, by omega, h5⟩
        rw [if_neg h1, if_neg h2]
        split
        · rfl
        · simp [tabGet_tabSet, hx]

/-- A read of one byte after a write. -/
theorem memByte_memWrite (m : Mm) (a : Nat) (bs : List Byte) (x : Nat) :
    memByte (memWrite m a bs) x =
      if a ≤ x ∧ x < a + bs.length ∧ lineFenced m (x / 64) = false then bs.getD (x - a) 0 else memByte m x :=
  tabGet_putBytes m m.bytes a bs x

/-- A write leaves every byte outside it alone. -/
theorem memByte_memWrite_outside (m : Mm) (a : Nat) (bs : List Byte) (x : Nat) (h : x < a ∨ a + bs.length ≤ x) :
    memByte (memWrite m a bs) x = memByte m x := by
  rw [memByte_memWrite, if_neg]
  omega

end Sys2Proof.Machine
end

