-- ==== Sys2Proof/Laws/State.lean ====
section
/-! SUPPORT. State's updates, field by field: what an update of one part of State leaves of the others. -/

namespace Sys2Proof.Machine

/-- Two puts at one key are the second. -/
theorem tabPut_tabPut {α : Type} (t : Tab α) (n : Nat) (v w : α) : tabPut (tabPut t n v) n w = tabPut t n w := by
  induction t with
  | nil => simp [tabPut]
  | cons e t ih =>
    obtain ⟨k, u⟩ := e
    simp only [tabPut]
    split
    · simp [tabPut]
    · split
      · simp [tabPut, *]
      · simp [tabPut, *]

@[simp] theorem getTile_setTile (p q : Nat) (x : Tile) (s : State) :
    getTile (setTile p x s) q = if q = p then x else getTile s q := tabGet_tabPut _ _ _ _ _

@[simp] theorem setTile_setTile (p : Nat) (x y : Tile) (s : State) : setTile p y (setTile p x s) = setTile p y s := by
  simp [setTile, tabPut_tabPut]

/-! ### atTime changes `now` alone. -/

@[simp] theorem atTime_boot (now : Nat) (s : State) : (atTime now s).boot = s.boot := rfl
@[simp] theorem atTime_nor (now : Nat) (s : State) : (atTime now s).nor = s.nor := rfl
@[simp] theorem atTime_sc (now : Nat) (s : State) : (atTime now s).sc = s.sc := rfl
@[simp] theorem atTime_mm (now : Nat) (s : State) : (atTime now s).mm = s.mm := rfl
@[simp] theorem atTime_hq (now : Nat) (s : State) : (atTime now s).hq = s.hq := rfl
@[simp] theorem atTime_net (now : Nat) (s : State) : (atTime now s).net = s.net := rfl
@[simp] theorem atTime_tk (now : Nat) (s : State) : (atTime now s).tk = s.tk := rfl
@[simp] theorem atTime_run (now : Nat) (s : State) : (atTime now s).run = s.run := rfl
@[simp] theorem atTime_start (now : Nat) (s : State) : (atTime now s).start = s.start := rfl
@[simp] theorem atTime_job (now : Nat) (s : State) : (atTime now s).job = s.job := rfl
@[simp] theorem atTime_record (now : Nat) (s : State) : (atTime now s).record = s.record := rfl
@[simp] theorem atTime_tb (now : Nat) (s : State) : (atTime now s).tb = s.tb := rfl
@[simp] theorem atTime_folds (now : Nat) (s : State) : (atTime now s).folds = s.folds := rfl
@[simp] theorem atTime_ru (now : Nat) (s : State) : (atTime now s).ru = s.ru := rfl
@[simp] theorem atTime_commit (now : Nat) (s : State) : (atTime now s).commit = s.commit := rfl
@[simp] theorem atTime_ex (now : Nat) (s : State) : (atTime now s).ex = s.ex := rfl
@[simp] theorem atTime_handovers (now : Nat) (s : State) : (atTime now s).handovers = s.handovers := rfl
@[simp] theorem atTime_bulk (now : Nat) (s : State) : (atTime now s).bulk = s.bulk := rfl
@[simp] theorem atTime_lg (now : Nat) (s : State) : (atTime now s).lg = s.lg := rfl
@[simp] theorem atTime_digest (now : Nat) (s : State) : (atTime now s).digest = s.digest := rfl
@[simp] theorem atTime_snap (now : Nat) (s : State) : (atTime now s).snap = s.snap := rfl
@[simp] theorem atTime_repairsDue (now : Nat) (s : State) : (atTime now s).repairsDue = s.repairsDue := rfl
@[simp] theorem atTime_tiles (now : Nat) (s : State) : (atTime now s).tiles = s.tiles := rfl
@[simp] theorem atTime_pw (now : Nat) (s : State) : (atTime now s).pw = s.pw := rfl
@[simp] theorem atTime_gz (now : Nat) (s : State) : (atTime now s).gz = s.gz := rfl
@[simp] theorem atTime_tallies (now : Nat) (s : State) : (atTime now s).tallies = s.tallies := rfl
@[simp] theorem atTime_out (now : Nat) (s : State) : (atTime now s).out = s.out := rfl
@[simp] theorem atTime_freeCtr (now : Nat) (s : State) : (atTime now s).freeCtr = s.freeCtr := rfl
@[simp] theorem atTime_pending (now : Nat) (s : State) : (atTime now s).pending = s.pending := rfl

/-! ### emit changes `out` alone. -/

@[simp] theorem emit_now (o : Out) (s : State) : (emit o s).now = s.now := rfl
@[simp] theorem emit_boot (o : Out) (s : State) : (emit o s).boot = s.boot := rfl
@[simp] theorem emit_nor (o : Out) (s : State) : (emit o s).nor = s.nor := rfl
@[simp] theorem emit_sc (o : Out) (s : State) : (emit o s).sc = s.sc := rfl
@[simp] theorem emit_mm (o : Out) (s : State) : (emit o s).mm = s.mm := rfl
@[simp] theorem emit_hq (o : Out) (s : State) : (emit o s).hq = s.hq := rfl
@[simp] theorem emit_net (o : Out) (s : State) : (emit o s).net = s.net := rfl
@[simp] theorem emit_tk (o : Out) (s : State) : (emit o s).tk = s.tk := rfl
@[simp] theorem emit_run (o : Out) (s : State) : (emit o s).run = s.run := rfl
@[simp] theorem emit_start (o : Out) (s : State) : (emit o s).start = s.start := rfl
@[simp] theorem emit_job (o : Out) (s : State) : (emit o s).job = s.job := rfl
@[simp] theorem emit_record (o : Out) (s : State) : (emit o s).record = s.record := rfl
@[simp] theorem emit_tb (o : Out) (s : State) : (emit o s).tb = s.tb := rfl
@[simp] theorem emit_folds (o : Out) (s : State) : (emit o s).folds = s.folds := rfl
@[simp] theorem emit_ru (o : Out) (s : State) : (emit o s).ru = s.ru := rfl
@[simp] theorem emit_commit (o : Out) (s : State) : (emit o s).commit = s.commit := rfl
@[simp] theorem emit_ex (o : Out) (s : State) : (emit o s).ex = s.ex := rfl
@[simp] theorem emit_handovers (o : Out) (s : State) : (emit o s).handovers = s.handovers := rfl
@[simp] theorem emit_bulk (o : Out) (s : State) : (emit o s).bulk = s.bulk := rfl
@[simp] theorem emit_lg (o : Out) (s : State) : (emit o s).lg = s.lg := rfl
@[simp] theorem emit_digest (o : Out) (s : State) : (emit o s).digest = s.digest := rfl
@[simp] theorem emit_snap (o : Out) (s : State) : (emit o s).snap = s.snap := rfl
@[simp] theorem emit_repairsDue (o : Out) (s : State) : (emit o s).repairsDue = s.repairsDue := rfl
@[simp] theorem emit_tiles (o : Out) (s : State) : (emit o s).tiles = s.tiles := rfl
@[simp] theorem emit_pw (o : Out) (s : State) : (emit o s).pw = s.pw := rfl
@[simp] theorem emit_gz (o : Out) (s : State) : (emit o s).gz = s.gz := rfl
@[simp] theorem emit_tallies (o : Out) (s : State) : (emit o s).tallies = s.tallies := rfl
@[simp] theorem emit_freeCtr (o : Out) (s : State) : (emit o s).freeCtr = s.freeCtr := rfl
@[simp] theorem emit_pending (o : Out) (s : State) : (emit o s).pending = s.pending := rfl

/-! ### tallyBy changes `tallies` alone. -/

@[simp] theorem tallyBy_now (off n : Nat) (s : State) : (tallyBy off n s).now = s.now := rfl
@[simp] theorem tallyBy_boot (off n : Nat) (s : State) : (tallyBy off n s).boot = s.boot := rfl
@[simp] theorem tallyBy_nor (off n : Nat) (s : State) : (tallyBy off n s).nor = s.nor := rfl
@[simp] theorem tallyBy_sc (off n : Nat) (s : State) : (tallyBy off n s).sc = s.sc := rfl
@[simp] theorem tallyBy_mm (off n : Nat) (s : State) : (tallyBy off n s).mm = s.mm := rfl
@[simp] theorem tallyBy_hq (off n : Nat) (s : State) : (tallyBy off n s).hq = s.hq := rfl
@[simp] theorem tallyBy_net (off n : Nat) (s : State) : (tallyBy off n s).net = s.net := rfl
@[simp] theorem tallyBy_tk (off n : Nat) (s : State) : (tallyBy off n s).tk = s.tk := rfl
@[simp] theorem tallyBy_run (off n : Nat) (s : State) : (tallyBy off n s).run = s.run := rfl
@[simp] theorem tallyBy_start (off n : Nat) (s : State) : (tallyBy off n s).start = s.start := rfl
@[simp] theorem tallyBy_job (off n : Nat) (s : State) : (tallyBy off n s).job = s.job := rfl
@[simp] theorem tallyBy_record (off n : Nat) (s : State) : (tallyBy off n s).record = s.record := rfl
@[simp] theorem tallyBy_tb (off n : Nat) (s : State) : (tallyBy off n s).tb = s.tb := rfl
@[simp] theorem tallyBy_folds (off n : Nat) (s : State) : (tallyBy off n s).folds = s.folds := rfl
@[simp] theorem tallyBy_ru (off n : Nat) (s : State) : (tallyBy off n s).ru = s.ru := rfl
@[simp] theorem tallyBy_commit (off n : Nat) (s : State) : (tallyBy off n s).commit = s.commit := rfl
@[simp] theorem tallyBy_ex (off n : Nat) (s : State) : (tallyBy off n s).ex = s.ex := rfl
@[simp] theorem tallyBy_handovers (off n : Nat) (s : State) : (tallyBy off n s).handovers = s.handovers := rfl
@[simp] theorem tallyBy_bulk (off n : Nat) (s : State) : (tallyBy off n s).bulk = s.bulk := rfl
@[simp] theorem tallyBy_lg (off n : Nat) (s : State) : (tallyBy off n s).lg = s.lg := rfl
@[simp] theorem tallyBy_digest (off n : Nat) (s : State) : (tallyBy off n s).digest = s.digest := rfl
@[simp] theorem tallyBy_snap (off n : Nat) (s : State) : (tallyBy off n s).snap = s.snap := rfl
@[simp] theorem tallyBy_repairsDue (off n : Nat) (s : State) : (tallyBy off n s).repairsDue = s.repairsDue := rfl
@[simp] theorem tallyBy_tiles (off n : Nat) (s : State) : (tallyBy off n s).tiles = s.tiles := rfl
@[simp] theorem tallyBy_pw (off n : Nat) (s : State) : (tallyBy off n s).pw = s.pw := rfl
@[simp] theorem tallyBy_gz (off n : Nat) (s : State) : (tallyBy off n s).gz = s.gz := rfl
@[simp] theorem tallyBy_out (off n : Nat) (s : State) : (tallyBy off n s).out = s.out := rfl
@[simp] theorem tallyBy_freeCtr (off n : Nat) (s : State) : (tallyBy off n s).freeCtr = s.freeCtr := rfl
@[simp] theorem tallyBy_pending (off n : Nat) (s : State) : (tallyBy off n s).pending = s.pending := rfl

/-! ### tally changes `tallies` alone. -/

@[simp] theorem tally_now (off : Nat) (s : State) : (tally off s).now = s.now := rfl
@[simp] theorem tally_boot (off : Nat) (s : State) : (tally off s).boot = s.boot := rfl
@[simp] theorem tally_nor (off : Nat) (s : State) : (tally off s).nor = s.nor := rfl
@[simp] theorem tally_sc (off : Nat) (s : State) : (tally off s).sc = s.sc := rfl
@[simp] theorem tally_mm (off : Nat) (s : State) : (tally off s).mm = s.mm := rfl
@[simp] theorem tally_hq (off : Nat) (s : State) : (tally off s).hq = s.hq := rfl
@[simp] theorem tally_net (off : Nat) (s : State) : (tally off s).net = s.net := rfl
@[simp] theorem tally_tk (off : Nat) (s : State) : (tally off s).tk = s.tk := rfl
@[simp] theorem tally_run (off : Nat) (s : State) : (tally off s).run = s.run := rfl
@[simp] theorem tally_start (off : Nat) (s : State) : (tally off s).start = s.start := rfl
@[simp] theorem tally_job (off : Nat) (s : State) : (tally off s).job = s.job := rfl
@[simp] theorem tally_record (off : Nat) (s : State) : (tally off s).record = s.record := rfl
@[simp] theorem tally_tb (off : Nat) (s : State) : (tally off s).tb = s.tb := rfl
@[simp] theorem tally_folds (off : Nat) (s : State) : (tally off s).folds = s.folds := rfl
@[simp] theorem tally_ru (off : Nat) (s : State) : (tally off s).ru = s.ru := rfl
@[simp] theorem tally_commit (off : Nat) (s : State) : (tally off s).commit = s.commit := rfl
@[simp] theorem tally_ex (off : Nat) (s : State) : (tally off s).ex = s.ex := rfl
@[simp] theorem tally_handovers (off : Nat) (s : State) : (tally off s).handovers = s.handovers := rfl
@[simp] theorem tally_bulk (off : Nat) (s : State) : (tally off s).bulk = s.bulk := rfl
@[simp] theorem tally_lg (off : Nat) (s : State) : (tally off s).lg = s.lg := rfl
@[simp] theorem tally_digest (off : Nat) (s : State) : (tally off s).digest = s.digest := rfl
@[simp] theorem tally_snap (off : Nat) (s : State) : (tally off s).snap = s.snap := rfl
@[simp] theorem tally_repairsDue (off : Nat) (s : State) : (tally off s).repairsDue = s.repairsDue := rfl
@[simp] theorem tally_tiles (off : Nat) (s : State) : (tally off s).tiles = s.tiles := rfl
@[simp] theorem tally_pw (off : Nat) (s : State) : (tally off s).pw = s.pw := rfl
@[simp] theorem tally_gz (off : Nat) (s : State) : (tally off s).gz = s.gz := rfl
@[simp] theorem tally_out (off : Nat) (s : State) : (tally off s).out = s.out := rfl
@[simp] theorem tally_freeCtr (off : Nat) (s : State) : (tally off s).freeCtr = s.freeCtr := rfl
@[simp] theorem tally_pending (off : Nat) (s : State) : (tally off s).pending = s.pending := rfl

/-! ### tableTally changes `tallies` alone. -/

@[simp] theorem tableTally_now (b t n : Nat) (s : State) : (tableTally b t n s).now = s.now := rfl
@[simp] theorem tableTally_boot (b t n : Nat) (s : State) : (tableTally b t n s).boot = s.boot := rfl
@[simp] theorem tableTally_nor (b t n : Nat) (s : State) : (tableTally b t n s).nor = s.nor := rfl
@[simp] theorem tableTally_sc (b t n : Nat) (s : State) : (tableTally b t n s).sc = s.sc := rfl
@[simp] theorem tableTally_mm (b t n : Nat) (s : State) : (tableTally b t n s).mm = s.mm := rfl
@[simp] theorem tableTally_hq (b t n : Nat) (s : State) : (tableTally b t n s).hq = s.hq := rfl
@[simp] theorem tableTally_net (b t n : Nat) (s : State) : (tableTally b t n s).net = s.net := rfl
@[simp] theorem tableTally_tk (b t n : Nat) (s : State) : (tableTally b t n s).tk = s.tk := rfl
@[simp] theorem tableTally_run (b t n : Nat) (s : State) : (tableTally b t n s).run = s.run := rfl
@[simp] theorem tableTally_start (b t n : Nat) (s : State) : (tableTally b t n s).start = s.start := rfl
@[simp] theorem tableTally_job (b t n : Nat) (s : State) : (tableTally b t n s).job = s.job := rfl
@[simp] theorem tableTally_record (b t n : Nat) (s : State) : (tableTally b t n s).record = s.record := rfl
@[simp] theorem tableTally_tb (b t n : Nat) (s : State) : (tableTally b t n s).tb = s.tb := rfl
@[simp] theorem tableTally_folds (b t n : Nat) (s : State) : (tableTally b t n s).folds = s.folds := rfl
@[simp] theorem tableTally_ru (b t n : Nat) (s : State) : (tableTally b t n s).ru = s.ru := rfl
@[simp] theorem tableTally_commit (b t n : Nat) (s : State) : (tableTally b t n s).commit = s.commit := rfl
@[simp] theorem tableTally_ex (b t n : Nat) (s : State) : (tableTally b t n s).ex = s.ex := rfl
@[simp] theorem tableTally_handovers (b t n : Nat) (s : State) : (tableTally b t n s).handovers = s.handovers := rfl
@[simp] theorem tableTally_bulk (b t n : Nat) (s : State) : (tableTally b t n s).bulk = s.bulk := rfl
@[simp] theorem tableTally_lg (b t n : Nat) (s : State) : (tableTally b t n s).lg = s.lg := rfl
@[simp] theorem tableTally_digest (b t n : Nat) (s : State) : (tableTally b t n s).digest = s.digest := rfl
@[simp] theorem tableTally_snap (b t n : Nat) (s : State) : (tableTally b t n s).snap = s.snap := rfl
@[simp] theorem tableTally_repairsDue (b t n : Nat) (s : State) : (tableTally b t n s).repairsDue = s.repairsDue := rfl
@[simp] theorem tableTally_tiles (b t n : Nat) (s : State) : (tableTally b t n s).tiles = s.tiles := rfl
@[simp] theorem tableTally_pw (b t n : Nat) (s : State) : (tableTally b t n s).pw = s.pw := rfl
@[simp] theorem tableTally_gz (b t n : Nat) (s : State) : (tableTally b t n s).gz = s.gz := rfl
@[simp] theorem tableTally_out (b t n : Nat) (s : State) : (tableTally b t n s).out = s.out := rfl
@[simp] theorem tableTally_freeCtr (b t n : Nat) (s : State) : (tableTally b t n s).freeCtr = s.freeCtr := rfl
@[simp] theorem tableTally_pending (b t n : Nat) (s : State) : (tableTally b t n s).pending = s.pending := rfl

/-! ### setTile changes `tiles` alone. -/

@[simp] theorem setTile_now (p : Nat) (x : Tile) (s : State) : (setTile p x s).now = s.now := rfl
@[simp] theorem setTile_boot (p : Nat) (x : Tile) (s : State) : (setTile p x s).boot = s.boot := rfl
@[simp] theorem setTile_nor (p : Nat) (x : Tile) (s : State) : (setTile p x s).nor = s.nor := rfl
@[simp] theorem setTile_sc (p : Nat) (x : Tile) (s : State) : (setTile p x s).sc = s.sc := rfl
@[simp] theorem setTile_mm (p : Nat) (x : Tile) (s : State) : (setTile p x s).mm = s.mm := rfl
@[simp] theorem setTile_hq (p : Nat) (x : Tile) (s : State) : (setTile p x s).hq = s.hq := rfl
@[simp] theorem setTile_net (p : Nat) (x : Tile) (s : State) : (setTile p x s).net = s.net := rfl
@[simp] theorem setTile_tk (p : Nat) (x : Tile) (s : State) : (setTile p x s).tk = s.tk := rfl
@[simp] theorem setTile_run (p : Nat) (x : Tile) (s : State) : (setTile p x s).run = s.run := rfl
@[simp] theorem setTile_start (p : Nat) (x : Tile) (s : State) : (setTile p x s).start = s.start := rfl
@[simp] theorem setTile_job (p : Nat) (x : Tile) (s : State) : (setTile p x s).job = s.job := rfl
@[simp] theorem setTile_record (p : Nat) (x : Tile) (s : State) : (setTile p x s).record = s.record := rfl
@[simp] theorem setTile_tb (p : Nat) (x : Tile) (s : State) : (setTile p x s).tb = s.tb := rfl
@[simp] theorem setTile_folds (p : Nat) (x : Tile) (s : State) : (setTile p x s).folds = s.folds := rfl
@[simp] theorem setTile_ru (p : Nat) (x : Tile) (s : State) : (setTile p x s).ru = s.ru := rfl
@[simp] theorem setTile_commit (p : Nat) (x : Tile) (s : State) : (setTile p x s).commit = s.commit := rfl
@[simp] theorem setTile_ex (p : Nat) (x : Tile) (s : State) : (setTile p x s).ex = s.ex := rfl
@[simp] theorem setTile_handovers (p : Nat) (x : Tile) (s : State) : (setTile p x s).handovers = s.handovers := rfl
@[simp] theorem setTile_bulk (p : Nat) (x : Tile) (s : State) : (setTile p x s).bulk = s.bulk := rfl
@[simp] theorem setTile_lg (p : Nat) (x : Tile) (s : State) : (setTile p x s).lg = s.lg := rfl
@[simp] theorem setTile_digest (p : Nat) (x : Tile) (s : State) : (setTile p x s).digest = s.digest := rfl
@[simp] theorem setTile_snap (p : Nat) (x : Tile) (s : State) : (setTile p x s).snap = s.snap := rfl
@[simp] theorem setTile_repairsDue (p : Nat) (x : Tile) (s : State) : (setTile p x s).repairsDue = s.repairsDue := rfl
@[simp] theorem setTile_pw (p : Nat) (x : Tile) (s : State) : (setTile p x s).pw = s.pw := rfl
@[simp] theorem setTile_gz (p : Nat) (x : Tile) (s : State) : (setTile p x s).gz = s.gz := rfl
@[simp] theorem setTile_tallies (p : Nat) (x : Tile) (s : State) : (setTile p x s).tallies = s.tallies := rfl
@[simp] theorem setTile_out (p : Nat) (x : Tile) (s : State) : (setTile p x s).out = s.out := rfl
@[simp] theorem setTile_freeCtr (p : Nat) (x : Tile) (s : State) : (setTile p x s).freeCtr = s.freeCtr := rfl
@[simp] theorem setTile_pending (p : Nat) (x : Tile) (s : State) : (setTile p x s).pending = s.pending := rfl

/-! ### modTile changes `tiles` alone. -/

@[simp] theorem modTile_now (p : Nat) (f : Tile → Tile) (s : State) : (modTile p f s).now = s.now := rfl
@[simp] theorem modTile_boot (p : Nat) (f : Tile → Tile) (s : State) : (modTile p f s).boot = s.boot := rfl
@[simp] theorem modTile_nor (p : Nat) (f : Tile → Tile) (s : State) : (modTile p f s).nor = s.nor := rfl
@[simp] theorem modTile_sc (p : Nat) (f : Tile → Tile) (s : State) : (modTile p f s).sc = s.sc := rfl
@[simp] theorem modTile_mm (p : Nat) (f : Tile → Tile) (s : State) : (modTile p f s).mm = s.mm := rfl
@[simp] theorem modTile_hq (p : Nat) (f : Tile → Tile) (s : State) : (modTile p f s).hq = s.hq := rfl
@[simp] theorem modTile_net (p : Nat) (f : Tile → Tile) (s : State) : (modTile p f s).net = s.net := rfl
@[simp] theorem modTile_tk (p : Nat) (f : Tile → Tile) (s : State) : (modTile p f s).tk = s.tk := rfl
@[simp] theorem modTile_run (p : Nat) (f : Tile → Tile) (s : State) : (modTile p f s).run = s.run := rfl
@[simp] theorem modTile_start (p : Nat) (f : Tile → Tile) (s : State) : (modTile p f s).start = s.start := rfl
@[simp] theorem modTile_job (p : Nat) (f : Tile → Tile) (s : State) : (modTile p f s).job = s.job := rfl
@[simp] theorem modTile_record (p : Nat) (f : Tile → Tile) (s : State) : (modTile p f s).record = s.record := rfl
@[simp] theorem modTile_tb (p : Nat) (f : Tile → Tile) (s : State) : (modTile p f s).tb = s.tb := rfl
@[simp] theorem modTile_folds (p : Nat) (f : Tile → Tile) (s : State) : (modTile p f s).folds = s.folds := rfl
@[simp] theorem modTile_ru (p : Nat) (f : Tile → Tile) (s : State) : (modTile p f s).ru = s.ru := rfl
@[simp] theorem modTile_commit (p : Nat) (f : Tile → Tile) (s : State) : (modTile p f s).commit = s.commit := rfl
@[simp] theorem modTile_ex (p : Nat) (f : Tile → Tile) (s : State) : (modTile p f s).ex = s.ex := rfl
@[simp] theorem modTile_handovers (p : Nat) (f : Tile → Tile) (s : State) : (modTile p f s).handovers = s.handovers := rfl
@[simp] theorem modTile_bulk (p : Nat) (f : Tile → Tile) (s : State) : (modTile p f s).bulk = s.bulk := rfl
@[simp] theorem modTile_lg (p : Nat) (f : Tile → Tile) (s : State) : (modTile p f s).lg = s.lg := rfl
@[simp] theorem modTile_digest (p : Nat) (f : Tile → Tile) (s : State) : (modTile p f s).digest = s.digest := rfl
@[simp] theorem modTile_snap (p : Nat) (f : Tile → Tile) (s : State) : (modTile p f s).snap = s.snap := rfl
@[simp] theorem modTile_repairsDue (p : Nat) (f : Tile → Tile) (s : State) : (modTile p f s).repairsDue = s.repairsDue := rfl
@[simp] theorem modTile_pw (p : Nat) (f : Tile → Tile) (s : State) : (modTile p f s).pw = s.pw := rfl
@[simp] theorem modTile_gz (p : Nat) (f : Tile → Tile) (s : State) : (modTile p f s).gz = s.gz := rfl
@[simp] theorem modTile_tallies (p : Nat) (f : Tile → Tile) (s : State) : (modTile p f s).tallies = s.tallies := rfl
@[simp] theorem modTile_out (p : Nat) (f : Tile → Tile) (s : State) : (modTile p f s).out = s.out := rfl
@[simp] theorem modTile_freeCtr (p : Nat) (f : Tile → Tile) (s : State) : (modTile p f s).freeCtr = s.freeCtr := rfl
@[simp] theorem modTile_pending (p : Nat) (f : Tile → Tile) (s : State) : (modTile p f s).pending = s.pending := rfl

/-! ### setRu changes `ru` alone. -/

@[simp] theorem setRu_now (d : Nat) (r : RowUnit) (s : State) : (setRu d r s).now = s.now := rfl
@[simp] theorem setRu_boot (d : Nat) (r : RowUnit) (s : State) : (setRu d r s).boot = s.boot := rfl
@[simp] theorem setRu_nor (d : Nat) (r : RowUnit) (s : State) : (setRu d r s).nor = s.nor := rfl
@[simp] theorem setRu_sc (d : Nat) (r : RowUnit) (s : State) : (setRu d r s).sc = s.sc := rfl
@[simp] theorem setRu_mm (d : Nat) (r : RowUnit) (s : State) : (setRu d r s).mm = s.mm := rfl
@[simp] theorem setRu_hq (d : Nat) (r : RowUnit) (s : State) : (setRu d r s).hq = s.hq := rfl
@[simp] theorem setRu_net (d : Nat) (r : RowUnit) (s : State) : (setRu d r s).net = s.net := rfl
@[simp] theorem setRu_tk (d : Nat) (r : RowUnit) (s : State) : (setRu d r s).tk = s.tk := rfl
@[simp] theorem setRu_run (d : Nat) (r : RowUnit) (s : State) : (setRu d r s).run = s.run := rfl
@[simp] theorem setRu_start (d : Nat) (r : RowUnit) (s : State) : (setRu d r s).start = s.start := rfl
@[simp] theorem setRu_job (d : Nat) (r : RowUnit) (s : State) : (setRu d r s).job = s.job := rfl
@[simp] theorem setRu_record (d : Nat) (r : RowUnit) (s : State) : (setRu d r s).record = s.record := rfl
@[simp] theorem setRu_tb (d : Nat) (r : RowUnit) (s : State) : (setRu d r s).tb = s.tb := rfl
@[simp] theorem setRu_folds (d : Nat) (r : RowUnit) (s : State) : (setRu d r s).folds = s.folds := rfl
@[simp] theorem setRu_commit (d : Nat) (r : RowUnit) (s : State) : (setRu d r s).commit = s.commit := rfl
@[simp] theorem setRu_ex (d : Nat) (r : RowUnit) (s : State) : (setRu d r s).ex = s.ex := rfl
@[simp] theorem setRu_handovers (d : Nat) (r : RowUnit) (s : State) : (setRu d r s).handovers = s.handovers := rfl
@[simp] theorem setRu_bulk (d : Nat) (r : RowUnit) (s : State) : (setRu d r s).bulk = s.bulk := rfl
@[simp] theorem setRu_lg (d : Nat) (r : RowUnit) (s : State) : (setRu d r s).lg = s.lg := rfl
@[simp] theorem setRu_digest (d : Nat) (r : RowUnit) (s : State) : (setRu d r s).digest = s.digest := rfl
@[simp] theorem setRu_snap (d : Nat) (r : RowUnit) (s : State) : (setRu d r s).snap = s.snap := rfl
@[simp] theorem setRu_repairsDue (d : Nat) (r : RowUnit) (s : State) : (setRu d r s).repairsDue = s.repairsDue := rfl
@[simp] theorem setRu_tiles (d : Nat) (r : RowUnit) (s : State) : (setRu d r s).tiles = s.tiles := rfl
@[simp] theorem setRu_pw (d : Nat) (r : RowUnit) (s : State) : (setRu d r s).pw = s.pw := rfl
@[simp] theorem setRu_gz (d : Nat) (r : RowUnit) (s : State) : (setRu d r s).gz = s.gz := rfl
@[simp] theorem setRu_tallies (d : Nat) (r : RowUnit) (s : State) : (setRu d r s).tallies = s.tallies := rfl
@[simp] theorem setRu_out (d : Nat) (r : RowUnit) (s : State) : (setRu d r s).out = s.out := rfl
@[simp] theorem setRu_freeCtr (d : Nat) (r : RowUnit) (s : State) : (setRu d r s).freeCtr = s.freeCtr := rfl
@[simp] theorem setRu_pending (d : Nat) (r : RowUnit) (s : State) : (setRu d r s).pending = s.pending := rfl

/-! ### modRu changes `ru` alone. -/

@[simp] theorem modRu_now (d : Nat) (f : RowUnit → RowUnit) (s : State) : (modRu d f s).now = s.now := rfl
@[simp] theorem modRu_boot (d : Nat) (f : RowUnit → RowUnit) (s : State) : (modRu d f s).boot = s.boot := rfl
@[simp] theorem modRu_nor (d : Nat) (f : RowUnit → RowUnit) (s : State) : (modRu d f s).nor = s.nor := rfl
@[simp] theorem modRu_sc (d : Nat) (f : RowUnit → RowUnit) (s : State) : (modRu d f s).sc = s.sc := rfl
@[simp] theorem modRu_mm (d : Nat) (f : RowUnit → RowUnit) (s : State) : (modRu d f s).mm = s.mm := rfl
@[simp] theorem modRu_hq (d : Nat) (f : RowUnit → RowUnit) (s : State) : (modRu d f s).hq = s.hq := rfl
@[simp] theorem modRu_net (d : Nat) (f : RowUnit → RowUnit) (s : State) : (modRu d f s).net = s.net := rfl
@[simp] theorem modRu_tk (d : Nat) (f : RowUnit → RowUnit) (s : State) : (modRu d f s).tk = s.tk := rfl
@[simp] theorem modRu_run (d : Nat) (f : RowUnit → RowUnit) (s : State) : (modRu d f s).run = s.run := rfl
@[simp] theorem modRu_start (d : Nat) (f : RowUnit → RowUnit) (s : State) : (modRu d f s).start = s.start := rfl
@[simp] theorem modRu_job (d : Nat) (f : RowUnit → RowUnit) (s : State) : (modRu d f s).job = s.job := rfl
@[simp] theorem modRu_record (d : Nat) (f : RowUnit → RowUnit) (s : State) : (modRu d f s).record = s.record := rfl
@[simp] theorem modRu_tb (d : Nat) (f : RowUnit → RowUnit) (s : State) : (modRu d f s).tb = s.tb := rfl
@[simp] theorem modRu_folds (d : Nat) (f : RowUnit → RowUnit) (s : State) : (modRu d f s).folds = s.folds := rfl
@[simp] theorem modRu_commit (d : Nat) (f : RowUnit → RowUnit) (s : State) : (modRu d f s).commit = s.commit := rfl
@[simp] theorem modRu_ex (d : Nat) (f : RowUnit → RowUnit) (s : State) : (modRu d f s).ex = s.ex := rfl
@[simp] theorem modRu_handovers (d : Nat) (f : RowUnit → RowUnit) (s : State) : (modRu d f s).handovers = s.handovers := rfl
@[simp] theorem modRu_bulk (d : Nat) (f : RowUnit → RowUnit) (s : State) : (modRu d f s).bulk = s.bulk := rfl
@[simp] theorem modRu_lg (d : Nat) (f : RowUnit → RowUnit) (s : State) : (modRu d f s).lg = s.lg := rfl
@[simp] theorem modRu_digest (d : Nat) (f : RowUnit → RowUnit) (s : State) : (modRu d f s).digest = s.digest := rfl
@[simp] theorem modRu_snap (d : Nat) (f : RowUnit → RowUnit) (s : State) : (modRu d f s).snap = s.snap := rfl
@[simp] theorem modRu_repairsDue (d : Nat) (f : RowUnit → RowUnit) (s : State) : (modRu d f s).repairsDue = s.repairsDue := rfl
@[simp] theorem modRu_tiles (d : Nat) (f : RowUnit → RowUnit) (s : State) : (modRu d f s).tiles = s.tiles := rfl
@[simp] theorem modRu_pw (d : Nat) (f : RowUnit → RowUnit) (s : State) : (modRu d f s).pw = s.pw := rfl
@[simp] theorem modRu_gz (d : Nat) (f : RowUnit → RowUnit) (s : State) : (modRu d f s).gz = s.gz := rfl
@[simp] theorem modRu_tallies (d : Nat) (f : RowUnit → RowUnit) (s : State) : (modRu d f s).tallies = s.tallies := rfl
@[simp] theorem modRu_out (d : Nat) (f : RowUnit → RowUnit) (s : State) : (modRu d f s).out = s.out := rfl
@[simp] theorem modRu_freeCtr (d : Nat) (f : RowUnit → RowUnit) (s : State) : (modRu d f s).freeCtr = s.freeCtr := rfl
@[simp] theorem modRu_pending (d : Nat) (f : RowUnit → RowUnit) (s : State) : (modRu d f s).pending = s.pending := rfl

/-! ### setLink changes `lg` alone. -/

@[simp] theorem setLink_now (li : Nat) (l : Link) (s : State) : (setLink li l s).now = s.now := rfl
@[simp] theorem setLink_boot (li : Nat) (l : Link) (s : State) : (setLink li l s).boot = s.boot := rfl
@[simp] theorem setLink_nor (li : Nat) (l : Link) (s : State) : (setLink li l s).nor = s.nor := rfl
@[simp] theorem setLink_sc (li : Nat) (l : Link) (s : State) : (setLink li l s).sc = s.sc := rfl
@[simp] theorem setLink_mm (li : Nat) (l : Link) (s : State) : (setLink li l s).mm = s.mm := rfl
@[simp] theorem setLink_hq (li : Nat) (l : Link) (s : State) : (setLink li l s).hq = s.hq := rfl
@[simp] theorem setLink_net (li : Nat) (l : Link) (s : State) : (setLink li l s).net = s.net := rfl
@[simp] theorem setLink_tk (li : Nat) (l : Link) (s : State) : (setLink li l s).tk = s.tk := rfl
@[simp] theorem setLink_run (li : Nat) (l : Link) (s : State) : (setLink li l s).run = s.run := rfl
@[simp] theorem setLink_start (li : Nat) (l : Link) (s : State) : (setLink li l s).start = s.start := rfl
@[simp] theorem setLink_job (li : Nat) (l : Link) (s : State) : (setLink li l s).job = s.job := rfl
@[simp] theorem setLink_record (li : Nat) (l : Link) (s : State) : (setLink li l s).record = s.record := rfl
@[simp] theorem setLink_tb (li : Nat) (l : Link) (s : State) : (setLink li l s).tb = s.tb := rfl
@[simp] theorem setLink_folds (li : Nat) (l : Link) (s : State) : (setLink li l s).folds = s.folds := rfl
@[simp] theorem setLink_ru (li : Nat) (l : Link) (s : State) : (setLink li l s).ru = s.ru := rfl
@[simp] theorem setLink_commit (li : Nat) (l : Link) (s : State) : (setLink li l s).commit = s.commit := rfl
@[simp] theorem setLink_ex (li : Nat) (l : Link) (s : State) : (setLink li l s).ex = s.ex := rfl
@[simp] theorem setLink_handovers (li : Nat) (l : Link) (s : State) : (setLink li l s).handovers = s.handovers := rfl
@[simp] theorem setLink_bulk (li : Nat) (l : Link) (s : State) : (setLink li l s).bulk = s.bulk := rfl
@[simp] theorem setLink_digest (li : Nat) (l : Link) (s : State) : (setLink li l s).digest = s.digest := rfl
@[simp] theorem setLink_snap (li : Nat) (l : Link) (s : State) : (setLink li l s).snap = s.snap := rfl
@[simp] theorem setLink_repairsDue (li : Nat) (l : Link) (s : State) : (setLink li l s).repairsDue = s.repairsDue := rfl
@[simp] theorem setLink_tiles (li : Nat) (l : Link) (s : State) : (setLink li l s).tiles = s.tiles := rfl
@[simp] theorem setLink_pw (li : Nat) (l : Link) (s : State) : (setLink li l s).pw = s.pw := rfl
@[simp] theorem setLink_gz (li : Nat) (l : Link) (s : State) : (setLink li l s).gz = s.gz := rfl
@[simp] theorem setLink_tallies (li : Nat) (l : Link) (s : State) : (setLink li l s).tallies = s.tallies := rfl
@[simp] theorem setLink_out (li : Nat) (l : Link) (s : State) : (setLink li l s).out = s.out := rfl
@[simp] theorem setLink_freeCtr (li : Nat) (l : Link) (s : State) : (setLink li l s).freeCtr = s.freeCtr := rfl
@[simp] theorem setLink_pending (li : Nat) (l : Link) (s : State) : (setLink li l s).pending = s.pending := rfl

/-! ### modLink changes `lg` alone. -/

@[simp] theorem modLink_now (li : Nat) (f : Link → Link) (s : State) : (modLink li f s).now = s.now := rfl
@[simp] theorem modLink_boot (li : Nat) (f : Link → Link) (s : State) : (modLink li f s).boot = s.boot := rfl
@[simp] theorem modLink_nor (li : Nat) (f : Link → Link) (s : State) : (modLink li f s).nor = s.nor := rfl
@[simp] theorem modLink_sc (li : Nat) (f : Link → Link) (s : State) : (modLink li f s).sc = s.sc := rfl
@[simp] theorem modLink_mm (li : Nat) (f : Link → Link) (s : State) : (modLink li f s).mm = s.mm := rfl
@[simp] theorem modLink_hq (li : Nat) (f : Link → Link) (s : State) : (modLink li f s).hq = s.hq := rfl
@[simp] theorem modLink_net (li : Nat) (f : Link → Link) (s : State) : (modLink li f s).net = s.net := rfl
@[simp] theorem modLink_tk (li : Nat) (f : Link → Link) (s : State) : (modLink li f s).tk = s.tk := rfl
@[simp] theorem modLink_run (li : Nat) (f : Link → Link) (s : State) : (modLink li f s).run = s.run := rfl
@[simp] theorem modLink_start (li : Nat) (f : Link → Link) (s : State) : (modLink li f s).start = s.start := rfl
@[simp] theorem modLink_job (li : Nat) (f : Link → Link) (s : State) : (modLink li f s).job = s.job := rfl
@[simp] theorem modLink_record (li : Nat) (f : Link → Link) (s : State) : (modLink li f s).record = s.record := rfl
@[simp] theorem modLink_tb (li : Nat) (f : Link → Link) (s : State) : (modLink li f s).tb = s.tb := rfl
@[simp] theorem modLink_folds (li : Nat) (f : Link → Link) (s : State) : (modLink li f s).folds = s.folds := rfl
@[simp] theorem modLink_ru (li : Nat) (f : Link → Link) (s : State) : (modLink li f s).ru = s.ru := rfl
@[simp] theorem modLink_commit (li : Nat) (f : Link → Link) (s : State) : (modLink li f s).commit = s.commit := rfl
@[simp] theorem modLink_ex (li : Nat) (f : Link → Link) (s : State) : (modLink li f s).ex = s.ex := rfl
@[simp] theorem modLink_handovers (li : Nat) (f : Link → Link) (s : State) : (modLink li f s).handovers = s.handovers := rfl
@[simp] theorem modLink_bulk (li : Nat) (f : Link → Link) (s : State) : (modLink li f s).bulk = s.bulk := rfl
@[simp] theorem modLink_digest (li : Nat) (f : Link → Link) (s : State) : (modLink li f s).digest = s.digest := rfl
@[simp] theorem modLink_snap (li : Nat) (f : Link → Link) (s : State) : (modLink li f s).snap = s.snap := rfl
@[simp] theorem modLink_repairsDue (li : Nat) (f : Link → Link) (s : State) : (modLink li f s).repairsDue = s.repairsDue := rfl
@[simp] theorem modLink_tiles (li : Nat) (f : Link → Link) (s : State) : (modLink li f s).tiles = s.tiles := rfl
@[simp] theorem modLink_pw (li : Nat) (f : Link → Link) (s : State) : (modLink li f s).pw = s.pw := rfl
@[simp] theorem modLink_gz (li : Nat) (f : Link → Link) (s : State) : (modLink li f s).gz = s.gz := rfl
@[simp] theorem modLink_tallies (li : Nat) (f : Link → Link) (s : State) : (modLink li f s).tallies = s.tallies := rfl
@[simp] theorem modLink_out (li : Nat) (f : Link → Link) (s : State) : (modLink li f s).out = s.out := rfl
@[simp] theorem modLink_freeCtr (li : Nat) (f : Link → Link) (s : State) : (modLink li f s).freeCtr = s.freeCtr := rfl
@[simp] theorem modLink_pending (li : Nat) (f : Link → Link) (s : State) : (modLink li f s).pending = s.pending := rfl

/-! ### setLaser changes `lg` alone. -/

@[simp] theorem setLaser_now (lm : Nat) (x : Laser) (s : State) : (setLaser lm x s).now = s.now := rfl
@[simp] theorem setLaser_boot (lm : Nat) (x : Laser) (s : State) : (setLaser lm x s).boot = s.boot := rfl
@[simp] theorem setLaser_nor (lm : Nat) (x : Laser) (s : State) : (setLaser lm x s).nor = s.nor := rfl
@[simp] theorem setLaser_sc (lm : Nat) (x : Laser) (s : State) : (setLaser lm x s).sc = s.sc := rfl
@[simp] theorem setLaser_mm (lm : Nat) (x : Laser) (s : State) : (setLaser lm x s).mm = s.mm := rfl
@[simp] theorem setLaser_hq (lm : Nat) (x : Laser) (s : State) : (setLaser lm x s).hq = s.hq := rfl
@[simp] theorem setLaser_net (lm : Nat) (x : Laser) (s : State) : (setLaser lm x s).net = s.net := rfl
@[simp] theorem setLaser_tk (lm : Nat) (x : Laser) (s : State) : (setLaser lm x s).tk = s.tk := rfl
@[simp] theorem setLaser_run (lm : Nat) (x : Laser) (s : State) : (setLaser lm x s).run = s.run := rfl
@[simp] theorem setLaser_start (lm : Nat) (x : Laser) (s : State) : (setLaser lm x s).start = s.start := rfl
@[simp] theorem setLaser_job (lm : Nat) (x : Laser) (s : State) : (setLaser lm x s).job = s.job := rfl
@[simp] theorem setLaser_record (lm : Nat) (x : Laser) (s : State) : (setLaser lm x s).record = s.record := rfl
@[simp] theorem setLaser_tb (lm : Nat) (x : Laser) (s : State) : (setLaser lm x s).tb = s.tb := rfl
@[simp] theorem setLaser_folds (lm : Nat) (x : Laser) (s : State) : (setLaser lm x s).folds = s.folds := rfl
@[simp] theorem setLaser_ru (lm : Nat) (x : Laser) (s : State) : (setLaser lm x s).ru = s.ru := rfl
@[simp] theorem setLaser_commit (lm : Nat) (x : Laser) (s : State) : (setLaser lm x s).commit = s.commit := rfl
@[simp] theorem setLaser_ex (lm : Nat) (x : Laser) (s : State) : (setLaser lm x s).ex = s.ex := rfl
@[simp] theorem setLaser_handovers (lm : Nat) (x : Laser) (s : State) : (setLaser lm x s).handovers = s.handovers := rfl
@[simp] theorem setLaser_bulk (lm : Nat) (x : Laser) (s : State) : (setLaser lm x s).bulk = s.bulk := rfl
@[simp] theorem setLaser_digest (lm : Nat) (x : Laser) (s : State) : (setLaser lm x s).digest = s.digest := rfl
@[simp] theorem setLaser_snap (lm : Nat) (x : Laser) (s : State) : (setLaser lm x s).snap = s.snap := rfl
@[simp] theorem setLaser_repairsDue (lm : Nat) (x : Laser) (s : State) : (setLaser lm x s).repairsDue = s.repairsDue := rfl
@[simp] theorem setLaser_tiles (lm : Nat) (x : Laser) (s : State) : (setLaser lm x s).tiles = s.tiles := rfl
@[simp] theorem setLaser_pw (lm : Nat) (x : Laser) (s : State) : (setLaser lm x s).pw = s.pw := rfl
@[simp] theorem setLaser_gz (lm : Nat) (x : Laser) (s : State) : (setLaser lm x s).gz = s.gz := rfl
@[simp] theorem setLaser_tallies (lm : Nat) (x : Laser) (s : State) : (setLaser lm x s).tallies = s.tallies := rfl
@[simp] theorem setLaser_out (lm : Nat) (x : Laser) (s : State) : (setLaser lm x s).out = s.out := rfl
@[simp] theorem setLaser_freeCtr (lm : Nat) (x : Laser) (s : State) : (setLaser lm x s).freeCtr = s.freeCtr := rfl
@[simp] theorem setLaser_pending (lm : Nat) (x : Laser) (s : State) : (setLaser lm x s).pending = s.pending := rfl

/-! ### freeBuffer changes `lg` alone. -/

@[simp] theorem freeBuffer_now (li p : Nat) (s : State) : (freeBuffer li p s).now = s.now := rfl
@[simp] theorem freeBuffer_boot (li p : Nat) (s : State) : (freeBuffer li p s).boot = s.boot := rfl
@[simp] theorem freeBuffer_nor (li p : Nat) (s : State) : (freeBuffer li p s).nor = s.nor := rfl
@[simp] theorem freeBuffer_sc (li p : Nat) (s : State) : (freeBuffer li p s).sc = s.sc := rfl
@[simp] theorem freeBuffer_mm (li p : Nat) (s : State) : (freeBuffer li p s).mm = s.mm := rfl
@[simp] theorem freeBuffer_hq (li p : Nat) (s : State) : (freeBuffer li p s).hq = s.hq := rfl
@[simp] theorem freeBuffer_net (li p : Nat) (s : State) : (freeBuffer li p s).net = s.net := rfl
@[simp] theorem freeBuffer_tk (li p : Nat) (s : State) : (freeBuffer li p s).tk = s.tk := rfl
@[simp] theorem freeBuffer_run (li p : Nat) (s : State) : (freeBuffer li p s).run = s.run := rfl
@[simp] theorem freeBuffer_start (li p : Nat) (s : State) : (freeBuffer li p s).start = s.start := rfl
@[simp] theorem freeBuffer_job (li p : Nat) (s : State) : (freeBuffer li p s).job = s.job := rfl
@[simp] theorem freeBuffer_record (li p : Nat) (s : State) : (freeBuffer li p s).record = s.record := rfl
@[simp] theorem freeBuffer_tb (li p : Nat) (s : State) : (freeBuffer li p s).tb = s.tb := rfl
@[simp] theorem freeBuffer_folds (li p : Nat) (s : State) : (freeBuffer li p s).folds = s.folds := rfl
@[simp] theorem freeBuffer_ru (li p : Nat) (s : State) : (freeBuffer li p s).ru = s.ru := rfl
@[simp] theorem freeBuffer_commit (li p : Nat) (s : State) : (freeBuffer li p s).commit = s.commit := rfl
@[simp] theorem freeBuffer_ex (li p : Nat) (s : State) : (freeBuffer li p s).ex = s.ex := rfl
@[simp] theorem freeBuffer_handovers (li p : Nat) (s : State) : (freeBuffer li p s).handovers = s.handovers := rfl
@[simp] theorem freeBuffer_bulk (li p : Nat) (s : State) : (freeBuffer li p s).bulk = s.bulk := rfl
@[simp] theorem freeBuffer_digest (li p : Nat) (s : State) : (freeBuffer li p s).digest = s.digest := rfl
@[simp] theorem freeBuffer_snap (li p : Nat) (s : State) : (freeBuffer li p s).snap = s.snap := rfl
@[simp] theorem freeBuffer_repairsDue (li p : Nat) (s : State) : (freeBuffer li p s).repairsDue = s.repairsDue := rfl
@[simp] theorem freeBuffer_tiles (li p : Nat) (s : State) : (freeBuffer li p s).tiles = s.tiles := rfl
@[simp] theorem freeBuffer_pw (li p : Nat) (s : State) : (freeBuffer li p s).pw = s.pw := rfl
@[simp] theorem freeBuffer_gz (li p : Nat) (s : State) : (freeBuffer li p s).gz = s.gz := rfl
@[simp] theorem freeBuffer_tallies (li p : Nat) (s : State) : (freeBuffer li p s).tallies = s.tallies := rfl
@[simp] theorem freeBuffer_out (li p : Nat) (s : State) : (freeBuffer li p s).out = s.out := rfl
@[simp] theorem freeBuffer_freeCtr (li p : Nat) (s : State) : (freeBuffer li p s).freeCtr = s.freeCtr := rfl
@[simp] theorem freeBuffer_pending (li p : Nat) (s : State) : (freeBuffer li p s).pending = s.pending := rfl

/-! ### setTask changes `gz` alone. -/

@[simp] theorem setTask_now (task unit : Nat) (x : TaskUnit) (s : State) : (setTask task unit x s).now = s.now := rfl
@[simp] theorem setTask_boot (task unit : Nat) (x : TaskUnit) (s : State) : (setTask task unit x s).boot = s.boot := rfl
@[simp] theorem setTask_nor (task unit : Nat) (x : TaskUnit) (s : State) : (setTask task unit x s).nor = s.nor := rfl
@[simp] theorem setTask_sc (task unit : Nat) (x : TaskUnit) (s : State) : (setTask task unit x s).sc = s.sc := rfl
@[simp] theorem setTask_mm (task unit : Nat) (x : TaskUnit) (s : State) : (setTask task unit x s).mm = s.mm := rfl
@[simp] theorem setTask_hq (task unit : Nat) (x : TaskUnit) (s : State) : (setTask task unit x s).hq = s.hq := rfl
@[simp] theorem setTask_net (task unit : Nat) (x : TaskUnit) (s : State) : (setTask task unit x s).net = s.net := rfl
@[simp] theorem setTask_tk (task unit : Nat) (x : TaskUnit) (s : State) : (setTask task unit x s).tk = s.tk := rfl
@[simp] theorem setTask_run (task unit : Nat) (x : TaskUnit) (s : State) : (setTask task unit x s).run = s.run := rfl
@[simp] theorem setTask_start (task unit : Nat) (x : TaskUnit) (s : State) : (setTask task unit x s).start = s.start := rfl
@[simp] theorem setTask_job (task unit : Nat) (x : TaskUnit) (s : State) : (setTask task unit x s).job = s.job := rfl
@[simp] theorem setTask_record (task unit : Nat) (x : TaskUnit) (s : State) : (setTask task unit x s).record = s.record := rfl
@[simp] theorem setTask_tb (task unit : Nat) (x : TaskUnit) (s : State) : (setTask task unit x s).tb = s.tb := rfl
@[simp] theorem setTask_folds (task unit : Nat) (x : TaskUnit) (s : State) : (setTask task unit x s).folds = s.folds := rfl
@[simp] theorem setTask_ru (task unit : Nat) (x : TaskUnit) (s : State) : (setTask task unit x s).ru = s.ru := rfl
@[simp] theorem setTask_commit (task unit : Nat) (x : TaskUnit) (s : State) : (setTask task unit x s).commit = s.commit := rfl
@[simp] theorem setTask_ex (task unit : Nat) (x : TaskUnit) (s : State) : (setTask task unit x s).ex = s.ex := rfl
@[simp] theorem setTask_handovers (task unit : Nat) (x : TaskUnit) (s : State) : (setTask task unit x s).handovers = s.handovers := rfl
@[simp] theorem setTask_bulk (task unit : Nat) (x : TaskUnit) (s : State) : (setTask task unit x s).bulk = s.bulk := rfl
@[simp] theorem setTask_lg (task unit : Nat) (x : TaskUnit) (s : State) : (setTask task unit x s).lg = s.lg := rfl
@[simp] theorem setTask_digest (task unit : Nat) (x : TaskUnit) (s : State) : (setTask task unit x s).digest = s.digest := rfl
@[simp] theorem setTask_snap (task unit : Nat) (x : TaskUnit) (s : State) : (setTask task unit x s).snap = s.snap := rfl
@[simp] theorem setTask_repairsDue (task unit : Nat) (x : TaskUnit) (s : State) : (setTask task unit x s).repairsDue = s.repairsDue := rfl
@[simp] theorem setTask_tiles (task unit : Nat) (x : TaskUnit) (s : State) : (setTask task unit x s).tiles = s.tiles := rfl
@[simp] theorem setTask_pw (task unit : Nat) (x : TaskUnit) (s : State) : (setTask task unit x s).pw = s.pw := rfl
@[simp] theorem setTask_tallies (task unit : Nat) (x : TaskUnit) (s : State) : (setTask task unit x s).tallies = s.tallies := rfl
@[simp] theorem setTask_out (task unit : Nat) (x : TaskUnit) (s : State) : (setTask task unit x s).out = s.out := rfl
@[simp] theorem setTask_freeCtr (task unit : Nat) (x : TaskUnit) (s : State) : (setTask task unit x s).freeCtr = s.freeCtr := rfl
@[simp] theorem setTask_pending (task unit : Nat) (x : TaskUnit) (s : State) : (setTask task unit x s).pending = s.pending := rfl

/-! ### setPc changes `mm` alone. -/

@[simp] theorem setPc_now (d p : Nat) (x : PcState) (s : State) : (setPc d p x s).now = s.now := rfl
@[simp] theorem setPc_boot (d p : Nat) (x : PcState) (s : State) : (setPc d p x s).boot = s.boot := rfl
@[simp] theorem setPc_nor (d p : Nat) (x : PcState) (s : State) : (setPc d p x s).nor = s.nor := rfl
@[simp] theorem setPc_sc (d p : Nat) (x : PcState) (s : State) : (setPc d p x s).sc = s.sc := rfl
@[simp] theorem setPc_hq (d p : Nat) (x : PcState) (s : State) : (setPc d p x s).hq = s.hq := rfl
@[simp] theorem setPc_net (d p : Nat) (x : PcState) (s : State) : (setPc d p x s).net = s.net := rfl
@[simp] theorem setPc_tk (d p : Nat) (x : PcState) (s : State) : (setPc d p x s).tk = s.tk := rfl
@[simp] theorem setPc_run (d p : Nat) (x : PcState) (s : State) : (setPc d p x s).run = s.run := rfl
@[simp] theorem setPc_start (d p : Nat) (x : PcState) (s : State) : (setPc d p x s).start = s.start := rfl
@[simp] theorem setPc_job (d p : Nat) (x : PcState) (s : State) : (setPc d p x s).job = s.job := rfl
@[simp] theorem setPc_record (d p : Nat) (x : PcState) (s : State) : (setPc d p x s).record = s.record := rfl
@[simp] theorem setPc_tb (d p : Nat) (x : PcState) (s : State) : (setPc d p x s).tb = s.tb := rfl
@[simp] theorem setPc_folds (d p : Nat) (x : PcState) (s : State) : (setPc d p x s).folds = s.folds := rfl
@[simp] theorem setPc_ru (d p : Nat) (x : PcState) (s : State) : (setPc d p x s).ru = s.ru := rfl
@[simp] theorem setPc_commit (d p : Nat) (x : PcState) (s : State) : (setPc d p x s).commit = s.commit := rfl
@[simp] theorem setPc_ex (d p : Nat) (x : PcState) (s : State) : (setPc d p x s).ex = s.ex := rfl
@[simp] theorem setPc_handovers (d p : Nat) (x : PcState) (s : State) : (setPc d p x s).handovers = s.handovers := rfl
@[simp] theorem setPc_bulk (d p : Nat) (x : PcState) (s : State) : (setPc d p x s).bulk = s.bulk := rfl
@[simp] theorem setPc_lg (d p : Nat) (x : PcState) (s : State) : (setPc d p x s).lg = s.lg := rfl
@[simp] theorem setPc_digest (d p : Nat) (x : PcState) (s : State) : (setPc d p x s).digest = s.digest := rfl
@[simp] theorem setPc_snap (d p : Nat) (x : PcState) (s : State) : (setPc d p x s).snap = s.snap := rfl
@[simp] theorem setPc_repairsDue (d p : Nat) (x : PcState) (s : State) : (setPc d p x s).repairsDue = s.repairsDue := rfl
@[simp] theorem setPc_tiles (d p : Nat) (x : PcState) (s : State) : (setPc d p x s).tiles = s.tiles := rfl
@[simp] theorem setPc_pw (d p : Nat) (x : PcState) (s : State) : (setPc d p x s).pw = s.pw := rfl
@[simp] theorem setPc_gz (d p : Nat) (x : PcState) (s : State) : (setPc d p x s).gz = s.gz := rfl
@[simp] theorem setPc_tallies (d p : Nat) (x : PcState) (s : State) : (setPc d p x s).tallies = s.tallies := rfl
@[simp] theorem setPc_out (d p : Nat) (x : PcState) (s : State) : (setPc d p x s).out = s.out := rfl
@[simp] theorem setPc_freeCtr (d p : Nat) (x : PcState) (s : State) : (setPc d p x s).freeCtr = s.freeCtr := rfl
@[simp] theorem setPc_pending (d p : Nat) (x : PcState) (s : State) : (setPc d p x s).pending = s.pending := rfl

/-! ### setRegion changes `hq` alone. -/

@[simp] theorem setRegion_now (n : Nat) (r : HqRegion) (s : State) : (setRegion n r s).now = s.now := rfl
@[simp] theorem setRegion_boot (n : Nat) (r : HqRegion) (s : State) : (setRegion n r s).boot = s.boot := rfl
@[simp] theorem setRegion_nor (n : Nat) (r : HqRegion) (s : State) : (setRegion n r s).nor = s.nor := rfl
@[simp] theorem setRegion_sc (n : Nat) (r : HqRegion) (s : State) : (setRegion n r s).sc = s.sc := rfl
@[simp] theorem setRegion_mm (n : Nat) (r : HqRegion) (s : State) : (setRegion n r s).mm = s.mm := rfl
@[simp] theorem setRegion_net (n : Nat) (r : HqRegion) (s : State) : (setRegion n r s).net = s.net := rfl
@[simp] theorem setRegion_tk (n : Nat) (r : HqRegion) (s : State) : (setRegion n r s).tk = s.tk := rfl
@[simp] theorem setRegion_run (n : Nat) (r : HqRegion) (s : State) : (setRegion n r s).run = s.run := rfl
@[simp] theorem setRegion_start (n : Nat) (r : HqRegion) (s : State) : (setRegion n r s).start = s.start := rfl
@[simp] theorem setRegion_job (n : Nat) (r : HqRegion) (s : State) : (setRegion n r s).job = s.job := rfl
@[simp] theorem setRegion_record (n : Nat) (r : HqRegion) (s : State) : (setRegion n r s).record = s.record := rfl
@[simp] theorem setRegion_tb (n : Nat) (r : HqRegion) (s : State) : (setRegion n r s).tb = s.tb := rfl
@[simp] theorem setRegion_folds (n : Nat) (r : HqRegion) (s : State) : (setRegion n r s).folds = s.folds := rfl
@[simp] theorem setRegion_ru (n : Nat) (r : HqRegion) (s : State) : (setRegion n r s).ru = s.ru := rfl
@[simp] theorem setRegion_commit (n : Nat) (r : HqRegion) (s : State) : (setRegion n r s).commit = s.commit := rfl
@[simp] theorem setRegion_ex (n : Nat) (r : HqRegion) (s : State) : (setRegion n r s).ex = s.ex := rfl
@[simp] theorem setRegion_handovers (n : Nat) (r : HqRegion) (s : State) : (setRegion n r s).handovers = s.handovers := rfl
@[simp] theorem setRegion_bulk (n : Nat) (r : HqRegion) (s : State) : (setRegion n r s).bulk = s.bulk := rfl
@[simp] theorem setRegion_lg (n : Nat) (r : HqRegion) (s : State) : (setRegion n r s).lg = s.lg := rfl
@[simp] theorem setRegion_digest (n : Nat) (r : HqRegion) (s : State) : (setRegion n r s).digest = s.digest := rfl
@[simp] theorem setRegion_snap (n : Nat) (r : HqRegion) (s : State) : (setRegion n r s).snap = s.snap := rfl
@[simp] theorem setRegion_repairsDue (n : Nat) (r : HqRegion) (s : State) : (setRegion n r s).repairsDue = s.repairsDue := rfl
@[simp] theorem setRegion_tiles (n : Nat) (r : HqRegion) (s : State) : (setRegion n r s).tiles = s.tiles := rfl
@[simp] theorem setRegion_pw (n : Nat) (r : HqRegion) (s : State) : (setRegion n r s).pw = s.pw := rfl
@[simp] theorem setRegion_gz (n : Nat) (r : HqRegion) (s : State) : (setRegion n r s).gz = s.gz := rfl
@[simp] theorem setRegion_tallies (n : Nat) (r : HqRegion) (s : State) : (setRegion n r s).tallies = s.tallies := rfl
@[simp] theorem setRegion_out (n : Nat) (r : HqRegion) (s : State) : (setRegion n r s).out = s.out := rfl
@[simp] theorem setRegion_freeCtr (n : Nat) (r : HqRegion) (s : State) : (setRegion n r s).freeCtr = s.freeCtr := rfl
@[simp] theorem setRegion_pending (n : Nat) (r : HqRegion) (s : State) : (setRegion n r s).pending = s.pending := rfl

/-! ### setIdle changes `pw` alone. -/

@[simp] theorem setIdle_now (u : UnitId) (n : Nat) (s : State) : (setIdle u n s).now = s.now := rfl
@[simp] theorem setIdle_boot (u : UnitId) (n : Nat) (s : State) : (setIdle u n s).boot = s.boot := rfl
@[simp] theorem setIdle_nor (u : UnitId) (n : Nat) (s : State) : (setIdle u n s).nor = s.nor := rfl
@[simp] theorem setIdle_sc (u : UnitId) (n : Nat) (s : State) : (setIdle u n s).sc = s.sc := rfl
@[simp] theorem setIdle_mm (u : UnitId) (n : Nat) (s : State) : (setIdle u n s).mm = s.mm := rfl
@[simp] theorem setIdle_hq (u : UnitId) (n : Nat) (s : State) : (setIdle u n s).hq = s.hq := rfl
@[simp] theorem setIdle_net (u : UnitId) (n : Nat) (s : State) : (setIdle u n s).net = s.net := rfl
@[simp] theorem setIdle_tk (u : UnitId) (n : Nat) (s : State) : (setIdle u n s).tk = s.tk := rfl
@[simp] theorem setIdle_run (u : UnitId) (n : Nat) (s : State) : (setIdle u n s).run = s.run := rfl
@[simp] theorem setIdle_start (u : UnitId) (n : Nat) (s : State) : (setIdle u n s).start = s.start := rfl
@[simp] theorem setIdle_job (u : UnitId) (n : Nat) (s : State) : (setIdle u n s).job = s.job := rfl
@[simp] theorem setIdle_record (u : UnitId) (n : Nat) (s : State) : (setIdle u n s).record = s.record := rfl
@[simp] theorem setIdle_tb (u : UnitId) (n : Nat) (s : State) : (setIdle u n s).tb = s.tb := rfl
@[simp] theorem setIdle_folds (u : UnitId) (n : Nat) (s : State) : (setIdle u n s).folds = s.folds := rfl
@[simp] theorem setIdle_ru (u : UnitId) (n : Nat) (s : State) : (setIdle u n s).ru = s.ru := rfl
@[simp] theorem setIdle_commit (u : UnitId) (n : Nat) (s : State) : (setIdle u n s).commit = s.commit := rfl
@[simp] theorem setIdle_ex (u : UnitId) (n : Nat) (s : State) : (setIdle u n s).ex = s.ex := rfl
@[simp] theorem setIdle_handovers (u : UnitId) (n : Nat) (s : State) : (setIdle u n s).handovers = s.handovers := rfl
@[simp] theorem setIdle_bulk (u : UnitId) (n : Nat) (s : State) : (setIdle u n s).bulk = s.bulk := rfl
@[simp] theorem setIdle_lg (u : UnitId) (n : Nat) (s : State) : (setIdle u n s).lg = s.lg := rfl
@[simp] theorem setIdle_digest (u : UnitId) (n : Nat) (s : State) : (setIdle u n s).digest = s.digest := rfl
@[simp] theorem setIdle_snap (u : UnitId) (n : Nat) (s : State) : (setIdle u n s).snap = s.snap := rfl
@[simp] theorem setIdle_repairsDue (u : UnitId) (n : Nat) (s : State) : (setIdle u n s).repairsDue = s.repairsDue := rfl
@[simp] theorem setIdle_tiles (u : UnitId) (n : Nat) (s : State) : (setIdle u n s).tiles = s.tiles := rfl
@[simp] theorem setIdle_gz (u : UnitId) (n : Nat) (s : State) : (setIdle u n s).gz = s.gz := rfl
@[simp] theorem setIdle_tallies (u : UnitId) (n : Nat) (s : State) : (setIdle u n s).tallies = s.tallies := rfl
@[simp] theorem setIdle_out (u : UnitId) (n : Nat) (s : State) : (setIdle u n s).out = s.out := rfl
@[simp] theorem setIdle_freeCtr (u : UnitId) (n : Nat) (s : State) : (setIdle u n s).freeCtr = s.freeCtr := rfl
@[simp] theorem setIdle_pending (u : UnitId) (n : Nat) (s : State) : (setIdle u n s).pending = s.pending := rfl

/-! ### setLegPower changes `pw` alone. -/

@[simp] theorem setLegPower_now (l : Nat) (p : LegPower) (s : State) : (setLegPower l p s).now = s.now := rfl
@[simp] theorem setLegPower_boot (l : Nat) (p : LegPower) (s : State) : (setLegPower l p s).boot = s.boot := rfl
@[simp] theorem setLegPower_nor (l : Nat) (p : LegPower) (s : State) : (setLegPower l p s).nor = s.nor := rfl
@[simp] theorem setLegPower_sc (l : Nat) (p : LegPower) (s : State) : (setLegPower l p s).sc = s.sc := rfl
@[simp] theorem setLegPower_mm (l : Nat) (p : LegPower) (s : State) : (setLegPower l p s).mm = s.mm := rfl
@[simp] theorem setLegPower_hq (l : Nat) (p : LegPower) (s : State) : (setLegPower l p s).hq = s.hq := rfl
@[simp] theorem setLegPower_net (l : Nat) (p : LegPower) (s : State) : (setLegPower l p s).net = s.net := rfl
@[simp] theorem setLegPower_tk (l : Nat) (p : LegPower) (s : State) : (setLegPower l p s).tk = s.tk := rfl
@[simp] theorem setLegPower_run (l : Nat) (p : LegPower) (s : State) : (setLegPower l p s).run = s.run := rfl
@[simp] theorem setLegPower_start (l : Nat) (p : LegPower) (s : State) : (setLegPower l p s).start = s.start := rfl
@[simp] theorem setLegPower_job (l : Nat) (p : LegPower) (s : State) : (setLegPower l p s).job = s.job := rfl
@[simp] theorem setLegPower_record (l : Nat) (p : LegPower) (s : State) : (setLegPower l p s).record = s.record := rfl
@[simp] theorem setLegPower_tb (l : Nat) (p : LegPower) (s : State) : (setLegPower l p s).tb = s.tb := rfl
@[simp] theorem setLegPower_folds (l : Nat) (p : LegPower) (s : State) : (setLegPower l p s).folds = s.folds := rfl
@[simp] theorem setLegPower_ru (l : Nat) (p : LegPower) (s : State) : (setLegPower l p s).ru = s.ru := rfl
@[simp] theorem setLegPower_commit (l : Nat) (p : LegPower) (s : State) : (setLegPower l p s).commit = s.commit := rfl
@[simp] theorem setLegPower_ex (l : Nat) (p : LegPower) (s : State) : (setLegPower l p s).ex = s.ex := rfl
@[simp] theorem setLegPower_handovers (l : Nat) (p : LegPower) (s : State) : (setLegPower l p s).handovers = s.handovers := rfl
@[simp] theorem setLegPower_bulk (l : Nat) (p : LegPower) (s : State) : (setLegPower l p s).bulk = s.bulk := rfl
@[simp] theorem setLegPower_lg (l : Nat) (p : LegPower) (s : State) : (setLegPower l p s).lg = s.lg := rfl
@[simp] theorem setLegPower_digest (l : Nat) (p : LegPower) (s : State) : (setLegPower l p s).digest = s.digest := rfl
@[simp] theorem setLegPower_snap (l : Nat) (p : LegPower) (s : State) : (setLegPower l p s).snap = s.snap := rfl
@[simp] theorem setLegPower_repairsDue (l : Nat) (p : LegPower) (s : State) : (setLegPower l p s).repairsDue = s.repairsDue := rfl
@[simp] theorem setLegPower_tiles (l : Nat) (p : LegPower) (s : State) : (setLegPower l p s).tiles = s.tiles := rfl
@[simp] theorem setLegPower_gz (l : Nat) (p : LegPower) (s : State) : (setLegPower l p s).gz = s.gz := rfl
@[simp] theorem setLegPower_tallies (l : Nat) (p : LegPower) (s : State) : (setLegPower l p s).tallies = s.tallies := rfl
@[simp] theorem setLegPower_out (l : Nat) (p : LegPower) (s : State) : (setLegPower l p s).out = s.out := rfl
@[simp] theorem setLegPower_freeCtr (l : Nat) (p : LegPower) (s : State) : (setLegPower l p s).freeCtr = s.freeCtr := rfl
@[simp] theorem setLegPower_pending (l : Nat) (p : LegPower) (s : State) : (setLegPower l p s).pending = s.pending := rfl

/-! ### setDroop changes `pw` alone. -/

@[simp] theorem setDroop_now (die : Nat) (x : Droop) (s : State) : (setDroop die x s).now = s.now := rfl
@[simp] theorem setDroop_boot (die : Nat) (x : Droop) (s : State) : (setDroop die x s).boot = s.boot := rfl
@[simp] theorem setDroop_nor (die : Nat) (x : Droop) (s : State) : (setDroop die x s).nor = s.nor := rfl
@[simp] theorem setDroop_sc (die : Nat) (x : Droop) (s : State) : (setDroop die x s).sc = s.sc := rfl
@[simp] theorem setDroop_mm (die : Nat) (x : Droop) (s : State) : (setDroop die x s).mm = s.mm := rfl
@[simp] theorem setDroop_hq (die : Nat) (x : Droop) (s : State) : (setDroop die x s).hq = s.hq := rfl
@[simp] theorem setDroop_net (die : Nat) (x : Droop) (s : State) : (setDroop die x s).net = s.net := rfl
@[simp] theorem setDroop_tk (die : Nat) (x : Droop) (s : State) : (setDroop die x s).tk = s.tk := rfl
@[simp] theorem setDroop_run (die : Nat) (x : Droop) (s : State) : (setDroop die x s).run = s.run := rfl
@[simp] theorem setDroop_start (die : Nat) (x : Droop) (s : State) : (setDroop die x s).start = s.start := rfl
@[simp] theorem setDroop_job (die : Nat) (x : Droop) (s : State) : (setDroop die x s).job = s.job := rfl
@[simp] theorem setDroop_record (die : Nat) (x : Droop) (s : State) : (setDroop die x s).record = s.record := rfl
@[simp] theorem setDroop_tb (die : Nat) (x : Droop) (s : State) : (setDroop die x s).tb = s.tb := rfl
@[simp] theorem setDroop_folds (die : Nat) (x : Droop) (s : State) : (setDroop die x s).folds = s.folds := rfl
@[simp] theorem setDroop_ru (die : Nat) (x : Droop) (s : State) : (setDroop die x s).ru = s.ru := rfl
@[simp] theorem setDroop_commit (die : Nat) (x : Droop) (s : State) : (setDroop die x s).commit = s.commit := rfl
@[simp] theorem setDroop_ex (die : Nat) (x : Droop) (s : State) : (setDroop die x s).ex = s.ex := rfl
@[simp] theorem setDroop_handovers (die : Nat) (x : Droop) (s : State) : (setDroop die x s).handovers = s.handovers := rfl
@[simp] theorem setDroop_bulk (die : Nat) (x : Droop) (s : State) : (setDroop die x s).bulk = s.bulk := rfl
@[simp] theorem setDroop_lg (die : Nat) (x : Droop) (s : State) : (setDroop die x s).lg = s.lg := rfl
@[simp] theorem setDroop_digest (die : Nat) (x : Droop) (s : State) : (setDroop die x s).digest = s.digest := rfl
@[simp] theorem setDroop_snap (die : Nat) (x : Droop) (s : State) : (setDroop die x s).snap = s.snap := rfl
@[simp] theorem setDroop_repairsDue (die : Nat) (x : Droop) (s : State) : (setDroop die x s).repairsDue = s.repairsDue := rfl
@[simp] theorem setDroop_tiles (die : Nat) (x : Droop) (s : State) : (setDroop die x s).tiles = s.tiles := rfl
@[simp] theorem setDroop_gz (die : Nat) (x : Droop) (s : State) : (setDroop die x s).gz = s.gz := rfl
@[simp] theorem setDroop_tallies (die : Nat) (x : Droop) (s : State) : (setDroop die x s).tallies = s.tallies := rfl
@[simp] theorem setDroop_out (die : Nat) (x : Droop) (s : State) : (setDroop die x s).out = s.out := rfl
@[simp] theorem setDroop_freeCtr (die : Nat) (x : Droop) (s : State) : (setDroop die x s).freeCtr = s.freeCtr := rfl
@[simp] theorem setDroop_pending (die : Nat) (x : Droop) (s : State) : (setDroop die x s).pending = s.pending := rfl

/-! ### setImageOk changes `nor` alone. -/

@[simp] theorem setImageOk_now (c i : Nat) (ok : Bool) (s : State) : (setImageOk c i ok s).now = s.now := rfl
@[simp] theorem setImageOk_boot (c i : Nat) (ok : Bool) (s : State) : (setImageOk c i ok s).boot = s.boot := rfl
@[simp] theorem setImageOk_sc (c i : Nat) (ok : Bool) (s : State) : (setImageOk c i ok s).sc = s.sc := rfl
@[simp] theorem setImageOk_mm (c i : Nat) (ok : Bool) (s : State) : (setImageOk c i ok s).mm = s.mm := rfl
@[simp] theorem setImageOk_hq (c i : Nat) (ok : Bool) (s : State) : (setImageOk c i ok s).hq = s.hq := rfl
@[simp] theorem setImageOk_net (c i : Nat) (ok : Bool) (s : State) : (setImageOk c i ok s).net = s.net := rfl
@[simp] theorem setImageOk_tk (c i : Nat) (ok : Bool) (s : State) : (setImageOk c i ok s).tk = s.tk := rfl
@[simp] theorem setImageOk_run (c i : Nat) (ok : Bool) (s : State) : (setImageOk c i ok s).run = s.run := rfl
@[simp] theorem setImageOk_start (c i : Nat) (ok : Bool) (s : State) : (setImageOk c i ok s).start = s.start := rfl
@[simp] theorem setImageOk_job (c i : Nat) (ok : Bool) (s : State) : (setImageOk c i ok s).job = s.job := rfl
@[simp] theorem setImageOk_record (c i : Nat) (ok : Bool) (s : State) : (setImageOk c i ok s).record = s.record := rfl
@[simp] theorem setImageOk_tb (c i : Nat) (ok : Bool) (s : State) : (setImageOk c i ok s).tb = s.tb := rfl
@[simp] theorem setImageOk_folds (c i : Nat) (ok : Bool) (s : State) : (setImageOk c i ok s).folds = s.folds := rfl
@[simp] theorem setImageOk_ru (c i : Nat) (ok : Bool) (s : State) : (setImageOk c i ok s).ru = s.ru := rfl
@[simp] theorem setImageOk_commit (c i : Nat) (ok : Bool) (s : State) : (setImageOk c i ok s).commit = s.commit := rfl
@[simp] theorem setImageOk_ex (c i : Nat) (ok : Bool) (s : State) : (setImageOk c i ok s).ex = s.ex := rfl
@[simp] theorem setImageOk_handovers (c i : Nat) (ok : Bool) (s : State) : (setImageOk c i ok s).handovers = s.handovers := rfl
@[simp] theorem setImageOk_bulk (c i : Nat) (ok : Bool) (s : State) : (setImageOk c i ok s).bulk = s.bulk := rfl
@[simp] theorem setImageOk_lg (c i : Nat) (ok : Bool) (s : State) : (setImageOk c i ok s).lg = s.lg := rfl
@[simp] theorem setImageOk_digest (c i : Nat) (ok : Bool) (s : State) : (setImageOk c i ok s).digest = s.digest := rfl
@[simp] theorem setImageOk_snap (c i : Nat) (ok : Bool) (s : State) : (setImageOk c i ok s).snap = s.snap := rfl
@[simp] theorem setImageOk_repairsDue (c i : Nat) (ok : Bool) (s : State) : (setImageOk c i ok s).repairsDue = s.repairsDue := rfl
@[simp] theorem setImageOk_tiles (c i : Nat) (ok : Bool) (s : State) : (setImageOk c i ok s).tiles = s.tiles := rfl
@[simp] theorem setImageOk_pw (c i : Nat) (ok : Bool) (s : State) : (setImageOk c i ok s).pw = s.pw := rfl
@[simp] theorem setImageOk_gz (c i : Nat) (ok : Bool) (s : State) : (setImageOk c i ok s).gz = s.gz := rfl
@[simp] theorem setImageOk_tallies (c i : Nat) (ok : Bool) (s : State) : (setImageOk c i ok s).tallies = s.tallies := rfl
@[simp] theorem setImageOk_out (c i : Nat) (ok : Bool) (s : State) : (setImageOk c i ok s).out = s.out := rfl
@[simp] theorem setImageOk_freeCtr (c i : Nat) (ok : Bool) (s : State) : (setImageOk c i ok s).freeCtr = s.freeCtr := rfl
@[simp] theorem setImageOk_pending (c i : Nat) (ok : Bool) (s : State) : (setImageOk c i ok s).pending = s.pending := rfl

/-! ### setBootImage changes `nor` alone. -/

@[simp] theorem setBootImage_now (c i : Nat) (s : State) : (setBootImage c i s).now = s.now := rfl
@[simp] theorem setBootImage_boot (c i : Nat) (s : State) : (setBootImage c i s).boot = s.boot := rfl
@[simp] theorem setBootImage_sc (c i : Nat) (s : State) : (setBootImage c i s).sc = s.sc := rfl
@[simp] theorem setBootImage_mm (c i : Nat) (s : State) : (setBootImage c i s).mm = s.mm := rfl
@[simp] theorem setBootImage_hq (c i : Nat) (s : State) : (setBootImage c i s).hq = s.hq := rfl
@[simp] theorem setBootImage_net (c i : Nat) (s : State) : (setBootImage c i s).net = s.net := rfl
@[simp] theorem setBootImage_tk (c i : Nat) (s : State) : (setBootImage c i s).tk = s.tk := rfl
@[simp] theorem setBootImage_run (c i : Nat) (s : State) : (setBootImage c i s).run = s.run := rfl
@[simp] theorem setBootImage_start (c i : Nat) (s : State) : (setBootImage c i s).start = s.start := rfl
@[simp] theorem setBootImage_job (c i : Nat) (s : State) : (setBootImage c i s).job = s.job := rfl
@[simp] theorem setBootImage_record (c i : Nat) (s : State) : (setBootImage c i s).record = s.record := rfl
@[simp] theorem setBootImage_tb (c i : Nat) (s : State) : (setBootImage c i s).tb = s.tb := rfl
@[simp] theorem setBootImage_folds (c i : Nat) (s : State) : (setBootImage c i s).folds = s.folds := rfl
@[simp] theorem setBootImage_ru (c i : Nat) (s : State) : (setBootImage c i s).ru = s.ru := rfl
@[simp] theorem setBootImage_commit (c i : Nat) (s : State) : (setBootImage c i s).commit = s.commit := rfl
@[simp] theorem setBootImage_ex (c i : Nat) (s : State) : (setBootImage c i s).ex = s.ex := rfl
@[simp] theorem setBootImage_handovers (c i : Nat) (s : State) : (setBootImage c i s).handovers = s.handovers := rfl
@[simp] theorem setBootImage_bulk (c i : Nat) (s : State) : (setBootImage c i s).bulk = s.bulk := rfl
@[simp] theorem setBootImage_lg (c i : Nat) (s : State) : (setBootImage c i s).lg = s.lg := rfl
@[simp] theorem setBootImage_digest (c i : Nat) (s : State) : (setBootImage c i s).digest = s.digest := rfl
@[simp] theorem setBootImage_snap (c i : Nat) (s : State) : (setBootImage c i s).snap = s.snap := rfl
@[simp] theorem setBootImage_repairsDue (c i : Nat) (s : State) : (setBootImage c i s).repairsDue = s.repairsDue := rfl
@[simp] theorem setBootImage_tiles (c i : Nat) (s : State) : (setBootImage c i s).tiles = s.tiles := rfl
@[simp] theorem setBootImage_pw (c i : Nat) (s : State) : (setBootImage c i s).pw = s.pw := rfl
@[simp] theorem setBootImage_gz (c i : Nat) (s : State) : (setBootImage c i s).gz = s.gz := rfl
@[simp] theorem setBootImage_tallies (c i : Nat) (s : State) : (setBootImage c i s).tallies = s.tallies := rfl
@[simp] theorem setBootImage_out (c i : Nat) (s : State) : (setBootImage c i s).out = s.out := rfl
@[simp] theorem setBootImage_freeCtr (c i : Nat) (s : State) : (setBootImage c i s).freeCtr = s.freeCtr := rfl
@[simp] theorem setBootImage_pending (c i : Nat) (s : State) : (setBootImage c i s).pending = s.pending := rfl

/-! ### setSpdm changes `sc` alone. -/

@[simp] theorem setSpdm_now (ep n : Nat) (s : State) : (setSpdm ep n s).now = s.now := rfl
@[simp] theorem setSpdm_boot (ep n : Nat) (s : State) : (setSpdm ep n s).boot = s.boot := rfl
@[simp] theorem setSpdm_nor (ep n : Nat) (s : State) : (setSpdm ep n s).nor = s.nor := rfl
@[simp] theorem setSpdm_mm (ep n : Nat) (s : State) : (setSpdm ep n s).mm = s.mm := rfl
@[simp] theorem setSpdm_hq (ep n : Nat) (s : State) : (setSpdm ep n s).hq = s.hq := rfl
@[simp] theorem setSpdm_net (ep n : Nat) (s : State) : (setSpdm ep n s).net = s.net := rfl
@[simp] theorem setSpdm_tk (ep n : Nat) (s : State) : (setSpdm ep n s).tk = s.tk := rfl
@[simp] theorem setSpdm_run (ep n : Nat) (s : State) : (setSpdm ep n s).run = s.run := rfl
@[simp] theorem setSpdm_start (ep n : Nat) (s : State) : (setSpdm ep n s).start = s.start := rfl
@[simp] theorem setSpdm_job (ep n : Nat) (s : State) : (setSpdm ep n s).job = s.job := rfl
@[simp] theorem setSpdm_record (ep n : Nat) (s : State) : (setSpdm ep n s).record = s.record := rfl
@[simp] theorem setSpdm_tb (ep n : Nat) (s : State) : (setSpdm ep n s).tb = s.tb := rfl
@[simp] theorem setSpdm_folds (ep n : Nat) (s : State) : (setSpdm ep n s).folds = s.folds := rfl
@[simp] theorem setSpdm_ru (ep n : Nat) (s : State) : (setSpdm ep n s).ru = s.ru := rfl
@[simp] theorem setSpdm_commit (ep n : Nat) (s : State) : (setSpdm ep n s).commit = s.commit := rfl
@[simp] theorem setSpdm_ex (ep n : Nat) (s : State) : (setSpdm ep n s).ex = s.ex := rfl
@[simp] theorem setSpdm_handovers (ep n : Nat) (s : State) : (setSpdm ep n s).handovers = s.handovers := rfl
@[simp] theorem setSpdm_bulk (ep n : Nat) (s : State) : (setSpdm ep n s).bulk = s.bulk := rfl
@[simp] theorem setSpdm_lg (ep n : Nat) (s : State) : (setSpdm ep n s).lg = s.lg := rfl
@[simp] theorem setSpdm_digest (ep n : Nat) (s : State) : (setSpdm ep n s).digest = s.digest := rfl
@[simp] theorem setSpdm_snap (ep n : Nat) (s : State) : (setSpdm ep n s).snap = s.snap := rfl
@[simp] theorem setSpdm_repairsDue (ep n : Nat) (s : State) : (setSpdm ep n s).repairsDue = s.repairsDue := rfl
@[simp] theorem setSpdm_tiles (ep n : Nat) (s : State) : (setSpdm ep n s).tiles = s.tiles := rfl
@[simp] theorem setSpdm_pw (ep n : Nat) (s : State) : (setSpdm ep n s).pw = s.pw := rfl
@[simp] theorem setSpdm_gz (ep n : Nat) (s : State) : (setSpdm ep n s).gz = s.gz := rfl
@[simp] theorem setSpdm_tallies (ep n : Nat) (s : State) : (setSpdm ep n s).tallies = s.tallies := rfl
@[simp] theorem setSpdm_out (ep n : Nat) (s : State) : (setSpdm ep n s).out = s.out := rfl
@[simp] theorem setSpdm_freeCtr (ep n : Nat) (s : State) : (setSpdm ep n s).freeCtr = s.freeCtr := rfl
@[simp] theorem setSpdm_pending (ep n : Nat) (s : State) : (setSpdm ep n s).pending = s.pending := rfl

/-! ### modLegs changes `run` alone. -/

@[simp] theorem modLegs_now (f : LegOcc → LegOcc) (s : State) : (modLegs f s).now = s.now := rfl
@[simp] theorem modLegs_boot (f : LegOcc → LegOcc) (s : State) : (modLegs f s).boot = s.boot := rfl
@[simp] theorem modLegs_nor (f : LegOcc → LegOcc) (s : State) : (modLegs f s).nor = s.nor := rfl
@[simp] theorem modLegs_sc (f : LegOcc → LegOcc) (s : State) : (modLegs f s).sc = s.sc := rfl
@[simp] theorem modLegs_mm (f : LegOcc → LegOcc) (s : State) : (modLegs f s).mm = s.mm := rfl
@[simp] theorem modLegs_hq (f : LegOcc → LegOcc) (s : State) : (modLegs f s).hq = s.hq := rfl
@[simp] theorem modLegs_net (f : LegOcc → LegOcc) (s : State) : (modLegs f s).net = s.net := rfl
@[simp] theorem modLegs_tk (f : LegOcc → LegOcc) (s : State) : (modLegs f s).tk = s.tk := rfl
@[simp] theorem modLegs_start (f : LegOcc → LegOcc) (s : State) : (modLegs f s).start = s.start := rfl
@[simp] theorem modLegs_job (f : LegOcc → LegOcc) (s : State) : (modLegs f s).job = s.job := rfl
@[simp] theorem modLegs_record (f : LegOcc → LegOcc) (s : State) : (modLegs f s).record = s.record := rfl
@[simp] theorem modLegs_tb (f : LegOcc → LegOcc) (s : State) : (modLegs f s).tb = s.tb := rfl
@[simp] theorem modLegs_folds (f : LegOcc → LegOcc) (s : State) : (modLegs f s).folds = s.folds := rfl
@[simp] theorem modLegs_ru (f : LegOcc → LegOcc) (s : State) : (modLegs f s).ru = s.ru := rfl
@[simp] theorem modLegs_commit (f : LegOcc → LegOcc) (s : State) : (modLegs f s).commit = s.commit := rfl
@[simp] theorem modLegs_ex (f : LegOcc → LegOcc) (s : State) : (modLegs f s).ex = s.ex := rfl
@[simp] theorem modLegs_handovers (f : LegOcc → LegOcc) (s : State) : (modLegs f s).handovers = s.handovers := rfl
@[simp] theorem modLegs_bulk (f : LegOcc → LegOcc) (s : State) : (modLegs f s).bulk = s.bulk := rfl
@[simp] theorem modLegs_lg (f : LegOcc → LegOcc) (s : State) : (modLegs f s).lg = s.lg := rfl
@[simp] theorem modLegs_digest (f : LegOcc → LegOcc) (s : State) : (modLegs f s).digest = s.digest := rfl
@[simp] theorem modLegs_snap (f : LegOcc → LegOcc) (s : State) : (modLegs f s).snap = s.snap := rfl
@[simp] theorem modLegs_repairsDue (f : LegOcc → LegOcc) (s : State) : (modLegs f s).repairsDue = s.repairsDue := rfl
@[simp] theorem modLegs_tiles (f : LegOcc → LegOcc) (s : State) : (modLegs f s).tiles = s.tiles := rfl
@[simp] theorem modLegs_pw (f : LegOcc → LegOcc) (s : State) : (modLegs f s).pw = s.pw := rfl
@[simp] theorem modLegs_gz (f : LegOcc → LegOcc) (s : State) : (modLegs f s).gz = s.gz := rfl
@[simp] theorem modLegs_tallies (f : LegOcc → LegOcc) (s : State) : (modLegs f s).tallies = s.tallies := rfl
@[simp] theorem modLegs_out (f : LegOcc → LegOcc) (s : State) : (modLegs f s).out = s.out := rfl
@[simp] theorem modLegs_freeCtr (f : LegOcc → LegOcc) (s : State) : (modLegs f s).freeCtr = s.freeCtr := rfl
@[simp] theorem modLegs_pending (f : LegOcc → LegOcc) (s : State) : (modLegs f s).pending = s.pending := rfl

/-! ### modOcc changes `run` alone. -/

@[simp] theorem modOcc_now (leg tick : Nat) (f : LegOcc → LegOcc) (s : State) : (modOcc leg tick f s).now = s.now := rfl
@[simp] theorem modOcc_boot (leg tick : Nat) (f : LegOcc → LegOcc) (s : State) : (modOcc leg tick f s).boot = s.boot := rfl
@[simp] theorem modOcc_nor (leg tick : Nat) (f : LegOcc → LegOcc) (s : State) : (modOcc leg tick f s).nor = s.nor := rfl
@[simp] theorem modOcc_sc (leg tick : Nat) (f : LegOcc → LegOcc) (s : State) : (modOcc leg tick f s).sc = s.sc := rfl
@[simp] theorem modOcc_mm (leg tick : Nat) (f : LegOcc → LegOcc) (s : State) : (modOcc leg tick f s).mm = s.mm := rfl
@[simp] theorem modOcc_hq (leg tick : Nat) (f : LegOcc → LegOcc) (s : State) : (modOcc leg tick f s).hq = s.hq := rfl
@[simp] theorem modOcc_net (leg tick : Nat) (f : LegOcc → LegOcc) (s : State) : (modOcc leg tick f s).net = s.net := rfl
@[simp] theorem modOcc_tk (leg tick : Nat) (f : LegOcc → LegOcc) (s : State) : (modOcc leg tick f s).tk = s.tk := rfl
@[simp] theorem modOcc_start (leg tick : Nat) (f : LegOcc → LegOcc) (s : State) : (modOcc leg tick f s).start = s.start := rfl
@[simp] theorem modOcc_job (leg tick : Nat) (f : LegOcc → LegOcc) (s : State) : (modOcc leg tick f s).job = s.job := rfl
@[simp] theorem modOcc_record (leg tick : Nat) (f : LegOcc → LegOcc) (s : State) : (modOcc leg tick f s).record = s.record := rfl
@[simp] theorem modOcc_tb (leg tick : Nat) (f : LegOcc → LegOcc) (s : State) : (modOcc leg tick f s).tb = s.tb := rfl
@[simp] theorem modOcc_folds (leg tick : Nat) (f : LegOcc → LegOcc) (s : State) : (modOcc leg tick f s).folds = s.folds := rfl
@[simp] theorem modOcc_ru (leg tick : Nat) (f : LegOcc → LegOcc) (s : State) : (modOcc leg tick f s).ru = s.ru := rfl
@[simp] theorem modOcc_commit (leg tick : Nat) (f : LegOcc → LegOcc) (s : State) : (modOcc leg tick f s).commit = s.commit := rfl
@[simp] theorem modOcc_ex (leg tick : Nat) (f : LegOcc → LegOcc) (s : State) : (modOcc leg tick f s).ex = s.ex := rfl
@[simp] theorem modOcc_handovers (leg tick : Nat) (f : LegOcc → LegOcc) (s : State) : (modOcc leg tick f s).handovers = s.handovers := rfl
@[simp] theorem modOcc_bulk (leg tick : Nat) (f : LegOcc → LegOcc) (s : State) : (modOcc leg tick f s).bulk = s.bulk := rfl
@[simp] theorem modOcc_lg (leg tick : Nat) (f : LegOcc → LegOcc) (s : State) : (modOcc leg tick f s).lg = s.lg := rfl
@[simp] theorem modOcc_digest (leg tick : Nat) (f : LegOcc → LegOcc) (s : State) : (modOcc leg tick f s).digest = s.digest := rfl
@[simp] theorem modOcc_snap (leg tick : Nat) (f : LegOcc → LegOcc) (s : State) : (modOcc leg tick f s).snap = s.snap := rfl
@[simp] theorem modOcc_repairsDue (leg tick : Nat) (f : LegOcc → LegOcc) (s : State) : (modOcc leg tick f s).repairsDue = s.repairsDue := rfl
@[simp] theorem modOcc_tiles (leg tick : Nat) (f : LegOcc → LegOcc) (s : State) : (modOcc leg tick f s).tiles = s.tiles := rfl
@[simp] theorem modOcc_pw (leg tick : Nat) (f : LegOcc → LegOcc) (s : State) : (modOcc leg tick f s).pw = s.pw := rfl
@[simp] theorem modOcc_gz (leg tick : Nat) (f : LegOcc → LegOcc) (s : State) : (modOcc leg tick f s).gz = s.gz := rfl
@[simp] theorem modOcc_tallies (leg tick : Nat) (f : LegOcc → LegOcc) (s : State) : (modOcc leg tick f s).tallies = s.tallies := rfl
@[simp] theorem modOcc_out (leg tick : Nat) (f : LegOcc → LegOcc) (s : State) : (modOcc leg tick f s).out = s.out := rfl
@[simp] theorem modOcc_freeCtr (leg tick : Nat) (f : LegOcc → LegOcc) (s : State) : (modOcc leg tick f s).freeCtr = s.freeCtr := rfl
@[simp] theorem modOcc_pending (leg tick : Nat) (f : LegOcc → LegOcc) (s : State) : (modOcc leg tick f s).pending = s.pending := rfl

/-! ### setHurdle changes `tiles` alone. -/

@[simp] theorem setHurdle_now (h die : Nat) (i : HurdleInst) (s : State) : (setHurdle h die i s).now = s.now := rfl
@[simp] theorem setHurdle_boot (h die : Nat) (i : HurdleInst) (s : State) : (setHurdle h die i s).boot = s.boot := rfl
@[simp] theorem setHurdle_nor (h die : Nat) (i : HurdleInst) (s : State) : (setHurdle h die i s).nor = s.nor := rfl
@[simp] theorem setHurdle_sc (h die : Nat) (i : HurdleInst) (s : State) : (setHurdle h die i s).sc = s.sc := rfl
@[simp] theorem setHurdle_mm (h die : Nat) (i : HurdleInst) (s : State) : (setHurdle h die i s).mm = s.mm := rfl
@[simp] theorem setHurdle_hq (h die : Nat) (i : HurdleInst) (s : State) : (setHurdle h die i s).hq = s.hq := rfl
@[simp] theorem setHurdle_net (h die : Nat) (i : HurdleInst) (s : State) : (setHurdle h die i s).net = s.net := rfl
@[simp] theorem setHurdle_tk (h die : Nat) (i : HurdleInst) (s : State) : (setHurdle h die i s).tk = s.tk := rfl
@[simp] theorem setHurdle_run (h die : Nat) (i : HurdleInst) (s : State) : (setHurdle h die i s).run = s.run := rfl
@[simp] theorem setHurdle_start (h die : Nat) (i : HurdleInst) (s : State) : (setHurdle h die i s).start = s.start := rfl
@[simp] theorem setHurdle_job (h die : Nat) (i : HurdleInst) (s : State) : (setHurdle h die i s).job = s.job := rfl
@[simp] theorem setHurdle_record (h die : Nat) (i : HurdleInst) (s : State) : (setHurdle h die i s).record = s.record := rfl
@[simp] theorem setHurdle_tb (h die : Nat) (i : HurdleInst) (s : State) : (setHurdle h die i s).tb = s.tb := rfl
@[simp] theorem setHurdle_folds (h die : Nat) (i : HurdleInst) (s : State) : (setHurdle h die i s).folds = s.folds := rfl
@[simp] theorem setHurdle_ru (h die : Nat) (i : HurdleInst) (s : State) : (setHurdle h die i s).ru = s.ru := rfl
@[simp] theorem setHurdle_commit (h die : Nat) (i : HurdleInst) (s : State) : (setHurdle h die i s).commit = s.commit := rfl
@[simp] theorem setHurdle_ex (h die : Nat) (i : HurdleInst) (s : State) : (setHurdle h die i s).ex = s.ex := rfl
@[simp] theorem setHurdle_handovers (h die : Nat) (i : HurdleInst) (s : State) : (setHurdle h die i s).handovers = s.handovers := rfl
@[simp] theorem setHurdle_bulk (h die : Nat) (i : HurdleInst) (s : State) : (setHurdle h die i s).bulk = s.bulk := rfl
@[simp] theorem setHurdle_lg (h die : Nat) (i : HurdleInst) (s : State) : (setHurdle h die i s).lg = s.lg := rfl
@[simp] theorem setHurdle_digest (h die : Nat) (i : HurdleInst) (s : State) : (setHurdle h die i s).digest = s.digest := rfl
@[simp] theorem setHurdle_snap (h die : Nat) (i : HurdleInst) (s : State) : (setHurdle h die i s).snap = s.snap := rfl
@[simp] theorem setHurdle_repairsDue (h die : Nat) (i : HurdleInst) (s : State) : (setHurdle h die i s).repairsDue = s.repairsDue := rfl
@[simp] theorem setHurdle_pw (h die : Nat) (i : HurdleInst) (s : State) : (setHurdle h die i s).pw = s.pw := rfl
@[simp] theorem setHurdle_gz (h die : Nat) (i : HurdleInst) (s : State) : (setHurdle h die i s).gz = s.gz := rfl
@[simp] theorem setHurdle_tallies (h die : Nat) (i : HurdleInst) (s : State) : (setHurdle h die i s).tallies = s.tallies := rfl
@[simp] theorem setHurdle_out (h die : Nat) (i : HurdleInst) (s : State) : (setHurdle h die i s).out = s.out := rfl
@[simp] theorem setHurdle_freeCtr (h die : Nat) (i : HurdleInst) (s : State) : (setHurdle h die i s).freeCtr = s.freeCtr := rfl
@[simp] theorem setHurdle_pending (h die : Nat) (i : HurdleInst) (s : State) : (setHurdle h die i s).pending = s.pending := rfl

/-! ### modHandover changes `handovers` alone. -/

@[simp] theorem modHandover_now (m k : Nat) (f : Handover → Handover) (s : State) : (modHandover m k f s).now = s.now := rfl
@[simp] theorem modHandover_boot (m k : Nat) (f : Handover → Handover) (s : State) : (modHandover m k f s).boot = s.boot := rfl
@[simp] theorem modHandover_nor (m k : Nat) (f : Handover → Handover) (s : State) : (modHandover m k f s).nor = s.nor := rfl
@[simp] theorem modHandover_sc (m k : Nat) (f : Handover → Handover) (s : State) : (modHandover m k f s).sc = s.sc := rfl
@[simp] theorem modHandover_mm (m k : Nat) (f : Handover → Handover) (s : State) : (modHandover m k f s).mm = s.mm := rfl
@[simp] theorem modHandover_hq (m k : Nat) (f : Handover → Handover) (s : State) : (modHandover m k f s).hq = s.hq := rfl
@[simp] theorem modHandover_net (m k : Nat) (f : Handover → Handover) (s : State) : (modHandover m k f s).net = s.net := rfl
@[simp] theorem modHandover_tk (m k : Nat) (f : Handover → Handover) (s : State) : (modHandover m k f s).tk = s.tk := rfl
@[simp] theorem modHandover_run (m k : Nat) (f : Handover → Handover) (s : State) : (modHandover m k f s).run = s.run := rfl
@[simp] theorem modHandover_start (m k : Nat) (f : Handover → Handover) (s : State) : (modHandover m k f s).start = s.start := rfl
@[simp] theorem modHandover_job (m k : Nat) (f : Handover → Handover) (s : State) : (modHandover m k f s).job = s.job := rfl
@[simp] theorem modHandover_record (m k : Nat) (f : Handover → Handover) (s : State) : (modHandover m k f s).record = s.record := rfl
@[simp] theorem modHandover_tb (m k : Nat) (f : Handover → Handover) (s : State) : (modHandover m k f s).tb = s.tb := rfl
@[simp] theorem modHandover_folds (m k : Nat) (f : Handover → Handover) (s : State) : (modHandover m k f s).folds = s.folds := rfl
@[simp] theorem modHandover_ru (m k : Nat) (f : Handover → Handover) (s : State) : (modHandover m k f s).ru = s.ru := rfl
@[simp] theorem modHandover_commit (m k : Nat) (f : Handover → Handover) (s : State) : (modHandover m k f s).commit = s.commit := rfl
@[simp] theorem modHandover_ex (m k : Nat) (f : Handover → Handover) (s : State) : (modHandover m k f s).ex = s.ex := rfl
@[simp] theorem modHandover_bulk (m k : Nat) (f : Handover → Handover) (s : State) : (modHandover m k f s).bulk = s.bulk := rfl
@[simp] theorem modHandover_lg (m k : Nat) (f : Handover → Handover) (s : State) : (modHandover m k f s).lg = s.lg := rfl
@[simp] theorem modHandover_digest (m k : Nat) (f : Handover → Handover) (s : State) : (modHandover m k f s).digest = s.digest := rfl
@[simp] theorem modHandover_snap (m k : Nat) (f : Handover → Handover) (s : State) : (modHandover m k f s).snap = s.snap := rfl
@[simp] theorem modHandover_repairsDue (m k : Nat) (f : Handover → Handover) (s : State) : (modHandover m k f s).repairsDue = s.repairsDue := rfl
@[simp] theorem modHandover_tiles (m k : Nat) (f : Handover → Handover) (s : State) : (modHandover m k f s).tiles = s.tiles := rfl
@[simp] theorem modHandover_pw (m k : Nat) (f : Handover → Handover) (s : State) : (modHandover m k f s).pw = s.pw := rfl
@[simp] theorem modHandover_gz (m k : Nat) (f : Handover → Handover) (s : State) : (modHandover m k f s).gz = s.gz := rfl
@[simp] theorem modHandover_tallies (m k : Nat) (f : Handover → Handover) (s : State) : (modHandover m k f s).tallies = s.tallies := rfl
@[simp] theorem modHandover_out (m k : Nat) (f : Handover → Handover) (s : State) : (modHandover m k f s).out = s.out := rfl
@[simp] theorem modHandover_freeCtr (m k : Nat) (f : Handover → Handover) (s : State) : (modHandover m k f s).freeCtr = s.freeCtr := rfl
@[simp] theorem modHandover_pending (m k : Nat) (f : Handover → Handover) (s : State) : (modHandover m k f s).pending = s.pending := rfl

/-! ### modBatch changes `ex` alone. -/

@[simp] theorem modBatch_now (id : Nat) (f : Batch → Batch) (s : State) : (modBatch id f s).now = s.now := rfl
@[simp] theorem modBatch_boot (id : Nat) (f : Batch → Batch) (s : State) : (modBatch id f s).boot = s.boot := rfl
@[simp] theorem modBatch_nor (id : Nat) (f : Batch → Batch) (s : State) : (modBatch id f s).nor = s.nor := rfl
@[simp] theorem modBatch_sc (id : Nat) (f : Batch → Batch) (s : State) : (modBatch id f s).sc = s.sc := rfl
@[simp] theorem modBatch_mm (id : Nat) (f : Batch → Batch) (s : State) : (modBatch id f s).mm = s.mm := rfl
@[simp] theorem modBatch_hq (id : Nat) (f : Batch → Batch) (s : State) : (modBatch id f s).hq = s.hq := rfl
@[simp] theorem modBatch_net (id : Nat) (f : Batch → Batch) (s : State) : (modBatch id f s).net = s.net := rfl
@[simp] theorem modBatch_tk (id : Nat) (f : Batch → Batch) (s : State) : (modBatch id f s).tk = s.tk := rfl
@[simp] theorem modBatch_run (id : Nat) (f : Batch → Batch) (s : State) : (modBatch id f s).run = s.run := rfl
@[simp] theorem modBatch_start (id : Nat) (f : Batch → Batch) (s : State) : (modBatch id f s).start = s.start := rfl
@[simp] theorem modBatch_job (id : Nat) (f : Batch → Batch) (s : State) : (modBatch id f s).job = s.job := rfl
@[simp] theorem modBatch_record (id : Nat) (f : Batch → Batch) (s : State) : (modBatch id f s).record = s.record := rfl
@[simp] theorem modBatch_tb (id : Nat) (f : Batch → Batch) (s : State) : (modBatch id f s).tb = s.tb := rfl
@[simp] theorem modBatch_folds (id : Nat) (f : Batch → Batch) (s : State) : (modBatch id f s).folds = s.folds := rfl
@[simp] theorem modBatch_ru (id : Nat) (f : Batch → Batch) (s : State) : (modBatch id f s).ru = s.ru := rfl
@[simp] theorem modBatch_commit (id : Nat) (f : Batch → Batch) (s : State) : (modBatch id f s).commit = s.commit := rfl
@[simp] theorem modBatch_handovers (id : Nat) (f : Batch → Batch) (s : State) : (modBatch id f s).handovers = s.handovers := rfl
@[simp] theorem modBatch_bulk (id : Nat) (f : Batch → Batch) (s : State) : (modBatch id f s).bulk = s.bulk := rfl
@[simp] theorem modBatch_lg (id : Nat) (f : Batch → Batch) (s : State) : (modBatch id f s).lg = s.lg := rfl
@[simp] theorem modBatch_digest (id : Nat) (f : Batch → Batch) (s : State) : (modBatch id f s).digest = s.digest := rfl
@[simp] theorem modBatch_snap (id : Nat) (f : Batch → Batch) (s : State) : (modBatch id f s).snap = s.snap := rfl
@[simp] theorem modBatch_repairsDue (id : Nat) (f : Batch → Batch) (s : State) : (modBatch id f s).repairsDue = s.repairsDue := rfl
@[simp] theorem modBatch_tiles (id : Nat) (f : Batch → Batch) (s : State) : (modBatch id f s).tiles = s.tiles := rfl
@[simp] theorem modBatch_pw (id : Nat) (f : Batch → Batch) (s : State) : (modBatch id f s).pw = s.pw := rfl
@[simp] theorem modBatch_gz (id : Nat) (f : Batch → Batch) (s : State) : (modBatch id f s).gz = s.gz := rfl
@[simp] theorem modBatch_tallies (id : Nat) (f : Batch → Batch) (s : State) : (modBatch id f s).tallies = s.tallies := rfl
@[simp] theorem modBatch_out (id : Nat) (f : Batch → Batch) (s : State) : (modBatch id f s).out = s.out := rfl
@[simp] theorem modBatch_freeCtr (id : Nat) (f : Batch → Batch) (s : State) : (modBatch id f s).freeCtr = s.freeCtr := rfl
@[simp] theorem modBatch_pending (id : Nat) (f : Batch → Batch) (s : State) : (modBatch id f s).pending = s.pending := rfl

end Sys2Proof.Machine
end

