-- ==== Sys2Proof/Laws/Issue.lean ====
section
/-! SUPPORT. Issue: what a Trelet instruction does where it issues, and where the tile goes on. -/

namespace Sys2Proof.Machine

variable {s : State} {p op : Nat} {f : Fields} {legal : Bool}

/-- Where an instruction issues, its command answers its effect. -/
theorem Issues.runs (h : Issues s p op f legal) (run : State → State) : issue p op f legal run s = .next (run s) := by
  have h1 : (canIssue s p && decide ((getTile s p).pc < imemBytes) && fetchWord (getTile s p) == encodeWord op f) = true := by
    simp [h.can, h.pc, h.word]
  simp only [issue, onUnit, h.tile, h.legal, h1, decide_true, if_true]

theorem Issues.runsNext (h : Issues s p op f legal) (run : State → State) :
    issueNext p op f legal run s = .next (advance p (run s)) := h.runs _

theorem Issues.opcode (h : Issues s p op f legal) (hop : op < 256) : opcodeOf (fetchWord (getTile s p)) = op := by
  rw [h.word, opcodeOf, encodeWord, BitVec.toNat_ofNat]
  have := f.d.isLt
  have := f.a.isLt
  have := f.b.isLt
  have := f.c.isLt
  have := f.imm.isLt
  omega

theorem Issues.untrapped (h : Issues s p op f legal) : (getTile s p).trap = none := by
  have := h.can
  simp [canIssue] at this
  exact this.1.1.2

theorem Issues.issuing (h : Issues s p op f legal) : (getTile s p).issuing = true := by
  have := h.can
  simp [canIssue] at this
  exact this.1.1.1

/-- Going on from a tile that an effect has changed, but for its instruction memory. -/
theorem jump_setTile {t : Tile} {a : Nat} (h : ListedAt s p a) (h2 : t.imem = (getTile s p).imem) :
    jumpTo p a (setTile p t s) = tileAt p a t s := by
  obtain ⟨ha, hb⟩ := h
  simp only [jumpTo, modTile, checkPc, fetchWord, getTile_setTile, h2, if_true, setTile_setTile, Nat.not_le.mpr ha, if_false,
    hb, tileAt]

/-- Going on with the next instruction after an update of the tile. -/
theorem advance_setTile {t : Tile} (h : GoesOn s p) (htrap : t.trap = none) (hi : t.issuing = true)
    (h1 : t.pc = (getTile s p).pc) (h2 : t.imem = (getTile s p).imem) : advance p (setTile p t s) = tileNext p t s := by
  have := jump_setTile h h2
  simp only [advance, getTile_setTile, if_true, htrap, hi, Bool.not_true, Bool.or_self, Option.isSome_none, Bool.false_eq_true,
    if_false, h1, this, tileNext]

/-- Going on from the state as it is. -/
theorem advance_same (h : GoesOn s p) (htrap : (getTile s p).trap = none) (hi : (getTile s p).issuing = true) :
    advance p s = tileNext p (getTile s p) s := by
  obtain ⟨ha, hb⟩ := h
  simp only [advance, jumpTo, modTile, checkPc, fetchWord, getTile_setTile, htrap, hi, Bool.not_true, Bool.or_self, if_true,
    Option.isSome_none, Bool.false_eq_true, if_false, Nat.not_le.mpr ha, hb, tileNext, tileAt]

theorem modTile_eq (F : Tile → Tile) : modTile p F s = setTile p (F (getTile s p)) s := rfl

/-- An instruction that changes its tile alone: the command answers the state with the tile changed, at the next word. -/
theorem Issues.tileOnly (h : Issues s p op f legal) (g : GoesOn s p) (F : Tile → Tile)
    (h1 : (F (getTile s p)).pc = (getTile s p).pc) (h2 : (F (getTile s p)).imem = (getTile s p).imem)
    (h3 : (F (getTile s p)).trap = (getTile s p).trap) (h4 : (F (getTile s p)).issuing = (getTile s p).issuing) :
    issueNext p op f legal (modTile p F) s = .next (tileNext p (F (getTile s p)) s) := by
  rw [h.runsNext, modTile_eq, advance_setTile g (h3.trans h.untrapped) (h4.trans h.issuing) h1 h2]

@[simp] theorem writeS_pc (r : BitVec 6) (v : Word64) (t : Tile) : (writeS r v t).pc = t.pc := by unfold writeS; split <;> rfl
@[simp] theorem writeS_imem (r : BitVec 6) (v : Word64) (t : Tile) : (writeS r v t).imem = t.imem := by
  unfold writeS; split <;> rfl
@[simp] theorem writeS_trap (r : BitVec 6) (v : Word64) (t : Tile) : (writeS r v t).trap = t.trap := by
  unfold writeS; split <;> rfl

@[simp] theorem writeS_issuing (r : BitVec 6) (v : Word64) (t : Tile) : (writeS r v t).issuing = t.issuing := by
  unfold writeS; split <;> rfl

/-- Reading back a scalar register: s0 discards what is written (R266, R284). -/
theorem readS_writeS (r q : BitVec 6) (v : Word64) (t : Tile) :
    readS (writeS r v t) q = if q = r ∧ r ≠ 0 then v else readS t q := by
  unfold readS writeS
  by_cases hr : r = 0
  · have : ¬(q = r ∧ r ≠ 0) := fun h => h.2 hr
    rw [if_pos hr, if_neg this]
  · by_cases hq : q = 0
    · rw [if_pos hq, if_pos hq, if_neg (fun h => hr (h.1.symm.trans hq))]
    · rw [if_neg hr, if_neg hq, if_neg hq, tabGet_tabSet]
      by_cases e : q = r
      · subst e; rw [if_pos rfl, if_pos ⟨rfl, hr⟩]
      · rw [if_neg (fun h => e (BitVec.eq_of_toNat_eq h)), if_neg (fun h => e h.1)]

/-- A shift count of an immediate is its low six bits. -/
theorem shiftImm (f : Fields) : (f.imm.signExtend 64).toNat % 64 = f.imm.toNat % 64 := by
  rw [BitVec.toNat_signExtend]
  split
  · simp; omega
  · simp

end Sys2Proof.Machine
end

