-- ==== Sys2Proof/Laws/Keeps.lean ====
section
/-! SUPPORT. What every operation and every command keeps: the queue of waiting commands, memory's canonical form, what is
fused, what has been sent. `Keeps q s t` says it of a change from `s` to `t`; with `q` true, that no tile leaves the
quarantine list either. The lemmas chain: `f_keeps` turns a proof about `s` into one about `f s`. -/

namespace Sys2Proof.Machine

/-- What a change from `s` to `t` keeps. -/
structure Keeps (q : Bool) (s t : State) : Prop where
  /-- the queue of waiting commands is the same -/
  queue : t.pending = s.pending
  /-- the fused security version does not fall (R389) -/
  svn : s.nor.svn ≤ t.nor.svn
  /-- the key record counter does not fall (R391) -/
  ctr : s.nor.enrollCtr ≤ t.nor.enrollCtr
  /-- a fused owner hash stays (R390) -/
  owner : ∀ h, s.nor.ownerHash = some h → t.nor.ownerHash = some h
  /-- a quarantined tile stays on the list (R374) -/
  quar : q = true → ∀ i, s.nor.quarTiles.getLsbD i = true → t.nor.quarTiles.getLsbD i = true
  /-- memory keeps its canonical form -/
  mem : Memory.wf s.mm = true → Memory.wf t.mm = true
  /-- free values are not used twice -/
  free : s.freeCtr ≤ t.freeCtr
  /-- what has been sent stays sent -/
  sent : s.out <:+ t.out

variable {q : Bool} {s0 s t : State}

theorem Keeps.refl : Keeps q s s :=
  ⟨rfl, Nat.le_refl _, Nat.le_refl _, fun _ h => h, fun _ _ h => h, id, Nat.le_refl _, List.suffix_rfl⟩

theorem Keeps.trans (h1 : Keeps q s0 s) (h2 : Keeps q s t) : Keeps q s0 t :=
  ⟨h2.queue.trans h1.queue, Nat.le_trans h1.svn h2.svn, Nat.le_trans h1.ctr h2.ctr, fun x hx => h2.owner x (h1.owner x hx),
    fun hq i hi => h2.quar hq i (h1.quar hq i hi), fun h => h2.mem (h1.mem h), Nat.le_trans h1.free h2.free, h1.sent.trans h2.sent⟩

section update
variable {now : Nat} {boot : Boot} {nor : Nor} {sc : Sc} {mm : Mm} {hq : Hq} {net : Net} {tk : Tk} {run : TkRun}
  {start : StartCheck} {job : Job} {record : JobRecord} {tb : Tables} {folds : Folds} {ru : Tab RowUnit} {commit : Commit}
  {ex : Ex} {handovers : List Handover} {bulk : Bulk} {lg : Lg} {digest : Digest} {snap : Option Snapshot}
  {repairsDue : List (Nat × Nat × Nat)} {tiles : Tiles} {pw : Pw} {gz : Gz} {tallies : Tallies} {out : List Out}
  {freeCtr : Nat} {pending : List Instr}

/-- A record update that touches none of the fields kept. -/
theorem Keeps.upd (h : Keeps q s0 s) (e1 : pending = s.pending) (e2 : nor.svn = s.nor.svn)
    (e3 : nor.enrollCtr = s.nor.enrollCtr) (e4 : nor.ownerHash = s.nor.ownerHash) (e5 : nor.quarTiles = s.nor.quarTiles)
    (e6 : mm.bytes = s.mm.bytes) (e7 : mm.poison = s.mm.poison) (e8 : freeCtr = s.freeCtr) (e9 : out = s.out) :
    Keeps q s0 (State.mk now boot nor sc mm hq net tk run start job record tb folds ru commit ex handovers bulk lg digest snap
      repairsDue tiles pw gz tallies out freeCtr pending) := by
  refine h.trans ⟨e1, ?_, ?_, ?_, ?_, Memory.wf_of_eq e6 e7, ?_, ?_⟩
  · exact Nat.le_of_eq e2.symm
  · exact Nat.le_of_eq e3.symm
  · intro x hx; exact e4.trans hx
  · intro _ i hi; exact (congrArg (·.getLsbD i) e5).trans hi
  · exact Nat.le_of_eq e8.symm
  · exact e9 ▸ List.suffix_rfl

/-- An update of memory, and of fields that are not kept. -/
theorem Keeps.updMem (h : Keeps q s0 s) (e1 : pending = s.pending) (e2 : nor = s.nor) (e8 : freeCtr = s.freeCtr)
    (e9 : out = s.out) (hm : Memory.wf s.mm = true → Memory.wf mm = true) :
    Keeps q s0 (State.mk now boot nor sc mm hq net tk run start job record tb folds ru commit ex handovers bulk lg digest snap
      repairsDue tiles pw gz tallies out freeCtr pending) := by
  subst e1 e2 e8 e9
  exact h.trans ⟨rfl, Nat.le_refl _, Nat.le_refl _, fun _ h => h, fun _ _ h => h, hm, Nat.le_refl _, List.suffix_rfl⟩

end update

/-! ## Pairs, folds and outcomes -/

theorem Keeps.snd {α : Type} {x : α × State} {a : α} (e : x = (a, t)) (h : Keeps q s0 x.2) : Keeps q s0 t := by
  subst e; exact h

theorem Keeps.thd {α β : Type} {x : α × β × State} {a : α} {b : β} (e : x = (a, b, t)) (h : Keeps q s0 x.2.2) : Keeps q s0 t := by
  subst e; exact h

theorem Keeps.foldl {α : Type} {f : State → α → State} {l : List α} (h : Keeps q s0 s)
    (hf : ∀ t x, Keeps q s0 t → Keeps q s0 (f t x)) : Keeps q s0 (l.foldl f s) := by
  induction l generalizing s with
  | nil => exact h
  | cons x l ih => exact ih (hf s x h)

theorem Keeps.foldl2 {α β : Type} {f : β × State → α → β × State} {l : List α} {p : β × State} (h : Keeps q s0 p.2)
    (hf : ∀ (p : β × State) x, Keeps q s0 p.2 → Keeps q s0 (f p x).2) : Keeps q s0 (l.foldl f p).2 := by
  induction l generalizing p with
  | nil => exact h
  | cons x l ih => exact ih (hf p x h)

theorem Keeps.foldl3 {α β γ : Type} {f : β × γ × State → α → β × γ × State} {l : List α} {p : β × γ × State}
    (h : Keeps q s0 p.2.2) (hf : ∀ (p : β × γ × State) x, Keeps q s0 p.2.2 → Keeps q s0 (f p x).2.2) :
    Keeps q s0 (l.foldl f p).2.2 := by
  induction l generalizing p with
  | nil => exact h
  | cons x l ih => exact ih (hf p x h)

theorem Keeps.foldl4 {α β γ δ : Type} {f : β × γ × δ × State → α → β × γ × δ × State} {l : List α} {p : β × γ × δ × State}
    (h : Keeps q s0 p.2.2.2) (hf : ∀ (p : β × γ × δ × State) x, Keeps q s0 p.2.2.2 → Keeps q s0 (f p x).2.2.2) :
    Keeps q s0 (l.foldl f p).2.2.2 := by
  induction l generalizing p with
  | nil => exact h
  | cons x l ih => exact ih (hf p x h)

/-- A command that goes on keeps what `Keeps` says. -/
def KeepsRes (q : Bool) (s0 : State) (r : Res) : Prop := ∀ t, r = .next t → Keeps q s0 t

theorem KeepsRes.next (h : Keeps q s0 s) : KeepsRes q s0 (.next s) := by
  intro t e; cases e; exact h

theorem KeepsRes.here {r : Res} (e : r = .next t) (h : KeepsRes q s0 r) : Keeps q s0 t := h t e

theorem KeepsRes.fault {f : Fault} : KeepsRes q s0 (.fault f) := by intro t e; cases e

theorem onUnit_keeps {ok : Bool} (h : Keeps q s0 s) : KeepsRes q s0 (onUnit ok s) := by
  unfold onUnit
  split
  · exact KeepsRes.next h
  · exact KeepsRes.fault

end Sys2Proof.Machine
end

