-- ==== Sys2Proof/Laws/KeepsTick.lean ====
section
/-! SUPPORT. What the shared operations and the tick's operations keep. -/

set_option linter.unusedTactic false
set_option linter.unreachableTactic false
set_option linter.unusedVariables false

namespace Sys2Proof.Machine

variable {q : Bool} {s0 s : State}

/-! ## Ops -/

theorem emit_keeps {x0} (h : Keeps q s0 s) : Keeps q s0 (emit x0 s) :=
  h.trans ⟨rfl, Nat.le_refl _, Nat.le_refl _, fun _ h => h, fun _ _ h => h, id, Nat.le_refl _, List.suffix_cons _ _⟩

theorem platformEvent_keeps {x0} (h : Keeps q s0 s) : Keeps q s0 (platformEvent x0 s) := by
  unfold platformEvent
  try dsimp only
  repeat' with_reducible first
    | assumption | apply emit_keeps | fail_if_no_progress (refine Keeps.upd ?_ rfl rfl rfl rfl rfl rfl rfl rfl rfl) | split

theorem stampEvent_keeps {x0 x1 x2 x3} (h : Keeps q s0 s) : Keeps q s0 (stampEvent x0 x1 x2 x3 s).2 := by
  unfold stampEvent
  try dsimp only
  repeat' with_reducible first
    | assumption | apply platformEvent_keeps | fail_if_no_progress (refine Keeps.upd ?_ rfl rfl rfl rfl rfl rfl rfl rfl rfl)
    | dsimp only [id]

theorem tallyBy_keeps {x0 x1} (h : Keeps q s0 s) : Keeps q s0 (tallyBy x0 x1 s) := by
  unfold tallyBy
  try dsimp only
  repeat' with_reducible first
    | assumption | fail_if_no_progress (refine Keeps.upd ?_ rfl rfl rfl rfl rfl rfl rfl rfl rfl)

theorem tally_keeps {x0} (h : Keeps q s0 s) : Keeps q s0 (tally x0 s) := by
  unfold tally
  try dsimp only
  repeat' with_reducible first
    | assumption | apply tallyBy_keeps

theorem pushOvf_keeps {x0} (h : Keeps q s0 s) : Keeps q s0 (pushOvf x0 s) := by
  unfold pushOvf
  try dsimp only
  repeat' with_reducible first
    | assumption | apply tally_keeps | fail_if_no_progress (refine Keeps.upd ?_ rfl rfl rfl rfl rfl rfl rfl rfl rfl) | split

theorem violationIntoOvf_keeps {x0 x1} (h : Keeps q s0 s) : Keeps q s0 (violationIntoOvf x0 x1 s) := by
  unfold violationIntoOvf
  try dsimp only
  repeat' with_reducible first
    | assumption | apply stampEvent_keeps | apply tally_keeps | apply pushOvf_keeps | apply Keeps.snd (by assumption)
    | apply Keeps.thd (by assumption) | split | dsimp only [id]

theorem freeBytes_keeps {x0} (h : Keeps q s0 s) : Keeps q s0 (freeBytes x0 s).2 :=
  h.trans ⟨rfl, Nat.le_refl _, Nat.le_refl _, fun _ h => h, fun _ _ h => h, id, Nat.le_add_right _ _, List.suffix_rfl⟩

theorem rawRead_keeps {x0 x1} (h : Keeps q s0 s) : Keeps q s0 (rawRead x0 x1 s).2 := by
  unfold rawRead
  try dsimp only
  repeat' with_reducible first
    | assumption | apply freeBytes_keeps | apply Keeps.snd (by assumption) | apply Keeps.thd (by assumption) | split
    | dsimp only [id]

theorem readOwn_keeps {x0} (h : Keeps q s0 s) : Keeps q s0 (readOwn x0 s).2 := by
  unfold readOwn
  try dsimp only
  repeat' with_reducible first
    | assumption | apply rawRead_keeps | apply Keeps.snd (by assumption) | apply Keeps.thd (by assumption) | split
    | dsimp only [id]

theorem rawWrite_keeps {x0 x1} (h : Keeps q s0 s) : Keeps q s0 (rawWrite x0 x1 s) := by
  unfold rawWrite
  try dsimp only
  repeat' with_reducible first
    | assumption | apply emit_keeps
    | refine Keeps.updMem ?_ rfl rfl rfl rfl (fun h => memWrite_wf _ _ (by repeat first | exact h | refine memWrite_wf _ _ ?_))
    | fail_if_no_progress (refine Keeps.upd ?_ rfl rfl rfl rfl rfl rfl rfl rfl rfl) | apply Keeps.snd (by assumption)
    | apply Keeps.thd (by assumption) | split

theorem writeEventSlot_keeps {x0 x1 x2} (h : Keeps q s0 s) : Keeps q s0 (writeEventSlot x0 x1 x2 s) := by
  unfold writeEventSlot
  try dsimp only
  repeat' with_reducible first
    | assumption | apply rawWrite_keeps | apply emit_keeps
    | fail_if_no_progress (refine Keeps.upd ?_ rfl rfl rfl rfl rfl rfl rfl rfl rfl) | split | dsimp only [id]

theorem deliver_keeps {x0} (h : Keeps q s0 s) : Keeps q s0 (deliver x0 s) := by
  unfold deliver
  try dsimp only
  repeat' with_reducible first
    | assumption | apply pushOvf_keeps | apply violationIntoOvf_keeps | apply readOwn_keeps | apply writeEventSlot_keeps
    | apply Keeps.snd (by assumption) | apply Keeps.thd (by assumption) | split | dsimp only [id]

theorem raise_keeps {x0 x1 x2 x3} (h : Keeps q s0 s) : Keeps q s0 (raise x0 x1 x2 x3 s) := by
  unfold raise
  try dsimp only
  repeat' with_reducible first
    | assumption | apply stampEvent_keeps | apply pushOvf_keeps | apply deliver_keeps
    | fail_if_no_progress (refine Keeps.upd ?_ rfl rfl rfl rfl rfl rfl rfl rfl rfl) | apply Keeps.snd (by assumption)
    | apply Keeps.thd (by assumption) | split | dsimp only [id]

theorem securityViolation_keeps {x0 x1 x2 x3} (h : Keeps q s0 s) : Keeps q s0 (securityViolation x0 x1 x2 x3 s) := by
  unfold securityViolation
  try dsimp only
  repeat' with_reducible first
    | assumption | apply raise_keeps | apply tally_keeps | split

theorem hqWrite_keeps {x0 x1 x2} (h : Keeps q s0 s) : Keeps q s0 (hqWrite x0 x1 x2 s) := by
  unfold hqWrite
  try dsimp only
  repeat' with_reducible first
    | assumption | apply securityViolation_keeps | apply rawWrite_keeps | split

theorem hqRead_keeps {x0 x1 x2} (h : Keeps q s0 s) : Keeps q s0 (hqRead x0 x1 x2 s).2 := by
  unfold hqRead
  try dsimp only
  repeat' with_reducible first
    | assumption | apply securityViolation_keeps | apply rawRead_keeps | split

theorem freeWord_keeps (h : Keeps q s0 s) : Keeps q s0 (freeWord s).2 :=
  h.trans ⟨rfl, Nat.le_refl _, Nat.le_refl _, fun _ h => h, fun _ _ h => h, id, Nat.le_succ _, List.suffix_rfl⟩

theorem atTime_keeps {x0} (h : Keeps q s0 s) : Keeps q s0 (atTime x0 s) := by
  unfold atTime
  try dsimp only
  repeat' with_reducible first
    | assumption | fail_if_no_progress (refine Keeps.upd ?_ rfl rfl rfl rfl rfl rfl rfl rfl rfl)

theorem tableTally_keeps {x0 x1 x2} (h : Keeps q s0 s) : Keeps q s0 (tableTally x0 x1 x2 s) := by
  unfold tableTally
  try dsimp only
  repeat' with_reducible first
    | assumption | fail_if_no_progress (refine Keeps.upd ?_ rfl rfl rfl rfl rfl rfl rfl rfl rfl)

/-! ## Wire -/

theorem sendCodeword_keeps {x0 x1 x2} (h : Keeps q s0 s) : Keeps q s0 (sendCodeword x0 x1 x2 s).2 := by
  unfold sendCodeword
  try dsimp only
  repeat' with_reducible first
    | assumption | apply emit_keeps | fail_if_no_progress (refine Keeps.upd ?_ rfl rfl rfl rfl rfl rfl rfl rfl rfl) | split
    | dsimp only [id]

theorem fillLink_keeps {x0 x1} (h : Keeps q s0 s) : Keeps q s0 (fillLink x0 x1 s).2 := by
  unfold fillLink
  try dsimp only
  repeat' with_reducible first
    | assumption | apply sendCodeword_keeps | split

theorem feedLink_keeps {x0 x1 x2} (h : Keeps q s0 s) : Keeps q s0 (feedLink x0 x1 x2 s).2 := by
  unfold feedLink
  try dsimp only
  repeat' with_reducible first
    | assumption | apply sendCodeword_keeps | fail_if_no_progress (refine Keeps.upd ?_ rfl rfl rfl rfl rfl rfl rfl rfl rfl)
    | split | dsimp only [id]

/-! ## Links -/

theorem setLink_keeps {x0 x1} (h : Keeps q s0 s) : Keeps q s0 (setLink x0 x1 s) := by
  unfold setLink
  try dsimp only
  repeat' with_reducible first
    | assumption | fail_if_no_progress (refine Keeps.upd ?_ rfl rfl rfl rfl rfl rfl rfl rfl rfl)

theorem idleFill_keeps {x0} (h : Keeps q s0 s) : Keeps q s0 (idleFill x0 s) := by
  unfold idleFill
  try dsimp only
  repeat' with_reducible first
    | assumption | apply fillLink_keeps | apply setLink_keeps | apply Keeps.snd (by assumption)
    | apply Keeps.thd (by assumption) | split | dsimp only [id]

theorem modLink_keeps {x0 x1} (h : Keeps q s0 s) : Keeps q s0 (modLink x0 x1 s) := by
  unfold modLink
  try dsimp only
  repeat' with_reducible first
    | assumption | apply setLink_keeps

theorem freeBuffer_keeps {x0 x1} (h : Keeps q s0 s) : Keeps q s0 (freeBuffer x0 x1 s) := by
  unfold freeBuffer
  try dsimp only
  repeat' with_reducible first
    | assumption | apply modLink_keeps | fail_if_no_progress (refine Keeps.upd ?_ rfl rfl rfl rfl rfl rfl rfl rfl rfl)

theorem freeHeld_keeps {x0} (h : Keeps q s0 s) : Keeps q s0 (freeHeld x0 s) := by
  unfold freeHeld
  try dsimp only
  repeat' with_reducible first
    | assumption | apply freeBuffer_keeps | apply Keeps.snd (by assumption) | apply Keeps.thd (by assumption) | split

theorem sendBytes_keeps {x0 x1 x2 x3 x4} (h : Keeps q s0 s) : Keeps q s0 (sendBytes x0 x1 x2 x3 x4 s) := by
  unfold sendBytes
  try dsimp only
  repeat' with_reducible first
    | assumption | apply feedLink_keeps | apply emit_keeps | apply setLink_keeps | apply Keeps.snd (by assumption)
    | apply Keeps.thd (by assumption) | split | dsimp only [id]

theorem putOnWire_keeps {x0 x1 x2 x3} (h : Keeps q s0 s) : Keeps q s0 (putOnWire x0 x1 x2 x3 s) := by
  unfold putOnWire
  try dsimp only
  repeat' with_reducible first
    | assumption | apply sendBytes_keeps | fail_if_no_progress (refine Keeps.upd ?_ rfl rfl rfl rfl rfl rfl rfl rfl rfl)
    | dsimp only [id]

theorem transmit_keeps {x0 x1} (h : Keeps q s0 s) : Keeps q s0 (transmit x0 x1 s) := by
  unfold transmit
  try dsimp only
  repeat' with_reducible first
    | assumption | apply setLink_keeps | apply freeHeld_keeps | apply putOnWire_keeps
    | fail_if_no_progress (refine Keeps.upd ?_ rfl rfl rfl rfl rfl rfl rfl rfl rfl) | split | dsimp only [id]

theorem pumpFuel_keeps {x0 x1} (h : Keeps q s0 s) : Keeps q s0 (pumpFuel x0 x1 s) := by
  induction x1 generalizing s x0 with
  | zero =>
    unfold pumpFuel
    try dsimp only
    repeat' with_reducible first
      | assumption | apply transmit_keeps | apply setLink_keeps
      | fail_if_no_progress (refine Keeps.upd ?_ rfl rfl rfl rfl rfl rfl rfl rfl rfl) | apply Keeps.snd (by assumption)
      | apply Keeps.thd (by assumption) | split | dsimp only [id]
  | succ _ ih =>
    unfold pumpFuel
    try dsimp only
    repeat' with_reducible first
      | assumption | apply ih | apply transmit_keeps | apply setLink_keeps
      | fail_if_no_progress (refine Keeps.upd ?_ rfl rfl rfl rfl rfl rfl rfl rfl rfl) | apply Keeps.snd (by assumption)
      | apply Keeps.thd (by assumption) | split | dsimp only [id]

theorem pump_keeps {x0} (h : Keeps q s0 s) : Keeps q s0 (pump x0 s) := by
  unfold pump
  try dsimp only
  repeat' with_reducible first
    | assumption | apply idleFill_keeps | apply pumpFuel_keeps

theorem enqueue_keeps {x0 x1} (h : Keeps q s0 s) : Keeps q s0 (enqueue x0 x1 s) := by
  unfold enqueue
  try dsimp only
  repeat' with_reducible first
    | assumption | apply pump_keeps | apply modLink_keeps
    | fail_if_no_progress (refine Keeps.upd ?_ rfl rfl rfl rfl rfl rfl rfl rfl rfl)

theorem sendOn_keeps {x0 x1} (h : Keeps q s0 s) : Keeps q s0 (sendOn x0 x1 s) := by
  unfold sendOn
  try dsimp only
  repeat' with_reducible first
    | assumption | apply enqueue_keeps | split

theorem linkDown_keeps {x0 x1 x2 x3 x4} (h : Keeps q s0 s) : Keeps q s0 (linkDown x0 x1 x2 x3 x4 s) := by
  unfold linkDown
  try dsimp only
  repeat' with_reducible first
    | assumption | apply raise_keeps | split | dsimp only [id]

theorem endHandoff_keeps {x0} (h : Keeps q s0 s) : Keeps q s0 (endHandoff x0 s) := by
  unfold endHandoff
  try dsimp only
  repeat' with_reducible first
    | assumption | apply linkDown_keeps | apply modLink_keeps
    | fail_if_no_progress (refine Keeps.upd ?_ rfl rfl rfl rfl rfl rfl rfl rfl rfl) | apply Keeps.snd (by assumption)
    | apply Keeps.thd (by assumption) | split

theorem dropHandoff_keeps {x0} (h : Keeps q s0 s) : Keeps q s0 (dropHandoff x0 s) := by
  unfold dropHandoff
  try dsimp only
  repeat' with_reducible first
    | assumption | apply endHandoff_keeps | apply modLink_keeps | apply tallyBy_keeps
    | fail_if_no_progress (refine Keeps.upd ?_ rfl rfl rfl rfl rfl rfl rfl rfl rfl) | apply Keeps.snd (by assumption)
    | apply Keeps.thd (by assumption) | split | dsimp only [id]

theorem route_keeps {x0 x1} (h : Keeps q s0 s) : Keeps q s0 (route x0 x1 s) := by
  unfold route
  try dsimp only
  repeat' with_reducible first
    | assumption | apply enqueue_keeps | apply freeHeld_keeps | apply tally_keeps | apply Keeps.snd (by assumption)
    | apply Keeps.thd (by assumption) | split

theorem originate_keeps {x0 x1 x2 x3} (h : Keeps q s0 s) : Keeps q s0 (originate x0 x1 x2 x3 s) := by
  unfold originate
  try dsimp only
  repeat' with_reducible first
    | assumption | apply route_keeps

theorem sendLinkState_keeps {x0} (h : Keeps q s0 s) : Keeps q s0 (sendLinkState x0 s) := by
  unfold sendLinkState
  try dsimp only
  repeat' with_reducible first
    | assumption | apply originate_keeps | dsimp only [id]

theorem rerouteQueue_keeps {x0} (h : Keeps q s0 s) : Keeps q s0 (rerouteQueue x0 s) := by
  unfold rerouteQueue
  try dsimp only
  repeat' with_reducible first
    | assumption | apply route_keeps | apply freeHeld_keeps | apply setLink_keeps
    | fail_if_no_progress (refine Keeps.upd ?_ rfl rfl rfl rfl rfl rfl rfl rfl rfl) | apply Keeps.foldl | split
    | dsimp only [id] | intro _ _ _ | intro _ _

theorem leaveLive_keeps {x0 x1 x2} (h : Keeps q s0 s) : Keeps q s0 (leaveLive x0 x1 x2 s) := by
  unfold leaveLive
  try dsimp only
  repeat' with_reducible first
    | assumption | apply dropHandoff_keeps | apply setLink_keeps | apply sendLinkState_keeps | apply rerouteQueue_keeps
    | fail_if_no_progress (refine Keeps.upd ?_ rfl rfl rfl rfl rfl rfl rfl rfl rfl) | split | dsimp only [id]

theorem enterRetrain_keeps {x0 x1} (h : Keeps q s0 s) : Keeps q s0 (enterRetrain x0 x1 s) := by
  unfold enterRetrain
  try dsimp only
  repeat' with_reducible first
    | assumption | apply leaveLive_keeps | split

theorem resendAll_keeps {x0} (h : Keeps q s0 s) : Keeps q s0 (resendAll x0 s) := by
  unfold resendAll
  try dsimp only
  repeat' with_reducible first
    | assumption | apply putOnWire_keeps | apply Keeps.foldl | dsimp only [id] | intro _ _ _ | intro _ _

theorem onNak_keeps {x0 x1} (h : Keeps q s0 s) : Keeps q s0 (onNak x0 x1 s) := by
  unfold onNak
  try dsimp only
  repeat' with_reducible first
    | assumption | apply tally_keeps | apply setLink_keeps | apply enterRetrain_keeps | apply resendAll_keeps
    | fail_if_no_progress (refine Keeps.upd ?_ rfl rfl rfl rfl rfl rfl rfl rfl rfl) | split | dsimp only [id]

theorem rxReports_keeps {x0} (h : Keeps q s0 s) : Keeps q s0 (rxReports x0 s) := by
  unfold rxReports
  try dsimp only
  repeat' with_reducible first
    | assumption | apply modLink_keeps | apply onNak_keeps | apply pump_keeps
    | fail_if_no_progress (refine Keeps.upd ?_ rfl rfl rfl rfl rfl rfl rfl rfl rfl) | split | dsimp only [id]

theorem sendLocal_keeps {x0 x1} (h : Keeps q s0 s) : Keeps q s0 (sendLocal x0 x1 s) := by
  unfold sendLocal
  try dsimp only
  repeat' with_reducible first
    | assumption | apply idleFill_keeps | apply transmit_keeps | apply sendOn_keeps | split | dsimp only [id]

theorem sendNak_keeps {x0} (h : Keeps q s0 s) : Keeps q s0 (sendNak x0 s) := by
  unfold sendNak
  try dsimp only
  repeat' with_reducible first
    | assumption | apply sendLocal_keeps | apply modLink_keeps
    | fail_if_no_progress (refine Keeps.upd ?_ rfl rfl rfl rfl rfl rfl rfl rfl rfl)

theorem rxHeader_keeps {x0} (h : Keeps q s0 s) : Keeps q s0 (rxHeader x0 s).2 := by
  unfold rxHeader
  try dsimp only
  repeat' with_reducible first
    | assumption | apply rxReports_keeps | apply modLink_keeps | apply sendNak_keeps
    | fail_if_no_progress (refine Keeps.upd ?_ rfl rfl rfl rfl rfl rfl rfl rfl rfl) | split | dsimp only [id]

theorem deliverRx_keeps {x0 x1 x2} {f : State → State} (hf : ∀ t, Keeps q s0 t → Keeps q s0 (f t)) (h : Keeps q s0 s) :
    Keeps q s0 (deliverRx x0 x1 x2 f s) := by
  unfold deliverRx
  have := rxHeader_keeps (x0 := x1) (atTime_keeps (x0 := x0) h)
  split
  rename_i e
  rw [e] at this
  split
  · exact pump_keeps (hf _ (freeBuffer_keeps this))
  · exact this

theorem sendEcho_keeps (h : Keeps q s0 s) : Keeps q s0 (sendEcho s) := by
  unfold sendEcho
  try dsimp only
  repeat' with_reducible first
    | assumption | apply sendOn_keeps | split

theorem crcError_keeps {x0} (h : Keeps q s0 s) : Keeps q s0 (crcError x0 s) := by
  unfold crcError
  try dsimp only
  repeat' with_reducible first
    | assumption | apply tally_keeps | apply sendNak_keeps | split | dsimp only [id]

theorem sendStomped_keeps {x0 x1} (h : Keeps q s0 s) : Keeps q s0 (sendStomped x0 x1 s) := by
  unfold sendStomped
  try dsimp only
  repeat' with_reducible first
    | assumption | apply idleFill_keeps | apply sendBytes_keeps
    | fail_if_no_progress (refine Keeps.upd ?_ rfl rfl rfl rfl rfl rfl rfl rfl rfl) | split | dsimp only [id]

/-! ## Queues -/

theorem logAdmin_keeps {x0 x1 x2} (h : Keeps q s0 s) : Keeps q s0 (logAdmin x0 x1 x2 s) := by
  unfold logAdmin
  try dsimp only
  repeat' with_reducible first
    | assumption | fail_if_no_progress (refine Keeps.upd ?_ rfl rfl rfl rfl rfl rfl rfl rfl rfl)

theorem adminComplete_keeps {x0 x1 x2 x3 x4} (h : Keeps q s0 s) : Keeps q s0 (adminComplete x0 x1 x2 x3 x4 s) := by
  unfold adminComplete
  try dsimp only
  repeat' with_reducible first
    | assumption | apply logAdmin_keeps | apply hqWrite_keeps | apply emit_keeps | apply Keeps.foldl | split
    | dsimp only [id] | intro _ _ _ | intro _ _

theorem writeReply_keeps {x0 x1} (h : Keeps q s0 s) : Keeps q s0 (writeReply x0 x1 s) := by
  unfold writeReply
  try dsimp only
  repeat' with_reducible first
    | assumption | apply emit_keeps
    | refine Keeps.updMem ?_ rfl rfl rfl rfl (fun h => memWrite_wf _ _ (by repeat first | exact h | refine memWrite_wf _ _ ?_))
    | fail_if_no_progress (refine Keeps.upd ?_ rfl rfl rfl rfl rfl rfl rfl rfl rfl) | split | dsimp only [id]

theorem freeSlot_keeps {x0 x1} (h : Keeps q s0 s) : Keeps q s0 (freeSlot x0 x1 s) := by
  unfold freeSlot
  try dsimp only
  repeat' with_reducible first
    | assumption | apply hqWrite_keeps | apply Keeps.snd (by assumption) | apply Keeps.thd (by assumption) | split

theorem dropEntry_keeps {x0 x1} (h : Keeps q s0 s) : Keeps q s0 (dropEntry x0 x1 s) := by
  unfold dropEntry
  try dsimp only
  repeat' with_reducible first
    | assumption | fail_if_no_progress (refine Keeps.upd ?_ rfl rfl rfl rfl rfl rfl rfl rfl rfl)

theorem modOcc_keeps {x0 x1 x2} (h : Keeps q s0 s) : Keeps q s0 (modOcc x0 x1 x2 s) := by
  unfold modOcc
  try dsimp only
  repeat' with_reducible first
    | assumption | fail_if_no_progress (refine Keeps.upd ?_ rfl rfl rfl rfl rfl rfl rfl rfl rfl) | split

theorem serveLate_keeps {x0 x1 x2} (h : Keeps q s0 s) : Keeps q s0 (serveLate x0 x1 x2 s) := by
  unfold serveLate
  try dsimp only
  repeat' with_reducible first
    | assumption | apply tally_keeps | apply modOcc_keeps | apply raise_keeps
    | fail_if_no_progress (refine Keeps.upd ?_ rfl rfl rfl rfl rfl rfl rfl rfl rfl) | split | dsimp only [id]

theorem answer_keeps {x0 x1 x2} (h : Keeps q s0 s) : Keeps q s0 (answer x0 x1 x2 s) := by
  unfold answer
  try dsimp only
  repeat' with_reducible first
    | assumption | apply writeReply_keeps | apply freeSlot_keeps | apply dropEntry_keeps | apply serveLate_keeps
    | apply Keeps.snd (by assumption) | apply Keeps.thd (by assumption) | split | dsimp only [id]

theorem finishStarted_keeps {x0 x1 x2} (h : Keeps q s0 s) : Keeps q s0 (finishStarted x0 x1 x2 s) := by
  unfold finishStarted
  try dsimp only
  repeat' with_reducible first
    | assumption | apply adminComplete_keeps | fail_if_no_progress (refine Keeps.upd ?_ rfl rfl rfl rfl rfl rfl rfl rfl rfl)
    | dsimp only [id]

theorem openGate_keeps {x0} (h : Keeps q s0 s) : Keeps q s0 (openGate x0 s) := by
  unfold openGate
  try dsimp only
  repeat' with_reducible first
    | assumption | fail_if_no_progress (refine Keeps.upd ?_ rfl rfl rfl rfl rfl rfl rfl rfl rfl)

/-! ## TileBase -/

theorem setTile_keeps {x0 x1} (h : Keeps q s0 s) : Keeps q s0 (setTile x0 x1 s) := by
  unfold setTile
  try dsimp only
  repeat' with_reducible first
    | assumption | fail_if_no_progress (refine Keeps.upd ?_ rfl rfl rfl rfl rfl rfl rfl rfl rfl)

theorem modTile_keeps {x0 x1} (h : Keeps q s0 s) : Keeps q s0 (modTile x0 x1 s) := by
  unfold modTile
  try dsimp only
  repeat' with_reducible first
    | assumption | apply setTile_keeps

theorem dropBatches_keeps {x0} (h : Keeps q s0 s) : Keeps q s0 (dropBatches x0 s) := by
  unfold dropBatches
  try dsimp only
  repeat' with_reducible first
    | assumption | fail_if_no_progress (refine Keeps.upd ?_ rfl rfl rfl rfl rfl rfl rfl rfl rfl)

theorem answerCtlRead_keeps {x0} (h : Keeps q s0 s) : Keeps q s0 (answerCtlRead x0 s) := by
  unfold answerCtlRead
  try dsimp only
  repeat' with_reducible first
    | assumption | apply emit_keeps | split | dsimp only [id]

theorem releaseCtlReads_keeps (h : Keeps q s0 s) : Keeps q s0 (releaseCtlReads s) := by
  unfold releaseCtlReads
  try dsimp only
  repeat' with_reducible first
    | assumption | apply answerCtlRead_keeps | fail_if_no_progress (refine Keeps.upd ?_ rfl rfl rfl rfl rfl rfl rfl rfl rfl)
    | apply Keeps.foldl | dsimp only [id] | intro _ _ _ | intro _ _

theorem bumpInFlight_keeps {x0 x1} (h : Keeps q s0 s) : Keeps q s0 (bumpInFlight x0 x1 s) := by
  unfold bumpInFlight
  try dsimp only
  repeat' with_reducible first
    | assumption | apply releaseCtlReads_keeps
    | fail_if_no_progress (refine Keeps.upd ?_ rfl rfl rfl rfl rfl rfl rfl rfl rfl) | apply Keeps.foldl
    | apply Keeps.snd (by assumption) | apply Keeps.thd (by assumption) | split | dsimp only [id] | intro _ _ _ | intro _ _

theorem closeEmb_keeps {x1} (h : Keeps q s0 s) : Keeps q s0 (closeEmb s x1) := by
  unfold closeEmb
  try dsimp only
  repeat' with_reducible first
    | assumption | apply bumpInFlight_keeps

theorem closeMove_keeps {x1} (h : Keeps q s0 s) : Keeps q s0 (closeMove s x1) := by
  unfold closeMove
  try dsimp only
  repeat' with_reducible first
    | assumption | apply bumpInFlight_keeps | apply Keeps.snd (by assumption) | apply Keeps.thd (by assumption) | split

theorem resetTile_keeps {x0} (h : Keeps q s0 s) : Keeps q s0 (resetTile x0 s) := by
  unfold resetTile
  try dsimp only
  repeat' with_reducible first
    | assumption | apply modTile_keeps | apply dropBatches_keeps | apply closeEmb_keeps | apply closeMove_keeps
    | apply Keeps.foldl | dsimp only [id] | intro _ _ _ | intro _ _

theorem resetTiles_keeps (h : Keeps q s0 s) : Keeps q s0 (resetTiles s) := by
  unfold resetTiles
  try dsimp only
  repeat' with_reducible first
    | assumption | apply resetTile_keeps | apply Keeps.foldl | dsimp only [id] | intro _ _ _ | intro _ _

theorem answerClaims_keeps {x0 x1 x2 x3} (h : Keeps q s0 s) : Keeps q s0 (answerClaims x0 x1 x2 x3 s) := by
  unfold answerClaims
  try dsimp only
  repeat' with_reducible first
    | assumption | apply answer_keeps | apply tally_keeps | apply modTile_keeps
    | fail_if_no_progress (refine Keeps.upd ?_ rfl rfl rfl rfl rfl rfl rfl rfl rfl) | apply Keeps.foldl
    | apply Keeps.snd (by assumption) | apply Keeps.thd (by assumption) | split | dsimp only [id] | intro _ _ _ | intro _ _

theorem finishLeg_keeps {x0 x1} (h : Keeps q s0 s) : Keeps q s0 (finishLeg x0 x1 s) := by
  unfold finishLeg
  try dsimp only
  repeat' with_reducible first
    | assumption | apply modOcc_keeps | apply answerClaims_keeps | apply modTile_keeps
    | fail_if_no_progress (refine Keeps.upd ?_ rfl rfl rfl rfl rfl rfl rfl rfl rfl) | apply Keeps.snd (by assumption)
    | apply Keeps.thd (by assumption) | split | dsimp only [id]

theorem settleTile_keeps {x0} (h : Keeps q s0 s) : Keeps q s0 (settleTile x0 s) := by
  unfold settleTile
  try dsimp only
  repeat' with_reducible first
    | assumption | apply finishLeg_keeps | apply Keeps.foldl | split | dsimp only [id] | intro _ _ _ | intro _ _

theorem modLogical_keeps {x0 x1} (h : Keeps q s0 s) : Keeps q s0 (modLogical x0 x1 s) := by
  unfold modLogical
  try dsimp only
  repeat' with_reducible first
    | assumption | apply modTile_keeps | fail_if_no_progress (refine Keeps.upd ?_ rfl rfl rfl rfl rfl rfl rfl rfl rfl)
    | apply Keeps.snd (by assumption) | apply Keeps.thd (by assumption) | split

theorem readRegionCtl_keeps {x0} (h : Keeps q s0 s) : Keeps q s0 (readRegionCtl x0 s) := by
  unfold readRegionCtl
  try dsimp only
  repeat' with_reducible first
    | assumption | apply answerCtlRead_keeps | fail_if_no_progress (refine Keeps.upd ?_ rfl rfl rfl rfl rfl rfl rfl rfl rfl)
    | split

theorem tileWrite_keeps {x0 x1 x2} (h : Keeps q s0 s) : Keeps q s0 (tileWrite x0 x1 x2 s) := by
  unfold tileWrite
  try dsimp only
  repeat' with_reducible first
    | assumption | apply modTile_keeps

theorem tileRead_keeps {x0 x1 x2} (h : Keeps q s0 s) : Keeps q s0 (tileRead x0 x1 x2 s).2 := by
  unfold tileRead
  try dsimp only
  repeat' with_reducible first
    | assumption | apply freeBytes_keeps | apply Keeps.snd (by assumption) | apply Keeps.thd (by assumption) | split
    | dsimp only [id]

/-! ## Ticks -/

theorem rouse_keeps (h : Keeps q s0 s) : Keeps q s0 (rouse s) := by
  unfold rouse
  try dsimp only
  repeat' with_reducible first
    | assumption | fail_if_no_progress (refine Keeps.upd ?_ rfl rfl rfl rfl rfl rfl rfl rfl rfl) | split

theorem noteOverrun_keeps (h : Keeps q s0 s) : Keeps q s0 (noteOverrun s) := by
  unfold noteOverrun
  try dsimp only
  repeat' with_reducible first
    | assumption | apply raise_keeps | fail_if_no_progress (refine Keeps.upd ?_ rfl rfl rfl rfl rfl rfl rfl rfl rfl)
    | apply Keeps.snd (by assumption) | apply Keeps.thd (by assumption) | split | dsimp only [id]

theorem emptyGens_keeps {x0} (h : Keeps q s0 s) : Keeps q s0 (emptyGens x0 s) := by
  unfold emptyGens
  try dsimp only
  repeat' with_reducible first
    | assumption | fail_if_no_progress (refine Keeps.upd ?_ rfl rfl rfl rfl rfl rfl rfl rfl rfl) | split

theorem discardDense_keeps {x0} (h : Keeps q s0 s) : Keeps q s0 (discardDense x0 s) := by
  unfold discardDense
  try dsimp only
  repeat' with_reducible first
    | assumption | fail_if_no_progress (refine Keeps.upd ?_ rfl rfl rfl rfl rfl rfl rfl rfl rfl)

theorem returnSamples_keeps {x0 x1} (h : Keeps q s0 s) : Keeps q s0 (returnSamples x0 x1 s) := by
  unfold returnSamples
  try dsimp only
  repeat' with_reducible first
    | assumption | apply tallyBy_keeps | fail_if_no_progress (refine Keeps.upd ?_ rfl rfl rfl rfl rfl rfl rfl rfl rfl)
    | apply Keeps.snd (by assumption) | apply Keeps.thd (by assumption) | split | dsimp only [id]

theorem dropQuarantined_keeps (h : Keeps q s0 s) : Keeps q s0 (dropQuarantined s) := by
  unfold dropQuarantined
  try dsimp only
  repeat' with_reducible first
    | assumption | fail_if_no_progress (refine Keeps.upd ?_ rfl rfl rfl rfl rfl rfl rfl rfl rfl)

theorem enterI4_keeps (h : Keeps q s0 s) : Keeps q s0 (enterI4 s) := by
  unfold enterI4
  try dsimp only
  repeat' with_reducible first
    | assumption | fail_if_no_progress (refine Keeps.upd ?_ rfl rfl rfl rfl rfl rfl rfl rfl rfl)

theorem endJobReset_keeps (h : Keeps q s0 s) : Keeps q s0 (endJobReset s) := by
  unfold endJobReset
  try dsimp only
  repeat' with_reducible first
    | assumption | apply enterI4_keeps | apply resetTiles_keeps
    | fail_if_no_progress (refine Keeps.upd ?_ rfl rfl rfl rfl rfl rfl rfl rfl rfl)

theorem finishJobReset_keeps (h : Keeps q s0 s) : Keeps q s0 (finishJobReset s) := by
  unfold finishJobReset
  try dsimp only
  repeat' with_reducible first
    | assumption | apply finishStarted_keeps | apply endJobReset_keeps | apply Keeps.snd (by assumption)
    | apply Keeps.thd (by assumption) | split

theorem finishHalt_keeps (h : Keeps q s0 s) : Keeps q s0 (finishHalt s) := by
  unfold finishHalt
  try dsimp only
  repeat' with_reducible first
    | assumption | apply emptyGens_keeps | apply discardDense_keeps | apply answer_keeps | apply returnSamples_keeps
    | apply freeWord_keeps | apply finishStarted_keeps | apply dropQuarantined_keeps | apply finishJobReset_keeps
    | fail_if_no_progress (refine Keeps.upd ?_ rfl rfl rfl rfl rfl rfl rfl rfl rfl) | apply Keeps.foldl | apply Keeps.foldl2
    | apply Keeps.foldl3 | apply Keeps.foldl4 | apply Keeps.snd (by assumption) | apply Keeps.thd (by assumption) | split
    | dsimp only [id] | intro _ _ _ | intro _ _

theorem beginHalt_keeps (h : Keeps q s0 s) : Keeps q s0 (beginHalt s) := by
  unfold beginHalt
  try dsimp only
  repeat' with_reducible first
    | assumption | apply noteOverrun_keeps | apply finishHalt_keeps
    | fail_if_no_progress (refine Keeps.upd ?_ rfl rfl rfl rfl rfl rfl rfl rfl rfl) | split | dsimp only [id]

theorem sendDown_keeps {x0 x1} (h : Keeps q s0 s) : Keeps q s0 (sendDown x0 x1 s) := by
  unfold sendDown
  try dsimp only
  repeat' with_reducible first
    | assumption | apply sendOn_keeps | apply Keeps.foldl | dsimp only [id] | intro _ _ _ | intro _ _

theorem haltTree_keeps (h : Keeps q s0 s) : Keeps q s0 (haltTree s) := by
  unfold haltTree
  try dsimp only
  repeat' with_reducible first
    | assumption | apply beginHalt_keeps | apply sendDown_keeps | split

theorem sendUp_keeps {x0} (h : Keeps q s0 s) : Keeps q s0 (sendUp x0 s) := by
  unfold sendUp
  try dsimp only
  repeat' with_reducible first
    | assumption | apply sendOn_keeps | fail_if_no_progress (refine Keeps.upd ?_ rfl rfl rfl rfl rfl rfl rfl rfl rfl)
    | apply Keeps.snd (by assumption) | apply Keeps.thd (by assumption) | split

theorem sendAck_keeps {x0 x1 x2} (h : Keeps q s0 s) : Keeps q s0 (sendAck x0 x1 x2 s) := by
  unfold sendAck
  try dsimp only
  repeat' with_reducible first
    | assumption | apply sendUp_keeps | split | dsimp only [id]

theorem requestHalt_keeps (h : Keeps q s0 s) : Keeps q s0 (requestHalt s) := by
  unfold requestHalt
  try dsimp only
  repeat' with_reducible first
    | assumption | apply haltTree_keeps | apply sendAck_keeps
    | fail_if_no_progress (refine Keeps.upd ?_ rfl rfl rfl rfl rfl rfl rfl rfl rfl) | split | dsimp only [id]

theorem underTree_keeps {x0} {f : State → State} (hf : ∀ t, Keeps q s0 t → Keeps q s0 (f t)) (h : Keeps q s0 s) :
    Keeps q s0 (underTree x0 f s) := by
  unfold underTree
  dsimp only
  refine Keeps.upd (hf _ ?_) rfl rfl rfl rfl rfl rfl rfl rfl rfl
  exact Keeps.upd h rfl rfl rfl rfl rfl rfl rfl rfl rfl

theorem clearLateness_keeps (h : Keeps q s0 s) : Keeps q s0 (clearLateness s) := by
  unfold clearLateness
  try dsimp only
  repeat' with_reducible first
    | assumption | fail_if_no_progress (refine Keeps.upd ?_ rfl rfl rfl rfl rfl rfl rfl rfl rfl)

theorem sendMark_keeps {x0 x1} (h : Keeps q s0 s) : Keeps q s0 (sendMark x0 x1 s) := by
  unfold sendMark
  try dsimp only
  repeat' with_reducible first
    | assumption | apply sendDown_keeps | apply clearLateness_keeps
    | fail_if_no_progress (refine Keeps.upd ?_ rfl rfl rfl rfl rfl rfl rfl rfl rfl) | apply Keeps.snd (by assumption)
    | apply Keeps.thd (by assumption) | split | dsimp only [id]

theorem ackNow_keeps (h : Keeps q s0 s) : Keeps q s0 (ackNow s) := by
  unfold ackNow
  try dsimp only
  repeat' with_reducible first
    | assumption | apply sendAck_keeps

theorem recordApplyEnd_keeps {x0} (h : Keeps q s0 s) : Keeps q s0 (recordApplyEnd x0 s) := by
  unfold recordApplyEnd
  try dsimp only
  repeat' with_reducible first
    | assumption | fail_if_no_progress (refine Keeps.upd ?_ rfl rfl rfl rfl rfl rfl rfl rfl rfl) | split | dsimp only [id]

theorem checkCommitted_keeps {x0} (h : Keeps q s0 s) : Keeps q s0 (checkCommitted x0 s) := by
  unfold checkCommitted
  try dsimp only
  repeat' with_reducible first
    | assumption | apply sendDown_keeps | apply recordApplyEnd_keeps | apply sendAck_keeps
    | fail_if_no_progress (refine Keeps.upd ?_ rfl rfl rfl rfl rfl rfl rfl rfl rfl) | split | dsimp only [id]

theorem releaseHeld_keeps (h : Keeps q s0 s) : Keeps q s0 (releaseHeld s) := by
  unfold releaseHeld
  try dsimp only
  repeat' with_reducible first
    | assumption | apply underTree_keeps | apply sendMark_keeps | apply raise_keeps
    | fail_if_no_progress (refine Keeps.upd ?_ rfl rfl rfl rfl rfl rfl rfl rfl rfl) | split | dsimp only [id] | intro _ _

theorem actOnMerged_keeps (h : Keeps q s0 s) : Keeps q s0 (actOnMerged s) := by
  unfold actOnMerged
  try dsimp only
  repeat' with_reducible first
    | assumption | apply haltTree_keeps | apply releaseHeld_keeps | split

theorem dropTileWork_keeps {x0} (h : Keeps q s0 s) : Keeps q s0 (dropTileWork x0 s) := by
  unfold dropTileWork
  try dsimp only
  repeat' with_reducible first
    | assumption | apply closeEmb_keeps | apply settleTile_keeps
    | fail_if_no_progress (refine Keeps.upd ?_ rfl rfl rfl rfl rfl rfl rfl rfl rfl) | apply Keeps.foldl
    | apply Keeps.snd (by assumption) | apply Keeps.thd (by assumption) | split | dsimp only [id] | intro _ _ _ | intro _ _

theorem freeHandles_keeps (h : Keeps q s0 s) : Keeps q s0 (freeHandles s) := by
  unfold freeHandles
  try dsimp only
  repeat' with_reducible first
    | assumption | fail_if_no_progress (refine Keeps.upd ?_ rfl rfl rfl rfl rfl rfl rfl rfl rfl)

theorem onAbandon_keeps {x0 x1} (h : Keeps q s0 s) : Keeps q s0 (onAbandon x0 x1 s) := by
  unfold onAbandon
  try dsimp only
  repeat' with_reducible first
    | assumption | apply emptyGens_keeps | apply discardDense_keeps | apply returnSamples_keeps | apply dropTileWork_keeps
    | apply freeHandles_keeps | apply tally_keeps
    | fail_if_no_progress (refine Keeps.upd ?_ rfl rfl rfl rfl rfl rfl rfl rfl rfl) | split | dsimp only [id]

theorem abandonStep_keeps {x0 x1} (h : Keeps q s0 s) : Keeps q s0 (abandonStep x0 x1 s) := by
  unfold abandonStep
  try dsimp only
  repeat' with_reducible first
    | assumption | apply onAbandon_keeps | apply sendDown_keeps | split

theorem requestSkipAs_keeps {x0 x1 x2} (h : Keeps q s0 s) : Keeps q s0 (requestSkipAs x0 x1 x2 s) := by
  unfold requestSkipAs
  try dsimp only
  repeat' with_reducible first
    | assumption | apply abandonStep_keeps | apply sendAck_keeps
    | fail_if_no_progress (refine Keeps.upd ?_ rfl rfl rfl rfl rfl rfl rfl rfl rfl) | split

theorem requestSkip_keeps {x0 x1} (h : Keeps q s0 s) : Keeps q s0 (requestSkip x0 x1 s) := by
  unfold requestSkip
  try dsimp only
  repeat' with_reducible first
    | assumption | apply requestSkipAs_keeps

theorem applyGo_keeps {x0 x1} (h : Keeps q s0 s) : Keeps q s0 (applyGo x0 x1 s) := by
  unfold applyGo
  try dsimp only
  repeat' with_reducible first
    | assumption | apply sendDown_keeps | fail_if_no_progress (refine Keeps.upd ?_ rfl rfl rfl rfl rfl rfl rfl rfl rfl)
    | split | dsimp only [id]

theorem checkReturnDone_keeps {x0 x1} (h : Keeps q s0 s) : Keeps q s0 (checkReturnDone x0 x1 s) := by
  unfold checkReturnDone
  try dsimp only
  repeat' with_reducible first
    | assumption | apply applyGo_keeps | apply sendAck_keeps
    | fail_if_no_progress (refine Keeps.upd ?_ rfl rfl rfl rfl rfl rfl rfl rfl rfl) | split | dsimp only [id]

/-! ## GrazeBase -/

theorem setTask_keeps {x0 x1 x2} (h : Keeps q s0 s) : Keeps q s0 (setTask x0 x1 x2 s) := by
  unfold setTask
  try dsimp only
  repeat' with_reducible first
    | assumption | fail_if_no_progress (refine Keeps.upd ?_ rfl rfl rfl rfl rfl rfl rfl rfl rfl)

theorem taskRan_keeps {x0 x1} (h : Keeps q s0 s) : Keeps q s0 (taskRan x0 x1 s) := by
  unfold taskRan
  try dsimp only
  repeat' with_reducible first
    | assumption | apply setTask_keeps | fail_if_no_progress (refine Keeps.upd ?_ rfl rfl rfl rfl rfl rfl rfl rfl rfl)
    | dsimp only [id]

theorem noteStarved_keeps {x0 x1} (h : Keeps q s0 s) : Keeps q s0 (noteStarved x0 x1 s) := by
  unfold noteStarved
  try dsimp only
  repeat' with_reducible first
    | assumption | apply raise_keeps | apply setTask_keeps
    | fail_if_no_progress (refine Keeps.upd ?_ rfl rfl rfl rfl rfl rfl rfl rfl rfl) | split | dsimp only [id]

theorem grazeLegEnd_keeps {x0} (h : Keeps q s0 s) : Keeps q s0 (grazeLegEnd x0 s) := by
  unfold grazeLegEnd
  try dsimp only
  repeat' with_reducible first
    | assumption | apply noteStarved_keeps | apply Keeps.foldl | split | dsimp only [id] | intro _ _ _ | intro _ _

/-! ## Tile -/

theorem noteMoving_keeps {x0 x1 x2} (h : Keeps q s0 s) : Keeps q s0 (noteMoving x0 x1 x2 s) := by
  unfold noteMoving
  try dsimp only
  repeat' with_reducible first
    | assumption | apply modOcc_keeps | apply Keeps.snd (by assumption) | apply Keeps.thd (by assumption) | split

theorem trapTag_keeps {x0} (h : Keeps q s0 s) : Keeps q s0 (trapTag x0 s).2 := by
  unfold trapTag
  try dsimp only
  repeat' with_reducible first
    | assumption | apply freeWord_keeps | apply Keeps.snd (by assumption) | apply Keeps.thd (by assumption) | split
    | dsimp only [id]

theorem trapAs_keeps {x0 x1 x2 x3 x4 x5 x6} (h : Keeps q s0 s) : Keeps q s0 (trapAs x0 x1 x2 x3 x4 x5 x6 s) := by
  unfold trapAs
  try dsimp only
  repeat' with_reducible first
    | assumption | apply tally_keeps | apply trapTag_keeps | apply requestHalt_keeps | apply modTile_keeps
    | fail_if_no_progress (refine Keeps.upd ?_ rfl rfl rfl rfl rfl rfl rfl rfl rfl) | apply Keeps.snd (by assumption)
    | apply Keeps.thd (by assumption) | split | dsimp only [id]

theorem trapHere_keeps {x0 x1 x2 x3 x4} (h : Keeps q s0 s) : Keeps q s0 (trapHere x0 x1 x2 x3 x4 s) := by
  unfold trapHere
  try dsimp only
  repeat' with_reducible first
    | assumption | apply trapAs_keeps | apply securityViolation_keeps | split | dsimp only [id]

theorem checkPc_keeps {x0} (h : Keeps q s0 s) : Keeps q s0 (checkPc x0 s) := by
  unfold checkPc
  try dsimp only
  repeat' with_reducible first
    | assumption | apply trapHere_keeps | split | dsimp only [id]

theorem jumpTo_keeps {x0 x1} (h : Keeps q s0 s) : Keeps q s0 (jumpTo x0 x1 s) := by
  unfold jumpTo
  try dsimp only
  repeat' with_reducible first
    | assumption | apply checkPc_keeps | apply modTile_keeps
    | fail_if_no_progress (refine Keeps.upd ?_ rfl rfl rfl rfl rfl rfl rfl rfl rfl)

theorem advance_keeps {x0} (h : Keeps q s0 s) : Keeps q s0 (advance x0 s) := by
  unfold advance
  try dsimp only
  repeat' with_reducible first
    | assumption | apply jumpTo_keeps | split | dsimp only [id]

theorem noteStagger_keeps {x0 x1} (h : Keeps q s0 s) : Keeps q s0 (noteStagger x0 x1 s) := by
  unfold noteStagger
  try dsimp only
  repeat' with_reducible first
    | assumption | apply modOcc_keeps | apply Keeps.snd (by assumption) | apply Keeps.thd (by assumption) | split
    | dsimp only [id]

theorem releasePoint_keeps {x0} (h : Keeps q s0 s) : Keeps q s0 (releasePoint x0 s) := by
  unfold releasePoint
  try dsimp only
  repeat' with_reducible first
    | assumption | apply modTile_keeps | apply noteStagger_keeps
    | fail_if_no_progress (refine Keeps.upd ?_ rfl rfl rfl rfl rfl rfl rfl rfl rfl) | apply Keeps.foldl | dsimp only [id]
    | intro _ _ _ | intro _ _

theorem issue_keeps {x0 x1 x2 x3} {run : State → State} (hr : ∀ t, Keeps q s0 t → Keeps q s0 (run t)) (h : Keeps q s0 s) :
    KeepsRes q s0 (issue x0 x1 x2 x3 run s) := by
  unfold issue
  apply onUnit_keeps
  dsimp only
  split
  · split
    · exact hr s h
    · exact trapHere_keeps h
  · exact h

theorem noteNans_keeps {x0 x1 x2 x3 x4 x5 x6} (h : Keeps q s0 s) : Keeps q s0 (noteNans x0 x1 x2 x3 x4 x5 x6 s) := by
  unfold noteNans
  try dsimp only
  repeat' with_reducible first
    | assumption | apply tallyBy_keeps | apply trapTag_keeps | apply raise_keeps | apply trapAs_keeps
    | apply answerClaims_keeps | apply Keeps.snd (by assumption) | apply Keeps.thd (by assumption) | split | dsimp only [id]

theorem orFlags_keeps {x0 x1} (h : Keeps q s0 s) : Keeps q s0 (orFlags x0 x1 s) := by
  unfold orFlags
  try dsimp only
  repeat' with_reducible first
    | assumption | apply modTile_keeps | fail_if_no_progress (refine Keeps.upd ?_ rfl rfl rfl rfl rfl rfl rfl rfl rfl)

theorem issueNext_keeps {x0 x1 x2 x3} {run : State → State} (hr : ∀ t, Keeps q s0 t → Keeps q s0 (run t)) (h : Keeps q s0 s) :
    KeepsRes q s0 (issueNext x0 x1 x2 x3 run s) :=
  issue_keeps (fun t ht => advance_keeps (hr t ht)) h

/-! ## Flags -/

theorem tapValues_keeps {x0 x1} (h : Keeps q s0 s) : Keeps q s0 (tapValues x0 x1 s).2 := by
  induction x1 generalizing s x0 with
  | nil =>
    unfold tapValues
    try dsimp only
    repeat' with_reducible first
      | assumption | apply freeWord_keeps | apply Keeps.snd (by assumption) | apply Keeps.thd (by assumption) | split
      | dsimp only [id]
  | cons _ _ ih =>
    unfold tapValues
    try dsimp only
    repeat' with_reducible first
      | assumption | apply ih | apply freeWord_keeps | apply Keeps.snd (by assumption) | apply Keeps.thd (by assumption)
      | split | dsimp only [id]

theorem retireVec_keeps {x0 x1 x2} (h : Keeps q s0 s) : Keeps q s0 (retireVec x0 x1 x2 s) := by
  unfold retireVec
  try dsimp only
  repeat' with_reducible first
    | assumption | apply tapValues_keeps | apply modTile_keeps | apply noteNans_keeps | apply Keeps.snd (by assumption)
    | apply Keeps.thd (by assumption) | split | dsimp only [id]

theorem vecOp_keeps {x0 x1 x2} (h : Keeps q s0 s) : Keeps q s0 (vecOp x0 x1 x2 s) := by
  unfold vecOp
  try dsimp only
  repeat' with_reducible first
    | assumption | apply retireVec_keeps

/-! ## Legs -/

theorem wakeLeg_keeps {x0 x1 x2} (h : Keeps q s0 s) : Keeps q s0 (wakeLeg x0 x1 x2 s) := by
  unfold wakeLeg
  try dsimp only
  repeat' with_reducible first
    | assumption | apply advance_keeps | apply releasePoint_keeps | apply modTile_keeps
    | fail_if_no_progress (refine Keeps.upd ?_ rfl rfl rfl rfl rfl rfl rfl rfl rfl)

theorem trapLegWait_keeps {x0} (h : Keeps q s0 s) : Keeps q s0 (trapLegWait x0 s) := by
  unfold trapLegWait
  try dsimp only
  repeat' with_reducible first
    | assumption | apply trapHere_keeps

theorem trapMissingLegs_keeps (h : Keeps q s0 s) : Keeps q s0 (trapMissingLegs s) := by
  unfold trapMissingLegs
  try dsimp only
  repeat' with_reducible first
    | assumption | apply trapLegWait_keeps | apply Keeps.foldl | apply Keeps.snd (by assumption)
    | apply Keeps.thd (by assumption) | split | dsimp only [id] | intro _ _ _ | intro _ _

theorem seekLeg_keeps {x0 x1 x2} (h : Keeps q s0 s) : Keeps q s0 (seekLeg x0 x1 x2 s) := by
  unfold seekLeg
  try dsimp only
  repeat' with_reducible first
    | assumption | apply modTile_keeps | apply wakeLeg_keeps | apply trapLegWait_keeps
    | fail_if_no_progress (refine Keeps.upd ?_ rfl rfl rfl rfl rfl rfl rfl rfl rfl) | apply Keeps.snd (by assumption)
    | apply Keeps.thd (by assumption) | split | dsimp only [id]

theorem setHurdle_keeps {x0 x1 x2} (h : Keeps q s0 s) : Keeps q s0 (setHurdle x0 x1 x2 s) := by
  unfold setHurdle
  try dsimp only
  repeat' with_reducible first
    | assumption | fail_if_no_progress (refine Keeps.upd ?_ rfl rfl rfl rfl rfl rfl rfl rfl rfl)

theorem hurdleFull_keeps {x0 x1 x2} (h : Keeps q s0 s) : Keeps q s0 (hurdleFull x0 x1 x2 s) := by
  unfold hurdleFull
  try dsimp only
  repeat' with_reducible first
    | assumption | apply sendDown_keeps | apply setHurdle_keeps | apply sendUp_keeps
    | fail_if_no_progress (refine Keeps.upd ?_ rfl rfl rfl rfl rfl rfl rfl rfl rfl) | split | dsimp only [id]

theorem arriveHurdle_keeps {x0 x1} (h : Keeps q s0 s) : Keeps q s0 (arriveHurdle x0 x1 s) := by
  unfold arriveHurdle
  try dsimp only
  repeat' with_reducible first
    | assumption | apply trapHere_keeps | apply modTile_keeps | apply modOcc_keeps | apply hurdleFull_keeps
    | apply setHurdle_keeps | fail_if_no_progress (refine Keeps.upd ?_ rfl rfl rfl rfl rfl rfl rfl rfl rfl)
    | apply Keeps.snd (by assumption) | apply Keeps.thd (by assumption) | split | dsimp only [id]

theorem releaseHurdle_keeps {x0 x1} (h : Keeps q s0 s) : Keeps q s0 (releaseHurdle x0 x1 s) := by
  unfold releaseHurdle
  try dsimp only
  repeat' with_reducible first
    | assumption | apply openGate_keeps | apply setHurdle_keeps | apply advance_keeps | apply releasePoint_keeps
    | apply modTile_keeps | fail_if_no_progress (refine Keeps.upd ?_ rfl rfl rfl rfl rfl rfl rfl rfl rfl)
    | apply Keeps.foldl | apply Keeps.snd (by assumption) | apply Keeps.thd (by assumption) | split | dsimp only [id]
    | intro _ _ _ | intro _ _

theorem wakeForLeg_keeps {x0} (h : Keeps q s0 s) : Keeps q s0 (wakeForLeg x0 s) := by
  unfold wakeForLeg
  try dsimp only
  repeat' with_reducible first
    | assumption | apply wakeLeg_keeps | apply Keeps.foldl | apply Keeps.snd (by assumption)
    | apply Keeps.thd (by assumption) | split | dsimp only [id] | intro _ _ _ | intro _ _

/-! ## Claims -/

theorem scanFuel_keeps {x0 x1 x2} (h : Keeps q s0 s) : Keeps q s0 (scanFuel x0 x1 x2 s) := by
  induction x2 generalizing s x0 x1 with
  | zero =>
    unfold scanFuel
    try dsimp only
    repeat' with_reducible first
      | assumption | apply hqRead_keeps | fail_if_no_progress (refine Keeps.upd ?_ rfl rfl rfl rfl rfl rfl rfl rfl rfl)
      | apply Keeps.snd (by assumption) | apply Keeps.thd (by assumption) | split | dsimp only [id]
  | succ _ ih =>
    unfold scanFuel
    try dsimp only
    repeat' with_reducible first
      | assumption | apply ih | apply hqRead_keeps
      | fail_if_no_progress (refine Keeps.upd ?_ rfl rfl rfl rfl rfl rfl rfl rfl rfl) | apply Keeps.snd (by assumption)
      | apply Keeps.thd (by assumption) | split | dsimp only [id]

theorem scanRing_keeps {x0 x1} (h : Keeps q s0 s) : Keeps q s0 (scanRing x0 x1 s) := by
  unfold scanRing
  try dsimp only
  repeat' with_reducible first
    | assumption | apply scanFuel_keeps | apply Keeps.snd (by assumption) | apply Keeps.thd (by assumption) | split

theorem modEntry_keeps {x0 x1 x2} (h : Keeps q s0 s) : Keeps q s0 (modEntry x0 x1 x2 s) := by
  unfold modEntry
  try dsimp only
  repeat' with_reducible first
    | assumption | fail_if_no_progress (refine Keeps.upd ?_ rfl rfl rfl rfl rfl rfl rfl rfl rfl) | split

theorem writeClaims_keeps {x0 x1} (h : Keeps q s0 s) : Keeps q s0 (writeClaims x0 x1 s) := by
  unfold writeClaims
  try dsimp only
  repeat' with_reducible first
    | assumption | apply modLogical_keeps | fail_if_no_progress (refine Keeps.upd ?_ rfl rfl rfl rfl rfl rfl rfl rfl rfl)
    | apply Keeps.foldl | split | dsimp only [id] | intro _ _ _ | intro _ _

theorem checkSample_keeps {x1} {acc : List RingEnt × State} (h : Keeps q s0 acc.2) : Keeps q s0 (checkSample acc x1).2 := by
  unfold checkSample
  dsimp only
  split
  · exact h
  · split
    · exact dropEntry_keeps (freeSlot_keeps (hqRead_keeps h))
    · exact hqRead_keeps h

theorem claimSamples_keeps {x0} (h : Keeps q s0 s) : Keeps q s0 (claimSamples x0 s) := by
  unfold claimSamples
  try dsimp only
  repeat' with_reducible first
    | assumption | apply scanRing_keeps | apply checkSample_keeps | apply modEntry_keeps | apply writeClaims_keeps
    | fail_if_no_progress (refine Keeps.upd ?_ rfl rfl rfl rfl rfl rfl rfl rfl rfl) | apply Keeps.foldl | apply Keeps.foldl2
    | apply Keeps.foldl3 | apply Keeps.foldl4 | apply Keeps.snd (by assumption) | apply Keeps.thd (by assumption) | split
    | dsimp only [id] | intro _ _ _ | intro _ _

theorem checkRequest_keeps {x0 x1 x2 x3} (h : Keeps q s0 s) : Keeps q s0 (checkRequest x0 x1 x2 x3 s).2 := by
  unfold checkRequest
  try dsimp only
  repeat' with_reducible first
    | assumption | apply hqRead_keeps | apply Keeps.snd (by assumption) | apply Keeps.thd (by assumption) | split
    | dsimp only [id]

theorem claimRequest_keeps {x0 x1 x2} (h : Keeps q s0 s) : Keeps q s0 (claimRequest x0 x1 x2 s).2 := by
  unfold claimRequest
  try dsimp only
  repeat' with_reducible first
    | assumption | apply hqRead_keeps | apply checkRequest_keeps | apply modEntry_keeps | apply dropEntry_keeps
    | apply freeSlot_keeps | apply tally_keeps | apply answer_keeps
    | fail_if_no_progress (refine Keeps.upd ?_ rfl rfl rfl rfl rfl rfl rfl rfl rfl) | apply Keeps.snd (by assumption)
    | apply Keeps.thd (by assumption) | split | dsimp only [id]

theorem markLimited_keeps {x0} (h : Keeps q s0 s) : Keeps q s0 (markLimited x0 s) := by
  unfold markLimited
  try dsimp only
  repeat' with_reducible first
    | assumption | fail_if_no_progress (refine Keeps.upd ?_ rfl rfl rfl rfl rfl rfl rfl rfl rfl) | split | dsimp only [id]

theorem setDue_keeps {x0} (h : Keeps q s0 s) : Keeps q s0 (setDue x0 s) := by
  unfold setDue
  try dsimp only
  repeat' with_reducible first
    | assumption | fail_if_no_progress (refine Keeps.upd ?_ rfl rfl rfl rfl rfl rfl rfl rfl rfl) | split | dsimp only [id]

theorem claimRequests_keeps {x0} (h : Keeps q s0 s) : Keeps q s0 (claimRequests x0 s) := by
  unfold claimRequests
  try dsimp only
  repeat' with_reducible first
    | assumption | apply setDue_keeps | apply scanRing_keeps | apply claimRequest_keeps | apply writeClaims_keeps
    | apply markLimited_keeps | apply Keeps.foldl | apply Keeps.foldl2 | apply Keeps.foldl3 | apply Keeps.foldl4
    | apply Keeps.snd (by assumption) | apply Keeps.thd (by assumption) | split | dsimp only [id] | intro _ _ _ | intro _ _

end Sys2Proof.Machine
end

