-- ==== Sys2Proof/Laws/KeepsRows.lean ====
section
/-! SUPPORT. What the row units, the exchange, the commits and the telemetry keep. -/

set_option linter.unusedTactic false
set_option linter.unreachableTactic false
set_option linter.unusedVariables false

namespace Sys2Proof.Machine

variable {q : Bool} {s0 s : State}

/-! ## Rows -/

theorem noteLastErr_keeps {x0 x1 x2 x3 x4} (h : Keeps q s0 s) : Keeps q s0 (noteLastErr x0 x1 x2 x3 x4 s) := by
  unfold noteLastErr
  try dsimp only
  repeat' with_reducible first
    | assumption | fail_if_no_progress (refine Keeps.upd ?_ rfl rfl rfl rfl rfl rfl rfl rfl rfl)

theorem structPoison_keeps {x0 x1} (h : Keeps q s0 s) : Keeps q s0 (structPoison x0 x1 s) := by
  unfold structPoison
  try dsimp only
  repeat' with_reducible first
    | assumption | apply noteLastErr_keeps | apply requestHalt_keeps | apply raise_keeps | apply Keeps.snd (by assumption)
    | apply Keeps.thd (by assumption) | split | dsimp only [id]

theorem putMem_keeps {x0 x1} (h : Keeps q s0 s) : Keeps q s0 (putMem x0 x1 s) := by
  unfold putMem
  try dsimp only
  repeat' with_reducible first
    | assumption | apply requestHalt_keeps
    | refine Keeps.updMem ?_ rfl rfl rfl rfl (fun h => memWrite_wf _ _ (by repeat first | exact h | refine memWrite_wf _ _ ?_))
    | fail_if_no_progress (refine Keeps.upd ?_ rfl rfl rfl rfl rfl rfl rfl rfl rfl) | split

theorem setRu_keeps {x0 x1} (h : Keeps q s0 s) : Keeps q s0 (setRu x0 x1 s) := by
  unfold setRu
  try dsimp only
  repeat' with_reducible first
    | assumption | fail_if_no_progress (refine Keeps.upd ?_ rfl rfl rfl rfl rfl rfl rfl rfl rfl)

theorem modRu_keeps {x0 x1} (h : Keeps q s0 s) : Keeps q s0 (modRu x0 x1 s) := by
  unfold modRu
  try dsimp only
  repeat' with_reducible first
    | assumption | apply setRu_keeps

theorem acceptGrad_keeps {x0} (h : Keeps q s0 s) : Keeps q s0 (acceptGrad x0 s) := by
  unfold acceptGrad
  try dsimp only
  repeat' with_reducible first
    | assumption | fail_if_no_progress (refine Keeps.upd ?_ rfl rfl rfl rfl rfl rfl rfl rfl rfl) | split | dsimp only [id]

theorem intoQueue_keeps {x0 x1} (h : Keeps q s0 s) : Keeps q s0 (intoQueue x0 x1 s) := by
  unfold intoQueue
  try dsimp only
  repeat' with_reducible first
    | assumption | apply acceptGrad_keeps | apply modRu_keeps
    | fail_if_no_progress (refine Keeps.upd ?_ rfl rfl rfl rfl rfl rfl rfl rfl rfl) | dsimp only [id]

theorem enqueueOp_keeps {x0 x1} (h : Keeps q s0 s) : Keeps q s0 (enqueueOp x0 x1 s) := by
  unfold enqueueOp
  try dsimp only
  repeat' with_reducible first
    | assumption | apply intoQueue_keeps | apply modRu_keeps
    | fail_if_no_progress (refine Keeps.upd ?_ rfl rfl rfl rfl rfl rfl rfl rfl rfl) | split | dsimp only [id]

theorem setTag_keeps {x0 x1 x2 x3 x4} (h : Keeps q s0 s) : Keeps q s0 (setTag x0 x1 x2 x3 x4 s) := by
  unfold setTag
  try dsimp only
  repeat' with_reducible first
    | assumption | apply putMem_keeps

theorem setRefOff_keeps {x0 x1 x2 x3} (h : Keeps q s0 s) : Keeps q s0 (setRefOff x0 x1 x2 x3 s) := by
  unfold setRefOff
  try dsimp only
  repeat' with_reducible first
    | assumption | apply setTag_keeps | split | dsimp only [id]

theorem clockHand_keeps {x0 x1 x2 x3 x4 x5 x6} (h : Keeps q s0 s) : Keeps q s0 (clockHand x0 x1 x2 x3 x4 x5 x6 s).2 := by
  induction x5 generalizing s x0 x1 x2 x3 x4 x6 with
  | zero =>
    unfold clockHand
    try dsimp only
    repeat' with_reducible first
      | assumption | apply putMem_keeps | apply setRefOff_keeps | split | dsimp only [id]
  | succ _ ih =>
    unfold clockHand
    try dsimp only
    repeat' with_reducible first
      | assumption | apply ih | apply putMem_keeps | apply setRefOff_keeps | split | dsimp only [id]

theorem choosePromote_keeps {x0 x1 x2} (h : Keeps q s0 s) : Keeps q s0 (choosePromote x0 x1 x2 s) := by
  unfold choosePromote
  try dsimp only
  repeat' with_reducible first
    | assumption | apply clockHand_keeps | apply tally_keeps | apply enqueueOp_keeps
    | fail_if_no_progress (refine Keeps.upd ?_ rfl rfl rfl rfl rfl rfl rfl rfl rfl) | apply Keeps.snd (by assumption)
    | apply Keeps.thd (by assumption) | split | dsimp only [id]

theorem tryPromote_keeps {x0 x1 x2} (h : Keeps q s0 s) : Keeps q s0 (tryPromote x0 x1 x2 s) := by
  unfold tryPromote
  try dsimp only
  repeat' with_reducible first
    | assumption | apply modRu_keeps | apply choosePromote_keeps
    | fail_if_no_progress (refine Keeps.upd ?_ rfl rfl rfl rfl rfl rfl rfl rfl rfl) | split

theorem firstOnDie_keeps {x0 x1} {f : State → State} (hf : ∀ t, Keeps q s0 t → Keeps q s0 (f t)) (h : Keeps q s0 s) :
    Keeps q s0 (firstOnDie x0 x1 f s) := by
  unfold firstOnDie
  dsimp only
  split
  · exact h
  · exact hf _ (setRu_keeps h)

theorem notePoisoned_keeps {x0 x1 x2} (h : Keeps q s0 s) : Keeps q s0 (notePoisoned x0 x1 x2 s) := by
  unfold notePoisoned
  try dsimp only
  repeat' with_reducible first
    | assumption | apply firstOnDie_keeps | apply raise_keeps | apply tally_keeps | dsimp only [id] | intro _ _

theorem noteTorn_keeps {x0 x1} (h : Keeps q s0 s) : Keeps q s0 (noteTorn x0 x1 s) := by
  unfold noteTorn
  try dsimp only
  repeat' with_reducible first
    | assumption | apply modRu_keeps | apply tally_keeps | apply firstOnDie_keeps | apply raise_keeps
    | fail_if_no_progress (refine Keeps.upd ?_ rfl rfl rfl rfl rfl rfl rfl rfl rfl) | dsimp only [id] | intro _ _

theorem readRecord_keeps {x0 x1 x2 x3} (h : Keeps q s0 s) : Keeps q s0 (readRecord x0 x1 x2 x3 s).2.2 := by
  unfold readRecord
  try dsimp only
  repeat' with_reducible first
    | assumption | apply requestHalt_keeps | apply notePoisoned_keeps | apply noteTorn_keeps
    | apply Keeps.snd (by assumption) | apply Keeps.thd (by assumption) | split | dsimp only [id]

theorem doWrites_keeps {x0} (h : Keeps q s0 s) : Keeps q s0 (doWrites x0 s) := by
  unfold doWrites
  try dsimp only
  repeat' with_reducible first
    | assumption | apply putMem_keeps | apply Keeps.foldl | dsimp only [id] | intro _ _ _ | intro _ _

theorem ringWrite_keeps {x0 x1 x2 x3} (h : Keeps q s0 s) : Keeps q s0 (ringWrite x0 x1 x2 x3 s) := by
  induction x1 generalizing s x0 x2 x3 with
  | zero =>
    unfold ringWrite
    try dsimp only
    repeat' with_reducible first
      | assumption | apply putMem_keeps | split
  | succ _ ih =>
    unfold ringWrite
    try dsimp only
    repeat' with_reducible first
      | assumption | apply ih | apply putMem_keeps | split

theorem ringPut_keeps {x0 x1 x2} (h : Keeps q s0 s) : Keeps q s0 (ringPut x0 x1 x2 s) := by
  unfold ringPut
  try dsimp only
  repeat' with_reducible first
    | assumption | apply ringWrite_keeps

theorem admitInput_keeps {x0 x1} (h : Keeps q s0 s) : Keeps q s0 (admitInput x0 x1 s) := by
  unfold admitInput
  try dsimp only
  repeat' with_reducible first
    | assumption | apply intoQueue_keeps | apply tallyBy_keeps | apply setRu_keeps
    | fail_if_no_progress (refine Keeps.upd ?_ rfl rfl rfl rfl rfl rfl rfl rfl rfl) | apply Keeps.snd (by assumption)
    | apply Keeps.thd (by assumption) | split | dsimp only [id]

theorem dropOp_keeps {x0 x1 x2} (h : Keeps q s0 s) : Keeps q s0 (dropOp x0 x1 x2 s) := by
  unfold dropOp
  try dsimp only
  repeat' with_reducible first
    | assumption | apply admitInput_keeps | apply modRu_keeps
    | fail_if_no_progress (refine Keeps.upd ?_ rfl rfl rfl rfl rfl rfl rfl rfl rfl)

theorem hitRef_keeps {x0 x1 x2 x3} (h : Keeps q s0 s) : Keeps q s0 (hitRef x0 x1 x2 x3 s) := by
  unfold hitRef
  try dsimp only
  repeat' with_reducible first
    | assumption | apply setTag_keeps | apply Keeps.snd (by assumption) | apply Keeps.thd (by assumption) | split
    | dsimp only [id]

theorem setDirty_keeps {x0 x1 x2 x3} (h : Keeps q s0 s) : Keeps q s0 (setDirty x0 x1 x2 x3 s) := by
  unfold setDirty
  try dsimp only
  repeat' with_reducible first
    | assumption | apply setTag_keeps | split | dsimp only [id]

theorem markPoisoned_keeps {x0 x1 x2 x3 x4} (h : Keeps q s0 s) : Keeps q s0 (markPoisoned x0 x1 x2 x3 x4 s) := by
  unfold markPoisoned
  try dsimp only
  repeat' with_reducible first
    | assumption | apply doWrites_keeps | apply setDirty_keeps | apply Keeps.snd (by assumption)
    | apply Keeps.thd (by assumption) | split | dsimp only [id]

theorem touchAccess_keeps {x0 x1 x2 x3 x4 x5} (h : Keeps q s0 s) : Keeps q s0 (touchAccess x0 x1 x2 x3 x4 x5 s) := by
  unfold touchAccess
  try dsimp only
  repeat' with_reducible first
    | assumption | apply putMem_keeps | apply tryPromote_keeps | apply Keeps.snd (by assumption)
    | apply Keeps.thd (by assumption) | split | dsimp only [id]

theorem readRow_keeps {x0 x1 x2} (h : Keeps q s0 s) : Keeps q s0 (readRow x0 x1 x2 s).2 := by
  unfold readRow
  try dsimp only
  repeat' with_reducible first
    | assumption | apply structPoison_keeps | apply readRecord_keeps | apply hitRef_keeps | apply markPoisoned_keeps
    | apply touchAccess_keeps | apply Keeps.snd (by assumption) | apply Keeps.thd (by assumption) | split | dsimp only [id]

theorem addElems_keeps {x0 x1 x2} (h : Keeps q s0 s) : Keeps q s0 (addElems x0 x1 x2 s) := by
  unfold addElems
  try dsimp only
  repeat' with_reducible first
    | assumption | apply putMem_keeps | apply Keeps.foldl | dsimp only [id] | intro _ _ _ | intro _ _

/-! ## Stream -/

theorem voidSnapshot_keeps {x0 x1} (h : Keeps q s0 s) : Keeps q s0 (voidSnapshot x0 x1 s) := by
  unfold voidSnapshot
  try dsimp only
  repeat' with_reducible first
    | assumption | apply raise_keeps | apply freeWord_keeps | apply finishStarted_keeps
    | fail_if_no_progress (refine Keeps.upd ?_ rfl rfl rfl rfl rfl rfl rfl rfl rfl) | apply Keeps.snd (by assumption)
    | apply Keeps.thd (by assumption) | split | dsimp only [id]

theorem pumpStream_keeps (h : Keeps q s0 s) : Keeps q s0 (pumpStream s) := by
  unfold pumpStream
  try dsimp only
  repeat' with_reducible first
    | assumption | apply voidSnapshot_keeps | apply emit_keeps
    | fail_if_no_progress (refine Keeps.upd ?_ rfl rfl rfl rfl rfl rfl rfl rfl rfl) | apply Keeps.foldl | apply Keeps.foldl2
    | apply Keeps.foldl3 | apply Keeps.foldl4 | apply Keeps.snd (by assumption) | apply Keeps.thd (by assumption) | split
    | dsimp only [id] | intro _ _ _ | intro _ _

/-! ## Exch -/

theorem pruneEx_keeps (h : Keeps q s0 s) : Keeps q s0 (pruneEx s) := by
  unfold pruneEx
  try dsimp only
  repeat' with_reducible first
    | assumption | fail_if_no_progress (refine Keeps.upd ?_ rfl rfl rfl rfl rfl rfl rfl rfl rfl) | dsimp only [id]

theorem launch_keeps {x0} (h : Keeps q s0 s) : Keeps q s0 (launch x0 s) := by
  unfold launch
  try dsimp only
  repeat' with_reducible first
    | assumption | apply route_keeps | fail_if_no_progress (refine Keeps.upd ?_ rfl rfl rfl rfl rfl rfl rfl rfl rfl) | split
    | dsimp only [id]

theorem sendWindowed_keeps {x0} (h : Keeps q s0 s) : Keeps q s0 (sendWindowed x0 s) := by
  unfold sendWindowed
  try dsimp only
  repeat' with_reducible first
    | assumption | apply route_keeps | apply launch_keeps
    | fail_if_no_progress (refine Keeps.upd ?_ rfl rfl rfl rfl rfl rfl rfl rfl rfl) | apply Keeps.snd (by assumption)
    | apply Keeps.thd (by assumption) | split | dsimp only [id]

theorem setSeq_keeps {x0 x1 x2 x3} (h : Keeps q s0 s) : Keeps q s0 (setSeq x0 x1 x2 x3 s) := by
  unfold setSeq
  try dsimp only
  repeat' with_reducible first
    | assumption | fail_if_no_progress (refine Keeps.upd ?_ rfl rfl rfl rfl rfl rfl rfl rfl rfl)

theorem sendIdxFuel_keeps {x0 x1 x2 x3} (h : Keeps q s0 s) : Keeps q s0 (sendIdxFuel x0 x1 x2 x3 s) := by
  induction x2 generalizing s x0 x1 x3 with
  | zero =>
    unfold sendIdxFuel
    try dsimp only
    repeat' with_reducible first
      | assumption | apply setSeq_keeps | apply sendWindowed_keeps
      | fail_if_no_progress (refine Keeps.upd ?_ rfl rfl rfl rfl rfl rfl rfl rfl rfl) | split | dsimp only [id]
  | succ _ ih =>
    unfold sendIdxFuel
    try dsimp only
    repeat' with_reducible first
      | assumption | apply ih | apply setSeq_keeps | apply sendWindowed_keeps
      | fail_if_no_progress (refine Keeps.upd ?_ rfl rfl rfl rfl rfl rfl rfl rfl rfl) | split | dsimp only [id]

theorem sendBatch_keeps {x0} (h : Keeps q s0 s) : Keeps q s0 (sendBatch x0 s) := by
  unfold sendBatch
  try dsimp only
  repeat' with_reducible first
    | assumption | apply enqueueOp_keeps | apply sendIdxFuel_keeps | apply Keeps.foldl | split | dsimp only [id]
    | intro _ _ _ | intro _ _

theorem modBatch_keeps {x0 x1} (h : Keeps q s0 s) : Keeps q s0 (modBatch x0 x1 s) := by
  unfold modBatch
  try dsimp only
  repeat' with_reducible first
    | assumption | fail_if_no_progress (refine Keeps.upd ?_ rfl rfl rfl rfl rfl rfl rfl rfl rfl) | split

theorem sendGrad_keeps {x0 x1 x2 x3 x4 x5} (h : Keeps q s0 s) : Keeps q s0 (sendGrad x0 x1 x2 x3 x4 x5 s) := by
  unfold sendGrad
  try dsimp only
  repeat' with_reducible first
    | assumption | apply enqueueOp_keeps | apply sendWindowed_keeps | apply Keeps.foldl | apply Keeps.foldl2
    | apply Keeps.foldl3 | apply Keeps.foldl4 | apply Keeps.snd (by assumption) | apply Keeps.thd (by assumption) | split
    | dsimp only [id] | intro _ _ _ | intro _ _

theorem releaseFuel_keeps {x0} (h : Keeps q s0 s) : Keeps q s0 (releaseFuel x0 s) := by
  induction x0 generalizing s  with
  | zero =>
    unfold releaseFuel
    try dsimp only
    repeat' with_reducible first
      | assumption | apply launch_keeps | fail_if_no_progress (refine Keeps.upd ?_ rfl rfl rfl rfl rfl rfl rfl rfl rfl)
      | apply Keeps.snd (by assumption) | apply Keeps.thd (by assumption) | split | dsimp only [id]
  | succ _ ih =>
    unfold releaseFuel
    try dsimp only
    repeat' with_reducible first
      | assumption | apply ih | apply launch_keeps
      | fail_if_no_progress (refine Keeps.upd ?_ rfl rfl rfl rfl rfl rfl rfl rfl rfl) | apply Keeps.snd (by assumption)
      | apply Keeps.thd (by assumption) | split | dsimp only [id]

theorem releaseWindows_keeps (h : Keeps q s0 s) : Keeps q s0 (releaseWindows s) := by
  unfold releaseWindows
  try dsimp only
  repeat' with_reducible first
    | assumption | apply releaseFuel_keeps

theorem gotRow_keeps {x0 x1 x2 x3 x4} (h : Keeps q s0 s) : Keeps q s0 (gotRow x0 x1 x2 x3 x4 s) := by
  unfold gotRow
  try dsimp only
  repeat' with_reducible first
    | assumption | apply modBatch_keeps | fail_if_no_progress (refine Keeps.upd ?_ rfl rfl rfl rfl rfl rfl rfl rfl rfl)
    | apply Keeps.snd (by assumption) | apply Keeps.thd (by assumption) | split | dsimp only [id]

theorem gotWhole_keeps {x0 x1 x2 x3} (h : Keeps q s0 s) : Keeps q s0 (gotWhole x0 x1 x2 x3 s) := by
  unfold gotWhole
  try dsimp only
  repeat' with_reducible first
    | assumption | apply modBatch_keeps | fail_if_no_progress (refine Keeps.upd ?_ rfl rfl rfl rfl rfl rfl rfl rfl rfl)
    | apply Keeps.snd (by assumption) | apply Keeps.thd (by assumption) | split | dsimp only [id]

theorem sendOpenRow_keeps {x0} (h : Keeps q s0 s) : Keeps q s0 (sendOpenRow x0 s) := by
  unfold sendOpenRow
  try dsimp only
  repeat' with_reducible first
    | assumption | apply route_keeps

theorem dropOpenRow_keeps {x0 x1} (h : Keeps q s0 s) : Keeps q s0 (dropOpenRow x0 x1 s) := by
  unfold dropOpenRow
  try dsimp only
  repeat' with_reducible first
    | assumption | fail_if_no_progress (refine Keeps.upd ?_ rfl rfl rfl rfl rfl rfl rfl rfl rfl)

theorem flushRow_keeps {x0 x1} (h : Keeps q s0 s) : Keeps q s0 (flushRow x0 x1 s) := by
  unfold flushRow
  try dsimp only
  repeat' with_reducible first
    | assumption | apply sendOpenRow_keeps | apply dropOpenRow_keeps | apply Keeps.snd (by assumption)
    | apply Keeps.thd (by assumption) | split

theorem sendWide_keeps {x0 x1 x2} (h : Keeps q s0 s) : Keeps q s0 (sendWide x0 x1 x2 s) := by
  unfold sendWide
  try dsimp only
  repeat' with_reducible first
    | assumption | apply route_keeps | apply Keeps.foldl | split | dsimp only [id] | intro _ _ _ | intro _ _

theorem returnRow_keeps {x0 x1 x2} (h : Keeps q s0 s) : Keeps q s0 (returnRow x0 x1 x2 s) := by
  unfold returnRow
  try dsimp only
  repeat' with_reducible first
    | assumption | apply sendWide_keeps | apply flushRow_keeps | apply dropOpenRow_keeps
    | fail_if_no_progress (refine Keeps.upd ?_ rfl rfl rfl rfl rfl rfl rfl rfl rfl) | apply Keeps.snd (by assumption)
    | apply Keeps.thd (by assumption) | split | dsimp only [id]

theorem completeRead_keeps {x0 x1 x2} (h : Keeps q s0 s) : Keeps q s0 (completeRead x0 x1 x2 s) := by
  unfold completeRead
  try dsimp only
  repeat' with_reducible first
    | assumption | apply gotWhole_keeps | apply returnRow_keeps | apply Keeps.snd (by assumption)
    | apply Keeps.thd (by assumption) | split | dsimp only [id]

theorem sendBulk_keeps {x0 x1 x2 x3} (h : Keeps q s0 s) : Keeps q s0 (sendBulk x0 x1 x2 x3 s) := by
  unfold sendBulk
  try dsimp only
  repeat' with_reducible first
    | assumption | apply originate_keeps | fail_if_no_progress (refine Keeps.upd ?_ rfl rfl rfl rfl rfl rfl rfl rfl rfl)
    | apply Keeps.foldl | split | dsimp only [id] | intro _ _ _ | intro _ _

theorem copyRow_keeps {x0 x1 x2 x3 x4 x5} (h : Keeps q s0 s) : Keeps q s0 (copyRow x0 x1 x2 x3 x4 x5 s) := by
  unfold copyRow
  try dsimp only
  repeat' with_reducible first
    | assumption | apply putMem_keeps | apply sendBulk_keeps | split | dsimp only [id]

/-! ## RowOps -/

theorem flipImages_keeps {x0} (h : Keeps q s0 s) : Keeps q s0 (flipImages x0 s) := by
  unfold flipImages
  try dsimp only
  repeat' with_reducible first
    | assumption | fail_if_no_progress (refine Keeps.upd ?_ rfl rfl rfl rfl rfl rfl rfl rfl rfl) | split

theorem saveRecord_keeps (h : Keeps q s0 s) : Keeps q s0 (saveRecord s) := by
  unfold saveRecord
  try dsimp only
  repeat' with_reducible first
    | assumption | fail_if_no_progress (refine Keeps.upd ?_ rfl rfl rfl rfl rfl rfl rfl rfl rfl) | split | dsimp only [id]

theorem walkTo_keeps {x0 x1} (h : Keeps q s0 s) : Keeps q s0 (walkTo x0 x1 s) := by
  unfold walkTo
  try dsimp only
  repeat' with_reducible first
    | assumption | apply enqueueOp_keeps | fail_if_no_progress (refine Keeps.upd ?_ rfl rfl rfl rfl rfl rfl rfl rfl rfl)
    | apply Keeps.snd (by assumption) | apply Keeps.thd (by assumption) | split

theorem copyNext_keeps {x0} (h : Keeps q s0 s) : Keeps q s0 (copyNext x0 s) := by
  unfold copyNext
  try dsimp only
  repeat' with_reducible first
    | assumption | apply enqueueOp_keeps | apply Keeps.snd (by assumption) | apply Keeps.thd (by assumption) | split
    | dsimp only [id]

theorem modHandover_keeps {x0 x1 x2} (h : Keeps q s0 s) : Keeps q s0 (modHandover x0 x1 x2 s) := by
  unfold modHandover
  try dsimp only
  repeat' with_reducible first
    | assumption | fail_if_no_progress (refine Keeps.upd ?_ rfl rfl rfl rfl rfl rfl rfl rfl rfl) | split

theorem releaseWays_keeps {x0 x1 x2 x3} (h : Keeps q s0 s) : Keeps q s0 (releaseWays x0 x1 x2 x3 s) := by
  unfold releaseWays
  try dsimp only
  repeat' with_reducible first
    | assumption | apply setTag_keeps | apply Keeps.foldl | split | dsimp only [id] | intro _ _ _ | intro _ _

theorem siteNan_keeps {x0 x1 x2 x3} (h : Keeps q s0 s) : Keeps q s0 (siteNan x0 x1 x2 x3 s) := by
  unfold siteNan
  try dsimp only
  repeat' with_reducible first
    | assumption | apply tally_keeps | apply raise_keeps | apply requestHalt_keeps | split | dsimp only [id]

theorem startApplyDie_keeps {x0 x1 x2 x3} (h : Keeps q s0 s) : Keeps q s0 (startApplyDie x0 x1 x2 x3 s) := by
  unfold startApplyDie
  try dsimp only
  repeat' with_reducible first
    | assumption | apply setRu_keeps | apply enqueueOp_keeps
    | fail_if_no_progress (refine Keeps.upd ?_ rfl rfl rfl rfl rfl rfl rfl rfl rfl) | apply Keeps.foldl | split
    | dsimp only [id] | intro _ _ _ | intro _ _

theorem freeSamples_keeps {x0} (h : Keeps q s0 s) : Keeps q s0 (freeSamples x0 s) := by
  unfold freeSamples
  try dsimp only
  repeat' with_reducible first
    | assumption | apply dropEntry_keeps | apply freeSlot_keeps | apply Keeps.foldl | apply Keeps.snd (by assumption)
    | apply Keeps.thd (by assumption) | split | dsimp only [id] | intro _ _ _ | intro _ _

theorem demoteRow_keeps {x0 x1 x2 x3} (h : Keeps q s0 s) : Keeps q s0 (demoteRow x0 x1 x2 x3 s) := by
  unfold demoteRow
  try dsimp only
  repeat' with_reducible first
    | assumption | apply readRecord_keeps | apply setTag_keeps | apply putMem_keeps | apply doWrites_keeps
    | apply Keeps.snd (by assumption) | apply Keeps.thd (by assumption) | split | dsimp only [id]

theorem putPreImage_keeps {x0 x1 x2 x3} (h : Keeps q s0 s) : Keeps q s0 (putPreImage x0 x1 x2 x3 s) := by
  unfold putPreImage
  try dsimp only
  repeat' with_reducible first
    | assumption | apply ringPut_keeps | apply setRu_keeps
    | fail_if_no_progress (refine Keeps.upd ?_ rfl rfl rfl rfl rfl rfl rfl rfl rfl) | apply Keeps.snd (by assumption)
    | apply Keeps.thd (by assumption) | split | dsimp only [id]

theorem finishApply_keeps {x0 x1 x2 x3 x4 x5} (h : Keeps q s0 s) : Keeps q s0 (finishApply x0 x1 x2 x3 x4 x5 s) := by
  unfold finishApply
  try dsimp only
  repeat' with_reducible first
    | assumption | apply doWrites_keeps | apply putMem_keeps | apply copyRow_keeps | apply modRu_keeps
    | fail_if_no_progress (refine Keeps.upd ?_ rfl rfl rfl rfl rfl rfl rfl rfl rfl) | apply Keeps.snd (by assumption)
    | apply Keeps.thd (by assumption) | split | dsimp only [id]

theorem settleApply_keeps {x0 x1 x2 x3 x4 x5 x6} (h : Keeps q s0 s) : Keeps q s0 (settleApply x0 x1 x2 x3 x4 x5 x6 s) := by
  unfold settleApply
  try dsimp only
  repeat' with_reducible first
    | assumption | apply putPreImage_keeps | apply modRu_keeps | apply dropOp_keeps | apply finishApply_keeps
    | fail_if_no_progress (refine Keeps.upd ?_ rfl rfl rfl rfl rfl rfl rfl rfl rfl) | apply Keeps.snd (by assumption)
    | apply Keeps.thd (by assumption) | split | dsimp only [id]

theorem runRead_keeps {x0 x1 x2 x3} (h : Keeps q s0 s) : Keeps q s0 (runRead x0 x1 x2 x3 s) := by
  unfold runRead
  try dsimp only
  repeat' with_reducible first
    | assumption | apply readRow_keeps | apply dropOp_keeps | apply completeRead_keeps | apply Keeps.snd (by assumption)
    | apply Keeps.thd (by assumption) | split | dsimp only [id]

theorem execLookup_keeps {x0 x1 x2 x3} (h : Keeps q s0 s) : KeepsRes q s0 (execLookup x0 x1 x2 x3 s) := by
  unfold execLookup
  try dsimp only
  repeat' with_reducible first
    | assumption | apply runRead_keeps | apply atTime_keeps | apply onUnit_keeps | apply KeepsRes.next

theorem execServeRead_keeps {x0 x1 x2 x3} (h : Keeps q s0 s) : KeepsRes q s0 (execServeRead x0 x1 x2 x3 s) := by
  unfold execServeRead
  try dsimp only
  repeat' with_reducible first
    | assumption | apply runRead_keeps | apply atTime_keeps | apply onUnit_keeps | apply KeepsRes.next

theorem poolFull_keeps {x0 x1 x2} (h : Keeps q s0 s) : Keeps q s0 (poolFull x0 x1 x2 s) := by
  unfold poolFull
  try dsimp only
  repeat' with_reducible first
    | assumption | apply modRu_keeps | apply raise_keeps | apply requestHalt_keeps | apply requestSkipAs_keeps | split
    | dsimp only [id]

theorem addToSlot_keeps {x0 x1 x2 x3 x4} (h : Keeps q s0 s) : Keeps q s0 (addToSlot x0 x1 x2 x3 x4 s) := by
  unfold addToSlot
  try dsimp only
  repeat' with_reducible first
    | assumption | apply addElems_keeps | apply putMem_keeps | apply modRu_keeps | apply tableTally_keeps
    | fail_if_no_progress (refine Keeps.upd ?_ rfl rfl rfl rfl rfl rfl rfl rfl rfl) | apply Keeps.foldl | split
    | dsimp only [id] | intro _ _ _ | intro _ _

theorem firstTouch_keeps {x0 x1 x2} (h : Keeps q s0 s) : Keeps q s0 (firstTouch x0 x1 x2 s) := by
  unfold firstTouch
  try dsimp only
  repeat' with_reducible first
    | assumption | apply poolFull_keeps | apply setRu_keeps | apply putMem_keeps | apply addToSlot_keeps
    | fail_if_no_progress (refine Keeps.upd ?_ rfl rfl rfl rfl rfl rfl rfl rfl rfl) | split | dsimp only [id]

theorem accumulateOp_keeps {x0 x1 x2} (h : Keeps q s0 s) : Keeps q s0 (accumulateOp x0 x1 x2 s) := by
  unfold accumulateOp
  try dsimp only
  repeat' with_reducible first
    | assumption | apply tally_keeps | apply modRu_keeps | apply firstTouch_keeps | apply structPoison_keeps
    | apply addToSlot_keeps | apply Keeps.snd (by assumption) | apply Keeps.thd (by assumption) | split | dsimp only [id]

theorem execAccumulate_keeps {x0 x1 x2 x3} (h : Keeps q s0 s) : KeepsRes q s0 (execAccumulate x0 x1 x2 x3 s) := by
  unfold execAccumulate
  try dsimp only
  repeat' with_reducible first
    | assumption | apply atTime_keeps | apply accumulateOp_keeps | apply dropOp_keeps | apply onUnit_keeps
    | apply KeepsRes.next | apply Keeps.snd (by assumption) | apply Keeps.thd (by assumption) | split | dsimp only [id]

theorem markSeen_keeps {x0 x1} (h : Keeps q s0 s) : Keeps q s0 (markSeen x0 x1 s) := by
  unfold markSeen
  try dsimp only
  repeat' with_reducible first
    | assumption | apply modRu_keeps | fail_if_no_progress (refine Keeps.upd ?_ rfl rfl rfl rfl rfl rfl rfl rfl rfl)

theorem applyNan_keeps {x0 x1} (h : Keeps q s0 s) : Keeps q s0 (applyNan x0 x1 s) := by
  unfold applyNan
  try dsimp only
  repeat' with_reducible first
    | assumption | apply siteNan_keeps | apply markSeen_keeps | dsimp only [id]

theorem programRow_keeps {x0 x1 x2 x3 x4 x5} (h : Keeps q s0 s) : Keeps q s0 (programRow x0 x1 x2 x3 x4 x5 s).2 := by
  unfold programRow
  try dsimp only
  repeat' with_reducible first
    | assumption | apply tally_keeps | apply applyNan_keeps | apply Keeps.foldl | apply Keeps.snd (by assumption)
    | apply Keeps.thd (by assumption) | split | dsimp only [id] | intro _ _ _ | intro _ _

theorem saturated_keeps {x0 x1 x2 x3 x4} (h : Keeps q s0 s) : Keeps q s0 (saturated x0 x1 x2 x3 x4 s).2 := by
  unfold saturated
  try dsimp only
  repeat' with_reducible first
    | assumption | apply tally_keeps | apply firstOnDie_keeps | apply modRu_keeps | apply raise_keeps
    | fail_if_no_progress (refine Keeps.upd ?_ rfl rfl rfl rfl rfl rfl rfl rfl rfl) | dsimp only [id] | intro _ _

theorem applyEntry_keeps {x0 x1 x2 x3 x4} (h : Keeps q s0 s) : Keeps q s0 (applyEntry x0 x1 x2 x3 x4 s).2 := by
  unfold applyEntry
  try dsimp only
  repeat' with_reducible first
    | assumption | apply structPoison_keeps | apply readRecord_keeps | apply tally_keeps | apply freeWord_keeps
    | apply applyNan_keeps | apply saturated_keeps | apply programRow_keeps | apply Keeps.snd (by assumption)
    | apply Keeps.thd (by assumption) | split | dsimp only [id]

theorem repairEntry_keeps {x0 x1 x2 x3} (h : Keeps q s0 s) : Keeps q s0 (repairEntry x0 x1 x2 x3 s).2 := by
  unfold repairEntry
  try dsimp only
  repeat' with_reducible first
    | assumption | dsimp only [id]

theorem captureEarly_keeps {x0 x1 x2 x3} (h : Keeps q s0 s) : Keeps q s0 (captureEarly x0 x1 x2 x3 s) := by
  unfold captureEarly
  try dsimp only
  repeat' with_reducible first
    | assumption | fail_if_no_progress (refine Keeps.upd ?_ rfl rfl rfl rfl rfl rfl rfl rfl rfl)
    | apply Keeps.snd (by assumption) | apply Keeps.thd (by assumption) | split

theorem applyOp_keeps {x0 x1 x2 x3 x4} (h : Keeps q s0 s) : Keeps q s0 (applyOp x0 x1 x2 x3 x4 s) := by
  unfold applyOp
  try dsimp only
  repeat' with_reducible first
    | assumption | apply structPoison_keeps | apply pumpStream_keeps | apply captureEarly_keeps | apply hitRef_keeps
    | apply repairEntry_keeps | apply applyEntry_keeps | apply settleApply_keeps | apply Keeps.snd (by assumption)
    | apply Keeps.thd (by assumption) | split | dsimp only [id]

theorem execApply_keeps {x0 x1 x2 x3} (h : Keeps q s0 s) : KeepsRes q s0 (execApply x0 x1 x2 x3 s) := by
  unfold execApply
  try dsimp only
  repeat' with_reducible first
    | assumption | apply atTime_keeps | apply applyOp_keeps | apply onUnit_keeps | apply KeepsRes.next
    | apply Keeps.snd (by assumption) | apply Keeps.thd (by assumption) | split | dsimp only [id]

theorem finishEntry_keeps {x0 x1} (h : Keeps q s0 s) : Keeps q s0 (finishEntry x0 x1 s) := by
  unfold finishEntry
  try dsimp only
  repeat' with_reducible first
    | assumption | apply dropOp_keeps | apply finishApply_keeps | apply Keeps.snd (by assumption)
    | apply Keeps.thd (by assumption) | split | dsimp only [id]

theorem execRingIndexBlock_keeps {x0} (h : Keeps q s0 s) : KeepsRes q s0 (execRingIndexBlock x0 s) := by
  unfold execRingIndexBlock
  try dsimp only
  repeat' with_reducible first
    | assumption | apply ringPut_keeps | apply modRu_keeps | apply finishEntry_keeps | apply onUnit_keeps
    | apply KeepsRes.next | fail_if_no_progress (refine Keeps.upd ?_ rfl rfl rfl rfl rfl rfl rfl rfl rfl)
    | apply Keeps.foldl | apply Keeps.snd (by assumption) | apply Keeps.thd (by assumption) | split | dsimp only [id]
    | intro _ _ _ | intro _ _

theorem promoteRow_keeps {x0 x1 x2 x3} (h : Keeps q s0 s) : Keeps q s0 (promoteRow x0 x1 x2 x3 s) := by
  unfold promoteRow
  try dsimp only
  repeat' with_reducible first
    | assumption | apply readRecord_keeps | apply putMem_keeps | apply setTag_keeps | apply doWrites_keeps
    | apply Keeps.snd (by assumption) | apply Keeps.thd (by assumption) | split | dsimp only [id]

theorem issueMigrate_keeps {x0 x1} (h : Keeps q s0 s) : Keeps q s0 (issueMigrate x0 x1 s) := by
  unfold issueMigrate
  try dsimp only
  repeat' with_reducible first
    | assumption | apply modRu_keeps | apply enqueueOp_keeps
    | fail_if_no_progress (refine Keeps.upd ?_ rfl rfl rfl rfl rfl rfl rfl rfl rfl) | split

theorem runMigrate_keeps {x0 x1 x2} (h : Keeps q s0 s) : Keeps q s0 (runMigrate x0 x1 x2 s) := by
  unfold runMigrate
  try dsimp only
  repeat' with_reducible first
    | assumption | apply dropOp_keeps | apply structPoison_keeps | apply promoteRow_keeps | apply demoteRow_keeps
    | apply issueMigrate_keeps | apply Keeps.snd (by assumption) | apply Keeps.thd (by assumption) | split | dsimp only [id]

theorem execMigrate_keeps {x0 x1 x2 x3} (h : Keeps q s0 s) : KeepsRes q s0 (execMigrate x0 x1 x2 x3 s) := by
  unfold execMigrate
  try dsimp only
  repeat' with_reducible first
    | assumption | apply runMigrate_keeps | apply atTime_keeps | apply onUnit_keeps | apply KeepsRes.next

theorem exportRow_keeps {x0 x1 x2} (h : Keeps q s0 s) : Keeps q s0 (exportRow x0 x1 x2 s) := by
  unfold exportRow
  try dsimp only
  repeat' with_reducible first
    | assumption | apply readRecord_keeps | apply hitRef_keeps | apply structPoison_keeps | apply markPoisoned_keeps
    | apply pumpStream_keeps | apply walkTo_keeps
    | fail_if_no_progress (refine Keeps.upd ?_ rfl rfl rfl rfl rfl rfl rfl rfl rfl) | apply Keeps.snd (by assumption)
    | apply Keeps.thd (by assumption) | split | dsimp only [id]

theorem handoverRow_keeps {x0 x1 x2} (h : Keeps q s0 s) : Keeps q s0 (handoverRow x0 x1 x2 s) := by
  unfold handoverRow
  try dsimp only
  repeat' with_reducible first
    | assumption | apply readRecord_keeps | apply hitRef_keeps | apply markPoisoned_keeps | apply copyRow_keeps
    | apply copyNext_keeps | apply modHandover_keeps
    | fail_if_no_progress (refine Keeps.upd ?_ rfl rfl rfl rfl rfl rfl rfl rfl rfl) | apply Keeps.snd (by assumption)
    | apply Keeps.thd (by assumption) | split | dsimp only [id]

theorem execExportRow_keeps {x0 x1 x2 x3} (h : Keeps q s0 s) : KeepsRes q s0 (execExportRow x0 x1 x2 x3 s) := by
  unfold execExportRow
  try dsimp only
  repeat' with_reducible first
    | assumption | apply atTime_keeps | apply dropOp_keeps | apply exportRow_keeps | apply handoverRow_keeps
    | apply onUnit_keeps | apply KeepsRes.next | apply Keeps.snd (by assumption) | apply Keeps.thd (by assumption) | split
    | dsimp only [id]

/-! ## Dense -/

theorem modReturn_keeps {x0 x1 x2} (h : Keeps q s0 s) : Keeps q s0 (modReturn x0 x1 x2 s) := by
  unfold modReturn
  try dsimp only
  repeat' with_reducible first
    | assumption | fail_if_no_progress (refine Keeps.upd ?_ rfl rfl rfl rfl rfl rfl rfl rfl rfl) | split | dsimp only [id]

theorem stageOwn_keeps {x0} (h : Keeps q s0 s) : Keeps q s0 (stageOwn x0 s) := by
  unfold stageOwn
  try dsimp only
  repeat' with_reducible first
    | assumption | fail_if_no_progress (refine Keeps.upd ?_ rfl rfl rfl rfl rfl rfl rfl rfl rfl) | split

theorem sendDense_keeps {x0 x1 x2 x3 x4 x5 x6 x7 x8 x9 x10} (h : Keeps q s0 s) : Keeps q s0 (sendDense x0 x1 x2 x3 x4 x5 x6 x7 x8 x9 x10 s) := by
  unfold sendDense
  try dsimp only
  repeat' with_reducible first
    | assumption | apply sendWindowed_keeps | apply Keeps.foldl | dsimp only [id] | intro _ _ _ | intro _ _

theorem toNode_keeps {x0 x1 x2 x3 x4 x5 x6 x7 x8 x9 x10 x11} (h : Keeps q s0 s) : Keeps q s0 (toNode x0 x1 x2 x3 x4 x5 x6 x7 x8 x9 x10 x11 s) := by
  unfold toNode
  try dsimp only
  repeat' with_reducible first
    | assumption | apply stageOwn_keeps | apply sendDense_keeps | split | dsimp only [id]

theorem markNanSeen_keeps {x0} (h : Keeps q s0 s) : Keeps q s0 (markNanSeen x0 s) := by
  unfold markNanSeen
  try dsimp only
  repeat' with_reducible first
    | assumption | fail_if_no_progress (refine Keeps.upd ?_ rfl rfl rfl rfl rfl rfl rfl rfl rfl)

theorem denseNans_keeps {x0 x1 x2 x3 x4} (h : Keeps q s0 s) : Keeps q s0 (denseNans x0 x1 x2 x3 x4 s) := by
  unfold denseNans
  try dsimp only
  repeat' with_reducible first
    | assumption | apply siteNan_keeps | apply markNanSeen_keeps | apply Keeps.foldl | dsimp only [id] | intro _ _ _
    | intro _ _

theorem sliceWrite_keeps {x0 x1 x2 x3 x4 x5 x6} (h : Keeps q s0 s) : Keeps q s0 (sliceWrite x0 x1 x2 x3 x4 x5 x6 s) := by
  unfold sliceWrite
  try dsimp only
  repeat' with_reducible first
    | assumption | apply putMem_keeps | split | dsimp only [id]

theorem updateGroup_keeps {x0 x1 x2 x3 x4 x5 x6} (h : Keeps q s0 s) : Keeps q s0 (updateGroup x0 x1 x2 x3 x4 x5 x6 s).2 := by
  unfold updateGroup
  try dsimp only
  repeat' with_reducible first
    | assumption | apply requestHalt_keeps | apply structPoison_keeps | apply tally_keeps | apply denseNans_keeps
    | apply sliceWrite_keeps | apply Keeps.foldl | apply Keeps.snd (by assumption) | apply Keeps.thd (by assumption) | split
    | dsimp only [id] | intro _ _ _ | intro _ _

theorem writeGather_keeps {x0 x1 x2 x3 x4 x5} (h : Keeps q s0 s) : Keeps q s0 (writeGather x0 x1 x2 x3 x4 x5 s) := by
  unfold writeGather
  try dsimp only
  repeat' with_reducible first
    | assumption | apply sliceWrite_keeps | apply modReturn_keeps
    | fail_if_no_progress (refine Keeps.upd ?_ rfl rfl rfl rfl rfl rfl rfl rfl rfl) | split | dsimp only [id]

theorem gatherDown_keeps {x0 x1 x2 x3 x4 x5 x6 x7 x8} (h : Keeps q s0 s) : Keeps q s0 (gatherDown x0 x1 x2 x3 x4 x5 x6 x7 x8 s) := by
  induction x7 generalizing s x0 x1 x2 x3 x4 x5 x6 x8 with
  | zero =>
    unfold gatherDown
    try dsimp only
    repeat' with_reducible first
      | assumption | apply sendWindowed_keeps | apply writeGather_keeps | apply Keeps.foldl
      | apply Keeps.snd (by assumption) | apply Keeps.thd (by assumption) | split | dsimp only [id] | intro _ _ _
      | intro _ _
  | succ _ ih =>
    unfold gatherDown
    try dsimp only
    repeat' with_reducible first
      | assumption | apply ih | apply sendWindowed_keeps | apply writeGather_keeps | apply Keeps.foldl
      | apply Keeps.snd (by assumption) | apply Keeps.thd (by assumption) | split | dsimp only [id] | intro _ _ _
      | intro _ _

theorem gatherRoot_keeps {x0 x1 x2 x3 x4 x5 x6} (h : Keeps q s0 s) : Keeps q s0 (gatherRoot x0 x1 x2 x3 x4 x5 x6 s) := by
  unfold gatherRoot
  try dsimp only
  repeat' with_reducible first
    | assumption | apply gatherDown_keeps | apply Keeps.foldl | dsimp only [id] | intro _ _ _ | intro _ _

theorem nodeWork_keeps {x0 x1 x2 x3 x4} (h : Keeps q s0 s) : Keeps q s0 (nodeWork x0 x1 x2 x3 x4 s) := by
  unfold nodeWork
  try dsimp only
  repeat' with_reducible first
    | assumption | apply modReturn_keeps | apply toNode_keeps | apply updateGroup_keeps | apply gatherRoot_keeps
    | fail_if_no_progress (refine Keeps.upd ?_ rfl rfl rfl rfl rfl rfl rfl rfl rfl) | apply Keeps.foldl | apply Keeps.foldl2
    | apply Keeps.foldl3 | apply Keeps.foldl4 | apply Keeps.snd (by assumption) | apply Keeps.thd (by assumption) | split
    | dsimp only [id] | intro _ _ _ | intro _ _

theorem denseRounds_keeps {x0} (h : Keeps q s0 s) : Keeps q s0 (denseRounds x0 s) := by
  induction x0 generalizing s  with
  | zero =>
    unfold denseRounds
    try dsimp only
    repeat' with_reducible first
      | assumption | apply nodeWork_keeps | apply Keeps.foldl | apply Keeps.snd (by assumption)
      | apply Keeps.thd (by assumption) | split | dsimp only [id] | intro _ _ _ | intro _ _
  | succ _ ih =>
    unfold denseRounds
    try dsimp only
    repeat' with_reducible first
      | assumption | apply ih | apply nodeWork_keeps | apply Keeps.foldl | apply Keeps.snd (by assumption)
      | apply Keeps.thd (by assumption) | split | dsimp only [id] | intro _ _ _ | intro _ _

theorem acceptDense_keeps {x0 x1} (h : Keeps q s0 s) : Keeps q s0 (acceptDense x0 x1 s) := by
  unfold acceptDense
  try dsimp only
  repeat' with_reducible first
    | assumption | fail_if_no_progress (refine Keeps.upd ?_ rfl rfl rfl rfl rfl rfl rfl rfl rfl) | split

theorem stagePart_keeps {x0 x1 x2 x3 x4} (h : Keeps q s0 s) : Keeps q s0 (stagePart x0 x1 x2 x3 x4 s) := by
  unfold stagePart
  try dsimp only
  repeat' with_reducible first
    | assumption | fail_if_no_progress (refine Keeps.upd ?_ rfl rfl rfl rfl rfl rfl rfl rfl rfl)
    | apply Keeps.snd (by assumption) | apply Keeps.thd (by assumption) | split | dsimp only [id]

theorem takeDense_keeps {x0 x1 x2} (h : Keeps q s0 s) : Keeps q s0 (takeDense x0 x1 x2 s) := by
  unfold takeDense
  try dsimp only
  repeat' with_reducible first
    | assumption | apply acceptDense_keeps | apply stagePart_keeps
    | fail_if_no_progress (refine Keeps.upd ?_ rfl rfl rfl rfl rfl rfl rfl rfl rfl) | apply Keeps.snd (by assumption)
    | apply Keeps.thd (by assumption) | split | dsimp only [id]

theorem pumpDense_keeps (h : Keeps q s0 s) : Keeps q s0 (pumpDense s) := by
  unfold pumpDense
  try dsimp only
  repeat' with_reducible first
    | assumption | apply denseRounds_keeps | apply takeDense_keeps | apply stageOwn_keeps | apply writeGather_keeps
    | fail_if_no_progress (refine Keeps.upd ?_ rfl rfl rfl rfl rfl rfl rfl rfl rfl) | apply Keeps.foldl
    | apply Keeps.snd (by assumption) | apply Keeps.thd (by assumption) | split | dsimp only [id] | intro _ _ _ | intro _ _

theorem sendLeaf_keeps {x0 x1 x2 x3 x4 x5} (h : Keeps q s0 s) : Keeps q s0 (sendLeaf x0 x1 x2 x3 x4 x5 s) := by
  unfold sendLeaf
  try dsimp only
  repeat' with_reducible first
    | assumption | apply toNode_keeps | apply structPoison_keeps | apply putMem_keeps | apply Keeps.snd (by assumption)
    | apply Keeps.thd (by assumption) | split | dsimp only [id]

theorem takeGather_keeps {x0 x1 x2} (h : Keeps q s0 s) : Keeps q s0 (takeGather x0 x1 x2 s) := by
  unfold takeGather
  try dsimp only
  repeat' with_reducible first
    | assumption | apply acceptDense_keeps | apply modReturn_keeps | apply gatherDown_keeps | apply writeGather_keeps
    | fail_if_no_progress (refine Keeps.upd ?_ rfl rfl rfl rfl rfl rfl rfl rfl rfl) | apply Keeps.snd (by assumption)
    | apply Keeps.thd (by assumption) | split | dsimp only [id]

/-! ## Commit -/

theorem restoreBlock_keeps {x0 x1 x2} (h : Keeps q s0 s) : Keeps q s0 (restoreBlock x0 x1 x2 s).2.2 := by
  unfold restoreBlock
  try dsimp only
  repeat' with_reducible first
    | assumption | apply putMem_keeps | apply Keeps.foldl | apply Keeps.foldl2 | apply Keeps.foldl3 | apply Keeps.foldl4
    | apply Keeps.snd (by assumption) | apply Keeps.thd (by assumption) | split | dsimp only [id] | intro _ _ _ | intro _ _

theorem restoreFrom_keeps {x0 x1 x2 x3 x4} (h : Keeps q s0 s) : Keeps q s0 (restoreFrom x0 x1 x2 x3 x4 s).2.2 := by
  induction x2 generalizing s x0 x1 x3 x4 with
  | zero =>
    unfold restoreFrom
    try dsimp only
    repeat' with_reducible first
      | assumption | apply structPoison_keeps | apply restoreBlock_keeps | apply Keeps.snd (by assumption)
      | apply Keeps.thd (by assumption) | split | dsimp only [id]
  | succ _ ih =>
    unfold restoreFrom
    try dsimp only
    repeat' with_reducible first
      | assumption | apply ih | apply structPoison_keeps | apply restoreBlock_keeps | apply Keeps.snd (by assumption)
      | apply Keeps.thd (by assumption) | split | dsimp only [id]

theorem restoreDie_keeps {x0 x1 x2} (h : Keeps q s0 s) : Keeps q s0 (restoreDie x0 x1 x2 s).2.2 := by
  unfold restoreDie
  try dsimp only
  repeat' with_reducible first
    | assumption | apply restoreFrom_keeps | dsimp only [id]

theorem setCounters_keeps {x0} (h : Keeps q s0 s) : Keeps q s0 (setCounters x0 s) := by
  unfold setCounters
  try dsimp only
  repeat' with_reducible first
    | assumption | fail_if_no_progress (refine Keeps.upd ?_ rfl rfl rfl rfl rfl rfl rfl rfl rfl) | apply Keeps.foldl
    | dsimp only [id] | intro _ _ _ | intro _ _

theorem rollbackCommit_keeps (h : Keeps q s0 s) : Keeps q s0 (rollbackCommit s) := by
  unfold rollbackCommit
  try dsimp only
  repeat' with_reducible first
    | assumption | apply restoreDie_keeps | apply modRu_keeps | apply flipImages_keeps | apply saveRecord_keeps
    | apply setCounters_keeps | fail_if_no_progress (refine Keeps.upd ?_ rfl rfl rfl rfl rfl rfl rfl rfl rfl)
    | apply Keeps.foldl | apply Keeps.foldl2 | apply Keeps.foldl3 | apply Keeps.foldl4 | apply Keeps.snd (by assumption)
    | apply Keeps.thd (by assumption) | split | dsimp only [id] | intro _ _ _ | intro _ _

theorem recoverAtomic_keeps (h : Keeps q s0 s) : Keeps q s0 (recoverAtomic s) := by
  unfold recoverAtomic
  try dsimp only
  repeat' with_reducible first
    | assumption | apply emptyGens_keeps | apply restoreDie_keeps | apply modRu_keeps
    | fail_if_no_progress (refine Keeps.upd ?_ rfl rfl rfl rfl rfl rfl rfl rfl rfl) | apply Keeps.foldl | apply Keeps.foldl2
    | apply Keeps.foldl3 | apply Keeps.foldl4 | apply Keeps.snd (by assumption) | apply Keeps.thd (by assumption) | split
    | dsimp only [id] | intro _ _ _ | intro _ _

theorem releasePosition_keeps {x0} (h : Keeps q s0 s) : Keeps q s0 (releasePosition x0 s) := by
  unfold releasePosition
  try dsimp only
  repeat' with_reducible first
    | assumption | apply releaseWays_keeps | fail_if_no_progress (refine Keeps.upd ?_ rfl rfl rfl rfl rfl rfl rfl rfl rfl)
    | apply Keeps.foldl | split | dsimp only [id] | intro _ _ _ | intro _ _

theorem releaseHandovers_keeps (h : Keeps q s0 s) : Keeps q s0 (releaseHandovers s) := by
  unfold releaseHandovers
  try dsimp only
  repeat' with_reducible first
    | assumption | apply releasePosition_keeps | apply saveRecord_keeps
    | fail_if_no_progress (refine Keeps.upd ?_ rfl rfl rfl rfl rfl rfl rfl rfl rfl) | apply Keeps.foldl | split
    | dsimp only [id] | intro _ _ _ | intro _ _

theorem latchGscale_keeps {x0 x1} (h : Keeps q s0 s) : Keeps q s0 (latchGscale x0 x1 s) := by
  unfold latchGscale
  try dsimp only
  repeat' with_reducible first
    | assumption | apply tallyBy_keeps | fail_if_no_progress (refine Keeps.upd ?_ rfl rfl rfl rfl rfl rfl rfl rfl rfl)
    | split | dsimp only [id]

theorem checkSkew_keeps {x0 x1 x2} (h : Keeps q s0 s) : Keeps q s0 (checkSkew x0 x1 x2 s) := by
  unfold checkSkew
  try dsimp only
  repeat' with_reducible first
    | assumption | apply raise_keeps | fail_if_no_progress (refine Keeps.upd ?_ rfl rfl rfl rfl rfl rfl rfl rfl rfl) | split
    | dsimp only [id]

theorem advanceCounters_keeps (h : Keeps q s0 s) : Keeps q s0 (advanceCounters s) := by
  unfold advanceCounters
  try dsimp only
  repeat' with_reducible first
    | assumption | fail_if_no_progress (refine Keeps.upd ?_ rfl rfl rfl rfl rfl rfl rfl rfl rfl) | apply Keeps.foldl
    | dsimp only [id] | intro _ _ _ | intro _ _

theorem openApply_keeps {x0 x1} (h : Keeps q s0 s) : Keeps q s0 (openApply x0 x1 s) := by
  unfold openApply
  try dsimp only
  repeat' with_reducible first
    | assumption | apply voidSnapshot_keeps | apply checkSkew_keeps | apply latchGscale_keeps | apply startApplyDie_keeps
    | fail_if_no_progress (refine Keeps.upd ?_ rfl rfl rfl rfl rfl rfl rfl rfl rfl) | apply Keeps.foldl
    | apply Keeps.snd (by assumption) | apply Keeps.thd (by assumption) | split | dsimp only [id] | intro _ _ _ | intro _ _

theorem commitDie_keeps {x0} (h : Keeps q s0 s) : Keeps q s0 (commitDie x0 s) := by
  unfold commitDie
  try dsimp only
  repeat' with_reducible first
    | assumption | apply modRu_keeps | fail_if_no_progress (refine Keeps.upd ?_ rfl rfl rfl rfl rfl rfl rfl rfl rfl) | split
    | dsimp only [id]

theorem resumePromotions_keeps {x0} (h : Keeps q s0 s) : Keeps q s0 (resumePromotions x0 s) := by
  unfold resumePromotions
  try dsimp only
  repeat' with_reducible first
    | assumption | apply enqueueOp_keeps | apply tryPromote_keeps | apply modRu_keeps
    | fail_if_no_progress (refine Keeps.upd ?_ rfl rfl rfl rfl rfl rfl rfl rfl rfl) | apply Keeps.foldl
    | apply Keeps.snd (by assumption) | apply Keeps.thd (by assumption) | split | dsimp only [id] | intro _ _ _ | intro _ _

theorem commitStep_keeps (h : Keeps q s0 s) : Keeps q s0 (commitStep s) := by
  unfold commitStep
  try dsimp only
  repeat' with_reducible first
    | assumption | apply commitDie_keeps | apply flipImages_keeps | apply advanceCounters_keeps | apply freeSamples_keeps
    | apply resumePromotions_keeps | apply releaseHandovers_keeps | apply pumpDense_keeps | apply saveRecord_keeps
    | apply checkCommitted_keeps | apply finishHalt_keeps | apply recordApplyEnd_keeps
    | fail_if_no_progress (refine Keeps.upd ?_ rfl rfl rfl rfl rfl rfl rfl rfl rfl) | apply Keeps.foldl | split
    | dsimp only [id] | intro _ _ _ | intro _ _

theorem execCommit_keeps {x0} (h : Keeps q s0 s) : KeepsRes q s0 (execCommit x0 s) := by
  unfold execCommit
  try dsimp only
  repeat' with_reducible first
    | assumption | apply atTime_keeps | apply commitStep_keeps | apply KeepsRes.next | split | dsimp only [id]

theorem walkRow_keeps {x0 x1 x2} (h : Keeps q s0 s) : Keeps q s0 (walkRow x0 x1 x2 s).2.2 := by
  unfold walkRow
  try dsimp only
  repeat' with_reducible first
    | assumption | apply putMem_keeps | apply tally_keeps | apply Keeps.snd (by assumption)
    | apply Keeps.thd (by assumption) | split | dsimp only [id]

theorem walkDie_keeps {x0 x1} (h : Keeps q s0 s) : Keeps q s0 (walkDie x0 x1 s) := by
  unfold walkDie
  try dsimp only
  repeat' with_reducible first
    | assumption | apply modRu_keeps | apply structPoison_keeps | apply walkRow_keeps | apply raise_keeps
    | fail_if_no_progress (refine Keeps.upd ?_ rfl rfl rfl rfl rfl rfl rfl rfl rfl) | apply Keeps.foldl | apply Keeps.foldl2
    | apply Keeps.foldl3 | apply Keeps.foldl4 | apply Keeps.snd (by assumption) | apply Keeps.thd (by assumption) | split
    | dsimp only [id] | intro _ _ _ | intro _ _

theorem recoveryWalk_keeps (h : Keeps q s0 s) : Keeps q s0 (recoveryWalk s) := by
  unfold recoveryWalk
  try dsimp only
  repeat' with_reducible first
    | assumption | apply walkDie_keeps | apply emptyGens_keeps
    | fail_if_no_progress (refine Keeps.upd ?_ rfl rfl rfl rfl rfl rfl rfl rfl rfl) | apply Keeps.foldl | split
    | dsimp only [id] | intro _ _ _ | intro _ _

/-! ## Trees -/

theorem noteRoot_keeps {x0 x1 x2} (h : Keeps q s0 s) : Keeps q s0 (noteRoot x0 x1 x2 s) := by
  unfold noteRoot
  try dsimp only
  repeat' with_reducible first
    | assumption | fail_if_no_progress (refine Keeps.upd ?_ rfl rfl rfl rfl rfl rfl rfl rfl rfl) | split

theorem sendRoot_keeps {x0} (h : Keeps q s0 s) : Keeps q s0 (sendRoot x0 s) := by
  unfold sendRoot
  try dsimp only
  repeat' with_reducible first
    | assumption | apply noteRoot_keeps | apply originate_keeps | split | dsimp only [id]

theorem endSlice_keeps {x0} (h : Keeps q s0 s) : Keeps q s0 (endSlice x0 s) := by
  unfold endSlice
  try dsimp only
  repeat' with_reducible first
    | assumption | apply pumpDense_keeps | apply sendRoot_keeps
    | fail_if_no_progress (refine Keeps.upd ?_ rfl rfl rfl rfl rfl rfl rfl rfl rfl) | split | dsimp only [id]

theorem missSlice_keeps {x0} (h : Keeps q s0 s) : Keeps q s0 (missSlice x0 s) := by
  unfold missSlice
  try dsimp only
  repeat' with_reducible first
    | assumption | apply endSlice_keeps | apply tally_keeps
    | fail_if_no_progress (refine Keeps.upd ?_ rfl rfl rfl rfl rfl rfl rfl rfl rfl)

theorem missSlices_keeps {x0} (h : Keeps q s0 s) : Keeps q s0 (missSlices x0 s) := by
  unfold missSlices
  try dsimp only
  repeat' with_reducible first
    | assumption | apply missSlice_keeps | apply Keeps.foldl | apply Keeps.snd (by assumption)
    | apply Keeps.thd (by assumption) | split | dsimp only [id] | intro _ _ _ | intro _ _

theorem readBlock_keeps {x0 x1 x2} (h : Keeps q s0 s) : Keeps q s0 (readBlock x0 x1 x2 s).2 := by
  unfold readBlock
  try dsimp only
  repeat' with_reducible first
    | assumption | apply structPoison_keeps | apply Keeps.snd (by assumption) | apply Keeps.thd (by assumption) | split
    | dsimp only [id]

theorem digestBlock_keeps {x1} (h : Keeps q s0 s) : Keeps q s0 (digestBlock s x1) := by
  unfold digestBlock
  try dsimp only
  repeat' with_reducible first
    | assumption | apply readBlock_keeps | fail_if_no_progress (refine Keeps.upd ?_ rfl rfl rfl rfl rfl rfl rfl rfl rfl)
    | apply Keeps.snd (by assumption) | apply Keeps.thd (by assumption) | split | dsimp only [id]

/-! ## Snapshots -/

theorem resumeSnapshot_keeps (h : Keeps q s0 s) : Keeps q s0 (resumeSnapshot s) := by
  unfold resumeSnapshot
  try dsimp only
  repeat' with_reducible first
    | assumption | apply walkTo_keeps | apply pumpStream_keeps
    | fail_if_no_progress (refine Keeps.upd ?_ rfl rfl rfl rfl rfl rfl rfl rfl rfl) | apply Keeps.foldl
    | apply Keeps.snd (by assumption) | apply Keeps.thd (by assumption) | split | dsimp only [id] | intro _ _ _ | intro _ _

theorem rebindExtent_keeps {x0} (h : Keeps q s0 s) : Keeps q s0 (rebindExtent x0 s) := by
  unfold rebindExtent
  try dsimp only
  repeat' with_reducible first
    | assumption | apply resumeSnapshot_keeps
    | fail_if_no_progress (refine Keeps.upd ?_ rfl rfl rfl rfl rfl rfl rfl rfl rfl) | apply Keeps.snd (by assumption)
    | apply Keeps.thd (by assumption) | split | dsimp only [id]

theorem snapBoundary_keeps {x0} (h : Keeps q s0 s) : Keeps q s0 (snapBoundary x0 s) := by
  unfold snapBoundary
  try dsimp only
  repeat' with_reducible first
    | assumption | fail_if_no_progress (refine Keeps.upd ?_ rfl rfl rfl rfl rfl rfl rfl rfl rfl)
    | apply Keeps.snd (by assumption) | apply Keeps.thd (by assumption) | split

theorem takeSnapshot_keeps (h : Keeps q s0 s) : Keeps q s0 (takeSnapshot s) := by
  unfold takeSnapshot
  try dsimp only
  repeat' with_reducible first
    | assumption | apply voidSnapshot_keeps | apply putMem_keeps | apply walkTo_keeps | apply pumpDense_keeps
    | apply pumpStream_keeps | fail_if_no_progress (refine Keeps.upd ?_ rfl rfl rfl rfl rfl rfl rfl rfl rfl)
    | apply Keeps.foldl | apply Keeps.snd (by assumption) | apply Keeps.thd (by assumption) | split | dsimp only [id]
    | intro _ _ _ | intro _ _

theorem execSnapshotTick_keeps {x0} (h : Keeps q s0 s) : KeepsRes q s0 (execSnapshotTick x0 s) := by
  unfold execSnapshotTick
  try dsimp only
  repeat' with_reducible first
    | assumption | apply takeSnapshot_keeps | apply atTime_keeps | apply KeepsRes.next

theorem mibDone_keeps {x0 x1} (h : Keeps q s0 s) : Keeps q s0 (mibDone x0 x1 s) := by
  unfold mibDone
  try dsimp only
  repeat' with_reducible first
    | assumption | apply pumpStream_keeps | fail_if_no_progress (refine Keeps.upd ?_ rfl rfl rfl rfl rfl rfl rfl rfl rfl)
    | apply Keeps.snd (by assumption) | apply Keeps.thd (by assumption) | split | dsimp only [id]

theorem snapshotDone_keeps (h : Keeps q s0 s) : Keeps q s0 (snapshotDone s) := by
  unfold snapshotDone
  try dsimp only
  repeat' with_reducible first
    | assumption | apply finishStarted_keeps | fail_if_no_progress (refine Keeps.upd ?_ rfl rfl rfl rfl rfl rfl rfl rfl rfl)
    | apply Keeps.snd (by assumption) | apply Keeps.thd (by assumption) | split | dsimp only [id]

theorem execSnapshotWriteComplete_keeps {x0 x1 x2} (h : Keeps q s0 s) : KeepsRes q s0 (execSnapshotWriteComplete x0 x1 x2 s) := by
  unfold execSnapshotWriteComplete
  try dsimp only
  repeat' with_reducible first
    | assumption | apply atTime_keeps | apply snapshotDone_keeps | apply mibDone_keeps | apply KeepsRes.next
    | apply Keeps.snd (by assumption) | apply Keeps.thd (by assumption) | split | dsimp only [id]

theorem execSnapshotTargetError_keeps {x0 x1} (h : Keeps q s0 s) : KeepsRes q s0 (execSnapshotTargetError x0 x1 s) := by
  unfold execSnapshotTargetError
  try dsimp only
  repeat' with_reducible first
    | assumption | apply voidSnapshot_keeps | apply atTime_keeps | apply KeepsRes.next

/-! ## Health -/

theorem queueTest_keeps {x0 x1 x2} (h : Keeps q s0 s) : Keeps q s0 (queueTest x0 x1 x2 s) := by
  unfold queueTest
  try dsimp only
  repeat' with_reducible first
    | assumption | fail_if_no_progress (refine Keeps.upd ?_ rfl rfl rfl rfl rfl rfl rfl rfl rfl) | split

theorem queueUnit_keeps {x0 x1} (h : Keeps q s0 s) : Keeps q s0 (queueUnit x0 x1 s) := by
  unfold queueUnit
  try dsimp only
  repeat' with_reducible first
    | assumption | apply queueTest_keeps | apply Keeps.snd (by assumption) | apply Keeps.thd (by assumption) | split

theorem coreFault_keeps {x0 x1} (h : Keeps q s0 s) : Keeps q s0 (coreFault x0 x1 s) := by
  unfold coreFault
  try dsimp only
  repeat' with_reducible first
    | assumption | apply emit_keeps

theorem parityPassed_keeps {x0 x1 x2 x3 x4} (h : Keeps q s0 s) : Keeps q s0 (parityPassed x0 x1 x2 x3 x4 s) := by
  unfold parityPassed
  try dsimp only
  repeat' with_reducible first
    | assumption | apply raise_keeps | apply tally_keeps

theorem parityPathFault_keeps {x0 x1 x2 x3} (h : Keeps q s0 s) : Keeps q s0 (parityPathFault x0 x1 x2 x3 s) := by
  unfold parityPathFault
  try dsimp only
  repeat' with_reducible first
    | assumption | apply requestHalt_keeps | apply queueUnit_keeps | apply raise_keeps

/-! ## Power -/

theorem setLegPower_keeps {x0 x1} (h : Keeps q s0 s) : Keeps q s0 (setLegPower x0 x1 s) := by
  unfold setLegPower
  try dsimp only
  repeat' with_reducible first
    | assumption | fail_if_no_progress (refine Keeps.upd ?_ rfl rfl rfl rfl rfl rfl rfl rfl rfl)

theorem learnLeg_keeps {x0 x1 x2} (h : Keeps q s0 s) : Keeps q s0 (learnLeg x0 x1 x2 s) := by
  unfold learnLeg
  try dsimp only
  repeat' with_reducible first
    | assumption | apply setLegPower_keeps | fail_if_no_progress (refine Keeps.upd ?_ rfl rfl rfl rfl rfl rfl rfl rfl rfl)
    | dsimp only [id]

theorem telemetry_keeps {x0} (h : Keeps q s0 s) : Keeps q s0 (telemetry x0 s) := by
  unfold telemetry
  try dsimp only
  repeat' with_reducible first
    | assumption | apply tally_keeps | apply securityViolation_keeps | apply readOwn_keeps | apply rawWrite_keeps
    | apply emit_keeps | fail_if_no_progress (refine Keeps.upd ?_ rfl rfl rfl rfl rfl rfl rfl rfl rfl)
    | apply Keeps.snd (by assumption) | apply Keeps.thd (by assumption) | split | dsimp only [id]

theorem noteCause_keeps {x0} (h : Keeps q s0 s) : Keeps q s0 (noteCause x0 s) := by
  unfold noteCause
  try dsimp only
  repeat' with_reducible first
    | assumption | apply setLegPower_keeps | fail_if_no_progress (refine Keeps.upd ?_ rfl rfl rfl rfl rfl rfl rfl rfl rfl)
    | apply Keeps.foldl | dsimp only [id] | intro _ _ _ | intro _ _

theorem noteInForce_keeps (h : Keeps q s0 s) : Keeps q s0 (noteInForce s) := by
  unfold noteInForce
  try dsimp only
  repeat' with_reducible first
    | assumption | apply noteCause_keeps | apply Keeps.foldl | dsimp only [id] | intro _ _ _ | intro _ _

theorem raiseCap_keeps {x0 x1 x2} (h : Keeps q s0 s) : Keeps q s0 (raiseCap x0 x1 x2 s) := by
  unfold raiseCap
  try dsimp only
  repeat' with_reducible first
    | assumption | apply raise_keeps | apply Keeps.snd (by assumption) | apply Keeps.thd (by assumption) | split
    | dsimp only [id]

theorem applyCap_keeps {x0 x1} (h : Keeps q s0 s) : Keeps q s0 (applyCap x0 x1 s) := by
  unfold applyCap
  try dsimp only
  repeat' with_reducible first
    | assumption | apply noteCause_keeps | apply raiseCap_keeps
    | fail_if_no_progress (refine Keeps.upd ?_ rfl rfl rfl rfl rfl rfl rfl rfl rfl) | split | dsimp only [id]

theorem setIdle_keeps {x0 x1} (h : Keeps q s0 s) : Keeps q s0 (setIdle x0 x1 s) := by
  unfold setIdle
  try dsimp only
  repeat' with_reducible first
    | assumption | fail_if_no_progress (refine Keeps.upd ?_ rfl rfl rfl rfl rfl rfl rfl rfl rfl)

theorem wake_keeps {x0} (h : Keeps q s0 s) : Keeps q s0 (wake x0 s) := by
  unfold wake
  try dsimp only
  repeat' with_reducible first
    | assumption | apply setIdle_keeps | split | dsimp only [id]

theorem presetCap_keeps {x0} (h : Keeps q s0 s) : Keeps q s0 (presetCap x0 s) := by
  unfold presetCap
  try dsimp only
  repeat' with_reducible first
    | assumption | apply applyCap_keeps | fail_if_no_progress (refine Keeps.upd ?_ rfl rfl rfl rfl rfl rfl rfl rfl rfl)
    | split | dsimp only [id]

theorem enterIdle_keeps {x0} (h : Keeps q s0 s) : Keeps q s0 (enterIdle x0 s) := by
  unfold enterIdle
  try dsimp only
  repeat' with_reducible first
    | assumption | apply setIdle_keeps | apply Keeps.snd (by assumption) | apply Keeps.thd (by assumption) | split

theorem enterDie_keeps {x0} (h : Keeps q s0 s) : Keeps q s0 (enterDie x0 s) := by
  unfold enterDie
  try dsimp only
  repeat' with_reducible first
    | assumption | apply setIdle_keeps | apply Keeps.snd (by assumption) | apply Keeps.thd (by assumption) | split
    | dsimp only [id]

theorem idleAfter_keeps {x0} (h : Keeps q s0 s) : Keeps q s0 (idleAfter x0 s) := by
  unfold idleAfter
  try dsimp only
  repeat' with_reducible first
    | assumption | apply enterIdle_keeps | apply enterDie_keeps | apply Keeps.foldl | dsimp only [id] | intro _ _ _
    | intro _ _

end Sys2Proof.Machine
end

