-- ==== Sys2Proof/Laws/KeepsAdmin.lean ====
section
/-! SUPPORT. What tick boundaries, loads and the ADMIN commands keep. -/

set_option linter.unusedTactic false
set_option linter.unreachableTactic false
set_option linter.unusedVariables false

namespace Sys2Proof.Machine

variable {q : Bool} {s0 s : State}

/-! ## Boundary -/

theorem setParent_keeps (h : Keeps q s0 s) : Keeps q s0 (setParent s) := by
  unfold setParent
  try dsimp only
  repeat' with_reducible first
    | assumption | fail_if_no_progress (refine Keeps.upd ?_ rfl rfl rfl rfl rfl rfl rfl rfl rfl) | split | dsimp only [id]

theorem handOver_keeps {x0} (h : Keeps q s0 s) : Keeps q s0 (handOver x0 s) := by
  unfold handOver
  try dsimp only
  repeat' with_reducible first
    | assumption | apply setParent_keeps | fail_if_no_progress (refine Keeps.upd ?_ rfl rfl rfl rfl rfl rfl rfl rfl rfl)
    | apply Keeps.snd (by assumption) | apply Keeps.thd (by assumption) | split | dsimp only [id]

theorem haltOwn_keeps (h : Keeps q s0 s) : Keeps q s0 (haltOwn s) := by
  unfold haltOwn
  try dsimp only
  repeat' with_reducible first
    | assumption | apply haltTree_keeps | apply beginHalt_keeps | apply requestHalt_keeps | split

theorem markLost_keeps {x0 x1 x2 x3} (h : Keeps q s0 s) : Keeps q s0 (markLost x0 x1 x2 x3 s) := by
  unfold markLost
  try dsimp only
  repeat' with_reducible first
    | assumption | apply raise_keeps

theorem liftTile_keeps {x0 x1} (h : Keeps q s0 s) : Keeps q s0 (liftTile x0 x1 s) := by
  unfold liftTile
  try dsimp only
  repeat' with_reducible first
    | assumption | fail_if_no_progress (refine Keeps.upd ?_ rfl rfl rfl rfl rfl rfl rfl rfl rfl)

theorem waitForMoves_keeps (h : Keeps q s0 s) : Keeps q s0 (waitForMoves s) := by
  unfold waitForMoves
  try dsimp only
  repeat' with_reducible first
    | assumption | apply noteMoving_keeps | apply Keeps.foldl | apply Keeps.snd (by assumption)
    | apply Keeps.thd (by assumption) | split | dsimp only [id] | intro _ _ _ | intro _ _

theorem startMoves_keeps {x0} (h : Keeps q s0 s) : Keeps q s0 (startMoves x0 s) := by
  unfold startMoves
  try dsimp only
  repeat' with_reducible first
    | assumption | apply waitForMoves_keeps | fail_if_no_progress (refine Keeps.upd ?_ rfl rfl rfl rfl rfl rfl rfl rfl rfl)
    | apply Keeps.foldl | apply Keeps.snd (by assumption) | apply Keeps.thd (by assumption) | split | dsimp only [id]
    | intro _ _ _ | intro _ _

theorem settleMove_keeps {x0 x1} (h : Keeps q s0 s) : Keeps q s0 (settleMove x0 x1 s) := by
  unfold settleMove
  try dsimp only
  repeat' with_reducible first
    | assumption | apply wakeLeg_keeps | apply trapLegWait_keeps | apply Keeps.snd (by assumption)
    | apply Keeps.thd (by assumption) | split

theorem installTile_keeps {x0 x1 x2} (h : Keeps q s0 s) : Keeps q s0 (installTile x0 x1 x2 s) := by
  unfold installTile
  try dsimp only
  repeat' with_reducible first
    | assumption | apply settleTile_keeps | apply settleMove_keeps | apply openGate_keeps
    | fail_if_no_progress (refine Keeps.upd ?_ rfl rfl rfl rfl rfl rfl rfl rfl rfl)

theorem tryLift_keeps {x0} (h : Keeps q s0 s) : Keeps q s0 (tryLift x0 s) := by
  unfold tryLift
  try dsimp only
  repeat' with_reducible first
    | assumption | apply liftTile_keeps | apply Keeps.snd (by assumption) | apply Keeps.thd (by assumption) | split

theorem execTileMoveComplete_keeps {x0 x1} (h : Keeps q s0 s) : KeepsRes q s0 (execTileMoveComplete x0 x1 s) := by
  unfold execTileMoveComplete
  try dsimp only
  repeat' with_reducible first
    | assumption | apply atTime_keeps | apply tryLift_keeps | apply installTile_keeps | apply KeepsRes.next
    | apply Keeps.snd (by assumption) | apply Keeps.thd (by assumption) | split | dsimp only [id]

theorem memZero_keeps {x0 x1} (h : Keeps q s0 s) : Keeps q s0 (memZero x0 x1 s) :=
  Keeps.updMem h rfl rfl rfl rfl (keep_wf _ _)

theorem dropStaged_keeps {x0 x1} (h : Keeps q s0 s) : Keeps q s0 (dropStaged x0 x1 s) := by
  unfold dropStaged
  try dsimp only
  repeat' with_reducible first
    | assumption | apply memZero_keeps | fail_if_no_progress (refine Keeps.upd ?_ rfl rfl rfl rfl rfl rfl rfl rfl rfl)
    | apply Keeps.snd (by assumption) | apply Keeps.thd (by assumption) | split | dsimp only [id]

theorem switchBase_keeps {x0 x1} (h : Keeps q s0 s) : Keeps q s0 (switchBase x0 x1 s) := by
  unfold switchBase
  try dsimp only
  repeat' with_reducible first
    | assumption | apply dropStaged_keeps | apply freeWord_keeps | apply raise_keeps
    | fail_if_no_progress (refine Keeps.upd ?_ rfl rfl rfl rfl rfl rfl rfl rfl rfl) | apply Keeps.snd (by assumption)
    | apply Keeps.thd (by assumption) | split | dsimp only [id]

theorem switchTable_keeps {x0 x1} (h : Keeps q s0 s) : Keeps q s0 (switchTable x0 x1 s) := by
  unfold switchTable
  try dsimp only
  repeat' with_reducible first
    | assumption | fail_if_no_progress (refine Keeps.upd ?_ rfl rfl rfl rfl rfl rfl rfl rfl rfl)
    | apply Keeps.snd (by assumption) | apply Keeps.thd (by assumption) | split

theorem switchFolds_keeps {x0} (h : Keeps q s0 s) : Keeps q s0 (switchFolds x0 s) := by
  unfold switchFolds
  try dsimp only
  repeat' with_reducible first
    | assumption | apply saveRecord_keeps | apply switchTable_keeps | apply switchBase_keeps
    | fail_if_no_progress (refine Keeps.upd ?_ rfl rfl rfl rfl rfl rfl rfl rfl rfl) | apply Keeps.foldl
    | apply Keeps.snd (by assumption) | apply Keeps.thd (by assumption) | split | dsimp only [id] | intro _ _ _ | intro _ _

theorem closePower_keeps {x0} (h : Keeps q s0 s) : Keeps q s0 (closePower x0 s) := by
  unfold closePower
  try dsimp only
  repeat' with_reducible first
    | assumption | apply learnLeg_keeps | apply telemetry_keeps
    | fail_if_no_progress (refine Keeps.upd ?_ rfl rfl rfl rfl rfl rfl rfl rfl rfl) | apply Keeps.foldl | apply Keeps.foldl2
    | apply Keeps.foldl3 | apply Keeps.foldl4 | apply Keeps.snd (by assumption) | apply Keeps.thd (by assumption) | split
    | dsimp only [id] | intro _ _ _ | intro _ _

theorem switchTimetable_keeps {x0} (h : Keeps q s0 s) : Keeps q s0 (switchTimetable x0 s) := by
  unfold switchTimetable
  try dsimp only
  repeat' with_reducible first
    | assumption | fail_if_no_progress (refine Keeps.upd ?_ rfl rfl rfl rfl rfl rfl rfl rfl rfl)
    | apply Keeps.snd (by assumption) | apply Keeps.thd (by assumption) | split

theorem switchMap_keeps {x0} (h : Keeps q s0 s) : Keeps q s0 (switchMap x0 s) := by
  unfold switchMap
  try dsimp only
  repeat' with_reducible first
    | assumption | apply startMoves_keeps | apply Keeps.snd (by assumption) | apply Keeps.thd (by assumption) | split

theorem switchHandovers_keeps {x0} (h : Keeps q s0 s) : Keeps q s0 (switchHandovers x0 s) := by
  unfold switchHandovers
  try dsimp only
  repeat' with_reducible first
    | assumption | apply releaseHandovers_keeps
    | fail_if_no_progress (refine Keeps.upd ?_ rfl rfl rfl rfl rfl rfl rfl rfl rfl) | apply Keeps.snd (by assumption)
    | apply Keeps.thd (by assumption) | split

theorem freshTick_keeps {x0} (h : Keeps q s0 s) : Keeps q s0 (freshTick x0 s) := by
  unfold freshTick
  try dsimp only
  repeat' with_reducible first
    | assumption | apply taskRan_keeps | apply pruneEx_keeps
    | fail_if_no_progress (refine Keeps.upd ?_ rfl rfl rfl rfl rfl rfl rfl rfl rfl) | apply Keeps.foldl | split
    | dsimp only [id] | intro _ _ _ | intro _ _

theorem noteSlices_keeps {x0} (h : Keeps q s0 s) : Keeps q s0 (noteSlices x0 s) := by
  unfold noteSlices
  try dsimp only
  repeat' with_reducible first
    | assumption | fail_if_no_progress (refine Keeps.upd ?_ rfl rfl rfl rfl rfl rfl rfl rfl rfl) | split | dsimp only [id]

theorem startTick_keeps {x0 x1 x2 x3} (h : Keeps q s0 s) : Keeps q s0 (startTick x0 x1 x2 x3 s) := by
  unfold startTick
  try dsimp only
  repeat' with_reducible first
    | assumption | apply closePower_keeps | apply noteOverrun_keeps | apply missSlices_keeps | apply handOver_keeps
    | apply switchTimetable_keeps | apply dropQuarantined_keeps | apply switchMap_keeps | apply tally_keeps
    | apply switchFolds_keeps | apply switchHandovers_keeps | apply freshTick_keeps | apply snapBoundary_keeps
    | apply noteSlices_keeps | apply emit_keeps | apply trapMissingLegs_keeps | apply noteInForce_keeps
    | fail_if_no_progress (refine Keeps.upd ?_ rfl rfl rfl rfl rfl rfl rfl rfl rfl) | split | dsimp only [id]

theorem execMarkSend_keeps {x0} (h : Keeps q s0 s) : KeepsRes q s0 (execMarkSend x0 s) := by
  unfold execMarkSend
  try dsimp only
  repeat' with_reducible first
    | assumption | apply atTime_keeps | apply underTree_keeps | apply sendMark_keeps | apply KeepsRes.next
    | fail_if_no_progress (refine Keeps.upd ?_ rfl rfl rfl rfl rfl rfl rfl rfl rfl) | split | dsimp only [id] | intro _ _

theorem execStretchLimit_keeps {x0} (h : Keeps q s0 s) : KeepsRes q s0 (execStretchLimit x0 s) := by
  unfold execStretchLimit
  try dsimp only
  repeat' with_reducible first
    | assumption | apply atTime_keeps | apply haltOwn_keeps | apply raise_keeps | apply KeepsRes.next | split
    | dsimp only [id]

theorem execJobFirstTick_keeps {x0} (h : Keeps q s0 s) : KeepsRes q s0 (execJobFirstTick x0 s) := by
  unfold execJobFirstTick
  try dsimp only
  repeat' with_reducible first
    | assumption | apply atTime_keeps | apply sendMark_keeps | apply startTick_keeps | apply KeepsRes.next
    | apply Keeps.snd (by assumption) | apply Keeps.thd (by assumption) | split | dsimp only [id]

theorem adoptMark_keeps {x0} (h : Keeps q s0 s) : Keeps q s0 (adoptMark x0 s) := by
  unfold adoptMark
  try dsimp only
  repeat' with_reducible first
    | assumption | apply tally_keeps | apply underTree_keeps | apply sendDown_keeps | apply clearLateness_keeps
    | apply sendAck_keeps | fail_if_no_progress (refine Keeps.upd ?_ rfl rfl rfl rfl rfl rfl rfl rfl rfl) | split
    | dsimp only [id] | intro _ _

theorem endHoldover_keeps {x0} (h : Keeps q s0 s) : Keeps q s0 (endHoldover x0 s) := by
  unfold endHoldover
  try dsimp only
  repeat' with_reducible first
    | assumption | apply tally_keeps | apply sendDown_keeps | apply ackNow_keeps | apply adoptMark_keeps
    | fail_if_no_progress (refine Keeps.upd ?_ rfl rfl rfl rfl rfl rfl rfl rfl rfl) | split | dsimp only [id]

theorem takeMark_keeps {x0} (h : Keeps q s0 s) : Keeps q s0 (takeMark x0 s) := by
  unfold takeMark
  try dsimp only
  repeat' with_reducible first
    | assumption | apply haltOwn_keeps | apply markLost_keeps | apply endHoldover_keeps | apply adoptMark_keeps | split

theorem execMarkReceive_keeps {x0 x1 x2} (h : Keeps q s0 s) : KeepsRes q s0 (execMarkReceive x0 x1 x2 s) := by
  unfold execMarkReceive
  try dsimp only
  repeat' with_reducible first
    | assumption | apply deliverRx_keeps | apply takeMark_keeps | apply onUnit_keeps | apply KeepsRes.next
    | apply Keeps.snd (by assumption) | apply Keeps.thd (by assumption) | split | dsimp only [id] | intro _ _

theorem execTickStart_keeps {x0 x1} (h : Keeps q s0 s) : KeepsRes q s0 (execTickStart x0 x1 s) := by
  unfold execTickStart
  try dsimp only
  repeat' with_reducible first
    | assumption | apply atTime_keeps | apply startTick_keeps | apply KeepsRes.next
    | fail_if_no_progress (refine Keeps.upd ?_ rfl rfl rfl rfl rfl rfl rfl rfl rfl) | apply Keeps.snd (by assumption)
    | apply Keeps.thd (by assumption) | split | dsimp only [id]

theorem execHoldoverTick_keeps {x0 x1} (h : Keeps q s0 s) : KeepsRes q s0 (execHoldoverTick x0 x1 s) := by
  unfold execHoldoverTick
  try dsimp only
  repeat' with_reducible first
    | assumption | apply atTime_keeps | apply haltOwn_keeps | apply markLost_keeps | apply startTick_keeps
    | apply tally_keeps | apply KeepsRes.next
    | fail_if_no_progress (refine Keeps.upd ?_ rfl rfl rfl rfl rfl rfl rfl rfl rfl) | split | dsimp only [id]

/-! ## Loads -/

theorem putDesc_keeps {x0 x1} (h : Keeps q s0 s) : Keeps q s0 (putDesc x0 x1 s) := by
  unfold putDesc
  try dsimp only
  repeat' with_reducible first
    | assumption | fail_if_no_progress (refine Keeps.upd ?_ rfl rfl rfl rfl rfl rfl rfl rfl rfl)

theorem putProgram_keeps {x0 x1 x2} (h : Keeps q s0 s) : Keeps q s0 (putProgram x0 x1 x2 s) := by
  unfold putProgram
  try dsimp only
  repeat' with_reducible first
    | assumption | fail_if_no_progress (refine Keeps.upd ?_ rfl rfl rfl rfl rfl rfl rfl rfl rfl)

theorem putFlock_keeps {x0 x1 x2} (h : Keeps q s0 s) : Keeps q s0 (putFlock x0 x1 x2 s) := by
  unfold putFlock
  try dsimp only
  repeat' with_reducible first
    | assumption | fail_if_no_progress (refine Keeps.upd ?_ rfl rfl rfl rfl rfl rfl rfl rfl rfl)

/-! ## Admin -/

theorem adminRun_keeps {x0 x1} {f : State → AdminOut × State} (hf : ∀ t, Keeps q s0 t → Keeps q s0 (f t).2) (h : Keeps q s0 s) :
    KeepsRes q s0 (adminRun x0 x1 f s) := by
  unfold adminRun
  apply KeepsRes.next
  have := hf _ (rouse_keeps h)
  split
  · exact adminComplete_keeps h
  · split <;> rename_i e <;> rw [e] at this
    · exact adminComplete_keeps this
    · exact Keeps.upd this rfl rfl rfl rfl rfl rfl rfl rfl rfl

theorem adminCheck_keeps {x0} {f : State → State} (hf : ∀ t, Keeps q s0 t → Keeps q s0 (f t)) (h : Keeps q s0 s) :
    Keeps q s0 (adminCheck x0 f s).2 := by
  unfold adminCheck
  dsimp only
  split
  · exact hf s h
  · exact h

theorem paramBlock_keeps {x0 x1} (h : Keeps q s0 s) : Keeps q s0 (paramBlock x0 x1 s).2 := by
  unfold paramBlock
  try dsimp only
  repeat' with_reducible first
    | assumption | apply hqRead_keeps | split

theorem withBlock_keeps {x0 x1} {f : List Byte → State → AdminOut × State} (hf : ∀ b t, Keeps q s0 t → Keeps q s0 (f b t).2)
    (h : Keeps q s0 s) : Keeps q s0 (withBlock x0 x1 f s).2 := by
  unfold withBlock
  have := paramBlock_keeps (x0 := x0) (x1 := x1) h
  split <;> rename_i e <;> rw [e] at this
  · exact this
  · exact hf _ _ this

theorem makeQueue_keeps {x0} (h : Keeps q s0 s) : Keeps q s0 (makeQueue x0 s) := by
  unfold makeQueue
  try dsimp only
  repeat' with_reducible first
    | assumption | fail_if_no_progress (refine Keeps.upd ?_ rfl rfl rfl rfl rfl rfl rfl rfl rfl) | dsimp only [id]

theorem execQueueCreate_keeps {x0} (h : Keeps q s0 s) : KeepsRes q s0 (execQueueCreate x0 s) := by
  unfold execQueueCreate
  try dsimp only
  repeat' with_reducible first
    | assumption | apply adminRun_keeps | apply withBlock_keeps | apply adminCheck_keeps | apply makeQueue_keeps
    | apply KeepsRes.next | apply KeepsRes.here (by assumption) | dsimp only [id] | intro _ _

theorem execQueueDelete_keeps {x0} (h : Keeps q s0 s) : KeepsRes q s0 (execQueueDelete x0 s) := by
  unfold execQueueDelete
  try dsimp only
  repeat' with_reducible first
    | assumption | apply adminRun_keeps | apply adminCheck_keeps | apply KeepsRes.next
    | fail_if_no_progress (refine Keeps.upd ?_ rfl rfl rfl rfl rfl rfl rfl rfl rfl) | apply KeepsRes.here (by assumption)
    | dsimp only [id] | intro _ _

theorem setSlot_keeps {x0 x1} (h : Keeps q s0 s) : Keeps q s0 (setSlot x0 x1 s) := by
  unfold setSlot
  try dsimp only
  repeat' with_reducible first
    | assumption | fail_if_no_progress (refine Keeps.upd ?_ rfl rfl rfl rfl rfl rfl rfl rfl rfl) | split

theorem loadSlot_keeps {x0 x1} (h : Keeps q s0 s) : Keeps q s0 (loadSlot x0 x1 s).2 := by
  unfold loadSlot
  try dsimp only
  repeat' with_reducible first
    | assumption | apply setSlot_keeps | split | dsimp only [id]

theorem execTimetableLoad_keeps {x0} (h : Keeps q s0 s) : KeepsRes q s0 (execTimetableLoad x0 s) := by
  unfold execTimetableLoad
  try dsimp only
  repeat' with_reducible first
    | assumption | apply adminRun_keeps | apply withBlock_keeps | apply loadSlot_keeps | apply onUnit_keeps
    | apply KeepsRes.next | apply KeepsRes.fault
    | fail_if_no_progress (refine Keeps.upd ?_ rfl rfl rfl rfl rfl rfl rfl rfl rfl) | apply Keeps.foldl | apply Keeps.foldl2
    | apply Keeps.foldl3 | apply Keeps.foldl4 | apply Keeps.snd (by assumption) | apply Keeps.thd (by assumption)
    | apply KeepsRes.here (by assumption) | split | dsimp only [id] | intro _ _ _ | intro _ _

theorem execTimetableSwitch_keeps {x0} (h : Keeps q s0 s) : KeepsRes q s0 (execTimetableSwitch x0 s) := by
  unfold execTimetableSwitch
  try dsimp only
  repeat' with_reducible first
    | assumption | apply adminRun_keeps | apply adminCheck_keeps | apply KeepsRes.next
    | fail_if_no_progress (refine Keeps.upd ?_ rfl rfl rfl rfl rfl rfl rfl rfl rfl) | apply KeepsRes.here (by assumption)
    | dsimp only [id] | intro _ _

theorem execBellwetherHandover_keeps {x0} (h : Keeps q s0 s) : KeepsRes q s0 (execBellwetherHandover x0 s) := by
  unfold execBellwetherHandover
  try dsimp only
  repeat' with_reducible first
    | assumption | apply adminRun_keeps | apply adminCheck_keeps | apply KeepsRes.next
    | fail_if_no_progress (refine Keeps.upd ?_ rfl rfl rfl rfl rfl rfl rfl rfl rfl) | apply KeepsRes.here (by assumption)
    | dsimp only [id] | intro _ _

theorem execTileMapSwitch_keeps {x0} (h : Keeps q s0 s) : KeepsRes q s0 (execTileMapSwitch x0 s) := by
  unfold execTileMapSwitch
  try dsimp only
  repeat' with_reducible first
    | assumption | apply adminRun_keeps | apply withBlock_keeps | apply adminCheck_keeps | apply KeepsRes.next
    | fail_if_no_progress (refine Keeps.upd ?_ rfl rfl rfl rfl rfl rfl rfl rfl rfl) | apply KeepsRes.here (by assumption)
    | dsimp only [id] | intro _ _

theorem execDescriptorLoad_keeps {x0} (h : Keeps q s0 s) : KeepsRes q s0 (execDescriptorLoad x0 s) := by
  unfold execDescriptorLoad
  try dsimp only
  repeat' with_reducible first
    | assumption | apply adminRun_keeps | apply withBlock_keeps | apply adminCheck_keeps | apply putDesc_keeps
    | apply KeepsRes.next | apply KeepsRes.here (by assumption) | dsimp only [id] | intro _ _

theorem execProgramLoad_keeps {x0} (h : Keeps q s0 s) : KeepsRes q s0 (execProgramLoad x0 s) := by
  unfold execProgramLoad
  try dsimp only
  repeat' with_reducible first
    | assumption | apply adminRun_keeps | apply withBlock_keeps | apply adminCheck_keeps | apply putProgram_keeps
    | apply KeepsRes.next | apply KeepsRes.here (by assumption) | dsimp only [id] | intro _ _

theorem execFlockLoad_keeps {x0} (h : Keeps q s0 s) : KeepsRes q s0 (execFlockLoad x0 s) := by
  unfold execFlockLoad
  try dsimp only
  repeat' with_reducible first
    | assumption | apply adminRun_keeps | apply withBlock_keeps | apply adminCheck_keeps | apply putFlock_keeps
    | apply KeepsRes.next | apply KeepsRes.here (by assumption) | dsimp only [id] | intro _ _

theorem execFoldLoad_keeps {x0} (h : Keeps q s0 s) : KeepsRes q s0 (execFoldLoad x0 s) := by
  unfold execFoldLoad
  try dsimp only
  repeat' with_reducible first
    | assumption | apply adminRun_keeps | apply withBlock_keeps | apply onUnit_keeps | apply KeepsRes.next
    | apply KeepsRes.fault | fail_if_no_progress (refine Keeps.upd ?_ rfl rfl rfl rfl rfl rfl rfl rfl rfl)
    | apply Keeps.foldl | apply Keeps.foldl2 | apply Keeps.foldl3 | apply Keeps.foldl4 | apply Keeps.snd (by assumption)
    | apply Keeps.thd (by assumption) | apply KeepsRes.here (by assumption) | split | dsimp only [id] | intro _ _ _
    | intro _ _

theorem execFoldSwitch_keeps {x0} (h : Keeps q s0 s) : KeepsRes q s0 (execFoldSwitch x0 s) := by
  unfold execFoldSwitch
  try dsimp only
  repeat' with_reducible first
    | assumption | apply adminRun_keeps | apply withBlock_keeps | apply adminCheck_keeps | apply KeepsRes.next
    | fail_if_no_progress (refine Keeps.upd ?_ rfl rfl rfl rfl rfl rfl rfl rfl rfl) | apply KeepsRes.here (by assumption)
    | split | dsimp only [id] | intro _ _

theorem execRowRepair_keeps {x0} (h : Keeps q s0 s) : KeepsRes q s0 (execRowRepair x0 s) := by
  unfold execRowRepair
  try dsimp only
  repeat' with_reducible first
    | assumption | apply adminRun_keeps | apply adminCheck_keeps | apply KeepsRes.next
    | fail_if_no_progress (refine Keeps.upd ?_ rfl rfl rfl rfl rfl rfl rfl rfl rfl) | apply KeepsRes.here (by assumption)
    | dsimp only [id] | intro _ _

theorem execCommitRollback_keeps {x0} (h : Keeps q s0 s) : KeepsRes q s0 (execCommitRollback x0 s) := by
  unfold execCommitRollback
  try dsimp only
  repeat' with_reducible first
    | assumption | apply adminRun_keeps | apply adminCheck_keeps | apply rollbackCommit_keeps | apply KeepsRes.next
    | apply KeepsRes.here (by assumption) | dsimp only [id] | intro _ _

theorem execMapoutAdd_keeps {x0} (h : Keeps q s0 s) : KeepsRes q s0 (execMapoutAdd x0 s) := by
  unfold execMapoutAdd
  try dsimp only
  repeat' with_reducible first
    | assumption | apply adminRun_keeps | apply adminCheck_keeps | apply KeepsRes.next
    | fail_if_no_progress (refine Keeps.upd ?_ rfl rfl rfl rfl rfl rfl rfl rfl rfl) | apply KeepsRes.here (by assumption)
    | split | dsimp only [id] | intro _ _

theorem execMapoutRemove_keeps {x0} (h : Keeps q s0 s) : KeepsRes q s0 (execMapoutRemove x0 s) := by
  unfold execMapoutRemove
  try dsimp only
  repeat' with_reducible first
    | assumption | apply adminRun_keeps | apply adminCheck_keeps | apply KeepsRes.next
    | fail_if_no_progress (refine Keeps.upd ?_ rfl rfl rfl rfl rfl rfl rfl rfl rfl) | apply KeepsRes.here (by assumption)
    | dsimp only [id] | intro _ _

theorem execMemReconfigure_keeps {x0} (h : Keeps q s0 s) : KeepsRes q s0 (execMemReconfigure x0 s) := by
  unfold execMemReconfigure
  try dsimp only
  repeat' with_reducible first
    | assumption | apply adminRun_keeps | apply KeepsRes.next
    | fail_if_no_progress (refine Keeps.upd ?_ rfl rfl rfl rfl rfl rfl rfl rfl rfl) | apply KeepsRes.here (by assumption)
    | split | dsimp only [id] | intro _ _

theorem execBootConfig_keeps {x0} (h : Keeps q s0 s) : KeepsRes q s0 (execBootConfig x0 s) := by
  unfold execBootConfig
  try dsimp only
  repeat' with_reducible first
    | assumption | apply adminRun_keeps | apply adminCheck_keeps | apply KeepsRes.next
    | fail_if_no_progress (refine Keeps.upd ?_ rfl rfl rfl rfl rfl rfl rfl rfl rfl) | apply KeepsRes.here (by assumption)
    | dsimp only [id] | intro _ _

theorem execRdmaMrRegister_keeps {x0} (h : Keeps q s0 s) : KeepsRes q s0 (execRdmaMrRegister x0 s) := by
  unfold execRdmaMrRegister
  try dsimp only
  repeat' with_reducible first
    | assumption | apply adminRun_keeps | apply KeepsRes.next
    | fail_if_no_progress (refine Keeps.upd ?_ rfl rfl rfl rfl rfl rfl rfl rfl rfl) | apply KeepsRes.here (by assumption)
    | split | dsimp only [id] | intro _ _

theorem execRdmaMrDeregister_keeps {x0} (h : Keeps q s0 s) : KeepsRes q s0 (execRdmaMrDeregister x0 s) := by
  unfold execRdmaMrDeregister
  try dsimp only
  repeat' with_reducible first
    | assumption | apply adminRun_keeps | apply adminCheck_keeps | apply KeepsRes.next
    | fail_if_no_progress (refine Keeps.upd ?_ rfl rfl rfl rfl rfl rfl rfl rfl rfl) | apply Keeps.snd (by assumption)
    | apply Keeps.thd (by assumption) | apply KeepsRes.here (by assumption) | split | dsimp only [id] | intro _ _

theorem execRdmaQpSet_keeps {x0} (h : Keeps q s0 s) : KeepsRes q s0 (execRdmaQpSet x0 s) := by
  unfold execRdmaQpSet
  try dsimp only
  repeat' with_reducible first
    | assumption | apply adminRun_keeps | apply withBlock_keeps | apply adminCheck_keeps | apply KeepsRes.next
    | fail_if_no_progress (refine Keeps.upd ?_ rfl rfl rfl rfl rfl rfl rfl rfl rfl) | apply KeepsRes.here (by assumption)
    | split | dsimp only [id] | intro _ _

theorem execNvmfAttach_keeps {x0} (h : Keeps q s0 s) : KeepsRes q s0 (execNvmfAttach x0 s) := by
  unfold execNvmfAttach
  try dsimp only
  repeat' with_reducible first
    | assumption | apply adminRun_keeps | apply rebindExtent_keeps | apply KeepsRes.next
    | fail_if_no_progress (refine Keeps.upd ?_ rfl rfl rfl rfl rfl rfl rfl rfl rfl) | apply KeepsRes.here (by assumption)
    | split | dsimp only [id] | intro _ _

theorem execSnapshotStart_keeps {x0} (h : Keeps q s0 s) : KeepsRes q s0 (execSnapshotStart x0 s) := by
  unfold execSnapshotStart
  try dsimp only
  repeat' with_reducible first
    | assumption | apply adminRun_keeps | apply withBlock_keeps | apply onUnit_keeps | apply KeepsRes.next
    | apply KeepsRes.fault | fail_if_no_progress (refine Keeps.upd ?_ rfl rfl rfl rfl rfl rfl rfl rfl rfl)
    | apply Keeps.foldl | apply Keeps.foldl2 | apply Keeps.foldl3 | apply Keeps.foldl4 | apply Keeps.snd (by assumption)
    | apply Keeps.thd (by assumption) | apply KeepsRes.here (by assumption) | split | dsimp only [id] | intro _ _ _
    | intro _ _

theorem execSnapshotAbort_keeps {x0} (h : Keeps q s0 s) : KeepsRes q s0 (execSnapshotAbort x0 s) := by
  unfold execSnapshotAbort
  try dsimp only
  repeat' with_reducible first
    | assumption | apply adminRun_keeps | apply adminCheck_keeps | apply voidSnapshot_keeps | apply KeepsRes.next
    | apply Keeps.snd (by assumption) | apply Keeps.thd (by assumption) | apply KeepsRes.here (by assumption) | split
    | dsimp only [id] | intro _ _

theorem execHandoverPrepare_keeps {x0} (h : Keeps q s0 s) : KeepsRes q s0 (execHandoverPrepare x0 s) := by
  unfold execHandoverPrepare
  try dsimp only
  repeat' with_reducible first
    | assumption | apply adminRun_keeps | apply copyNext_keeps | apply KeepsRes.next
    | fail_if_no_progress (refine Keeps.upd ?_ rfl rfl rfl rfl rfl rfl rfl rfl rfl) | apply Keeps.snd (by assumption)
    | apply Keeps.thd (by assumption) | apply KeepsRes.here (by assumption) | split | dsimp only [id] | intro _ _

theorem execHandoverCopyDone_keeps {x0} (h : Keeps q s0 s) : KeepsRes q s0 (execHandoverCopyDone x0 s) := by
  unfold execHandoverCopyDone
  try dsimp only
  repeat' with_reducible first
    | assumption | apply modHandover_keeps | apply finishStarted_keeps | apply KeepsRes.next
    | fail_if_no_progress (refine Keeps.upd ?_ rfl rfl rfl rfl rfl rfl rfl rfl rfl) | apply Keeps.snd (by assumption)
    | apply Keeps.thd (by assumption) | split | dsimp only [id]

theorem execHandoverSwitch_keeps {x0} (h : Keeps q s0 s) : KeepsRes q s0 (execHandoverSwitch x0 s) := by
  unfold execHandoverSwitch
  try dsimp only
  repeat' with_reducible first
    | assumption | apply adminRun_keeps | apply adminCheck_keeps | apply modHandover_keeps | apply KeepsRes.next
    | fail_if_no_progress (refine Keeps.upd ?_ rfl rfl rfl rfl rfl rfl rfl rfl rfl) | apply KeepsRes.here (by assumption)
    | dsimp only [id] | intro _ _

/-! ## LegTimes -/

theorem takePace_keeps {x0} (h : Keeps q s0 s) : Keeps q s0 (takePace x0 s) := by
  unfold takePace
  try dsimp only
  repeat' with_reducible first
    | assumption | apply raise_keeps | fail_if_no_progress (refine Keeps.upd ?_ rfl rfl rfl rfl rfl rfl rfl rfl rfl) | split
    | dsimp only [id]

theorem sendPace_keeps {x0} (h : Keeps q s0 s) : Keeps q s0 (sendPace x0 s) := by
  unfold sendPace
  try dsimp only
  repeat' with_reducible first
    | assumption | apply sendOn_keeps | apply Keeps.foldl | dsimp only [id] | intro _ _ _ | intro _ _

theorem notePace_keeps (h : Keeps q s0 s) : Keeps q s0 (notePace s) := by
  unfold notePace
  try dsimp only
  repeat' with_reducible first
    | assumption | apply takePace_keeps | apply sendPace_keeps
    | fail_if_no_progress (refine Keeps.upd ?_ rfl rfl rfl rfl rfl rfl rfl rfl rfl) | apply Keeps.snd (by assumption)
    | apply Keeps.thd (by assumption) | split | dsimp only [id]

theorem onMerged_keeps (h : Keeps q s0 s) : Keeps q s0 (onMerged s) := by
  unfold onMerged
  try dsimp only
  repeat' with_reducible first
    | assumption | apply actOnMerged_keeps | apply notePace_keeps

theorem startReturn_keeps {x0} (h : Keeps q s0 s) : Keeps q s0 (startReturn x0 s) := by
  unfold startReturn
  try dsimp only
  repeat' with_reducible first
    | assumption | apply latchGscale_keeps | apply checkSkew_keeps
    | fail_if_no_progress (refine Keeps.upd ?_ rfl rfl rfl rfl rfl rfl rfl rfl rfl) | apply Keeps.foldl | split
    | dsimp only [id] | intro _ _ _ | intro _ _

theorem beginLeg_keeps {x0} (h : Keeps q s0 s) : Keeps q s0 (beginLeg x0 s) := by
  unfold beginLeg
  try dsimp only
  repeat' with_reducible first
    | assumption | apply claimSamples_keeps | apply startReturn_keeps | apply claimRequests_keeps
    | fail_if_no_progress (refine Keeps.upd ?_ rfl rfl rfl rfl rfl rfl rfl rfl rfl) | apply Keeps.snd (by assumption)
    | apply Keeps.thd (by assumption) | split

theorem openLegAt_keeps {x0 x1} (h : Keeps q s0 s) : Keeps q s0 (openLegAt x0 x1 s) := by
  unfold openLegAt
  try dsimp only
  repeat' with_reducible first
    | assumption | apply wake_keeps | apply wakeForLeg_keeps | apply beginLeg_keeps | apply noteInForce_keeps
    | apply presetCap_keeps | apply settleTile_keeps
    | fail_if_no_progress (refine Keeps.upd ?_ rfl rfl rfl rfl rfl rfl rfl rfl rfl) | apply Keeps.foldl | dsimp only [id]
    | intro _ _ _ | intro _ _

theorem execLegStart_keeps {x0 x1} (h : Keeps q s0 s) : KeepsRes q s0 (execLegStart x0 x1 s) := by
  unfold execLegStart
  try dsimp only
  repeat' with_reducible first
    | assumption | apply atTime_keeps | apply openLegAt_keeps | apply KeepsRes.next | apply Keeps.snd (by assumption)
    | apply Keeps.thd (by assumption) | split | dsimp only [id]

theorem modLegs_keeps {x0} (h : Keeps q s0 s) : Keeps q s0 (modLegs x0 s) := by
  unfold modLegs
  try dsimp only
  repeat' with_reducible first
    | assumption | fail_if_no_progress (refine Keeps.upd ?_ rfl rfl rfl rfl rfl rfl rfl rfl rfl)

theorem execApplyStart_keeps {x0} (h : Keeps q s0 s) : KeepsRes q s0 (execApplyStart x0 s) := by
  unfold execApplyStart
  try dsimp only
  repeat' with_reducible first
    | assumption | apply atTime_keeps | apply modOcc_keeps | apply modLegs_keeps | apply openApply_keeps
    | apply KeepsRes.next | fail_if_no_progress (refine Keeps.upd ?_ rfl rfl rfl rfl rfl rfl rfl rfl rfl)
    | apply Keeps.snd (by assumption) | apply Keeps.thd (by assumption) | split | dsimp only [id]

theorem overrunPolicy_keeps {x0} (h : Keeps q s0 s) : Keeps q s0 (overrunPolicy x0 s) := by
  unfold overrunPolicy
  try dsimp only
  repeat' with_reducible first
    | assumption | apply requestHalt_keeps | apply requestSkip_keeps | split

theorem execLegDeadline_keeps {x0 x1 x2} (h : Keeps q s0 s) : KeepsRes q s0 (execLegDeadline x0 x1 x2 s) := by
  unfold execLegDeadline
  try dsimp only
  repeat' with_reducible first
    | assumption | apply atTime_keeps | apply modOcc_keeps | apply ackNow_keeps | apply overrunPolicy_keeps
    | apply onMerged_keeps | apply KeepsRes.next
    | fail_if_no_progress (refine Keeps.upd ?_ rfl rfl rfl rfl rfl rfl rfl rfl rfl) | apply Keeps.snd (by assumption)
    | apply Keeps.thd (by assumption) | split | dsimp only [id]

theorem legOverrun_keeps {x0 x1 x2 x3} (h : Keeps q s0 s) : Keeps q s0 (legOverrun x0 x1 x2 x3 s) := by
  unfold legOverrun
  try dsimp only
  repeat' with_reducible first
    | assumption | apply raise_keeps | fail_if_no_progress (refine Keeps.upd ?_ rfl rfl rfl rfl rfl rfl rfl rfl rfl) | split
    | dsimp only [id]

theorem settleLate_keeps {x0 x1 x2} (h : Keeps q s0 s) : Keeps q s0 (settleLate x0 x1 x2 s) := by
  unfold settleLate
  try dsimp only
  repeat' with_reducible first
    | assumption | apply tally_keeps | apply legOverrun_keeps | apply overrunPolicy_keeps
    | fail_if_no_progress (refine Keeps.upd ?_ rfl rfl rfl rfl rfl rfl rfl rfl rfl) | split | dsimp only [id]

theorem afterLeg_keeps {x0} (h : Keeps q s0 s) : Keeps q s0 (afterLeg x0 s) := by
  unfold afterLeg
  try dsimp only
  repeat' with_reducible first
    | assumption | apply checkReturnDone_keeps | apply pumpDense_keeps | apply grazeLegEnd_keeps
    | fail_if_no_progress (refine Keeps.upd ?_ rfl rfl rfl rfl rfl rfl rfl rfl rfl) | apply Keeps.snd (by assumption)
    | apply Keeps.thd (by assumption) | split | dsimp only [id]

theorem freeHeldLegs_keeps (h : Keeps q s0 s) : Keeps q s0 (freeHeldLegs s) := by
  unfold freeHeldLegs
  try dsimp only
  repeat' with_reducible first
    | assumption | fail_if_no_progress (refine Keeps.upd ?_ rfl rfl rfl rfl rfl rfl rfl rfl rfl) | apply Keeps.foldl
    | apply Keeps.foldl2 | apply Keeps.foldl3 | apply Keeps.foldl4 | split | dsimp only [id] | intro _ _ _ | intro _ _

theorem execLegComplete_keeps {x0 x1 x2 x3 x4} (h : Keeps q s0 s) : KeepsRes q s0 (execLegComplete x0 x1 x2 x3 x4 s) := by
  unfold execLegComplete
  try dsimp only
  repeat' with_reducible first
    | assumption | apply atTime_keeps | apply noteOverrun_keeps | apply settleLate_keeps | apply freeHeldLegs_keeps
    | apply afterLeg_keeps | apply ackNow_keeps | apply idleAfter_keeps | apply onMerged_keeps | apply KeepsRes.next
    | fail_if_no_progress (refine Keeps.upd ?_ rfl rfl rfl rfl rfl rfl rfl rfl rfl) | apply Keeps.snd (by assumption)
    | apply Keeps.thd (by assumption) | split | dsimp only [id]

theorem execUnitWake_keeps {x0 x1} (h : Keeps q s0 s) : KeepsRes q s0 (execUnitWake x0 x1 s) := by
  unfold execUnitWake
  try dsimp only
  repeat' with_reducible first
    | assumption | apply atTime_keeps | apply wake_keeps | apply KeepsRes.next | apply Keeps.snd (by assumption)
    | apply Keeps.thd (by assumption) | split | dsimp only [id]

theorem execUnplannedWake_keeps {x0 x1} (h : Keeps q s0 s) : KeepsRes q s0 (execUnplannedWake x0 x1 s) := by
  unfold execUnplannedWake
  try dsimp only
  repeat' with_reducible first
    | assumption | apply atTime_keeps | apply rouse_keeps | apply wake_keeps | apply KeepsRes.next | split | dsimp only [id]

theorem takeCommitted_keeps {x0} (h : Keeps q s0 s) : Keeps q s0 (takeCommitted x0 s) := by
  unfold takeCommitted
  try dsimp only
  repeat' with_reducible first
    | assumption | apply checkCommitted_keeps
    | fail_if_no_progress (refine Keeps.upd ?_ rfl rfl rfl rfl rfl rfl rfl rfl rfl) | split | dsimp only [id]

theorem takeAck_keeps {x0} (h : Keeps q s0 s) : Keeps q s0 (takeAck x0 s) := by
  unfold takeAck
  try dsimp only
  repeat' with_reducible first
    | assumption | apply requestSkip_keeps | apply checkReturnDone_keeps | apply checkCommitted_keeps | apply onMerged_keeps
    | apply sendAck_keeps | fail_if_no_progress (refine Keeps.upd ?_ rfl rfl rfl rfl rfl rfl rfl rfl rfl) | split
    | dsimp only [id]

theorem execAckReceive_keeps {x0 x1 x2} (h : Keeps q s0 s) : KeepsRes q s0 (execAckReceive x0 x1 x2 s) := by
  unfold execAckReceive
  try dsimp only
  repeat' with_reducible first
    | assumption | apply deliverRx_keeps | apply takeAck_keeps | apply takeCommitted_keeps | apply onUnit_keeps
    | apply KeepsRes.next | split | dsimp only [id] | intro _ _

theorem execApplyGoReceive_keeps {x0 x1 x2} (h : Keeps q s0 s) : KeepsRes q s0 (execApplyGoReceive x0 x1 x2 s) := by
  unfold execApplyGoReceive
  try dsimp only
  repeat' with_reducible first
    | assumption | apply deliverRx_keeps | apply sendDown_keeps | apply onAbandon_keeps | apply onUnit_keeps
    | apply KeepsRes.next | fail_if_no_progress (refine Keeps.upd ?_ rfl rfl rfl rfl rfl rfl rfl rfl rfl) | split
    | dsimp only [id] | intro _ _

theorem execApplyEndReceive_keeps {x0 x1 x2} (h : Keeps q s0 s) : KeepsRes q s0 (execApplyEndReceive x0 x1 x2 s) := by
  unfold execApplyEndReceive
  try dsimp only
  repeat' with_reducible first
    | assumption | apply deliverRx_keeps | apply sendDown_keeps | apply recordApplyEnd_keeps | apply onUnit_keeps
    | apply KeepsRes.next | split | dsimp only [id] | intro _ _

theorem execHaltReceive_keeps {x0 x1 x2} (h : Keeps q s0 s) : KeepsRes q s0 (execHaltReceive x0 x1 x2 s) := by
  unfold execHaltReceive
  try dsimp only
  repeat' with_reducible first
    | assumption | apply deliverRx_keeps | apply sendDown_keeps | apply beginHalt_keeps | apply onUnit_keeps
    | apply KeepsRes.next | split | dsimp only [id] | intro _ _

theorem execPaceReceive_keeps {x0 x1 x2} (h : Keeps q s0 s) : KeepsRes q s0 (execPaceReceive x0 x1 x2 s) := by
  unfold execPaceReceive
  try dsimp only
  repeat' with_reducible first
    | assumption | apply deliverRx_keeps | apply takePace_keeps | apply sendPace_keeps | apply onUnit_keeps
    | apply KeepsRes.next | split | dsimp only [id] | intro _ _

theorem execEchoTimer_keeps {x0} (h : Keeps q s0 s) : KeepsRes q s0 (execEchoTimer x0 s) := by
  unfold execEchoTimer
  try dsimp only
  repeat' with_reducible first
    | assumption | apply sendEcho_keeps | apply atTime_keeps | apply KeepsRes.next

theorem execEchoReq_keeps {x0 x1 x2} (h : Keeps q s0 s) : KeepsRes q s0 (execEchoReq x0 x1 x2 s) := by
  unfold execEchoReq
  try dsimp only
  repeat' with_reducible first
    | assumption | apply deliverRx_keeps | apply sendOn_keeps | apply onUnit_keeps | apply KeepsRes.next | dsimp only [id]
    | intro _ _

theorem execEchoRsp_keeps {x0 x1 x2} (h : Keeps q s0 s) : KeepsRes q s0 (execEchoRsp x0 x1 x2 s) := by
  unfold execEchoRsp
  try dsimp only
  repeat' with_reducible first
    | assumption | apply deliverRx_keeps | apply onUnit_keeps | apply KeepsRes.next
    | fail_if_no_progress (refine Keeps.upd ?_ rfl rfl rfl rfl rfl rfl rfl rfl rfl) | split | dsimp only [id] | intro _ _

/-! ## LinkOps -/

theorem setLaser_keeps {x0 x1} (h : Keeps q s0 s) : Keeps q s0 (setLaser x0 x1 s) := by
  unfold setLaser
  try dsimp only
  repeat' with_reducible first
    | assumption | fail_if_no_progress (refine Keeps.upd ?_ rfl rfl rfl rfl rfl rfl rfl rfl rfl)

theorem dropHolds_keeps {x0} (h : Keeps q s0 s) : Keeps q s0 (dropHolds x0 s) := by
  unfold dropHolds
  try dsimp only
  repeat' with_reducible first
    | assumption | fail_if_no_progress (refine Keeps.upd ?_ rfl rfl rfl rfl rfl rfl rfl rfl rfl)
    | apply Keeps.snd (by assumption) | apply Keeps.thd (by assumption) | split | dsimp only [id]

theorem startTraining_keeps {x0} (h : Keeps q s0 s) : Keeps q s0 (startTraining x0 s) := by
  unfold startTraining
  try dsimp only
  repeat' with_reducible first
    | assumption | apply dropHolds_keeps | apply modLink_keeps | split

theorem goDown_keeps {x0 x1} (h : Keeps q s0 s) : Keeps q s0 (goDown x0 x1 s) := by
  unfold goDown
  try dsimp only
  repeat' with_reducible first
    | assumption | apply leaveLive_keeps | apply setLink_keeps | apply linkDown_keeps
    | fail_if_no_progress (refine Keeps.upd ?_ rfl rfl rfl rfl rfl rfl rfl rfl rfl) | apply Keeps.snd (by assumption)
    | apply Keeps.thd (by assumption) | split | dsimp only [id]

theorem execLaserDrain_keeps {x0 x1} (h : Keeps q s0 s) : KeepsRes q s0 (execLaserDrain x0 x1 s) := by
  unfold execLaserDrain
  try dsimp only
  repeat' with_reducible first
    | assumption | apply atTime_keeps | apply modLink_keeps | apply setLaser_keeps | apply rerouteQueue_keeps
    | apply onUnit_keeps | apply KeepsRes.next
    | fail_if_no_progress (refine Keeps.upd ?_ rfl rfl rfl rfl rfl rfl rfl rfl rfl) | apply Keeps.foldl | split
    | dsimp only [id] | intro _ _ _ | intro _ _

theorem execLinkCtlRetrain_keeps {x0 x1} (h : Keeps q s0 s) : KeepsRes q s0 (execLinkCtlRetrain x0 x1 s) := by
  unfold execLinkCtlRetrain
  try dsimp only
  repeat' with_reducible first
    | assumption | apply enterRetrain_keeps | apply atTime_keeps | apply onUnit_keeps | apply KeepsRes.next

theorem execLinkCtlTakeDown_keeps {x0 x1} (h : Keeps q s0 s) : KeepsRes q s0 (execLinkCtlTakeDown x0 x1 s) := by
  unfold execLinkCtlTakeDown
  try dsimp only
  repeat' with_reducible first
    | assumption | apply atTime_keeps | apply modLink_keeps | apply goDown_keeps | apply onUnit_keeps | apply KeepsRes.next
    | fail_if_no_progress (refine Keeps.upd ?_ rfl rfl rfl rfl rfl rfl rfl rfl rfl) | split | dsimp only [id]

theorem execLinkCtlBringUp_keeps {x0 x1} (h : Keeps q s0 s) : KeepsRes q s0 (execLinkCtlBringUp x0 x1 s) := by
  unfold execLinkCtlBringUp
  try dsimp only
  repeat' with_reducible first
    | assumption | apply atTime_keeps | apply startTraining_keeps | apply onUnit_keeps | apply KeepsRes.next | split
    | dsimp only [id]

theorem linkDegraded_keeps {x0 x1 x2 x3 x4 x5 x6 x7} (h : Keeps q s0 s) : Keeps q s0 (linkDegraded x0 x1 x2 x3 x4 x5 x6 x7 s) := by
  unfold linkDegraded
  try dsimp only
  repeat' with_reducible first
    | assumption | apply raise_keeps

theorem laserFault_keeps {x0 x1 x2 x3 x4 x5} (h : Keeps q s0 s) : Keeps q s0 (laserFault x0 x1 x2 x3 x4 x5 s) := by
  unfold laserFault
  try dsimp only
  repeat' with_reducible first
    | assumption | apply raise_keeps

theorem placeEntries_keeps {x0 x1} (h : Keeps q s0 s) : Keeps q s0 (placeEntries x0 x1 s) := by
  unfold placeEntries
  try dsimp only
  repeat' with_reducible first
    | assumption | apply modLink_keeps | apply endHandoff_keeps | apply route_keeps
    | fail_if_no_progress (refine Keeps.upd ?_ rfl rfl rfl rfl rfl rfl rfl rfl rfl) | apply Keeps.foldl | apply Keeps.foldl2
    | apply Keeps.foldl3 | apply Keeps.foldl4 | apply Keeps.snd (by assumption) | apply Keeps.thd (by assumption) | split
    | dsimp only [id] | intro _ _ _ | intro _ _

theorem execLinkState_keeps {x0 x1 x2 x3} (h : Keeps q s0 s) : KeepsRes q s0 (execLinkState x0 x1 x2 x3 s) := by
  unfold execLinkState
  try dsimp only
  repeat' with_reducible first
    | assumption | apply deliverRx_keeps | apply placeEntries_keeps | apply modLink_keeps | apply enterRetrain_keeps
    | apply onUnit_keeps | apply KeepsRes.next
    | fail_if_no_progress (refine Keeps.upd ?_ rfl rfl rfl rfl rfl rfl rfl rfl rfl) | apply Keeps.snd (by assumption)
    | apply Keeps.thd (by assumption) | split | dsimp only [id] | intro _ _

theorem execLinkStateTimeout_keeps {x0 x1} (h : Keeps q s0 s) : KeepsRes q s0 (execLinkStateTimeout x0 x1 s) := by
  unfold execLinkStateTimeout
  try dsimp only
  repeat' with_reducible first
    | assumption | apply atTime_keeps | apply dropHandoff_keeps | apply onUnit_keeps | apply KeepsRes.next | dsimp only [id]

theorem execCarriageCrcError_keeps {x0 x1 x2} (h : Keeps q s0 s) : KeepsRes q s0 (execCarriageCrcError x0 x1 x2 s) := by
  unfold execCarriageCrcError
  try dsimp only
  repeat' with_reducible first
    | assumption | apply atTime_keeps | apply crcError_keeps | apply onUnit_keeps | apply KeepsRes.next | split
    | dsimp only [id]

theorem execNak_keeps {x0 x1} (h : Keeps q s0 s) : KeepsRes q s0 (execNak x0 x1 s) := by
  unfold execNak
  try dsimp only
  repeat' with_reducible first
    | assumption | apply idleFill_keeps | apply resendAll_keeps | apply tally_keeps | apply atTime_keeps
    | apply deliverRx_keeps | apply onUnit_keeps | apply KeepsRes.next
    | fail_if_no_progress (refine Keeps.upd ?_ rfl rfl rfl rfl rfl rfl rfl rfl rfl) | split | dsimp only [id] | intro _ _

theorem execNakRepeat_keeps {x0 x1} (h : Keeps q s0 s) : KeepsRes q s0 (execNakRepeat x0 x1 s) := by
  unfold execNakRepeat
  try dsimp only
  repeat' with_reducible first
    | assumption | apply atTime_keeps | apply sendNak_keeps | apply onUnit_keeps | apply KeepsRes.next | split
    | dsimp only [id]

theorem execLinkAckTimeout_keeps {x0 x1} (h : Keeps q s0 s) : KeepsRes q s0 (execLinkAckTimeout x0 x1 s) := by
  unfold execLinkAckTimeout
  try dsimp only
  repeat' with_reducible first
    | assumption | apply atTime_keeps | apply sendLocal_keeps | apply onUnit_keeps | apply KeepsRes.next | split
    | dsimp only [id]

theorem execRetrainTimeout_keeps {x0 x1} (h : Keeps q s0 s) : KeepsRes q s0 (execRetrainTimeout x0 x1 s) := by
  unfold execRetrainTimeout
  try dsimp only
  repeat' with_reducible first
    | assumption | apply atTime_keeps | apply enterRetrain_keeps | apply onUnit_keeps | apply KeepsRes.next | split
    | dsimp only [id]

theorem setLanes_keeps {x0 x1 x2 x3 x4} (h : Keeps q s0 s) : Keeps q s0 (setLanes x0 x1 x2 x3 x4 s) := by
  unfold setLanes
  try dsimp only
  repeat' with_reducible first
    | assumption | apply setLink_keeps | apply linkDegraded_keeps | apply goDown_keeps | apply pump_keeps
    | fail_if_no_progress (refine Keeps.upd ?_ rfl rfl rfl rfl rfl rfl rfl rfl rfl) | split | dsimp only [id]

theorem dropLane_keeps {x0 x1 x2 x3 x4} (h : Keeps q s0 s) : Keeps q s0 (dropLane x0 x1 x2 x3 x4 s) := by
  unfold dropLane
  try dsimp only
  repeat' with_reducible first
    | assumption | apply setLanes_keeps | split | dsimp only [id]

theorem restoreLane_keeps {x0 x1 x2} (h : Keeps q s0 s) : Keeps q s0 (restoreLane x0 x1 x2 s) := by
  unfold restoreLane
  try dsimp only
  repeat' with_reducible first
    | assumption | apply setLanes_keeps | split | dsimp only [id]

theorem execLink_keeps {x0 x1 x2} (h : Keeps q s0 s) : KeepsRes q s0 (execLink x0 x1 x2 s) := by
  unfold execLink
  try dsimp only
  repeat' with_reducible first
    | assumption | apply deliverRx_keeps | apply dropLane_keeps | apply restoreLane_keeps | apply onUnit_keeps
    | apply KeepsRes.next | apply Keeps.snd (by assumption) | apply Keeps.thd (by assumption) | split | dsimp only [id]
    | intro _ _

theorem execLaneDrop_keeps {x0 x1 x2 x3 x4 x5} (h : Keeps q s0 s) : KeepsRes q s0 (execLaneDrop x0 x1 x2 x3 x4 x5 s) := by
  unfold execLaneDrop
  try dsimp only
  repeat' with_reducible first
    | assumption | apply atTime_keeps | apply dropLane_keeps | apply sendOn_keeps | apply onUnit_keeps | apply KeepsRes.next
    | split | dsimp only [id]

theorem setSer_keeps {x0 x1} (h : Keeps q s0 s) : Keeps q s0 (setSer x0 x1 s) := by
  unfold setSer
  try dsimp only
  repeat' with_reducible first
    | assumption | apply modLink_keeps | fail_if_no_progress (refine Keeps.upd ?_ rfl rfl rfl rfl rfl rfl rfl rfl rfl)
    | split

theorem execCdrTrim_keeps {x0 x1 x2} (h : Keeps q s0 s) : KeepsRes q s0 (execCdrTrim x0 x1 x2 s) := by
  unfold execCdrTrim
  try dsimp only
  repeat' with_reducible first
    | assumption | apply taskRan_keeps | apply setSer_keeps | apply atTime_keeps | apply sendOn_keeps
    | apply restoreLane_keeps | apply KeepsRes.next | apply Keeps.foldl | split | dsimp only [id] | intro _ _ _ | intro _ _

theorem reportLanes_keeps {x0 x1 x2 x3} (h : Keeps q s0 s) : Keeps q s0 (reportLanes x0 x1 x2 x3 s) := by
  unfold reportLanes
  try dsimp only
  repeat' with_reducible first
    | assumption | apply linkDegraded_keeps | split

theorem linkService_keeps {x0 x1 x2} (h : Keeps q s0 s) : Keeps q s0 (linkService x0 x1 x2 s) := by
  unfold linkService
  try dsimp only
  repeat' with_reducible first
    | assumption | apply setLink_keeps | apply pump_keeps | apply reportLanes_keeps | apply sendEcho_keeps
    | fail_if_no_progress (refine Keeps.upd ?_ rfl rfl rfl rfl rfl rfl rfl rfl rfl) | split | dsimp only [id]

theorem tryUp_keeps {x0} (h : Keeps q s0 s) : Keeps q s0 (tryUp x0 s) := by
  unfold tryUp
  try dsimp only
  repeat' with_reducible first
    | assumption | apply setLink_keeps | apply linkService_keeps | apply goDown_keeps
    | fail_if_no_progress (refine Keeps.upd ?_ rfl rfl rfl rfl rfl rfl rfl rfl rfl) | apply Keeps.snd (by assumption)
    | apply Keeps.thd (by assumption) | split | dsimp only [id]

theorem sendLinkId_keeps {x0} (h : Keeps q s0 s) : Keeps q s0 (sendLinkId x0 s) := by
  unfold sendLinkId
  try dsimp only
  repeat' with_reducible first
    | assumption | apply sendLocal_keeps | split | dsimp only [id]

theorem execLinkTrainComplete_keeps {x0 x1 x2} (h : Keeps q s0 s) : KeepsRes q s0 (execLinkTrainComplete x0 x1 x2 s) := by
  unfold execLinkTrainComplete
  try dsimp only
  repeat' with_reducible first
    | assumption | apply atTime_keeps | apply goDown_keeps | apply tryUp_keeps | apply sendLinkId_keeps
    | apply setLink_keeps | apply onUnit_keeps | apply KeepsRes.next
    | fail_if_no_progress (refine Keeps.upd ?_ rfl rfl rfl rfl rfl rfl rfl rfl rfl) | split | dsimp only [id]

theorem execLinkId_keeps {x0 x1 x2 x3 x4} (h : Keeps q s0 s) : KeepsRes q s0 (execLinkId x0 x1 x2 x3 x4 s) := by
  unfold execLinkId
  try dsimp only
  repeat' with_reducible first
    | assumption | apply atTime_keeps | apply freeBuffer_keeps | apply modLink_keeps | apply tryUp_keeps
    | apply onUnit_keeps | apply KeepsRes.next
    | fail_if_no_progress (refine Keeps.upd ?_ rfl rfl rfl rfl rfl rfl rfl rfl rfl) | split | dsimp only [id]

theorem execRetrainComplete_keeps {x0 x1 x2} (h : Keeps q s0 s) : KeepsRes q s0 (execRetrainComplete x0 x1 x2 s) := by
  unfold execRetrainComplete
  try dsimp only
  repeat' with_reducible first
    | assumption | apply atTime_keeps | apply linkService_keeps | apply dropHolds_keeps | apply modLink_keeps
    | apply goDown_keeps | apply onUnit_keeps | apply KeepsRes.next | split | dsimp only [id]

theorem execPeerRetrain_keeps {x0 x1} (h : Keeps q s0 s) : KeepsRes q s0 (execPeerRetrain x0 x1 s) := by
  unfold execPeerRetrain
  try dsimp only
  repeat' with_reducible first
    | assumption | apply atTime_keeps | apply startTraining_keeps | apply leaveLive_keeps | apply onUnit_keeps
    | apply KeepsRes.next | split | dsimp only [id]

theorem execLaserEol_keeps {x0 x1 x2 x3 x4} (h : Keeps q s0 s) : KeepsRes q s0 (execLaserEol x0 x1 x2 x3 x4 s) := by
  unfold execLaserEol
  try dsimp only
  repeat' with_reducible first
    | assumption | apply atTime_keeps | apply laserFault_keeps | apply setLaser_keeps | apply onUnit_keeps
    | apply KeepsRes.next | fail_if_no_progress (refine Keeps.upd ?_ rfl rfl rfl rfl rfl rfl rfl rfl rfl) | split
    | dsimp only [id]

theorem execLaserFailure_keeps {x0 x1 x2 x3 x4 x5} (h : Keeps q s0 s) : KeepsRes q s0 (execLaserFailure x0 x1 x2 x3 x4 x5 s) := by
  unfold execLaserFailure
  try dsimp only
  repeat' with_reducible first
    | assumption | apply atTime_keeps | apply setLaser_keeps | apply laserFault_keeps | apply dropLane_keeps
    | apply onUnit_keeps | apply KeepsRes.next
    | fail_if_no_progress (refine Keeps.upd ?_ rfl rfl rfl rfl rfl rfl rfl rfl rfl) | apply Keeps.foldl | split
    | dsimp only [id] | intro _ _ _ | intro _ _

theorem execLaserModuleRemoved_keeps {x0 x1} (h : Keeps q s0 s) : KeepsRes q s0 (execLaserModuleRemoved x0 x1 s) := by
  unfold execLaserModuleRemoved
  try dsimp only
  repeat' with_reducible first
    | assumption | apply atTime_keeps | apply setLaser_keeps | apply laserFault_keeps | apply goDown_keeps
    | apply onUnit_keeps | apply KeepsRes.next
    | fail_if_no_progress (refine Keeps.upd ?_ rfl rfl rfl rfl rfl rfl rfl rfl rfl) | apply Keeps.foldl | split
    | dsimp only [id] | intro _ _ _ | intro _ _

theorem execLaserModuleInserted_keeps {x0 x1 x2} (h : Keeps q s0 s) : KeepsRes q s0 (execLaserModuleInserted x0 x1 x2 s) := by
  unfold execLaserModuleInserted
  try dsimp only
  repeat' with_reducible first
    | assumption | apply atTime_keeps | apply startTraining_keeps | apply setLaser_keeps | apply laserFault_keeps
    | apply onUnit_keeps | apply KeepsRes.next
    | fail_if_no_progress (refine Keeps.upd ?_ rfl rfl rfl rfl rfl rfl rfl rfl rfl) | apply Keeps.foldl | split
    | dsimp only [id] | intro _ _ _ | intro _ _

theorem drainLink_keeps {x0} (h : Keeps q s0 s) : Keeps q s0 (drainLink x0 s) := by
  unfold drainLink
  try dsimp only
  repeat' with_reducible first
    | assumption | apply modLink_keeps | apply goDown_keeps
    | fail_if_no_progress (refine Keeps.upd ?_ rfl rfl rfl rfl rfl rfl rfl rfl rfl) | split

theorem execLaserDrainComplete_keeps {x0} (h : Keeps q s0 s) : KeepsRes q s0 (execLaserDrainComplete x0 s) := by
  unfold execLaserDrainComplete
  try dsimp only
  repeat' with_reducible first
    | assumption | apply setLaser_keeps | apply drainLink_keeps | apply onUnit_keeps | apply KeepsRes.next
    | fail_if_no_progress (refine Keeps.upd ?_ rfl rfl rfl rfl rfl rfl rfl rfl rfl) | apply Keeps.foldl | split
    | dsimp only [id] | intro _ _ _ | intro _ _

/-! ## PlanLoad -/

theorem loadEntry_keeps {k : EntryKind} {b : List Byte} {t : State} (hk : ∀ n b t, Keeps q s0 t → Keeps q s0 (k.put n b t)) (h : Keeps q s0 s)
    (e : loadEntry k b s = .ok t) : Keeps q s0 t := by
  unfold loadEntry at e
  dsimp only at e
  split at e
  · cases e
  · split at e
    · cases e
    · cases e; exact hk _ _ _ h

theorem loadAll_keeps {k : EntryKind} {l : List (List Byte)} {t : State} (hk : ∀ n b t, Keeps q s0 t → Keeps q s0 (k.put n b t)) (h : Keeps q s0 s)
    (e : l.foldlM (fun s b => loadEntry k b s) s = .ok t) : Keeps q s0 t := by
  induction l generalizing s with
  | nil => cases e; exact h
  | cons b l ih =>
    rw [List.foldlM_cons] at e
    cases e1 : loadEntry k b s with
    | error x => rw [e1] at e; cases e
    | ok u => rw [e1] at e; exact ih (loadEntry_keeps hk h e1) e

theorem loadEntries_keeps {k : EntryKind} {sec : Option (List Byte)} {t : State} (hk : ∀ n b t, Keeps q s0 t → Keeps q s0 (k.put n b t)) (h : Keeps q s0 s)
    (e : loadEntries k sec s = .ok t) : Keeps q s0 t := by
  unfold loadEntries at e
  split at e
  · cases e; exact h
  · split at e
    · cases e
    · exact loadAll_keeps hk h e

theorem loadLists_keeps {x0} {t : State} (h : Keeps q s0 s) (e : loadLists x0 s = .ok t) : Keeps q s0 t := by
  unfold loadLists at e
  split at e
  · cases e
  · rename_i e1
    have h1 := loadEntries_keeps (fun _ _ _ => putProgram_keeps) h e1
    split at e
    · cases e
    · rename_i e2
      exact loadEntries_keeps (fun _ _ _ => putDesc_keeps) (loadEntries_keeps (fun _ _ _ => putFlock_keeps) h1 e2) e

theorem placeJob_keeps {x0 x1 x2 x3 x4 x5 x6 x7 x8} (h : Keeps q s0 s) : Keeps q s0 (placeJob x0 x1 x2 x3 x4 x5 x6 x7 x8 s) := by
  unfold placeJob
  try dsimp only
  repeat' with_reducible first
    | assumption | apply setParent_keeps | fail_if_no_progress (refine Keeps.upd ?_ rfl rfl rfl rfl rfl rfl rfl rfl rfl)
    | apply Keeps.foldl | split | dsimp only [id] | intro _ _ _ | intro _ _

theorem takeRecord_keeps {x0} (h : Keeps q s0 s) : Keeps q s0 (takeRecord x0 s) := by
  unfold takeRecord
  try dsimp only
  repeat' with_reducible first
    | assumption | apply emptyGens_keeps | apply recoveryWalk_keeps | apply saveRecord_keeps
    | fail_if_no_progress (refine Keeps.upd ?_ rfl rfl rfl rfl rfl rfl rfl rfl rfl) | apply Keeps.snd (by assumption)
    | apply Keeps.thd (by assumption) | split | dsimp only [id]

theorem loadSections_keeps {x0 x1} {t : State} (h : Keeps q s0 s) (e : loadSections x0 x1 s = .ok t) : Keeps q s0 t := by
  unfold loadSections at e
  dsimp only at e
  split at e
  · cases e
  · split at e
    · cases e
    · rename_i e1
      cases e
      have h1 := loadLists_keeps (placeJob_keeps h) e1
      split
      · exact takeRecord_keeps h1
      · exact h1

theorem loadPlan_keeps {x0 x1} (h : Keeps q s0 s) : Keeps q s0 (loadPlan x0 x1 s).2 := by
  unfold loadPlan
  dsimp only
  split
  · exact h
  · split
    · exact securityViolation_keeps h
    · split
      · exact h
      · exact loadSections_keeps h ‹_›

theorem execPlanLoad_keeps {x0} (h : Keeps q s0 s) : KeepsRes q s0 (execPlanLoad x0 s) := by
  unfold execPlanLoad
  try dsimp only
  repeat' with_reducible first
    | assumption | apply adminRun_keeps | apply loadPlan_keeps | apply KeepsRes.next | apply Keeps.snd (by assumption)
    | apply Keeps.thd (by assumption) | apply KeepsRes.here (by assumption) | split | dsimp only [id] | intro _ _

/-! ## Start -/

theorem outcomeState_keeps {r : Res} (hr : KeepsRes q s0 r) (h : Keeps q s0 s) : Keeps q s0 (outcomeState r s) := by
  unfold outcomeState
  split
  · exact hr _ rfl
  · exact h

theorem adminHead_keeps (h : Keeps q s0 s) : Keeps q s0 (adminHead s).2 := by
  unfold adminHead
  try dsimp only
  repeat' with_reducible first
    | assumption | apply hqRead_keeps | fail_if_no_progress (refine Keeps.upd ?_ rfl rfl rfl rfl rfl rfl rfl rfl rfl)
    | apply Keeps.snd (by assumption) | apply Keeps.thd (by assumption) | split | dsimp only [id]

theorem acceptStart_keeps {x0} (h : Keeps q s0 s) : Keeps q s0 (acceptStart x0 s) := by
  unfold acceptStart
  try dsimp only
  repeat' with_reducible first
    | assumption | apply setParent_keeps | apply originate_keeps
    | fail_if_no_progress (refine Keeps.upd ?_ rfl rfl rfl rfl rfl rfl rfl rfl rfl) | apply Keeps.snd (by assumption)
    | apply Keeps.thd (by assumption) | split | dsimp only [id]

theorem startTile_keeps {x0 x1 x2} (h : Keeps q s0 s) : Keeps q s0 (startTile x0 x1 x2 s) := by
  unfold startTile
  try dsimp only
  repeat' with_reducible first
    | assumption | apply modTile_keeps | fail_if_no_progress (refine Keeps.upd ?_ rfl rfl rfl rfl rfl rfl rfl rfl rfl)
    | apply Keeps.snd (by assumption) | apply Keeps.thd (by assumption) | split | dsimp only [id]

theorem checkEntry_keeps {x0} (h : Keeps q s0 s) : Keeps q s0 (checkEntry x0 s) := by
  unfold checkEntry
  try dsimp only
  repeat' with_reducible first
    | assumption | apply checkPc_keeps | split

theorem runJob_keeps {x0} (h : Keeps q s0 s) : Keeps q s0 (runJob x0 s) := by
  unfold runJob
  try dsimp only
  repeat' with_reducible first
    | assumption | apply setCounters_keeps | apply startTile_keeps | apply finishStarted_keeps | apply saveRecord_keeps
    | apply checkEntry_keeps | fail_if_no_progress (refine Keeps.upd ?_ rfl rfl rfl rfl rfl rfl rfl rfl rfl)
    | apply Keeps.foldl | apply Keeps.snd (by assumption) | apply Keeps.thd (by assumption) | split | dsimp only [id]
    | intro _ _ _ | intro _ _

theorem failStart_keeps {x0} (h : Keeps q s0 s) : Keeps q s0 (failStart x0 s) := by
  unfold failStart
  try dsimp only
  repeat' with_reducible first
    | assumption | apply finishStarted_keeps | fail_if_no_progress (refine Keeps.upd ?_ rfl rfl rfl rfl rfl rfl rfl rfl rfl)
    | split | dsimp only [id]

theorem takeVerdict_keeps {x0} (h : Keeps q s0 s) : Keeps q s0 (takeVerdict x0 s) := by
  unfold takeVerdict
  try dsimp only
  repeat' with_reducible first
    | assumption | apply runJob_keeps | apply failStart_keeps | apply Keeps.snd (by assumption)
    | apply Keeps.thd (by assumption) | split

theorem sendVerdict_keeps (h : Keeps q s0 s) : Keeps q s0 (sendVerdict s) := by
  unfold sendVerdict
  try dsimp only
  repeat' with_reducible first
    | assumption | apply originate_keeps | apply takeVerdict_keeps
    | fail_if_no_progress (refine Keeps.upd ?_ rfl rfl rfl rfl rfl rfl rfl rfl rfl) | apply Keeps.foldl | apply Keeps.foldl2
    | apply Keeps.foldl3 | apply Keeps.foldl4 | apply Keeps.snd (by assumption) | apply Keeps.thd (by assumption) | split
    | dsimp only [id] | intro _ _ _ | intro _ _

theorem checkReports_keeps (h : Keeps q s0 s) : Keeps q s0 (checkReports s) := by
  unfold checkReports
  try dsimp only
  repeat' with_reducible first
    | assumption | apply sendVerdict_keeps | split

theorem execJobStart_keeps {x0 x1} (h : Keeps q s0 s) : KeepsRes q s0 (execJobStart x0 x1 s) := by
  unfold execJobStart
  try dsimp only
  repeat' with_reducible first
    | assumption | apply adminRun_keeps | apply acceptStart_keeps | apply atTime_keeps | apply checkReports_keeps
    | apply KeepsRes.next | apply Keeps.snd (by assumption) | apply Keeps.thd (by assumption)
    | apply KeepsRes.here (by assumption) | split | dsimp only [id] | intro _ _

theorem haltForReset_keeps (h : Keeps q s0 s) : Keeps q s0 (haltForReset s) := by
  unfold haltForReset
  try dsimp only
  repeat' with_reducible first
    | assumption | apply requestHalt_keeps | apply beginHalt_keeps | split | dsimp only [id]

theorem execJobReset_keeps {x0 x1} (h : Keeps q s0 s) : KeepsRes q s0 (execJobReset x0 x1 s) := by
  unfold execJobReset
  try dsimp only
  repeat' with_reducible first
    | assumption | apply adminRun_keeps | apply endJobReset_keeps | apply atTime_keeps | apply haltForReset_keeps
    | apply KeepsRes.next | apply Keeps.snd (by assumption) | apply Keeps.thd (by assumption)
    | apply KeepsRes.here (by assumption) | split | dsimp only [id] | intro _ _

theorem startEntry_keeps {x0 x1 x2} (h : Keeps q s0 s) : KeepsRes q s0 (startEntry x0 x1 x2 s) := by
  unfold startEntry
  try dsimp only
  repeat' with_reducible first
    | assumption | apply execPlanLoad_keeps | apply execJobStart_keeps | apply execJobReset_keeps
    | apply execQueueCreate_keeps | apply execQueueDelete_keeps | apply execTimetableLoad_keeps
    | apply execTimetableSwitch_keeps | apply execBellwetherHandover_keeps | apply execTileMapSwitch_keeps
    | apply execDescriptorLoad_keeps | apply execProgramLoad_keeps | apply execFlockLoad_keeps | apply execFoldLoad_keeps
    | apply execFoldSwitch_keeps | apply execRowRepair_keeps | apply execCommitRollback_keeps
    | apply execHandoverPrepare_keeps | apply execHandoverSwitch_keeps | apply execSnapshotStart_keeps
    | apply execSnapshotAbort_keeps | apply execMapoutAdd_keeps | apply execMapoutRemove_keeps
    | apply execMemReconfigure_keeps | apply execBootConfig_keeps | apply execRdmaMrRegister_keeps
    | apply execRdmaMrDeregister_keeps | apply execRdmaQpSet_keeps | apply execNvmfAttach_keeps | apply adminComplete_keeps
    | apply KeepsRes.next | apply Keeps.snd (by assumption) | apply Keeps.thd (by assumption) | split | dsimp only [id]

theorem adminDrain_keeps {x0 x1} (h : Keeps q s0 s) : Keeps q s0 (adminDrain x0 x1 s) := by
  induction x1 generalizing s x0 with
  | zero =>
    unfold adminDrain
    try dsimp only
    repeat' with_reducible first
      | assumption | apply adminHead_keeps | apply outcomeState_keeps | apply startEntry_keeps
      | fail_if_no_progress (refine Keeps.upd ?_ rfl rfl rfl rfl rfl rfl rfl rfl rfl) | apply Keeps.snd (by assumption)
      | apply Keeps.thd (by assumption) | split | dsimp only [id] | intro _ _
  | succ _ ih =>
    unfold adminDrain
    try dsimp only
    repeat' with_reducible first
      | assumption | apply ih | apply adminHead_keeps | apply outcomeState_keeps | apply startEntry_keeps
      | fail_if_no_progress (refine Keeps.upd ?_ rfl rfl rfl rfl rfl rfl rfl rfl rfl) | apply Keeps.snd (by assumption)
      | apply Keeps.thd (by assumption) | split | dsimp only [id] | intro _ _

theorem drainAdmin_keeps {x0} (h : Keeps q s0 s) : Keeps q s0 (drainAdmin x0 s) := by
  unfold drainAdmin
  try dsimp only
  repeat' with_reducible first
    | assumption | apply adminDrain_keeps

theorem adminDoorbell_keeps {x0} (h : Keeps q s0 s) : Keeps q s0 (adminDoorbell x0 s) := by
  unfold adminDoorbell
  try dsimp only
  repeat' with_reducible first
    | assumption | apply adminHead_keeps | apply drainAdmin_keeps
    | fail_if_no_progress (refine Keeps.upd ?_ rfl rfl rfl rfl rfl rfl rfl rfl rfl) | apply Keeps.snd (by assumption)
    | apply Keeps.thd (by assumption) | split

theorem execPlanDigest_keeps {x0 x1 x2} (h : Keeps q s0 s) : KeepsRes q s0 (execPlanDigest x0 x1 x2 s) := by
  unfold execPlanDigest
  try dsimp only
  repeat' with_reducible first
    | assumption | apply deliverRx_keeps | apply checkReports_keeps | apply takeVerdict_keeps | apply onUnit_keeps
    | apply KeepsRes.next | fail_if_no_progress (refine Keeps.upd ?_ rfl rfl rfl rfl rfl rfl rfl rfl rfl)
    | apply Keeps.snd (by assumption) | apply Keeps.thd (by assumption) | split | dsimp only [id] | intro _ _

theorem execPlanDigestTimeout_keeps {x0} (h : Keeps q s0 s) : KeepsRes q s0 (execPlanDigestTimeout x0 s) := by
  unfold execPlanDigestTimeout
  try dsimp only
  repeat' with_reducible first
    | assumption | apply atTime_keeps | apply sendVerdict_keeps | apply KeepsRes.next | split | dsimp only [id]

theorem execPlanVerdictTimeout_keeps {x0} (h : Keeps q s0 s) : KeepsRes q s0 (execPlanVerdictTimeout x0 s) := by
  unfold execPlanVerdictTimeout
  try dsimp only
  repeat' with_reducible first
    | assumption | apply atTime_keeps | apply takeVerdict_keeps | apply KeepsRes.next | split | dsimp only [id]

theorem execAdminPoll_keeps {x0} (h : Keeps q s0 s) : KeepsRes q s0 (execAdminPoll x0 s) := by
  unfold execAdminPoll
  try dsimp only
  repeat' with_reducible first
    | assumption | apply atTime_keeps | apply drainAdmin_keeps | apply KeepsRes.next | split | dsimp only [id]

theorem execDoorbellReread_keeps {x0} (h : Keeps q s0 s) : KeepsRes q s0 (execDoorbellReread x0 s) := by
  unfold execDoorbellReread
  try dsimp only
  repeat' with_reducible first
    | assumption | apply atTime_keeps | apply adminHead_keeps | apply drainAdmin_keeps | apply tally_keeps
    | apply KeepsRes.next | fail_if_no_progress (refine Keeps.upd ?_ rfl rfl rfl rfl rfl rfl rfl rfl rfl)
    | apply Keeps.snd (by assumption) | apply Keeps.thd (by assumption) | split | dsimp only [id]

/-! ## Hosts -/

theorem hostLost_keeps {x0 x1} (h : Keeps q s0 s) : Keeps q s0 (hostLost x0 x1 s) := by
  unfold hostLost
  try dsimp only
  repeat' with_reducible first
    | assumption | apply stampEvent_keeps | apply pushOvf_keeps
    | fail_if_no_progress (refine Keeps.upd ?_ rfl rfl rfl rfl rfl rfl rfl rfl rfl) | apply Keeps.snd (by assumption)
    | apply Keeps.thd (by assumption) | split | dsimp only [id]

theorem countDelivered_keeps (h : Keeps q s0 s) : Keeps q s0 (countDelivered s) := by
  unfold countDelivered
  try dsimp only
  repeat' with_reducible first
    | assumption | apply deliver_keeps | fail_if_no_progress (refine Keeps.upd ?_ rfl rfl rfl rfl rfl rfl rfl rfl rfl)
    | apply Keeps.snd (by assumption) | apply Keeps.thd (by assumption) | split | dsimp only [id]

theorem drainFuel_keeps {x0} (h : Keeps q s0 s) : Keeps q s0 (drainFuel x0 s) := by
  induction x0 generalizing s  with
  | zero =>
    unfold drainFuel
    try dsimp only
    repeat' with_reducible first
      | assumption | apply violationIntoOvf_keeps | apply readOwn_keeps | apply writeEventSlot_keeps
      | apply countDelivered_keeps | fail_if_no_progress (refine Keeps.upd ?_ rfl rfl rfl rfl rfl rfl rfl rfl rfl)
      | apply Keeps.snd (by assumption) | apply Keeps.thd (by assumption) | split | dsimp only [id]
  | succ _ ih =>
    unfold drainFuel
    try dsimp only
    repeat' with_reducible first
      | assumption | apply ih | apply violationIntoOvf_keeps | apply readOwn_keeps | apply writeEventSlot_keeps
      | apply countDelivered_keeps | fail_if_no_progress (refine Keeps.upd ?_ rfl rfl rfl rfl rfl rfl rfl rfl rfl)
      | apply Keeps.snd (by assumption) | apply Keeps.thd (by assumption) | split | dsimp only [id]

theorem drainOvf_keeps (h : Keeps q s0 s) : Keeps q s0 (drainOvf s) := by
  unfold drainOvf
  try dsimp only
  repeat' with_reducible first
    | assumption | apply drainFuel_keeps

theorem execHqAttach_keeps {x0 x1} (h : Keeps q s0 s) : KeepsRes q s0 (execHqAttach x0 x1 s) := by
  unfold execHqAttach
  try dsimp only
  repeat' with_reducible first
    | assumption | apply atTime_keeps | apply deliver_keeps | apply drainOvf_keeps | apply KeepsRes.next
    | fail_if_no_progress (refine Keeps.upd ?_ rfl rfl rfl rfl rfl rfl rfl rfl rfl) | split | dsimp only [id]

theorem execHqDetach_keeps {x0} (h : Keeps q s0 s) : KeepsRes q s0 (execHqDetach x0 s) := by
  unfold execHqDetach
  try dsimp only
  repeat' with_reducible first
    | assumption | apply hostLost_keeps | apply atTime_keeps | apply KeepsRes.next

theorem execHqHeartbeat_keeps {x0 x1} (h : Keeps q s0 s) : KeepsRes q s0 (execHqHeartbeat x0 x1 s) := by
  unfold execHqHeartbeat
  try dsimp only
  repeat' with_reducible first
    | assumption | apply atTime_keeps | apply KeepsRes.next
    | fail_if_no_progress (refine Keeps.upd ?_ rfl rfl rfl rfl rfl rfl rfl rfl rfl) | dsimp only [id]

theorem rereadSlot_keeps {x0 x1} (h : Keeps q s0 s) : Keeps q s0 (rereadSlot x0 x1 s) := by
  unfold rereadSlot
  try dsimp only
  repeat' with_reducible first
    | assumption | apply violationIntoOvf_keeps | apply hqRead_keeps
    | fail_if_no_progress (refine Keeps.upd ?_ rfl rfl rfl rfl rfl rfl rfl rfl rfl) | apply Keeps.snd (by assumption)
    | apply Keeps.thd (by assumption) | split | dsimp only [id]

theorem execDoorbell_keeps {x0 x1} (h : Keeps q s0 s) : KeepsRes q s0 (execDoorbell x0 x1 s) := by
  unfold execDoorbell
  try dsimp only
  repeat' with_reducible first
    | assumption | apply atTime_keeps | apply adminDoorbell_keeps | apply rereadSlot_keeps | apply drainOvf_keeps
    | apply KeepsRes.next | apply Keeps.snd (by assumption) | apply Keeps.thd (by assumption) | split | dsimp only [id]

theorem execEventOverflowDrain_keeps {x0} (h : Keeps q s0 s) : KeepsRes q s0 (execEventOverflowDrain x0 s) := by
  unfold execEventOverflowDrain
  try dsimp only
  repeat' with_reducible first
    | assumption | apply drainOvf_keeps | apply atTime_keeps | apply KeepsRes.next

theorem execHeartbeatTimeout_keeps {x0} (h : Keeps q s0 s) : KeepsRes q s0 (execHeartbeatTimeout x0 s) := by
  unfold execHeartbeatTimeout
  try dsimp only
  repeat' with_reducible first
    | assumption | apply atTime_keeps | apply hostLost_keeps | apply KeepsRes.next | split | dsimp only [id]

theorem pcieDown_keeps (h : Keeps q s0 s) : Keeps q s0 (pcieDown s) := by
  unfold pcieDown
  try dsimp only
  repeat' with_reducible first
    | assumption | apply hostLost_keeps | fail_if_no_progress (refine Keeps.upd ?_ rfl rfl rfl rfl rfl rfl rfl rfl rfl)
    | split | dsimp only [id]

theorem execPcieLinkLoss_keeps {x0} (h : Keeps q s0 s) : KeepsRes q s0 (execPcieLinkLoss x0 s) := by
  unfold execPcieLinkLoss
  try dsimp only
  repeat' with_reducible first
    | assumption | apply pcieDown_keeps | apply atTime_keeps | apply KeepsRes.next

theorem execPciePerstN_keeps {x0 x1} (h : Keeps q s0 s) : KeepsRes q s0 (execPciePerstN x0 x1 s) := by
  unfold execPciePerstN
  try dsimp only
  repeat' with_reducible first
    | assumption | apply atTime_keeps | apply pcieDown_keeps | apply KeepsRes.next
    | fail_if_no_progress (refine Keeps.upd ?_ rfl rfl rfl rfl rfl rfl rfl rfl rfl) | split | dsimp only [id]

theorem execStaleDescriptorTimeout_keeps {x0 x1 x2} (h : Keeps q s0 s) : KeepsRes q s0 (execStaleDescriptorTimeout x0 x1 x2 s) := by
  unfold execStaleDescriptorTimeout
  try dsimp only
  repeat' with_reducible first
    | assumption | apply atTime_keeps | apply hqRead_keeps | apply raise_keeps | apply KeepsRes.next
    | fail_if_no_progress (refine Keeps.upd ?_ rfl rfl rfl rfl rfl rfl rfl rfl rfl) | apply Keeps.snd (by assumption)
    | apply Keeps.thd (by assumption) | split | dsimp only [id]

theorem syncFacility_keeps {x0} (h : Keeps q s0 s) : Keeps q s0 (syncFacility x0 s) := by
  unfold syncFacility
  try dsimp only
  repeat' with_reducible first
    | assumption | fail_if_no_progress (refine Keeps.upd ?_ rfl rfl rfl rfl rfl rfl rfl rfl rfl)
    | apply Keeps.snd (by assumption) | apply Keeps.thd (by assumption) | split | dsimp only [id]

theorem execPtpMessage_keeps {x0 x1 x2 x3} (h : Keeps q s0 s) : KeepsRes q s0 (execPtpMessage x0 x1 x2 x3 s) := by
  unfold execPtpMessage
  try dsimp only
  repeat' with_reducible first
    | assumption | apply atTime_keeps | apply syncFacility_keeps | apply KeepsRes.next
    | fail_if_no_progress (refine Keeps.upd ?_ rfl rfl rfl rfl rfl rfl rfl rfl rfl) | split | dsimp only [id]

theorem execPtpAnnounceTimeout_keeps {x0} (h : Keeps q s0 s) : KeepsRes q s0 (execPtpAnnounceTimeout x0 s) := by
  unfold execPtpAnnounceTimeout
  try dsimp only
  repeat' with_reducible first
    | assumption | apply atTime_keeps | apply tally_keeps | apply KeepsRes.next
    | fail_if_no_progress (refine Keeps.upd ?_ rfl rfl rfl rfl rfl rfl rfl rfl rfl) | split | dsimp only [id]

theorem execPpsIn_keeps {x0} (h : Keeps q s0 s) : KeepsRes q s0 (execPpsIn x0 s) := by
  unfold execPpsIn
  try dsimp only
  repeat' with_reducible first
    | assumption | apply atTime_keeps | apply syncFacility_keeps | apply KeepsRes.next
    | fail_if_no_progress (refine Keeps.upd ?_ rfl rfl rfl rfl rfl rfl rfl rfl rfl) | split | dsimp only [id]

theorem execPpsTimeout_keeps {x0} (h : Keeps q s0 s) : KeepsRes q s0 (execPpsTimeout x0 s) := by
  unfold execPpsTimeout
  try dsimp only
  repeat' with_reducible first
    | assumption | apply atTime_keeps | apply tally_keeps | apply KeepsRes.next
    | fail_if_no_progress (refine Keeps.upd ?_ rfl rfl rfl rfl rfl rfl rfl rfl rfl) | split | dsimp only [id]

theorem execTickIn_keeps {x0} (h : Keeps q s0 s) : KeepsRes q s0 (execTickIn x0 s) := by
  unfold execTickIn
  try dsimp only
  repeat' with_reducible first
    | assumption | apply atTime_keeps | apply KeepsRes.next
    | fail_if_no_progress (refine Keeps.upd ?_ rfl rfl rfl rfl rfl rfl rfl rfl rfl) | split | dsimp only [id]

theorem execRdmaWriteReceive_keeps {x0 x1 x2 x3 x4} (h : Keeps q s0 s) : KeepsRes q s0 (execRdmaWriteReceive x0 x1 x2 x3 x4 s) := by
  unfold execRdmaWriteReceive
  try dsimp only
  repeat' with_reducible first
    | assumption | apply atTime_keeps | apply emit_keeps | apply KeepsRes.next
    | refine Keeps.updMem ?_ rfl rfl rfl rfl (fun h => memWrite_wf _ _ (by repeat first | exact h | refine memWrite_wf _ _ ?_))
    | fail_if_no_progress (refine Keeps.upd ?_ rfl rfl rfl rfl rfl rfl rfl rfl rfl) | apply Keeps.snd (by assumption)
    | apply Keeps.thd (by assumption) | split | dsimp only [id]

theorem execRdmaReadReceive_keeps {x0 x1 x2 x3 x4} (h : Keeps q s0 s) : KeepsRes q s0 (execRdmaReadReceive x0 x1 x2 x3 x4 s) := by
  unfold execRdmaReadReceive
  try dsimp only
  repeat' with_reducible first
    | assumption | apply atTime_keeps | apply emit_keeps | apply KeepsRes.next | apply Keeps.snd (by assumption)
    | apply Keeps.thd (by assumption) | split | dsimp only [id]

theorem execRdmaSendReceive_keeps {x0 x1 x2} (h : Keeps q s0 s) : KeepsRes q s0 (execRdmaSendReceive x0 x1 x2 s) := by
  unfold execRdmaSendReceive
  try dsimp only
  repeat' with_reducible first
    | assumption | apply atTime_keeps | apply emit_keeps | apply KeepsRes.next
    | fail_if_no_progress (refine Keeps.upd ?_ rfl rfl rfl rfl rfl rfl rfl rfl rfl) | apply Keeps.snd (by assumption)
    | apply Keeps.thd (by assumption) | split | dsimp only [id]

theorem execPluggableInsertion_keeps {x0 x1} (h : Keeps q s0 s) : KeepsRes q s0 (execPluggableInsertion x0 x1 s) := by
  unfold execPluggableInsertion
  try dsimp only
  repeat' with_reducible first
    | assumption | apply onUnit_keeps | apply KeepsRes.next
    | fail_if_no_progress (refine Keeps.upd ?_ rfl rfl rfl rfl rfl rfl rfl rfl rfl)

theorem execDynamicAddressAssignment_keeps {x0 x1} (h : Keeps q s0 s) : KeepsRes q s0 (execDynamicAddressAssignment x0 x1 s) := by
  unfold execDynamicAddressAssignment
  try dsimp only
  repeat' with_reducible first
    | assumption | apply KeepsRes.next | fail_if_no_progress (refine Keeps.upd ?_ rfl rfl rfl rfl rfl rfl rfl rfl rfl)

end Sys2Proof.Machine
end

