-- ==== Sys2Proof/Laws/KeepsHost.lean ====
section
/-! SUPPORT. What the module's own units and its host interface keep. -/

set_option linter.unusedTactic false
set_option linter.unreachableTactic false
set_option linter.unusedVariables false

namespace Sys2Proof.Machine

variable {q : Bool} {s0 s : State}

/-! ## MemOps -/

theorem setPc_keeps {x0 x1 x2} (h : Keeps q s0 s) : Keeps q s0 (setPc x0 x1 x2 s) := by
  unfold setPc
  try dsimp only
  repeat' with_reducible first
    | assumption | fail_if_no_progress (refine Keeps.upd ?_ rfl rfl rfl rfl rfl rfl rfl rfl rfl) | dsimp only [id]

theorem fence_keeps {x0 x1 x2} (h : Keeps q s0 s) : Keeps q s0 (fence x0 x1 x2 s) := by
  unfold fence
  try dsimp only
  repeat' with_reducible first
    | assumption | apply setPc_keeps | apply requestHalt_keeps | apply raise_keeps
    | fail_if_no_progress (refine Keeps.upd ?_ rfl rfl rfl rfl rfl rfl rfl rfl rfl) | split | dsimp only [id]

theorem applyMapouts_keeps {x0 x1} (h : Keeps q s0 s) : Keeps q s0 (applyMapouts x0 x1 s) := by
  unfold applyMapouts
  try dsimp only
  repeat' with_reducible first
    | assumption | apply setPc_keeps | apply raise_keeps
    | fail_if_no_progress (refine Keeps.upd ?_ rfl rfl rfl rfl rfl rfl rfl rfl rfl) | apply Keeps.foldl | split
    | dsimp only [id] | intro _ _ _ | intro _ _

theorem execPcDrain_keeps {x0 x1} (h : Keeps q s0 s) : KeepsRes q s0 (execPcDrain x0 x1 s) := by
  unfold execPcDrain
  try dsimp only
  repeat' with_reducible first
    | assumption | apply setPc_keeps | apply onUnit_keeps | apply KeepsRes.next
    | fail_if_no_progress (refine Keeps.upd ?_ rfl rfl rfl rfl rfl rfl rfl rfl rfl) | split | dsimp only [id]

theorem execPcFence_keeps {x0 x1} (h : Keeps q s0 s) : KeepsRes q s0 (execPcFence x0 x1 s) := by
  unfold execPcFence
  try dsimp only
  repeat' with_reducible first
    | assumption | apply fence_keeps | apply onUnit_keeps | apply KeepsRes.next

theorem memError_keeps {x0 x1 x2} (h : Keeps q s0 s) : Keeps q s0 (memError x0 x1 x2 s) := by
  unfold memError
  try dsimp only
  repeat' with_reducible first
    | assumption | apply setPc_keeps | apply noteLastErr_keeps | apply raise_keeps | apply tally_keeps | apply fence_keeps
    | refine Keeps.updMem ?_ rfl rfl rfl rfl (fun h => memPoison_wf _ (by repeat first | exact h | refine memPoison_wf _ ?_))
    | fail_if_no_progress (refine Keeps.upd ?_ rfl rfl rfl rfl rfl rfl rfl rfl rfl) | apply Keeps.snd (by assumption)
    | apply Keeps.thd (by assumption) | split | dsimp only [id]

theorem execPcDrainComplete_keeps {x0 x1 x2} (h : Keeps q s0 s) : KeepsRes q s0 (execPcDrainComplete x0 x1 x2 s) := by
  unfold execPcDrainComplete
  try dsimp only
  repeat' with_reducible first
    | assumption | apply setPc_keeps | apply fence_keeps | apply onUnit_keeps | apply KeepsRes.next
    | fail_if_no_progress (refine Keeps.upd ?_ rfl rfl rfl rfl rfl rfl rfl rfl rfl) | split | dsimp only [id]

theorem execRefresh_keeps {x0 x1} (h : Keeps q s0 s) : KeepsRes q s0 (execRefresh x0 x1 s) := by
  unfold execRefresh
  try dsimp only
  repeat' with_reducible first
    | assumption | apply atTime_keeps | apply onUnit_keeps | apply KeepsRes.next

theorem dropOvf_keeps (h : Keeps q s0 s) : Keeps q s0 (dropOvf s) := by
  unfold dropOvf
  try dsimp only
  repeat' with_reducible first
    | assumption | apply tallyBy_keeps | apply deliver_keeps
    | fail_if_no_progress (refine Keeps.upd ?_ rfl rfl rfl rfl rfl rfl rfl rfl rfl) | apply Keeps.snd (by assumption)
    | apply Keeps.thd (by assumption) | split | dsimp only [id]

theorem execMemReconfigureComplete_keeps (h : Keeps q s0 s) : KeepsRes q s0 (execMemReconfigureComplete s) := by
  unfold execMemReconfigureComplete
  try dsimp only
  repeat' with_reducible first
    | assumption | apply dropOvf_keeps | apply drainOvf_keeps | apply applyMapouts_keeps | apply finishStarted_keeps
    | apply KeepsRes.next
    | refine Keeps.updMem ?_ rfl rfl rfl rfl (fun h => zeroHbm_wf (by repeat first | exact h | refine zeroHbm_wf ?_))
    | fail_if_no_progress (refine Keeps.upd ?_ rfl rfl rfl rfl rfl rfl rfl rfl rfl) | apply Keeps.snd (by assumption)
    | apply Keeps.thd (by assumption) | split | dsimp only [id]

theorem sramError_keeps {x0 x1} (h : Keeps q s0 s) : Keeps q s0 (sramError x0 x1 s) := by
  unfold sramError
  try dsimp only
  repeat' with_reducible first
    | assumption | apply queueUnit_keeps | apply raise_keeps | apply tally_keeps | split

theorem skipRecord_keeps {x0} (h : Keeps q s0 s) : Keeps q s0 (skipRecord x0 s) := by
  unfold skipRecord
  try dsimp only
  repeat' with_reducible first
    | assumption | fail_if_no_progress (refine Keeps.upd ?_ rfl rfl rfl rfl rfl rfl rfl rfl rfl) | split | dsimp only [id]

theorem recordError_keeps {x0 x1 x2} (h : Keeps q s0 s) : Keeps q s0 (recordError x0 x1 x2 s) := by
  unfold recordError
  try dsimp only
  repeat' with_reducible first
    | assumption | apply queueUnit_keeps | apply raise_keeps | apply skipRecord_keeps | apply settleApply_keeps
    | apply dropOp_keeps | apply Keeps.snd (by assumption) | apply Keeps.thd (by assumption) | split | dsimp only [id]

theorem sramTrap_keeps {x0 x1} (h : Keeps q s0 s) : Keeps q s0 (sramTrap x0 x1 s) := by
  unfold sramTrap
  try dsimp only
  repeat' with_reducible first
    | assumption | apply freeWord_keeps | apply trapAs_keeps | apply Keeps.snd (by assumption)
    | apply Keeps.thd (by assumption) | split | dsimp only [id]

theorem execParityRetry_keeps {x0 x1 x2 x3 x4 x5 x6 x7} (h : Keeps q s0 s) : KeepsRes q s0 (execParityRetry x0 x1 x2 x3 x4 x5 x6 x7 s) := by
  unfold execParityRetry
  try dsimp only
  repeat' with_reducible first
    | assumption | apply atTime_keeps | apply parityPassed_keeps | apply memError_keeps | apply recordError_keeps
    | apply sramError_keeps | apply sramTrap_keeps | apply coreFault_keeps | apply parityPathFault_keeps
    | apply onUnit_keeps | apply KeepsRes.next | apply Keeps.snd (by assumption) | apply Keeps.thd (by assumption) | split
    | dsimp only [id]

/-! ## Mailbox -/

theorem setBootImage_keeps {x0 x1} (h : Keeps q s0 s) : Keeps q s0 (setBootImage x0 x1 s) := by
  unfold setBootImage
  try dsimp only
  repeat' with_reducible first
    | assumption | fail_if_no_progress (refine Keeps.upd ?_ rfl rfl rfl rfl rfl rfl rfl rfl rfl)

theorem mboxReply_keeps {x0 x1 x2} (h : Keeps q s0 s) : Keeps q s0 (mboxReply x0 x1 x2 s) := by
  unfold mboxReply
  try dsimp only
  repeat' with_reducible first
    | assumption | apply emit_keeps | fail_if_no_progress (refine Keeps.upd ?_ rfl rfl rfl rfl rfl rfl rfl rfl rfl)
    | apply Keeps.snd (by assumption) | apply Keeps.thd (by assumption) | split

theorem mboxRun_keeps {x0 x1} {f : Option (List Byte) → State → Nat × List Byte × State}
    (hf : ∀ p t, Keeps q s0 t → Keeps q s0 (f p t).2.2) (h : Keeps q s0 s) : KeepsRes q s0 (mboxRun x0 x1 f s) := by
  unfold mboxRun
  apply KeepsRes.next
  split
  · exact h
  · split
    · split
      · exact h
      · exact emit_keeps h
    · exact mboxReply_keeps (hf _ _ h)

theorem execNonce_keeps {x0 x1} (h : Keeps q s0 s) : KeepsRes q s0 (execNonce x0 x1 s) := by
  unfold execNonce
  refine mboxRun_keeps (fun p t ht => ?_) (atTime_keeps h)
  cases p with
  | none => exact ht
  | some b => exact Keeps.upd ht rfl rfl rfl rfl rfl rfl rfl rfl rfl

theorem unlockFailed_keeps {x0} (h : Keeps q s0 s) : Keeps q s0 (unlockFailed x0 s) := by
  unfold unlockFailed
  try dsimp only
  repeat' with_reducible first
    | assumption | apply securityViolation_keeps
    | fail_if_no_progress (refine Keeps.upd ?_ rfl rfl rfl rfl rfl rfl rfl rfl rfl) | dsimp only [id]

theorem execUnlock_keeps {x0 x1} (h : Keeps q s0 s) : KeepsRes q s0 (execUnlock x0 x1 s) := by
  unfold execUnlock
  refine mboxRun_keeps (fun p t ht => ?_) (atTime_keeps h)
  split
  · exact securityViolation_keeps ht
  · have hf : ∀ {x0} , Keeps q s0 (unlockFailed x0 { t with sc := { t.sc with nonce := none } }) :=
      unlockFailed_keeps (Keeps.upd ht rfl rfl rfl rfl rfl rfl rfl rfl rfl)
    cases p with
    | none => exact hf
    | some b =>
      dsimp only
      split
      · exact hf
      · exact securityViolation_keeps (Keeps.upd ht rfl rfl rfl rfl rfl rfl rfl rfl rfl)

theorem authFailure_keeps {x0} (h : Keeps q s0 s) : Keeps q s0 (authFailure x0 s) := by
  unfold authFailure
  try dsimp only
  repeat' with_reducible first
    | assumption | apply securityViolation_keeps | split

/-- A record is accepted only above the counter (R391). -/
theorem keyCode_ctr {b : List Byte} (e : keyCode s b = mbOk) : s.nor.enrollCtr < leAt b 16 8 := by
  unfold keyCode at e
  simp only [firstCode] at e
  split at e
  · cases e
  · split at e
    · cases e
    · split at e
      · cases e
      · split at e
        · cases e
        · rename_i hc
          simpa using hc

theorem execKey_keeps {x0} (h : Keeps q s0 s) : KeepsRes q s0 (execKey x0 s) := by
  unfold execKey
  refine mboxRun_keeps (fun p t ht => ?_) h
  cases p with
  | none => exact ht
  | some b =>
    simp only
    by_cases e : keyCode t b = mbOk
    · rw [if_neg (not_not_intro e)]
      exact ht.trans ⟨rfl, Nat.le_refl _, Nat.le_of_lt (keyCode_ctr e), fun _ h => h, fun _ _ h => h, id, Nat.le_refl _, List.suffix_rfl⟩
    · rw [if_pos e]
      exact authFailure_keeps ht

theorem execClaim_keeps {x0} (h : Keeps q s0 s) : KeepsRes q s0 (execClaim x0 s) := by
  unfold execClaim
  refine mboxRun_keeps (fun p t ht => ?_) h
  cases p with
  | none => exact ht
  | some b =>
    simp only
    by_cases e : (t.nor.ownerHash.isSome || decide (t.job.state ≠ 0)) = true
    · rw [if_pos (by simpa using e)]; exact ht
    · rw [if_neg (by simpa using e)]
      refine ht.trans ⟨rfl, Nat.le_refl _, Nat.le_refl _, fun x hx => ?_, fun _ _ h => h, id, Nat.le_refl _, List.suffix_rfl⟩
      rw [hx] at e; simp at e

theorem execRaiseSvn_keeps {x0} (h : Keeps q s0 s) : KeepsRes q s0 (execRaiseSvn x0 s) := by
  unfold execRaiseSvn
  refine mboxRun_keeps (fun p t ht => ?_) h
  cases p with
  | none => exact ht
  | some b =>
    simp only
    split
    · exact ht
    · split
      · exact ht
      · rename_i e
        refine ht.trans ⟨rfl, ?_, Nat.le_refl _, fun _ h => h, fun _ _ h => h, id, Nat.le_refl _, List.suffix_rfl⟩
        have e' : ¬ (byteAt b 0 ≤ t.nor.svn) := fun k => e (by simp [k])
        exact Nat.le_of_lt (Nat.lt_of_not_le e')

theorem setImageOk_keeps {x0 x1 x2} (h : Keeps q s0 s) : Keeps q s0 (setImageOk x0 x1 x2 s) := by
  unfold setImageOk
  try dsimp only
  repeat' with_reducible first
    | assumption | fail_if_no_progress (refine Keeps.upd ?_ rfl rfl rfl rfl rfl rfl rfl rfl rfl) | split | dsimp only [id]

theorem execNonceExpiry_keeps {x0} (h : Keeps q s0 s) : KeepsRes q s0 (execNonceExpiry x0 s) := by
  unfold execNonceExpiry
  try dsimp only
  repeat' with_reducible first
    | assumption | apply atTime_keeps | apply KeepsRes.next
    | fail_if_no_progress (refine Keeps.upd ?_ rfl rfl rfl rfl rfl rfl rfl rfl rfl) | split | dsimp only [id]

/-! ## Graze -/

theorem bootHost_keeps (h : Keeps q s0 s) : Keeps q s0 (bootHost s) := by
  unfold bootHost
  try dsimp only
  repeat' with_reducible first
    | assumption | fail_if_no_progress (refine Keeps.upd ?_ rfl rfl rfl rfl rfl rfl rfl rfl rfl) | dsimp only [id]

theorem privFail_keeps {x0 x1 x2} (h : Keeps q s0 s) : Keeps q s0 (privFail x0 x1 x2 s) := by
  unfold privFail
  try dsimp only
  repeat' with_reducible first
    | assumption | apply raise_keeps | split

theorem failTile_keeps {x0 x1 x2 x3 x4} (h : Keeps q s0 s) : Keeps q s0 (failTile x0 x1 x2 x3 x4 s) := by
  have h1 : ∀ t : Tiles, Keeps q s0 { s with
      nor := { s.nor with quarTiles := s.nor.quarTiles ||| tileBit x0 }
      tiles := t } := fun t =>
    h.trans ⟨rfl, Nat.le_refl _, Nat.le_refl _, fun _ h => h, fun _ i hi => by simp [hi], id, Nat.le_refl _, List.suffix_rfl⟩
  unfold failTile
  dsimp only
  split
  · exact requestHalt_keeps (raise_keeps (raise_keeps (modTile_keeps (h1 _))))
  · exact dropQuarantined_keeps (raise_keeps (raise_keeps (modTile_keeps (h1 _))))

theorem failEngine_keeps {x0 x1 x2 x3 x4} (h : Keeps q s0 s) : Keeps q s0 (failEngine x0 x1 x2 x3 x4 s) := by
  unfold failEngine
  try dsimp only
  repeat' with_reducible first
    | assumption | apply raise_keeps | apply requestHalt_keeps
    | fail_if_no_progress (refine Keeps.upd ?_ rfl rfl rfl rfl rfl rfl rfl rfl rfl) | split | dsimp only [id]

theorem failOther_keeps {x0 x1 x2 x3 x4 x5} (h : Keeps q s0 s) : Keeps q s0 (failOther x0 x1 x2 x3 x4 x5 s) := by
  unfold failOther
  try dsimp only
  repeat' with_reducible first
    | assumption | apply requestHalt_keeps | apply raise_keeps
    | fail_if_no_progress (refine Keeps.upd ?_ rfl rfl rfl rfl rfl rfl rfl rfl rfl) | split | dsimp only [id]

theorem failUnit_keeps {x0 x1 x2 x3 x4 x5} (h : Keeps q s0 s) : Keeps q s0 (failUnit x0 x1 x2 x3 x4 x5 s) := by
  unfold failUnit
  try dsimp only
  repeat' with_reducible first
    | assumption | apply failTile_keeps | apply failEngine_keeps | apply failOther_keeps | apply Keeps.snd (by assumption)
    | apply Keeps.thd (by assumption) | split

theorem execBistQueuePass_keeps {x0 x1} (h : Keeps q s0 s) : KeepsRes q s0 (execBistQueuePass x0 x1 s) := by
  unfold execBistQueuePass
  try dsimp only
  repeat' with_reducible first
    | assumption | apply queueTest_keeps | apply KeepsRes.next | split

theorem testDrivers_keeps {x0 x1} (h : Keeps q s0 s) : Keeps q s0 (testDrivers x0 x1 s) := by
  unfold testDrivers
  try dsimp only
  repeat' with_reducible first
    | assumption | apply goDown_keeps | apply startTraining_keeps | apply privFail_keeps
    | fail_if_no_progress (refine Keeps.upd ?_ rfl rfl rfl rfl rfl rfl rfl rfl rfl) | apply Keeps.foldl | split
    | dsimp only [id] | intro _ _ _ | intro _ _

theorem execPrivTest_keeps {x0 x1 x2} (h : Keeps q s0 s) : KeepsRes q s0 (execPrivTest x0 x1 x2 s) := by
  unfold execPrivTest
  try dsimp only
  repeat' with_reducible first
    | assumption | apply privFail_keeps | apply testDrivers_keeps | apply KeepsRes.next
    | fail_if_no_progress (refine Keeps.upd ?_ rfl rfl rfl rfl rfl rfl rfl rfl rfl) | apply Keeps.foldl | split
    | dsimp only [id] | intro _ _ _ | intro _ _

theorem setBist_keeps {x0 x1 x2} (h : Keeps q s0 s) : Keeps q s0 (setBist x0 x1 x2 s) := by
  unfold setBist
  try dsimp only
  repeat' with_reducible first
    | assumption | fail_if_no_progress (refine Keeps.upd ?_ rfl rfl rfl rfl rfl rfl rfl rfl rfl)
    | apply Keeps.snd (by assumption) | apply Keeps.thd (by assumption) | split

theorem dequeue_keeps {x0 x1} (h : Keeps q s0 s) : Keeps q s0 (dequeue x0 x1 s) := by
  unfold dequeue
  try dsimp only
  repeat' with_reducible first
    | assumption | fail_if_no_progress (refine Keeps.upd ?_ rfl rfl rfl rfl rfl rfl rfl rfl rfl)

theorem sliceEnd_keeps {x0 x1 x2} {f : State → State} (hf : ∀ t, Keeps q s0 t → Keeps q s0 (f t)) (h : Keeps q s0 s) :
    Keeps q s0 (sliceEnd x0 x1 x2 f s) := by
  unfold sliceEnd
  dsimp only
  repeat' split
  all_goals
    repeat' first
      | exact tally_keeps h
      | apply hf
      | with_reducible apply dequeue_keeps
      | with_reducible apply setBist_keeps
      | with_reducible apply tally_keeps

theorem requalFail_keeps {x0 x1 x2} (h : Keeps q s0 s) : Keeps q s0 (requalFail x0 x1 x2 s) := by
  unfold requalFail
  try dsimp only
  repeat' with_reducible first
    | assumption | apply raise_keeps | split

theorem execRequalify_keeps {x0 x1 x2} (h : Keeps false s0 s) : KeepsRes false s0 (execRequalify x0 x1 x2 s) := by
  unfold execRequalify
  apply KeepsRes.next
  have h1 : Keeps false s0 (sliceEnd x0 x1 { x2 with passEnds := true } (requalFail x0 x1 x2) s) :=
    sliceEnd_keeps (fun _ => requalFail_keeps) h
  repeat' first
    | split
    | exact h
    | exact h1
    | exact h1.trans ⟨rfl, Nat.le_refl _, Nat.le_refl _, fun _ h => h, (fun hq => by cases hq), id, Nat.le_refl _, List.suffix_rfl⟩

theorem refuseFw_keeps {x0} (h : Keeps q s0 s) : Keeps q s0 (refuseFw x0 s) := by
  unfold refuseFw
  try dsimp only
  repeat' with_reducible first
    | assumption | fail_if_no_progress (refine Keeps.upd ?_ rfl rfl rfl rfl rfl rfl rfl rfl rfl)

theorem hostReset_keeps (h : Keeps q s0 s) : Keeps q s0 (hostReset s) := by
  unfold hostReset
  try dsimp only
  repeat' with_reducible first
    | assumption | apply hostLost_keeps | fail_if_no_progress (refine Keeps.upd ?_ rfl rfl rfl rfl rfl rfl rfl rfl rfl)
    | split | dsimp only [id]

theorem activateHost_keeps {x0 x1} (h : Keeps q s0 s) : Keeps q s0 (activateHost x0 x1 s) := by
  unfold activateHost
  try dsimp only
  repeat' with_reducible first
    | assumption | apply hostReset_keeps | apply setBootImage_keeps | apply raise_keeps | apply bootHost_keeps
    | fail_if_no_progress (refine Keeps.upd ?_ rfl rfl rfl rfl rfl rfl rfl rfl rfl) | dsimp only [id]

theorem beginBlackout_keeps {x0 x1} (h : Keeps q s0 s) : Keeps q s0 (beginBlackout x0 x1 s) := by
  unfold beginBlackout
  try dsimp only
  repeat' with_reducible first
    | assumption | fail_if_no_progress (refine Keeps.upd ?_ rfl rfl rfl rfl rfl rfl rfl rfl rfl)

theorem activate_keeps {x0 x1 x2} (h : Keeps q s0 s) : Keeps q s0 (activate x0 x1 x2 s) := by
  unfold activate
  try dsimp only
  repeat' with_reducible first
    | assumption | apply activateHost_keeps | apply beginBlackout_keeps | split

theorem execFwGo_keeps {x0 x1} (h : Keeps q s0 s) : KeepsRes q s0 (execFwGo x0 x1 s) := by
  unfold execFwGo
  try dsimp only
  repeat' with_reducible first
    | assumption | apply refuseFw_keeps | apply activate_keeps | apply KeepsRes.next
    | fail_if_no_progress (refine Keeps.upd ?_ rfl rfl rfl rfl rfl rfl rfl rfl rfl) | split | dsimp only [id]

theorem noteRetrained_keeps {x0} (h : Keeps q s0 s) : Keeps q s0 (noteRetrained x0 s) := by
  unfold noteRetrained
  try dsimp only
  repeat' with_reducible first
    | assumption | fail_if_no_progress (refine Keeps.upd ?_ rfl rfl rfl rfl rfl rfl rfl rfl rfl) | dsimp only [id]

theorem drainNext_keeps {x0 x1} (h : Keeps q s0 s) : Keeps q s0 (drainNext x0 x1 s) := by
  unfold drainNext
  try dsimp only
  repeat' with_reducible first
    | assumption | apply setTask_keeps | apply noteRetrained_keeps | apply setPc_keeps
    | fail_if_no_progress (refine Keeps.upd ?_ rfl rfl rfl rfl rfl rfl rfl rfl rfl) | apply Keeps.snd (by assumption)
    | apply Keeps.thd (by assumption) | split | dsimp only [id]

theorem advanceTask_keeps {x0 x1 x2 x3 x4} (h : Keeps q s0 s) : Keeps q s0 (advanceTask x0 x1 x2 x3 x4 s) := by
  unfold advanceTask
  try dsimp only
  repeat' with_reducible first
    | assumption | apply drainNext_keeps | apply setTask_keeps | apply memError_keeps
    | fail_if_no_progress (refine Keeps.upd ?_ rfl rfl rfl rfl rfl rfl rfl rfl rfl) | apply Keeps.foldl | split
    | dsimp only [id] | intro _ _ _ | intro _ _

theorem execGrazeSlice_keeps {x0 x1 x2 x3} (h : Keeps q s0 s) : KeepsRes q s0 (execGrazeSlice x0 x1 x2 x3 s) := by
  unfold execGrazeSlice
  try dsimp only
  repeat' with_reducible first
    | assumption | apply atTime_keeps | apply advanceTask_keeps | apply onUnit_keeps | apply KeepsRes.next
    | apply Keeps.snd (by assumption) | apply Keeps.thd (by assumption) | split | dsimp only [id]

theorem execForcedSlice_keeps {x0 x1 x2 x3 x4} (h : Keeps q s0 s) : KeepsRes q s0 (execForcedSlice x0 x1 x2 x3 x4 s) := by
  unfold execForcedSlice
  try dsimp only
  repeat' with_reducible first
    | assumption | apply atTime_keeps | apply tally_keeps | apply setTask_keeps | apply advanceTask_keeps
    | apply onUnit_keeps | apply KeepsRes.next
    | fail_if_no_progress (refine Keeps.upd ?_ rfl rfl rfl rfl rfl rfl rfl rfl rfl) | apply Keeps.snd (by assumption)
    | apply Keeps.thd (by assumption) | split | dsimp only [id]

theorem execTaskPeriodEnd_keeps {x0 x1 x2} (h : Keeps q s0 s) : KeepsRes q s0 (execTaskPeriodEnd x0 x1 x2 s) := by
  unfold execTaskPeriodEnd
  try dsimp only
  repeat' with_reducible first
    | assumption | apply atTime_keeps | apply raise_keeps | apply tally_keeps | apply setTask_keeps | apply onUnit_keeps
    | apply KeepsRes.next | fail_if_no_progress (refine Keeps.upd ?_ rfl rfl rfl rfl rfl rfl rfl rfl rfl) | split
    | dsimp only [id]

theorem execSensorCalibration_keeps {x0 x1} (h : Keeps q s0 s) : KeepsRes q s0 (execSensorCalibration x0 x1 s) := by
  unfold execSensorCalibration
  try dsimp only
  repeat' with_reducible first
    | assumption | apply taskRan_keeps | apply atTime_keeps | apply onUnit_keeps | apply KeepsRes.next

theorem execLaserAgeingCompensation_keeps {x0 x1} (h : Keeps q s0 s) : KeepsRes q s0 (execLaserAgeingCompensation x0 x1 s) := by
  unfold execLaserAgeingCompensation
  try dsimp only
  repeat' with_reducible first
    | assumption | apply atTime_keeps | apply taskRan_keeps | apply setLaser_keeps | apply KeepsRes.next | apply Keeps.foldl
    | split | dsimp only [id] | intro _ _ _ | intro _ _

theorem execNorLogLevelling_keeps {x0} (h : Keeps q s0 s) : KeepsRes q s0 (execNorLogLevelling x0 s) := by
  unfold execNorLogLevelling
  try dsimp only
  repeat' with_reducible first
    | assumption | apply taskRan_keeps | apply atTime_keeps | apply KeepsRes.next

theorem execBistSlice_keeps {x0 x1 x2 x3} (h : Keeps q s0 s) : KeepsRes q s0 (execBistSlice x0 x1 x2 x3 s) := by
  unfold execBistSlice
  try dsimp only
  repeat' with_reducible first
    | assumption | apply atTime_keeps | apply sliceEnd_keeps | apply failUnit_keeps | apply onUnit_keeps
    | apply KeepsRes.next | split | dsimp only [id] | intro _ _

theorem execTileRotation_keeps {x0} (h : Keeps q s0 s) : KeepsRes q s0 (execTileRotation x0 s) := by
  unfold execTileRotation
  try dsimp only
  repeat' with_reducible first
    | assumption | apply atTime_keeps | apply taskRan_keeps | apply KeepsRes.next
    | fail_if_no_progress (refine Keeps.upd ?_ rfl rfl rfl rfl rfl rfl rfl rfl rfl) | split | dsimp only [id]

theorem execHostRstN_keeps {x0 x1} (h : Keeps q s0 s) : KeepsRes q s0 (execHostRstN x0 x1 s) := by
  unfold execHostRstN
  try dsimp only
  repeat' with_reducible first
    | assumption | apply atTime_keeps | apply bootHost_keeps | apply hostReset_keeps | apply KeepsRes.next
    | fail_if_no_progress (refine Keeps.upd ?_ rfl rfl rfl rfl rfl rfl rfl rfl rfl) | split | dsimp only [id]

theorem flushBuffer_keeps (h : Keeps q s0 s) : Keeps q s0 (flushBuffer s) := by
  unfold flushBuffer
  try dsimp only
  repeat' with_reducible first
    | assumption | apply deliver_keeps | fail_if_no_progress (refine Keeps.upd ?_ rfl rfl rfl rfl rfl rfl rfl rfl rfl)
    | apply Keeps.foldl | apply Keeps.foldl2 | apply Keeps.foldl3 | apply Keeps.foldl4 | apply Keeps.snd (by assumption)
    | apply Keeps.thd (by assumption) | split | dsimp only [id] | intro _ _ _ | intro _ _

theorem fwRunning_keeps {x0 x1} (h : Keeps q s0 s) : Keeps q s0 (fwRunning x0 x1 s) := by
  unfold fwRunning
  try dsimp only
  repeat' with_reducible first
    | assumption | apply flushBuffer_keeps | apply setBootImage_keeps | apply raise_keeps
    | fail_if_no_progress (refine Keeps.upd ?_ rfl rfl rfl rfl rfl rfl rfl rfl rfl) | dsimp only [id]

theorem execFwActivation_keeps {x0} (h : Keeps q s0 s) : KeepsRes q s0 (execFwActivation x0 s) := by
  unfold execFwActivation
  try dsimp only
  repeat' with_reducible first
    | assumption | apply atTime_keeps | apply fwRunning_keeps | apply activate_keeps | apply KeepsRes.next
    | apply Keeps.snd (by assumption) | apply Keeps.thd (by assumption) | split | dsimp only [id]

theorem execFwRevert_keeps {x0 x1} (h : Keeps q s0 s) : KeepsRes q s0 (execFwRevert x0 x1 s) := by
  unfold execFwRevert
  try dsimp only
  repeat' with_reducible first
    | assumption | apply atTime_keeps | apply flushBuffer_keeps | apply raise_keeps | apply KeepsRes.next
    | fail_if_no_progress (refine Keeps.upd ?_ rfl rfl rfl rfl rfl rfl rfl rfl rfl) | apply Keeps.snd (by assumption)
    | apply Keeps.thd (by assumption) | split | dsimp only [id]

/-! ## Capping -/

theorem darkState_keeps (h : Keeps q s0 s) : Keeps q s0 (darkState s) :=
  h.trans ⟨rfl, Nat.le_refl _, Nat.le_refl _, fun _ h => h, fun _ _ h => h, fun _ => reset_memory_wf, Nat.le_refl _, List.suffix_rfl⟩

theorem powerOff_keeps {x0} (h : Keeps q s0 s) : Keeps q s0 (powerOff x0 s) := by
  unfold powerOff
  try dsimp only
  repeat' with_reducible first
    | assumption | apply darkState_keeps | fail_if_no_progress (refine Keeps.upd ?_ rfl rfl rfl rfl rfl rfl rfl rfl rfl)
    | dsimp only [id]

theorem reportTrip_keeps (h : Keeps q s0 s) : Keeps q s0 (reportTrip s) := by
  unfold reportTrip
  try dsimp only
  repeat' with_reducible first
    | assumption | apply raise_keeps | fail_if_no_progress (refine Keeps.upd ?_ rfl rfl rfl rfl rfl rfl rfl rfl rfl)
    | apply Keeps.snd (by assumption) | apply Keeps.thd (by assumption) | split

theorem execIdleMeasure_keeps {x0 x1} (h : Keeps q s0 s) : KeepsRes q s0 (execIdleMeasure x0 x1 s) := by
  unfold execIdleMeasure
  try dsimp only
  repeat' with_reducible first
    | assumption | apply atTime_keeps | apply KeepsRes.next
    | fail_if_no_progress (refine Keeps.upd ?_ rfl rfl rfl rfl rfl rfl rfl rfl rfl) | split | dsimp only [id]

theorem execPwCapWrite_keeps {x0 x1} (h : Keeps q s0 s) : KeepsRes q s0 (execPwCapWrite x0 x1 s) := by
  unfold execPwCapWrite
  try dsimp only
  repeat' with_reducible first
    | assumption | apply atTime_keeps | apply KeepsRes.next
    | fail_if_no_progress (refine Keeps.upd ?_ rfl rfl rfl rfl rfl rfl rfl rfl rfl) | split | dsimp only [id]

theorem execPldmSetCap_keeps {x0 x1 x2} (h : Keeps q s0 s) : KeepsRes q s0 (execPldmSetCap x0 x1 x2 s) := by
  unfold execPldmSetCap
  try dsimp only
  repeat' with_reducible first
    | assumption | apply atTime_keeps | apply emit_keeps | apply KeepsRes.next
    | fail_if_no_progress (refine Keeps.upd ?_ rfl rfl rfl rfl rfl rfl rfl rfl rfl) | split | dsimp only [id]

theorem checkUnmet_keeps {x0} (h : Keeps q s0 s) : Keeps q s0 (checkUnmet x0 s) := by
  unfold checkUnmet
  try dsimp only
  repeat' with_reducible first
    | assumption | apply raiseCap_keeps | apply noteCause_keeps
    | fail_if_no_progress (refine Keeps.upd ?_ rfl rfl rfl rfl rfl rfl rfl rfl rfl) | apply Keeps.snd (by assumption)
    | apply Keeps.thd (by assumption) | split

theorem capStep_keeps {x0} (h : Keeps q s0 s) : Keeps q s0 (capStep x0 s) := by
  unfold capStep
  try dsimp only
  repeat' with_reducible first
    | assumption | apply applyCap_keeps | fail_if_no_progress (refine Keeps.upd ?_ rfl rfl rfl rfl rfl rfl rfl rfl rfl)
    | apply Keeps.snd (by assumption) | apply Keeps.thd (by assumption) | split | dsimp only [id]

theorem execCapLoopUpdate_keeps {x0 x1} (h : Keeps q s0 s) : KeepsRes q s0 (execCapLoopUpdate x0 x1 s) := by
  unfold execCapLoopUpdate
  try dsimp only
  repeat' with_reducible first
    | assumption | apply atTime_keeps | apply noteCause_keeps | apply capStep_keeps | apply checkUnmet_keeps
    | apply KeepsRes.next | fail_if_no_progress (refine Keeps.upd ?_ rfl rfl rfl rfl rfl rfl rfl rfl rfl)
    | apply Keeps.snd (by assumption) | apply Keeps.thd (by assumption) | split | dsimp only [id]

theorem execOcpTrip_keeps {x0} (h : Keeps q s0 s) : KeepsRes q s0 (execOcpTrip x0 s) := by
  unfold execOcpTrip
  try dsimp only
  repeat' with_reducible first
    | assumption | apply atTime_keeps | apply raiseCap_keeps | apply noteCause_keeps | apply KeepsRes.next
    | fail_if_no_progress (refine Keeps.upd ?_ rfl rfl rfl rfl rfl rfl rfl rfl rfl) | split | dsimp only [id]

theorem execOcpRecover_keeps {x0} (h : Keeps q s0 s) : KeepsRes q s0 (execOcpRecover x0 s) := by
  unfold execOcpRecover
  try dsimp only
  repeat' with_reducible first
    | assumption | apply atTime_keeps | apply KeepsRes.next
    | fail_if_no_progress (refine Keeps.upd ?_ rfl rfl rfl rfl rfl rfl rfl rfl rfl) | split | dsimp only [id]

theorem execOcpShutdown_keeps {x0} (h : Keeps q s0 s) : KeepsRes q s0 (execOcpShutdown x0 s) := by
  unfold execOcpShutdown
  try dsimp only
  repeat' with_reducible first
    | assumption | apply atTime_keeps | apply raiseCap_keeps | apply powerOff_keeps | apply KeepsRes.next
    | fail_if_no_progress (refine Keeps.upd ?_ rfl rfl rfl rfl rfl rfl rfl rfl rfl) | split | dsimp only [id]

theorem setDroop_keeps {x0 x1} (h : Keeps q s0 s) : Keeps q s0 (setDroop x0 x1 s) := by
  unfold setDroop
  try dsimp only
  repeat' with_reducible first
    | assumption | fail_if_no_progress (refine Keeps.upd ?_ rfl rfl rfl rfl rfl rfl rfl rfl rfl)

theorem stretchDie_keeps {x0 x1 x2 x3} (h : Keeps q s0 s) : Keeps q s0 (stretchDie x0 x1 x2 x3 s) := by
  unfold stretchDie
  try dsimp only
  repeat' with_reducible first
    | assumption | apply tallyBy_keeps | apply raise_keeps | apply setDroop_keeps
    | fail_if_no_progress (refine Keeps.upd ?_ rfl rfl rfl rfl rfl rfl rfl rfl rfl) | split | dsimp only [id]

theorem execDroopDetect_keeps {x0 x1 x2 x3} (h : Keeps q s0 s) : KeepsRes q s0 (execDroopDetect x0 x1 x2 x3 s) := by
  unfold execDroopDetect
  try dsimp only
  repeat' with_reducible first
    | assumption | apply atTime_keeps | apply stretchDie_keeps | apply onUnit_keeps | apply KeepsRes.next | split
    | dsimp only [id]

theorem execDroopEnd_keeps {x0 x1 x2} (h : Keeps q s0 s) : KeepsRes q s0 (execDroopEnd x0 x1 x2 s) := by
  unfold execDroopEnd
  try dsimp only
  repeat' with_reducible first
    | assumption | apply atTime_keeps | apply stretchDie_keeps | apply onUnit_keeps | apply KeepsRes.next | split
    | dsimp only [id]

theorem throttle_keeps {x0 x1 x2} (h : Keeps q s0 s) : Keeps q s0 (throttle x0 x1 x2 s) := by
  unfold throttle
  try dsimp only
  repeat' with_reducible first
    | assumption | apply raise_keeps | fail_if_no_progress (refine Keeps.upd ?_ rfl rfl rfl rfl rfl rfl rfl rfl rfl) | split
    | dsimp only [id]

theorem execThermalSample_keeps {x0 x1 x2 x3 x4} (h : Keeps q s0 s) : KeepsRes q s0 (execThermalSample x0 x1 x2 x3 x4 s) := by
  unfold execThermalSample
  try dsimp only
  repeat' with_reducible first
    | assumption | apply atTime_keeps | apply throttle_keeps | apply noteCause_keeps | apply KeepsRes.next
    | fail_if_no_progress (refine Keeps.upd ?_ rfl rfl rfl rfl rfl rfl rfl rfl rfl) | apply Keeps.foldl | split
    | dsimp only [id] | intro _ _ _ | intro _ _

theorem execThermalTrip_keeps {x0 x1 x2} (h : Keeps q s0 s) : KeepsRes q s0 (execThermalTrip x0 x1 x2 s) := by
  unfold execThermalTrip
  try dsimp only
  repeat' with_reducible first
    | assumption | apply atTime_keeps | apply powerOff_keeps | apply onUnit_keeps | apply KeepsRes.next
    | fail_if_no_progress (refine Keeps.upd ?_ rfl rfl rfl rfl rfl rfl rfl rfl rfl) | split | dsimp only [id]

theorem execPldmSensorRead_keeps {x0 x1} (h : Keeps q s0 s) : KeepsRes q s0 (execPldmSensorRead x0 x1 s) := by
  unfold execPldmSensorRead
  try dsimp only
  repeat' with_reducible first
    | assumption | apply emit_keeps | apply KeepsRes.next | apply Keeps.snd (by assumption)
    | apply Keeps.thd (by assumption) | split

/-! ## Boot -/

theorem endBoot_keeps {x0} (h : Keeps q s0 s) : Keeps q s0 (endBoot x0 s) := by
  unfold endBoot
  try dsimp only
  repeat' with_reducible first
    | assumption | apply raise_keeps | fail_if_no_progress (refine Keeps.upd ?_ rfl rfl rfl rfl rfl rfl rfl rfl rfl)
    | apply Keeps.foldl | dsimp only [id] | intro _ _ _ | intro _ _

theorem enterPhase_keeps {x0} (h : Keeps q s0 s) : Keeps q s0 (enterPhase x0 s) := by
  unfold enterPhase
  try dsimp only
  repeat' with_reducible first
    | assumption | fail_if_no_progress (refine Keeps.upd ?_ rfl rfl rfl rfl rfl rfl rfl rfl rfl)

theorem verifyComponent_keeps {x0} (h : Keeps q s0 s) : Keeps q s0 (verifyComponent x0 s).2 := by
  unfold verifyComponent
  try dsimp only
  repeat' with_reducible first
    | assumption | apply securityViolation_keeps | apply setBootImage_keeps
    | fail_if_no_progress (refine Keeps.upd ?_ rfl rfl rfl rfl rfl rfl rfl rfl rfl) | split | dsimp only [id]

theorem verifyRom_keeps (h : Keeps q s0 s) : Keeps q s0 (verifyRom s).2 := by
  unfold verifyRom
  try dsimp only
  repeat' with_reducible first
    | assumption | apply verifyComponent_keeps
    | fail_if_no_progress (refine Keeps.upd ?_ rfl rfl rfl rfl rfl rfl rfl rfl rfl) | apply Keeps.snd (by assumption)
    | apply Keeps.thd (by assumption) | split | dsimp only [id]

theorem verifyRest_keeps (h : Keeps q s0 s) : Keeps q s0 (verifyRest s) := by
  unfold verifyRest
  try dsimp only
  repeat' with_reducible first
    | assumption | apply verifyComponent_keeps | apply bootHost_keeps
    | fail_if_no_progress (refine Keeps.upd ?_ rfl rfl rfl rfl rfl rfl rfl rfl rfl) | apply Keeps.snd (by assumption)
    | apply Keeps.thd (by assumption) | split | dsimp only [id]

theorem coldBoot_keeps {x0} (h : Keeps q s0 s) : Keeps q s0 (coldBoot x0 s) := by
  unfold coldBoot
  try dsimp only
  repeat' with_reducible first
    | assumption | apply darkState_keeps | fail_if_no_progress (refine Keeps.upd ?_ rfl rfl rfl rfl rfl rfl rfl rfl rfl)
    | dsimp only [id]

theorem tryPower_keeps (h : Keeps q s0 s) : Keeps q s0 (tryPower s) := by
  unfold tryPower
  try dsimp only
  repeat' with_reducible first
    | assumption | apply coldBoot_keeps | split

theorem execPwrEnRise_keeps {x0} (h : Keeps q s0 s) : KeepsRes q s0 (execPwrEnRise x0 s) := by
  unfold execPwrEnRise
  try dsimp only
  repeat' with_reducible first
    | assumption | apply atTime_keeps | apply tryPower_keeps | apply KeepsRes.next
    | fail_if_no_progress (refine Keeps.upd ?_ rfl rfl rfl rfl rfl rfl rfl rfl rfl) | dsimp only [id]

theorem execPwrEnFall_keeps {x0} (h : Keeps q s0 s) : KeepsRes q s0 (execPwrEnFall x0 s) := by
  unfold execPwrEnFall
  try dsimp only
  repeat' with_reducible first
    | assumption | apply atTime_keeps | apply powerOff_keeps | apply KeepsRes.next
    | fail_if_no_progress (refine Keeps.upd ?_ rfl rfl rfl rfl rfl rfl rfl rfl rfl) | split | dsimp only [id]

theorem execInputOutOfRange_keeps {x0} (h : Keeps q s0 s) : KeepsRes q s0 (execInputOutOfRange x0 s) := by
  unfold execInputOutOfRange
  try dsimp only
  repeat' with_reducible first
    | assumption | apply atTime_keeps | apply powerOff_keeps | apply KeepsRes.next
    | fail_if_no_progress (refine Keeps.upd ?_ rfl rfl rfl rfl rfl rfl rfl rfl rfl) | split | dsimp only [id]

theorem execInputInRange_keeps {x0} (h : Keeps q s0 s) : KeepsRes q s0 (execInputInRange x0 s) := by
  unfold execInputInRange
  try dsimp only
  repeat' with_reducible first
    | assumption | apply atTime_keeps | apply tryPower_keeps | apply KeepsRes.next
    | fail_if_no_progress (refine Keeps.upd ?_ rfl rfl rfl rfl rfl rfl rfl rfl rfl) | dsimp only [id]

theorem endPower_keeps (h : Keeps q s0 s) : Keeps q s0 (endPower s) := by
  unfold endPower
  try dsimp only
  repeat' with_reducible first
    | assumption | apply enterPhase_keeps | fail_if_no_progress (refine Keeps.upd ?_ rfl rfl rfl rfl rfl rfl rfl rfl rfl)
    | split | dsimp only [id]

theorem endRom_keeps {x0} (h : Keeps q s0 s) : Keeps q s0 (endRom x0 s) := by
  unfold endRom
  try dsimp only
  repeat' with_reducible first
    | assumption | apply reportTrip_keeps | apply verifyRom_keeps | apply enterPhase_keeps
    | fail_if_no_progress (refine Keeps.upd ?_ rfl rfl rfl rfl rfl rfl rfl rfl rfl) | apply Keeps.snd (by assumption)
    | apply Keeps.thd (by assumption) | split | dsimp only [id]

theorem endPriv_keeps {x0} (h : Keeps q s0 s) : Keeps q s0 (endPriv x0 s) := by
  unfold endPriv
  try dsimp only
  repeat' with_reducible first
    | assumption | apply enterPhase_keeps | apply privFail_keeps | apply endBoot_keeps
    | fail_if_no_progress (refine Keeps.upd ?_ rfl rfl rfl rfl rfl rfl rfl rfl rfl) | apply Keeps.foldl
    | apply Keeps.snd (by assumption) | apply Keeps.thd (by assumption) | split | dsimp only [id] | intro _ _ _ | intro _ _

theorem startOptics_keeps (h : Keeps q s0 s) : Keeps q s0 (startOptics s) := by
  unfold startOptics
  try dsimp only
  repeat' with_reducible first
    | assumption | apply setLaser_keeps | apply startTraining_keeps | apply Keeps.foldl | split | dsimp only [id]
    | intro _ _ _ | intro _ _

theorem endXd_keeps (h : Keeps q s0 s) : Keeps q s0 (endXd s) := by
  unfold endXd
  try dsimp only
  repeat' with_reducible first
    | assumption | apply verifyRest_keeps | apply enterPhase_keeps | apply startOptics_keeps
    | fail_if_no_progress (refine Keeps.upd ?_ rfl rfl rfl rfl rfl rfl rfl rfl rfl) | dsimp only [id]

theorem fenceFailed_keeps {x0} (h : Keeps q s0 s) : Keeps q s0 (fenceFailed x0 s) := by
  unfold fenceFailed
  try dsimp only
  repeat' with_reducible first
    | assumption | apply fence_keeps | apply Keeps.foldl | split | dsimp only [id] | intro _ _ _ | intro _ _

theorem endMemory_keeps {x0} (h : Keeps q s0 s) : Keeps q s0 (endMemory x0 s) := by
  unfold endMemory
  try dsimp only
  repeat' with_reducible first
    | assumption | apply applyMapouts_keeps | apply fenceFailed_keeps | apply privFail_keeps | apply goDown_keeps
    | apply enterPhase_keeps | fail_if_no_progress (refine Keeps.upd ?_ rfl rfl rfl rfl rfl rfl rfl rfl rfl)
    | apply Keeps.foldl | split | dsimp only [id] | intro _ _ _ | intro _ _

theorem endFill_keeps {x0} (h : Keeps q s0 s) : Keeps q s0 (endFill x0 s) := by
  unfold endFill
  try dsimp only
  repeat' with_reducible first
    | assumption | apply fenceFailed_keeps | apply enterPhase_keeps
    | refine Keeps.updMem ?_ rfl rfl rfl rfl (fun h => zeroAll_wf _)
    | fail_if_no_progress (refine Keeps.upd ?_ rfl rfl rfl rfl rfl rfl rfl rfl rfl) | dsimp only [id]

theorem endColdBist_keeps {x0} (h : Keeps q s0 s) : Keeps q s0 (endColdBist x0 s) := by
  unfold endColdBist
  try dsimp only
  repeat' with_reducible first
    | assumption | apply endBoot_keeps | apply freeWord_keeps | apply failUnit_keeps | apply Keeps.foldl
    | apply Keeps.foldl2 | apply Keeps.foldl3 | apply Keeps.foldl4 | apply Keeps.snd (by assumption)
    | apply Keeps.thd (by assumption) | split | dsimp only [id] | intro _ _ _ | intro _ _

theorem execBootPhaseComplete_keeps {x0 x1 x2} (h : Keeps q s0 s) : KeepsRes q s0 (execBootPhaseComplete x0 x1 x2 s) := by
  unfold execBootPhaseComplete
  try dsimp only
  repeat' with_reducible first
    | assumption | apply atTime_keeps | apply endPower_keeps | apply endRom_keeps | apply endPriv_keeps | apply endXd_keeps
    | apply endMemory_keeps | apply endFill_keeps | apply endColdBist_keeps | apply KeepsRes.next
    | apply Keeps.snd (by assumption) | apply Keeps.thd (by assumption) | split | dsimp only [id]

theorem execBootPhaseTimeout_keeps {x0} (h : Keeps q s0 s) : KeepsRes q s0 (execBootPhaseTimeout x0 s) := by
  unfold execBootPhaseTimeout
  try dsimp only
  repeat' with_reducible first
    | assumption | apply atTime_keeps | apply endBoot_keeps | apply KeepsRes.next
    | fail_if_no_progress (refine Keeps.upd ?_ rfl rfl rfl rfl rfl rfl rfl rfl rfl) | split | dsimp only [id]

theorem warmReset_keeps {x0} (h : Keeps q s0 s) : Keeps q s0 (warmReset x0 s) := by
  unfold warmReset
  try dsimp only
  repeat' with_reducible first
    | assumption | apply hostLost_keeps | fail_if_no_progress (refine Keeps.upd ?_ rfl rfl rfl rfl rfl rfl rfl rfl rfl)
    | split | dsimp only [id]

theorem recoverRows_keeps (h : Keeps q s0 s) : Keeps q s0 (recoverRows s) := by
  unfold recoverRows
  try dsimp only
  repeat' with_reducible first
    | assumption | apply recoverAtomic_keeps | fail_if_no_progress (refine Keeps.upd ?_ rfl rfl rfl rfl rfl rfl rfl rfl rfl)
    | split | dsimp only [id]

theorem warmRecover_keeps {x0} (h : Keeps q s0 s) : Keeps q s0 (warmRecover x0 s) := by
  unfold warmRecover
  try dsimp only
  repeat' with_reducible first
    | assumption | apply verifyRom_keeps | apply recoverRows_keeps | apply verifyRest_keeps | apply endBoot_keeps
    | apply startTraining_keeps | fail_if_no_progress (refine Keeps.upd ?_ rfl rfl rfl rfl rfl rfl rfl rfl rfl)
    | apply Keeps.foldl | apply Keeps.foldl2 | apply Keeps.foldl3 | apply Keeps.foldl4 | apply Keeps.snd (by assumption)
    | apply Keeps.thd (by assumption) | split | dsimp only [id] | intro _ _ _ | intro _ _

theorem execModRstNFall_keeps {x0} (h : Keeps q s0 s) : KeepsRes q s0 (execModRstNFall x0 s) := by
  unfold execModRstNFall
  try dsimp only
  repeat' with_reducible first
    | assumption | apply atTime_keeps | apply warmReset_keeps | apply KeepsRes.next
    | fail_if_no_progress (refine Keeps.upd ?_ rfl rfl rfl rfl rfl rfl rfl rfl rfl) | split | dsimp only [id]

theorem execModRstNRise_keeps {x0 x1} (h : Keeps q s0 s) : KeepsRes q s0 (execModRstNRise x0 x1 s) := by
  unfold execModRstNRise
  try dsimp only
  repeat' with_reducible first
    | assumption | apply atTime_keeps | apply warmRecover_keeps | apply enterPhase_keeps | apply KeepsRes.next
    | fail_if_no_progress (refine Keeps.upd ?_ rfl rfl rfl rfl rfl rfl rfl rfl rfl) | split | dsimp only [id]

theorem execWatchdog_keeps {x0 x1} (h : Keeps q s0 s) : KeepsRes q s0 (execWatchdog x0 x1 s) := by
  unfold execWatchdog
  try dsimp only
  repeat' with_reducible first
    | assumption | apply atTime_keeps | apply warmReset_keeps | apply warmRecover_keeps | apply KeepsRes.next | split
    | dsimp only [id]

theorem execJtagExtestEntry_keeps {x0} (h : Keeps q s0 s) : KeepsRes q s0 (execJtagExtestEntry x0 s) := by
  unfold execJtagExtestEntry
  try dsimp only
  repeat' with_reducible first
    | assumption | apply atTime_keeps | apply securityViolation_keeps | apply darkState_keeps | apply KeepsRes.next
    | fail_if_no_progress (refine Keeps.upd ?_ rfl rfl rfl rfl rfl rfl rfl rfl rfl) | split | dsimp only [id]

theorem execJtagScanExit_keeps {x0} (h : Keeps q s0 s) : KeepsRes q s0 (execJtagScanExit x0 s) := by
  unfold execJtagScanExit
  try dsimp only
  repeat' with_reducible first
    | assumption | apply atTime_keeps | apply coldBoot_keeps | apply KeepsRes.next | split | dsimp only [id]

/-! ## Branch -/

theorem takeBranch_keeps {x0 x1} (h : Keeps q s0 s) : Keeps q s0 (takeBranch x0 x1 s) := by
  unfold takeBranch
  try dsimp only
  repeat' with_reducible first
    | assumption | apply trapHere_keeps | apply jumpTo_keeps | split

theorem branchIf_keeps {x0 x1 x2 x3} (h : Keeps q s0 s) : KeepsRes q s0 (branchIf x0 x1 x2 x3 s) := by
  unfold branchIf
  try dsimp only
  repeat' with_reducible first
    | assumption | apply issue_keeps | apply takeBranch_keeps | apply advance_keeps | apply KeepsRes.next | split
    | dsimp only [id] | intro _ _

theorem execJmp_keeps {x0 x1} (h : Keeps q s0 s) : KeepsRes q s0 (execJmp x0 x1 s) := by
  unfold execJmp
  try dsimp only
  repeat' with_reducible first
    | assumption | apply issue_keeps | apply takeBranch_keeps | apply KeepsRes.next | dsimp only [id] | intro _ _

theorem execBeq_keeps {x0 x1} (h : Keeps q s0 s) : KeepsRes q s0 (execBeq x0 x1 s) := by
  unfold execBeq
  try dsimp only
  repeat' with_reducible first
    | assumption | apply branchIf_keeps | apply KeepsRes.next

theorem execBne_keeps {x0 x1} (h : Keeps q s0 s) : KeepsRes q s0 (execBne x0 x1 s) := by
  unfold execBne
  try dsimp only
  repeat' with_reducible first
    | assumption | apply branchIf_keeps | apply KeepsRes.next

theorem execBlt_keeps {x0 x1} (h : Keeps q s0 s) : KeepsRes q s0 (execBlt x0 x1 s) := by
  unfold execBlt
  try dsimp only
  repeat' with_reducible first
    | assumption | apply branchIf_keeps | apply KeepsRes.next

theorem execBge_keeps {x0 x1} (h : Keeps q s0 s) : KeepsRes q s0 (execBge x0 x1 s) := by
  unfold execBge
  try dsimp only
  repeat' with_reducible first
    | assumption | apply branchIf_keeps | apply KeepsRes.next

theorem execBltu_keeps {x0 x1} (h : Keeps q s0 s) : KeepsRes q s0 (execBltu x0 x1 s) := by
  unfold execBltu
  try dsimp only
  repeat' with_reducible first
    | assumption | apply branchIf_keeps | apply KeepsRes.next

theorem execBgeu_keeps {x0 x1} (h : Keeps q s0 s) : KeepsRes q s0 (execBgeu x0 x1 s) := by
  unfold execBgeu
  try dsimp only
  repeat' with_reducible first
    | assumption | apply branchIf_keeps | apply KeepsRes.next

theorem execJal_keeps {x0 x1} (h : Keeps q s0 s) : KeepsRes q s0 (execJal x0 x1 s) := by
  unfold execJal
  try dsimp only
  repeat' with_reducible first
    | assumption | apply issue_keeps | apply takeBranch_keeps | apply modTile_keeps | apply KeepsRes.next | split
    | dsimp only [id] | intro _ _

theorem execJr_keeps {x0 x1} (h : Keeps q s0 s) : KeepsRes q s0 (execJr x0 x1 s) := by
  unfold execJr
  try dsimp only
  repeat' with_reducible first
    | assumption | apply issue_keeps | apply trapHere_keeps | apply takeBranch_keeps | apply KeepsRes.next | split
    | dsimp only [id] | intro _ _

theorem execWaitTok_keeps {x0 x1} (h : Keeps q s0 s) : KeepsRes q s0 (execWaitTok x0 x1 s) := by
  unfold execWaitTok
  try dsimp only
  repeat' with_reducible first
    | assumption | apply issue_keeps | apply advance_keeps | apply setTile_keeps | apply KeepsRes.next
    | fail_if_no_progress (refine Keeps.upd ?_ rfl rfl rfl rfl rfl rfl rfl rfl rfl) | apply Keeps.snd (by assumption)
    | apply Keeps.thd (by assumption) | split | dsimp only [id] | intro _ _

theorem execWaitLeg_keeps {x0 x1 x2} (h : Keeps q s0 s) : KeepsRes q s0 (execWaitLeg x0 x1 x2 s) := by
  unfold execWaitLeg
  try dsimp only
  repeat' with_reducible first
    | assumption | apply issue_keeps | apply settleTile_keeps | apply seekLeg_keeps | apply atTime_keeps
    | apply KeepsRes.next | dsimp only [id] | intro _ _

theorem execHurdle_keeps {x0 x1 x2} (h : Keeps q s0 s) : KeepsRes q s0 (execHurdle x0 x1 x2 s) := by
  unfold execHurdle
  try dsimp only
  repeat' with_reducible first
    | assumption | apply issue_keeps | apply arriveHurdle_keeps | apply atTime_keeps | apply KeepsRes.next | split
    | dsimp only [id] | intro _ _

theorem execHurdleRelease_keeps {x0 x1 x2} (h : Keeps q s0 s) : KeepsRes q s0 (execHurdleRelease x0 x1 x2 s) := by
  unfold execHurdleRelease
  try dsimp only
  repeat' with_reducible first
    | assumption | apply atTime_keeps | apply releaseHurdle_keeps | apply KeepsRes.next | apply Keeps.snd (by assumption)
    | apply Keeps.thd (by assumption) | split | dsimp only [id]

theorem execEngineStaggerStart_keeps {x0 x1 x2} (h : Keeps q s0 s) : KeepsRes q s0 (execEngineStaggerStart x0 x1 x2 s) := by
  unfold execEngineStaggerStart
  try dsimp only
  repeat' with_reducible first
    | assumption | apply atTime_keeps | apply openGate_keeps | apply modTile_keeps | apply onUnit_keeps
    | apply KeepsRes.next | fail_if_no_progress (refine Keeps.upd ?_ rfl rfl rfl rfl rfl rfl rfl rfl rfl)
    | apply Keeps.snd (by assumption) | apply Keeps.thd (by assumption) | split | dsimp only [id]

theorem execArrive_keeps {x0 x1 x2} (h : Keeps q s0 s) : KeepsRes q s0 (execArrive x0 x1 x2 s) := by
  unfold execArrive
  try dsimp only
  repeat' with_reducible first
    | assumption | apply deliverRx_keeps | apply hurdleFull_keeps | apply setHurdle_keeps | apply onUnit_keeps
    | apply KeepsRes.next | fail_if_no_progress (refine Keeps.upd ?_ rfl rfl rfl rfl rfl rfl rfl rfl rfl) | split
    | dsimp only [id] | intro _ _

theorem execRelease_keeps {x0 x1 x2} (h : Keeps q s0 s) : KeepsRes q s0 (execRelease x0 x1 x2 s) := by
  unfold execRelease
  try dsimp only
  repeat' with_reducible first
    | assumption | apply deliverRx_keeps | apply sendDown_keeps | apply setHurdle_keeps | apply onUnit_keeps
    | apply KeepsRes.next | fail_if_no_progress (refine Keeps.upd ?_ rfl rfl rfl rfl rfl rfl rfl rfl rfl) | split
    | dsimp only [id] | intro _ _

/-! ## Manage -/

theorem setSpdm_keeps {x0 x1} (h : Keeps q s0 s) : Keeps q s0 (setSpdm x0 x1 s) := by
  unfold setSpdm
  try dsimp only
  repeat' with_reducible first
    | assumption | fail_if_no_progress (refine Keeps.upd ?_ rfl rfl rfl rfl rfl rfl rfl rfl rfl)

theorem spdmRun_keeps {x0 x1} {f : State → SpdmReply × State} (hf : ∀ t, Keeps q s0 t → Keeps q s0 (f t).2) (h : Keeps q s0 s) :
    KeepsRes q s0 (spdmRun x0 x1 f s) := by
  unfold spdmRun
  apply KeepsRes.next
  split
  · exact h
  · split
    · exact emit_keeps h
    · exact emit_keeps (hf _ h)

theorem execGetVersion_keeps {x0} (h : Keeps q s0 s) : KeepsRes q s0 (execGetVersion x0 s) :=
  spdmRun_keeps (fun _ ht => setSpdm_keeps ht) h

theorem execGetCapabilities_keeps {x0} (h : Keeps q s0 s) : KeepsRes q s0 (execGetCapabilities x0 s) :=
  spdmRun_keeps (fun _ ht => setSpdm_keeps ht) h

theorem execNegotiateAlgorithms_keeps {x0} (h : Keeps q s0 s) : KeepsRes q s0 (execNegotiateAlgorithms x0 s) :=
  spdmRun_keeps (fun _ ht => setSpdm_keeps ht) h

theorem execGetDigests_keeps {x0} (h : Keeps q s0 s) : KeepsRes q s0 (execGetDigests x0 s) :=
  spdmRun_keeps (fun _ ht => ht) h

theorem execGetCertificate_keeps {x0 x1 x2 x3} (h : Keeps q s0 s) : KeepsRes q s0 (execGetCertificate x0 x1 x2 x3 s) := by
  refine spdmRun_keeps (fun t ht => ?_) h
  dsimp only
  split
  · exact ht
  · exact ht

theorem identitySignature_keeps {x0} (h : Keeps q s0 s) : Keeps q s0 (identitySignature x0 s).2 := by
  unfold identitySignature
  try dsimp only
  repeat' with_reducible first
    | assumption | apply freeBytes_keeps | apply Keeps.snd (by assumption) | apply Keeps.thd (by assumption) | split
    | dsimp only [id]

theorem execChallenge_keeps {x0 x1 x2} (h : Keeps q s0 s) : KeepsRes q s0 (execChallenge x0 x1 x2 s) := by
  refine spdmRun_keeps (fun t ht => ?_) h
  dsimp only
  split
  · exact ht
  · split
    · exact ht
    · exact identitySignature_keeps (x0 := sha256 Config.certChain ++ x2) ht

theorem execGetMeasurements_keeps {x0 x1 x2} (h : Keeps q s0 s) : KeepsRes q s0 (execGetMeasurements x0 x1 x2 s) := by
  refine spdmRun_keeps (fun t ht => ?_) h
  dsimp only
  split
  · exact ht
  · split
    · exact ht
    · exact identitySignature_keeps (x0 := (measurements t).flatMap (·.2) ++ x2) ht

theorem execSpdmUnsupportedRequest_keeps {x0 x1} (h : Keeps q s0 s) : KeepsRes q s0 (execSpdmUnsupportedRequest x0 x1 s) := by
  unfold execSpdmUnsupportedRequest
  try dsimp only
  repeat' with_reducible first
    | assumption | apply emit_keeps | apply KeepsRes.next | split

theorem execRequestUpdate_keeps {x0} (h : Keeps q s0 s) : KeepsRes q s0 (execRequestUpdate x0 s) := by
  unfold execRequestUpdate
  try dsimp only
  repeat' with_reducible first
    | assumption | apply emit_keeps | apply KeepsRes.next
    | fail_if_no_progress (refine Keeps.upd ?_ rfl rfl rfl rfl rfl rfl rfl rfl rfl) | split

theorem execFirmwareImageTransfer_keeps {x0 x1} (h : Keeps q s0 s) : KeepsRes q s0 (execFirmwareImageTransfer x0 x1 s) := by
  unfold execFirmwareImageTransfer
  try dsimp only
  repeat' with_reducible first
    | assumption | apply emit_keeps | apply setImageOk_keeps | apply securityViolation_keeps | apply coldBoot_keeps
    | apply setBootImage_keeps | apply KeepsRes.next
    | fail_if_no_progress (refine Keeps.upd ?_ rfl rfl rfl rfl rfl rfl rfl rfl rfl) | apply Keeps.snd (by assumption)
    | apply Keeps.thd (by assumption) | split | dsimp only [id]

theorem activateNow_keeps {x0} (h : Keeps q s0 s) : Keeps q s0 (activateNow x0 s) := by
  unfold activateNow
  try dsimp only
  repeat' with_reducible first
    | assumption | apply activate_keeps | apply setBootImage_keeps | split

theorem execActivateFirmware_keeps {x0 x1} (h : Keeps q s0 s) : KeepsRes q s0 (execActivateFirmware x0 x1 s) := by
  unfold execActivateFirmware
  try dsimp only
  repeat' with_reducible first
    | assumption | apply atTime_keeps | apply emit_keeps | apply activateNow_keeps | apply KeepsRes.next
    | fail_if_no_progress (refine Keeps.upd ?_ rfl rfl rfl rfl rfl rfl rfl rfl rfl) | apply Keeps.snd (by assumption)
    | apply Keeps.thd (by assumption) | split | dsimp only [id]

/-! ## Drover -/

theorem gscalePut_keeps {x0 x1 x2} (h : Keeps q s0 s) : Keeps q s0 (gscalePut x0 x1 x2 s) := by
  unfold gscalePut
  try dsimp only
  repeat' with_reducible first
    | assumption | fail_if_no_progress (refine Keeps.upd ?_ rfl rfl rfl rfl rfl rfl rfl rfl rfl) | split | dsimp only [id]

theorem gscaleWrite_keeps {x0 x1} (h : Keeps q s0 s) : Keeps q s0 (gscaleWrite x0 x1 s) := by
  unfold gscaleWrite
  try dsimp only
  repeat' with_reducible first
    | assumption | apply gscalePut_keeps | apply Keeps.foldl | dsimp only [id] | intro _ _ _ | intro _ _

theorem queueMove_keeps {x0 x1} (h : Keeps q s0 s) : Keeps q s0 (queueMove x0 x1 s) := by
  unfold queueMove
  try dsimp only
  repeat' with_reducible first
    | assumption | apply modTile_keeps | fail_if_no_progress (refine Keeps.upd ?_ rfl rfl rfl rfl rfl rfl rfl rfl rfl)
    | split | dsimp only [id]

theorem execDmv_keeps {x0 x1} (h : Keeps q s0 s) : KeepsRes q s0 (execDmv x0 x1 s) := by
  unfold execDmv
  try dsimp only
  repeat' with_reducible first
    | assumption | apply issue_keeps | apply trapHere_keeps | apply noteMoving_keeps | apply advance_keeps
    | apply queueMove_keeps | apply bumpInFlight_keeps | apply KeepsRes.next | apply Keeps.snd (by assumption)
    | apply Keeps.thd (by assumption) | split | dsimp only [id] | intro _ _

theorem execDmvDense_keeps {x0 x1} (h : Keeps q s0 s) : KeepsRes q s0 (execDmvDense x0 x1 s) := by
  unfold execDmvDense
  try dsimp only
  repeat' with_reducible first
    | assumption | apply issue_keeps | apply advance_keeps | apply trapHere_keeps | apply modReturn_keeps
    | apply queueMove_keeps | apply KeepsRes.next
    | fail_if_no_progress (refine Keeps.upd ?_ rfl rfl rfl rfl rfl rfl rfl rfl rfl) | apply Keeps.snd (by assumption)
    | apply Keeps.thd (by assumption) | split | dsimp only [id] | intro _ _

theorem moveRead_keeps {x0 x1 x2 x3 x4 x5} (h : Keeps q s0 s) : Keeps q s0 (moveRead x0 x1 x2 x3 x4 x5 s).2.2 := by
  unfold moveRead
  try dsimp only
  repeat' with_reducible first
    | assumption | apply freeBytes_keeps | apply Keeps.snd (by assumption) | apply Keeps.thd (by assumption) | split
    | dsimp only [id]

theorem moveWrite_keeps {x0 x1 x2 x3 x4} (h : Keeps q s0 s) : Keeps q s0 (moveWrite x0 x1 x2 x3 x4 s) := by
  unfold moveWrite
  try dsimp only
  repeat' with_reducible first
    | assumption | apply tileWrite_keeps | apply gscaleWrite_keeps | apply putMem_keeps | apply emit_keeps
    | apply Keeps.snd (by assumption) | apply Keeps.thd (by assumption) | split | dsimp only [id]

theorem dropMove_keeps {x0 x1} (h : Keeps q s0 s) : Keeps q s0 (dropMove x0 x1 s) := by
  unfold dropMove
  try dsimp only
  repeat' with_reducible first
    | assumption | apply modTile_keeps | fail_if_no_progress (refine Keeps.upd ?_ rfl rfl rfl rfl rfl rfl rfl rfl rfl)

theorem trapParity_keeps {x0 x1 x2 x3 x4} (h : Keeps q s0 s) : Keeps q s0 (trapParity x0 x1 x2 x3 x4 s) := by
  unfold trapParity
  try dsimp only
  repeat' with_reducible first
    | assumption | apply trapAs_keeps

theorem finishCopy_keeps {x0 x1 x2 x3 x4 x5 x6 x7 x8} (h : Keeps q s0 s) : Keeps q s0 (finishCopy x0 x1 x2 x3 x4 x5 x6 x7 x8 s) := by
  unfold finishCopy
  try dsimp only
  repeat' with_reducible first
    | assumption | apply moveRead_keeps | apply moveWrite_keeps | apply dropMove_keeps | apply bumpInFlight_keeps
    | apply trapParity_keeps | apply Keeps.foldl | apply Keeps.foldl2 | apply Keeps.foldl3 | apply Keeps.foldl4
    | apply Keeps.snd (by assumption) | apply Keeps.thd (by assumption) | split | dsimp only [id] | intro _ _ _ | intro _ _

theorem finishDense_keeps {x0 x1 x2 x3 x4 x5 x6 x7} (h : Keeps q s0 s) : Keeps q s0 (finishDense x0 x1 x2 x3 x4 x5 x6 x7 s) := by
  unfold finishDense
  try dsimp only
  repeat' with_reducible first
    | assumption | apply freeBytes_keeps | apply sendLeaf_keeps | apply dropMove_keeps | apply pumpDense_keeps
    | apply Keeps.foldl | apply Keeps.foldl2 | apply Keeps.foldl3 | apply Keeps.foldl4 | apply Keeps.snd (by assumption)
    | apply Keeps.thd (by assumption) | split | dsimp only [id] | intro _ _ _ | intro _ _

theorem execDmvComplete_keeps {x0 x1} (h : Keeps q s0 s) : KeepsRes q s0 (execDmvComplete x0 x1 s) := by
  unfold execDmvComplete
  try dsimp only
  repeat' with_reducible first
    | assumption | apply settleTile_keeps | apply finishCopy_keeps | apply dropMove_keeps | apply finishDense_keeps
    | apply onUnit_keeps | apply KeepsRes.next | apply Keeps.snd (by assumption) | apply Keeps.thd (by assumption) | split
    | dsimp only [id]

/-! ## Csr -/

theorem csrRead_keeps {x0 x1} (h : Keeps q s0 s) : Keeps q s0 (csrRead x0 x1 s).2 := by
  unfold csrRead
  try dsimp only
  repeat' with_reducible first
    | assumption | apply freeBytes_keeps | split | dsimp only [id]

/-! ## CsrWrite -/

theorem execTileReset_keeps {x0} (h : Keeps q s0 s) : KeepsRes q s0 (execTileReset x0 s) := by
  unfold execTileReset
  try dsimp only
  repeat' with_reducible first
    | assumption | apply resetTile_keeps | apply onUnit_keeps | apply KeepsRes.next | split

theorem clearTally_keeps {x0} (h : Keeps q s0 s) : Keeps q s0 (clearTally x0 s) := by
  unfold clearTally
  try dsimp only
  repeat' with_reducible first
    | assumption | fail_if_no_progress (refine Keeps.upd ?_ rfl rfl rfl rfl rfl rfl rfl rfl rfl) | split

theorem execTallyClear_keeps {x0 x1} (h : Keeps q s0 s) : KeepsRes q s0 (execTallyClear x0 x1 s) := by
  unfold execTallyClear
  try dsimp only
  repeat' with_reducible first
    | assumption | apply clearTally_keeps | apply KeepsRes.next | split

theorem execGscaleWrite_keeps {x0 x1 x2 x3} (h : Keeps q s0 s) : KeepsRes q s0 (execGscaleWrite x0 x1 x2 x3 s) := by
  unfold execGscaleWrite
  try dsimp only
  repeat' with_reducible first
    | assumption | apply gscalePut_keeps | apply onUnit_keeps | apply KeepsRes.next | apply Keeps.snd (by assumption)
    | apply Keeps.thd (by assumption) | split | dsimp only [id]

theorem setRegion_keeps {x0 x1} (h : Keeps q s0 s) : Keeps q s0 (setRegion x0 x1 s) := by
  unfold setRegion
  try dsimp only
  repeat' with_reducible first
    | assumption | fail_if_no_progress (refine Keeps.upd ?_ rfl rfl rfl rfl rfl rfl rfl rfl rfl)

theorem execHqRegionCtlWrite_keeps {x0 x1} (h : Keeps q s0 s) : KeepsRes q s0 (execHqRegionCtlWrite x0 x1 s) := by
  unfold execHqRegionCtlWrite
  try dsimp only
  repeat' with_reducible first
    | assumption | apply setRegion_keeps | apply onUnit_keeps | apply KeepsRes.next
    | fail_if_no_progress (refine Keeps.upd ?_ rfl rfl rfl rfl rfl rfl rfl rfl rfl) | split | dsimp only [id]

theorem execHqRegionCtlRead_keeps {x0} (h : Keeps q s0 s) : KeepsRes q s0 (execHqRegionCtlRead x0 s) := by
  unfold execHqRegionCtlRead
  try dsimp only
  repeat' with_reducible first
    | assumption | apply readRegionCtl_keeps | apply onUnit_keeps | apply KeepsRes.next

theorem tkWrite_keeps {x0 x1 x2} (h : Keeps q s0 s) : Keeps q s0 (tkWrite x0 x1 x2 s) := by
  unfold tkWrite
  try dsimp only
  repeat' with_reducible first
    | assumption | apply outcomeState_keeps | apply execTileReset_keeps
    | fail_if_no_progress (refine Keeps.upd ?_ rfl rfl rfl rfl rfl rfl rfl rfl rfl) | apply Keeps.snd (by assumption)
    | apply Keeps.thd (by assumption) | split | dsimp only [id] | intro _ _

theorem ruWrite_keeps {x0 x1 x2 x3} (h : Keeps q s0 s) : Keeps q s0 (ruWrite x0 x1 x2 x3 s) := by
  unfold ruWrite
  try dsimp only
  repeat' with_reducible first
    | assumption | apply modRu_keeps | fail_if_no_progress (refine Keeps.upd ?_ rfl rfl rfl rfl rfl rfl rfl rfl rfl)
    | apply Keeps.snd (by assumption) | apply Keeps.thd (by assumption) | split | dsimp only [id]

theorem mmWrite_keeps {x0 x1 x2} (h : Keeps q s0 s) : Keeps q s0 (mmWrite x0 x1 x2 s) := by
  unfold mmWrite
  try dsimp only
  repeat' with_reducible first
    | assumption | apply outcomeState_keeps | apply execPcDrain_keeps | apply execPcFence_keeps
    | fail_if_no_progress (refine Keeps.upd ?_ rfl rfl rfl rfl rfl rfl rfl rfl rfl) | apply Keeps.snd (by assumption)
    | apply Keeps.thd (by assumption) | split | dsimp only [id] | intro _ _

theorem pwWrite_keeps {x0 x1 x2} (h : Keeps q s0 s) : Keeps q s0 (pwWrite x0 x1 x2 s) := by
  unfold pwWrite
  try dsimp only
  repeat' with_reducible first
    | assumption | apply outcomeState_keeps | apply execPwCapWrite_keeps
    | fail_if_no_progress (refine Keeps.upd ?_ rfl rfl rfl rfl rfl rfl rfl rfl rfl) | apply Keeps.snd (by assumption)
    | apply Keeps.thd (by assumption) | split | dsimp only [id] | intro _ _

theorem freeOutcome_keeps (h : Keeps q s0 s) : Keeps q s0 (freeOutcome s).2 := by
  unfold freeOutcome
  try dsimp only
  repeat' with_reducible first
    | assumption | apply freeWord_keeps | apply Keeps.snd (by assumption) | apply Keeps.thd (by assumption) | split
    | dsimp only [id]

theorem bistRequest_keeps {x0 x1 x2} (h : Keeps false s0 s) : Keeps false s0 (bistRequest x0 x1 x2 s) := by
  unfold bistRequest
  split
  · exact outcomeState_keeps (execBistQueuePass_keeps h) h
  · exact outcomeState_keeps (execPrivTest_keeps (freeWord_keeps h)) (freeWord_keeps h)
  · exact outcomeState_keeps (execRequalify_keeps (freeOutcome_keeps h)) (freeOutcome_keeps h)
  · exact h

theorem gzWrite_keeps {x0 x1 x2} (hn : q = true → x0 ≠ 2) (h : Keeps q s0 s) : Keeps q s0 (gzWrite x0 x1 x2 s) := by
  unfold gzWrite
  split
  · exact Keeps.upd h rfl rfl rfl rfl rfl rfl rfl rfl rfl
  · cases q
    · exact bistRequest_keeps h
    · exact absurd rfl (hn rfl)
  · split
    · exact outcomeState_keeps (execFwGo_keeps h) h
    · exact h
  · exact Keeps.upd h rfl rfl rfl rfl rfl rfl rfl rfl rfl
  · exact h

theorem mboxCommand_keeps {x0 x1} (h : Keeps q s0 s) : Keeps q s0 (mboxCommand x0 x1 s) := by
  unfold mboxCommand
  try dsimp only
  repeat' with_reducible first
    | assumption | apply outcomeState_keeps | apply execNonce_keeps | apply execUnlock_keeps | apply execKey_keeps
    | apply execClaim_keeps | apply execRaiseSvn_keeps | apply Keeps.snd (by assumption) | apply Keeps.thd (by assumption)
    | split | dsimp only [id] | intro _ _

theorem mboxWrite_keeps {x0 x1 x2} (h : Keeps q s0 s) : Keeps q s0 (mboxWrite x0 x1 x2 s) := by
  unfold mboxWrite
  try dsimp only
  repeat' with_reducible first
    | assumption | fail_if_no_progress (refine Keeps.upd ?_ rfl rfl rfl rfl rfl rfl rfl rfl rfl) | apply Keeps.foldl | split
    | dsimp only [id] | intro _ _ _ | intro _ _

theorem regionWrite_keeps {x0 x1} (h : Keeps q s0 s) : Keeps q s0 (regionWrite x0 x1 s) := by
  unfold regionWrite
  try dsimp only
  repeat' with_reducible first
    | assumption | apply setRegion_keeps | split

theorem adminCfg_keeps {x0} (h : Keeps q s0 s) : Keeps q s0 (adminCfg x0 s) := by
  unfold adminCfg
  try dsimp only
  repeat' with_reducible first
    | assumption | fail_if_no_progress (refine Keeps.upd ?_ rfl rfl rfl rfl rfl rfl rfl rfl rfl) | split | dsimp only [id]

theorem hqWriteReg_keeps {x0 x1 x2 x3} (h : Keeps q s0 s) : Keeps q s0 (hqWriteReg x0 x1 x2 x3 s) := by
  unfold hqWriteReg
  try dsimp only
  repeat' with_reducible first
    | assumption | apply regionWrite_keeps | apply outcomeState_keeps | apply execHqRegionCtlWrite_keeps
    | apply adminCfg_keeps | apply execHqAttach_keeps | apply execHqDetach_keeps | apply execHqHeartbeat_keeps
    | fail_if_no_progress (refine Keeps.upd ?_ rfl rfl rfl rfl rfl rfl rfl rfl rfl) | apply Keeps.snd (by assumption)
    | apply Keeps.thd (by assumption) | split | dsimp only [id] | intro _ _

theorem lgWrite_keeps {x0 x1 x2} (h : Keeps q s0 s) : Keeps q s0 (lgWrite x0 x1 x2 s) := by
  unfold lgWrite
  try dsimp only
  repeat' with_reducible first
    | assumption | apply outcomeState_keeps | apply execLaserDrain_keeps
    | fail_if_no_progress (refine Keeps.upd ?_ rfl rfl rfl rfl rfl rfl rfl rfl rfl) | apply Keeps.snd (by assumption)
    | apply Keeps.thd (by assumption) | split | dsimp only [id] | intro _ _

theorem routeWrite_keeps {x0 x1} (h : Keeps q s0 s) : Keeps q s0 (routeWrite x0 x1 s) := by
  unfold routeWrite
  try dsimp only
  repeat' with_reducible first
    | assumption | fail_if_no_progress (refine Keeps.upd ?_ rfl rfl rfl rfl rfl rfl rfl rfl rfl)
    | apply Keeps.snd (by assumption) | apply Keeps.thd (by assumption) | split

theorem linkWrite_keeps {x0 x1 x2 x3} (h : Keeps q s0 s) : Keeps q s0 (linkWrite x0 x1 x2 x3 s) := by
  unfold linkWrite
  try dsimp only
  repeat' with_reducible first
    | assumption | apply outcomeState_keeps | apply execLinkCtlRetrain_keeps | apply execLinkCtlTakeDown_keeps
    | apply execLinkCtlBringUp_keeps | apply Keeps.snd (by assumption) | apply Keeps.thd (by assumption) | split
    | dsimp only [id] | intro _ _

theorem tallyWrite_keeps {x0 x1 x2} (h : Keeps q s0 s) : Keeps q s0 (tallyWrite x0 x1 x2 s) := by
  unfold tallyWrite
  try dsimp only
  repeat' with_reducible first
    | assumption | apply clearTally_keeps | split | dsimp only [id]

theorem gscaleHalves_keeps {x0 x1 x2 x3} (h : Keeps q s0 s) : Keeps q s0 (gscaleHalves x0 x1 x2 x3 s) := by
  unfold gscaleHalves
  try dsimp only
  repeat' with_reducible first
    | assumption | apply gscalePut_keeps | apply Keeps.snd (by assumption) | apply Keeps.thd (by assumption) | split
    | dsimp only [id]

theorem Keeps.dite {c : Prop} [Decidable c] {a b : State} (ha : c → Keeps q s0 a) (hb : Keeps q s0 b) :
    Keeps q s0 (if c then a else b) := by
  split
  · exact ha ‹_›
  · exact hb

theorem csrPut_keeps {x0 x1 x2 x3} (hn : q = true → x1 / 8 ≠ 0x1802) (h : Keeps q s0 s) : Keeps q s0 (csrPut x0 x1 x2 x3 s) := by
  unfold csrPut
  dsimp only
  repeat' with_reducible refine Keeps.dite (fun hp => ?_) ?_
  · exact tkWrite_keeps h
  · exact ruWrite_keeps h
  · exact mmWrite_keeps h
  · exact pwWrite_keeps h
  · exact gzWrite_keeps (fun hq => by have := hn hq; omega) h
  · split
    · exact mboxCommand_keeps h
    · exact h
  · exact mboxWrite_keeps h
  · exact hqWriteReg_keeps h
  · exact outcomeState_keeps (execDoorbell_keeps h) h
  · exact h
  · exact gscaleHalves_keeps h
  · exact lgWrite_keeps h
  · exact routeWrite_keeps (routeWrite_keeps h)
  · exact linkWrite_keeps h
  · exact tallyWrite_keeps h
  · exact h

theorem csrWrite_keeps {x0 x1 x2 x3} (hn : q = true → x1 / 8 ≠ 0x1802) (h : Keeps q s0 s) : Keeps q s0 (csrWrite x0 x1 x2 x3 s) := by
  unfold csrWrite
  split
  · rename_i ha
    simp only [csrAligned, Bool.and_eq_true, Bool.or_eq_true, beq_iff_eq] at ha
    split
    · exact csrPut_keeps hn h
    · split
      · exact csrPut_keeps hn h
      · refine csrPut_keeps (fun hq => ?_) h
        have := hn hq
        obtain ⟨⟨h8 | h8, h4⟩, -⟩ := ha <;> rw [h8] at h4 <;> omega
  · exact h

theorem execRegisterWrite_keeps {x0 x1 x2 x3} (hn : q = true → x1 / 8 ≠ 0x1802) (h : Keeps q s0 s) :
    KeepsRes q s0 (execRegisterWrite x0 x1 x2 x3 s) :=
  KeepsRes.next (csrWrite_keeps hn (atTime_keeps h))

theorem csrApertureRead_keeps {x0 x1} (h : Keeps q s0 s) : Keeps q s0 (csrApertureRead x0 x1 s).2 := by
  unfold csrApertureRead
  try dsimp only
  repeat' with_reducible first
    | assumption | apply csrRead_keeps | apply Keeps.snd (by assumption) | apply Keeps.thd (by assumption) | split
    | dsimp only [id]

theorem execWindowRead_keeps {x0 x1 x2} (h : Keeps q s0 s) : KeepsRes q s0 (execWindowRead x0 x1 x2 s) := by
  unfold execWindowRead
  try dsimp only
  repeat' with_reducible first
    | assumption | apply atTime_keeps | apply emit_keeps | apply readRegionCtl_keeps | apply csrRead_keeps
    | apply rouse_keeps | apply KeepsRes.next | apply Keeps.snd (by assumption) | apply Keeps.thd (by assumption) | split
    | dsimp only [id]

theorem execWindowWrite_keeps {x0 x1 x2} (hn : q = true → (windowAddr s x1 - csrBase) / 8 ≠ 0x1802) (h : Keeps q s0 s) :
    KeepsRes q s0 (execWindowWrite x0 x1 x2 s) := by
  have ht : Keeps q s0 (atTime x0 s) := atTime_keeps h
  unfold execWindowWrite
  apply KeepsRes.next
  dsimp only
  split
  · exact ht
  · split
    · split
      · exact csrWrite_keeps hn ht
      · exact emit_keeps ht
    · split
      · exact Keeps.updMem (rouse_keeps ht) rfl rfl rfl rfl (fun h => memWrite_wf _ _ h)
      · exact emit_keeps ht

end Sys2Proof.Machine
end

