-- ==== Sys2Proof/Laws/KeepsUnits.lean ====
section
/-! SUPPORT. What the commands of the tiles and of the carriages keep. -/

set_option linter.unusedTactic false
set_option linter.unreachableTactic false
set_option linter.unusedVariables false

namespace Sys2Proof.Machine

variable {q : Bool} {s0 s : State}

/-! ## Digests -/

theorem execDigestRoundStart_keeps (h : Keeps q s0 s) : KeepsRes q s0 (execDigestRoundStart s) := by
  unfold execDigestRoundStart
  try dsimp only
  repeat' with_reducible first
    | assumption | apply KeepsRes.next | fail_if_no_progress (refine Keeps.upd ?_ rfl rfl rfl rfl rfl rfl rfl rfl rfl)
    | split | dsimp only [id]

theorem execDigestSlice_keeps {x0 x1 x2} (h : Keeps q s0 s) : KeepsRes q s0 (execDigestSlice x0 x1 x2 s) := by
  unfold execDigestSlice
  try dsimp only
  repeat' with_reducible first
    | assumption | apply atTime_keeps | apply endSlice_keeps | apply digestBlock_keeps | apply missSlice_keeps
    | apply KeepsRes.next | apply Keeps.foldl | apply Keeps.snd (by assumption) | apply Keeps.thd (by assumption) | split
    | dsimp only [id] | intro _ _ _ | intro _ _

theorem execDigestRoot_keeps {x0 x1 x2 x3 x4} (h : Keeps q s0 s) : KeepsRes q s0 (execDigestRoot x0 x1 x2 x3 x4 s) := by
  unfold execDigestRoot
  try dsimp only
  repeat' with_reducible first
    | assumption | apply deliverRx_keeps | apply noteRoot_keeps | apply onUnit_keeps | apply KeepsRes.next | split
    | dsimp only [id] | intro _ _

theorem execDigestQuery_keeps {x0 x1 x2} (h : Keeps q s0 s) : KeepsRes q s0 (execDigestQuery x0 x1 x2 s) := by
  unfold execDigestQuery
  try dsimp only
  repeat' with_reducible first
    | assumption | apply deliverRx_keeps | apply originate_keeps | apply onUnit_keeps | apply KeepsRes.next
    | apply Keeps.snd (by assumption) | apply Keeps.thd (by assumption) | split | dsimp only [id] | intro _ _

theorem raiseDiverged_keeps {x0 x1} (h : Keeps q s0 s) : Keeps q s0 (raiseDiverged x0 x1 s) := by
  unfold raiseDiverged
  try dsimp only
  repeat' with_reducible first
    | assumption | apply freeWord_keeps | apply raise_keeps | apply Keeps.snd (by assumption)
    | apply Keeps.thd (by assumption) | split | dsimp only [id]

theorem queueRepairTests_keeps {x0} (h : Keeps q s0 s) : Keeps q s0 (queueRepairTests x0 s) := by
  unfold queueRepairTests
  try dsimp only
  repeat' with_reducible first
    | assumption | apply queueTest_keeps | fail_if_no_progress (refine Keeps.upd ?_ rfl rfl rfl rfl rfl rfl rfl rfl rfl)
    | apply Keeps.foldl | apply Keeps.snd (by assumption) | apply Keeps.thd (by assumption) | split | dsimp only [id]
    | intro _ _ _ | intro _ _

theorem addRepair_keeps {x0} (h : Keeps q s0 s) : Keeps q s0 (addRepair x0 s) := by
  unfold addRepair
  try dsimp only
  repeat' with_reducible first
    | assumption | fail_if_no_progress (refine Keeps.upd ?_ rfl rfl rfl rfl rfl rfl rfl rfl rfl) | split

theorem dropRepair_keeps {x0} (h : Keeps q s0 s) : Keeps q s0 (dropRepair x0 s) := by
  unfold dropRepair
  try dsimp only
  repeat' with_reducible first
    | assumption | fail_if_no_progress (refine Keeps.upd ?_ rfl rfl rfl rfl rfl rfl rfl rfl rfl)

theorem modRepair_keeps {x0} (h : Keeps q s0 s) : Keeps q s0 (modRepair x0 s) := by
  unfold modRepair
  try dsimp only
  repeat' with_reducible first
    | assumption | fail_if_no_progress (refine Keeps.upd ?_ rfl rfl rfl rfl rfl rfl rfl rfl rfl) | split

theorem locateBlock_keeps {x0 x1 x2 x3} (h : Keeps q s0 s) : Keeps q s0 (locateBlock x0 x1 x2 x3 s) := by
  unfold locateBlock
  try dsimp only
  repeat' with_reducible first
    | assumption | apply tally_keeps | apply addRepair_keeps | apply originate_keeps
    | fail_if_no_progress (refine Keeps.upd ?_ rfl rfl rfl rfl rfl rfl rfl rfl rfl) | apply Keeps.foldl | split
    | dsimp only [id] | intro _ _ _ | intro _ _

theorem sendQuery_keeps {x0} (h : Keeps q s0 s) : Keeps q s0 (sendQuery x0 s) := by
  unfold sendQuery
  try dsimp only
  repeat' with_reducible first
    | assumption | apply originate_keeps | fail_if_no_progress (refine Keeps.upd ?_ rfl rfl rfl rfl rfl rfl rfl rfl rfl)
    | apply Keeps.foldl | split | dsimp only [id] | intro _ _ _ | intro _ _

theorem descend_keeps {x0 x1 x2} (h : Keeps q s0 s) : Keeps q s0 (descend x0 x1 x2 s) := by
  unfold descend
  try dsimp only
  repeat' with_reducible first
    | assumption | apply locateBlock_keeps | apply sendQuery_keeps
    | fail_if_no_progress (refine Keeps.upd ?_ rfl rfl rfl rfl rfl rfl rfl rfl rfl) | apply Keeps.foldl | split
    | dsimp only [id] | intro _ _ _ | intro _ _

theorem descendReady_keeps (h : Keeps q s0 s) : Keeps q s0 (descendReady s) := by
  unfold descendReady
  try dsimp only
  repeat' with_reducible first
    | assumption | apply descend_keeps | apply Keeps.foldl | apply Keeps.snd (by assumption)
    | apply Keeps.thd (by assumption) | split | dsimp only [id] | intro _ _ _ | intro _ _

theorem execDigestReply_keeps {x0 x1 x2 x3} (h : Keeps q s0 s) : KeepsRes q s0 (execDigestReply x0 x1 x2 x3 s) := by
  unfold execDigestReply
  try dsimp only
  repeat' with_reducible first
    | assumption | apply deliverRx_keeps | apply descendReady_keeps | apply onUnit_keeps | apply KeepsRes.next
    | fail_if_no_progress (refine Keeps.upd ?_ rfl rfl rfl rfl rfl rfl rfl rfl rfl) | dsimp only [id] | intro _ _

theorem execDescentTimeout_keeps {x0} (h : Keeps q s0 s) : KeepsRes q s0 (execDescentTimeout x0 s) := by
  unfold execDescentTimeout
  try dsimp only
  repeat' with_reducible first
    | assumption | apply atTime_keeps | apply tallyBy_keeps | apply KeepsRes.next
    | fail_if_no_progress (refine Keeps.upd ?_ rfl rfl rfl rfl rfl rfl rfl rfl rfl) | dsimp only [id]

theorem startDescents_keeps {x0 x1 x2} (h : Keeps q s0 s) : Keeps q s0 (startDescents x0 x1 x2 s) := by
  unfold startDescents
  try dsimp only
  repeat' with_reducible first
    | assumption | apply sendQuery_keeps | fail_if_no_progress (refine Keeps.upd ?_ rfl rfl rfl rfl rfl rfl rfl rfl rfl)
    | apply Keeps.foldl | dsimp only [id] | intro _ _ _ | intro _ _

theorem execDigestCompare_keeps {x0} (h : Keeps q s0 s) : KeepsRes q s0 (execDigestCompare x0 s) := by
  unfold execDigestCompare
  try dsimp only
  repeat' with_reducible first
    | assumption | apply atTime_keeps | apply tally_keeps | apply startDescents_keeps | apply freeWord_keeps
    | apply haltTree_keeps | apply raise_keeps | apply KeepsRes.next
    | fail_if_no_progress (refine Keeps.upd ?_ rfl rfl rfl rfl rfl rfl rfl rfl rfl) | apply Keeps.snd (by assumption)
    | apply Keeps.thd (by assumption) | split | dsimp only [id]

theorem execRepairOrder_keeps {x0 x1 x2} (h : Keeps q s0 s) : KeepsRes q s0 (execRepairOrder x0 x1 x2 s) := by
  unfold execRepairOrder
  try dsimp only
  repeat' with_reducible first
    | assumption | apply deliverRx_keeps | apply addRepair_keeps | apply onUnit_keeps | apply KeepsRes.next | split
    | dsimp only [id] | intro _ _

theorem sendBlock_keeps {x0} (h : Keeps q s0 s) : Keeps q s0 (sendBlock x0 s) := by
  unfold sendBlock
  try dsimp only
  repeat' with_reducible first
    | assumption | apply readBlock_keeps | apply originate_keeps | apply Keeps.foldl | apply Keeps.foldl2
    | apply Keeps.foldl3 | apply Keeps.foldl4 | apply Keeps.snd (by assumption) | apply Keeps.thd (by assumption) | split
    | dsimp only [id] | intro _ _ _ | intro _ _

theorem digestBefore_keeps {x0} (h : Keeps q s0 s) : Keeps q s0 (digestBefore x0 s) := by
  unfold digestBefore
  try dsimp only
  repeat' with_reducible first
    | assumption | apply readBlock_keeps | apply modRepair_keeps
    | fail_if_no_progress (refine Keeps.upd ?_ rfl rfl rfl rfl rfl rfl rfl rfl rfl) | apply Keeps.snd (by assumption)
    | apply Keeps.thd (by assumption) | split | dsimp only [id]

theorem execRepairTick_keeps {x0} (h : Keeps q s0 s) : KeepsRes q s0 (execRepairTick x0 s) := by
  unfold execRepairTick
  try dsimp only
  repeat' with_reducible first
    | assumption | apply atTime_keeps | apply sendBlock_keeps | apply modRepair_keeps | apply dropRepair_keeps
    | apply digestBefore_keeps | apply KeepsRes.next
    | fail_if_no_progress (refine Keeps.upd ?_ rfl rfl rfl rfl rfl rfl rfl rfl rfl) | apply Keeps.foldl | split
    | dsimp only [id] | intro _ _ _ | intro _ _

theorem endRepair_keeps {x0 x1 x2} (h : Keeps q s0 s) : Keeps q s0 (endRepair x0 x1 x2 s) := by
  unfold endRepair
  try dsimp only
  repeat' with_reducible first
    | assumption | apply queueRepairTests_keeps | apply raiseDiverged_keeps | apply dropRepair_keeps | apply originate_keeps
    | split | dsimp only [id]

theorem takeChunk_keeps {x0 x1} (h : Keeps q s0 s) : Keeps q s0 (takeChunk x0 x1 s) := by
  unfold takeChunk
  try dsimp only
  repeat' with_reducible first
    | assumption | apply modRepair_keeps | apply readBlock_keeps | apply endRepair_keeps
    | refine Keeps.updMem ?_ rfl rfl rfl rfl (fun h => memWrite_wf _ _ (by repeat first | exact h | refine memWrite_wf _ _ ?_))
    | fail_if_no_progress (refine Keeps.upd ?_ rfl rfl rfl rfl rfl rfl rfl rfl rfl) | apply Keeps.snd (by assumption)
    | apply Keeps.thd (by assumption) | split | dsimp only [id]

theorem execRepairData_keeps {x0 x1 x2} (h : Keeps q s0 s) : KeepsRes q s0 (execRepairData x0 x1 x2 s) := by
  unfold execRepairData
  try dsimp only
  repeat' with_reducible first
    | assumption | apply deliverRx_keeps | apply readBlock_keeps | apply endRepair_keeps | apply digestBefore_keeps
    | apply takeChunk_keeps | apply onUnit_keeps | apply KeepsRes.next | apply Keeps.snd (by assumption)
    | apply Keeps.thd (by assumption) | split | dsimp only [id] | intro _ _

theorem execRepairDone_keeps {x0 x1 x2} (h : Keeps q s0 s) : KeepsRes q s0 (execRepairDone x0 x1 x2 s) := by
  unfold execRepairDone
  try dsimp only
  repeat' with_reducible first
    | assumption | apply deliverRx_keeps | apply raiseDiverged_keeps | apply dropRepair_keeps | apply onUnit_keeps
    | apply KeepsRes.next | apply Keeps.snd (by assumption) | apply Keeps.thd (by assumption) | split | dsimp only [id]
    | intro _ _

theorem execRepairDeadline_keeps {x0 x1 x2 x3} (h : Keeps q s0 s) : KeepsRes q s0 (execRepairDeadline x0 x1 x2 x3 s) := by
  unfold execRepairDeadline
  try dsimp only
  repeat' with_reducible first
    | assumption | apply atTime_keeps | apply readBlock_keeps | apply endRepair_keeps | apply raiseDiverged_keeps
    | apply dropRepair_keeps | apply KeepsRes.next | apply Keeps.snd (by assumption) | apply Keeps.thd (by assumption)
    | split | dsimp only [id]

theorem execDigestAbort_keeps {x0 x1 x2} (h : Keeps q s0 s) : KeepsRes q s0 (execDigestAbort x0 x1 x2 s) := by
  unfold execDigestAbort
  try dsimp only
  repeat' with_reducible first
    | assumption | apply deliverRx_keeps | apply pumpDense_keeps | apply onUnit_keeps | apply KeepsRes.next
    | fail_if_no_progress (refine Keeps.upd ?_ rfl rfl rfl rfl rfl rfl rfl rfl rfl) | split | dsimp only [id] | intro _ _

/-! ## Embed -/

theorem endFetch_keeps {x0 x1 x2} (h : Keeps q s0 s) : Keeps q s0 (endFetch x0 x1 x2 s).2.2 := by
  unfold endFetch
  try dsimp only
  repeat' with_reducible first
    | assumption | apply tileRead_keeps | apply freeBytes_keeps | apply Keeps.snd (by assumption)
    | apply Keeps.thd (by assumption) | split | dsimp only [id]

theorem queueEmb_keeps {x0 x1} (h : Keeps q s0 s) : Keeps q s0 (queueEmb x0 x1 s) := by
  unfold queueEmb
  try dsimp only
  repeat' with_reducible first
    | assumption | apply modTile_keeps | fail_if_no_progress (refine Keeps.upd ?_ rfl rfl rfl rfl rfl rfl rfl rfl rfl)
    | split | dsimp only [id]

theorem dropEmb_keeps {x0 x1} (h : Keeps q s0 s) : Keeps q s0 (dropEmb x0 x1 s) := by
  unfold dropEmb
  try dsimp only
  repeat' with_reducible first
    | assumption | apply modTile_keeps | fail_if_no_progress (refine Keeps.upd ?_ rfl rfl rfl rfl rfl rfl rfl rfl rfl)

theorem issueLook_keeps {x0 x1 x2 x3 x4 x5 x6 x7 x8 x9 x10} (h : Keeps q s0 s) : Keeps q s0 (issueLook x0 x1 x2 x3 x4 x5 x6 x7 x8 x9 x10 s) := by
  unfold issueLook
  try dsimp only
  repeat' with_reducible first
    | assumption | apply tableTally_keeps | apply trapHere_keeps | apply tallyBy_keeps | apply modRu_keeps
    | apply bumpInFlight_keeps | apply queueEmb_keeps | apply modTile_keeps | apply advance_keeps | apply sendBatch_keeps
    | fail_if_no_progress (refine Keeps.upd ?_ rfl rfl rfl rfl rfl rfl rfl rfl rfl) | apply Keeps.snd (by assumption)
    | apply Keeps.thd (by assumption) | split | dsimp only [id]

theorem execEmbLook_keeps {x0 x1} (h : Keeps q s0 s) : KeepsRes q s0 (execEmbLook x0 x1 s) := by
  unfold execEmbLook
  try dsimp only
  repeat' with_reducible first
    | assumption | apply issue_keeps | apply advance_keeps | apply trapHere_keeps | apply endFetch_keeps
    | apply issueLook_keeps | apply KeepsRes.next | apply Keeps.snd (by assumption) | apply Keeps.thd (by assumption)
    | split | dsimp only [id] | intro _ _

theorem markRequests_keeps {x0 x1} (h : Keeps q s0 s) : Keeps q s0 (markRequests x0 x1 s) := by
  unfold markRequests
  try dsimp only
  repeat' with_reducible first
    | assumption | fail_if_no_progress (refine Keeps.upd ?_ rfl rfl rfl rfl rfl rfl rfl rfl rfl)
    | apply Keeps.snd (by assumption) | apply Keeps.thd (by assumption) | split | dsimp only [id]

theorem finishLook_keeps {x0 x1 x2 x3} (h : Keeps q s0 s) : Keeps q s0 (finishLook x0 x1 x2 x3 s) := by
  unfold finishLook
  try dsimp only
  repeat' with_reducible first
    | assumption | apply tableTally_keeps | apply bumpInFlight_keeps | apply moveWrite_keeps | apply dropEmb_keeps
    | apply markRequests_keeps | apply modBatch_keeps
    | fail_if_no_progress (refine Keeps.upd ?_ rfl rfl rfl rfl rfl rfl rfl rfl rfl) | split | dsimp only [id]

theorem execEmbLookComplete_keeps {x0 x1} (h : Keeps q s0 s) : KeepsRes q s0 (execEmbLookComplete x0 x1 s) := by
  unfold execEmbLookComplete
  try dsimp only
  repeat' with_reducible first
    | assumption | apply settleTile_keeps | apply finishLook_keeps | apply onUnit_keeps | apply KeepsRes.next
    | apply Keeps.snd (by assumption) | apply Keeps.thd (by assumption) | split | dsimp only [id]

theorem execEmbGrad_keeps {x0 x1} (h : Keeps q s0 s) : KeepsRes q s0 (execEmbGrad x0 x1 s) := by
  unfold execEmbGrad
  try dsimp only
  repeat' with_reducible first
    | assumption | apply issue_keeps | apply advance_keeps | apply trapHere_keeps | apply queueEmb_keeps
    | apply bumpInFlight_keeps | apply modBatch_keeps | apply KeepsRes.next
    | fail_if_no_progress (refine Keeps.upd ?_ rfl rfl rfl rfl rfl rfl rfl rfl rfl) | apply Keeps.snd (by assumption)
    | apply Keeps.thd (by assumption) | split | dsimp only [id] | intro _ _

theorem sendPosition_keeps {x0 x1 x2 x3 x4 x5} (h : Keeps q s0 s) : Keeps q s0 (sendPosition x0 x1 x2 x3 x4 x5 s) := by
  unfold sendPosition
  try dsimp only
  repeat' with_reducible first
    | assumption | apply sendGrad_keeps | apply Keeps.snd (by assumption) | apply Keeps.thd (by assumption) | split
    | dsimp only [id]

theorem sendGradients_keeps {x0 x1 x2 x3 x4} (h : Keeps q s0 s) : Keeps q s0 (sendGradients x0 x1 x2 x3 x4 s) := by
  unfold sendGradients
  try dsimp only
  repeat' with_reducible first
    | assumption | apply sendPosition_keeps | apply Keeps.foldl | split | dsimp only [id] | intro _ _ _ | intro _ _

theorem gradRead_keeps {x0 x1 x2 x3} (h : Keeps q s0 s) : Keeps q s0 (gradRead x0 x1 x2 x3 s).2.2 := by
  unfold gradRead
  try dsimp only
  repeat' with_reducible first
    | assumption | apply freeBytes_keeps | apply endFetch_keeps | apply Keeps.snd (by assumption)
    | apply Keeps.thd (by assumption) | split | dsimp only [id]

theorem execEmbGradComplete_keeps {x0 x1} (h : Keeps q s0 s) : KeepsRes q s0 (execEmbGradComplete x0 x1 s) := by
  unfold execEmbGradComplete
  try dsimp only
  repeat' with_reducible first
    | assumption | apply gradRead_keeps | apply bumpInFlight_keeps | apply dropEmb_keeps | apply settleTile_keeps
    | apply trapParity_keeps | apply sendGradients_keeps | apply onUnit_keeps | apply KeepsRes.next
    | apply Keeps.snd (by assumption) | apply Keeps.thd (by assumption) | split | dsimp only [id]

theorem execEmbPost_keeps {x0 x1 x2} (h : Keeps q s0 s) : KeepsRes q s0 (execEmbPost x0 x1 x2 s) := by
  unfold execEmbPost
  try dsimp only
  repeat' with_reducible first
    | assumption | apply issue_keeps | apply trapHere_keeps | apply endFetch_keeps | apply advance_keeps
    | apply answer_keeps | apply modTile_keeps | apply atTime_keeps | apply KeepsRes.next | apply Keeps.snd (by assumption)
    | apply Keeps.thd (by assumption) | split | dsimp only [id] | intro _ _

/-! ## FoldOps -/

theorem releaseWay_keeps {x0 x1 x2 x3 x4 x5} (h : Keeps q s0 s) : Keeps q s0 (releaseWay x0 x1 x2 x3 x4 x5 s) := by
  unfold releaseWay
  try dsimp only
  repeat' with_reducible first
    | assumption | apply setTag_keeps | apply demoteRow_keeps | split | dsimp only [id]

theorem releaseSet_keeps {x0 x1 x2 x3 x4} (h : Keeps q s0 s) : Keeps q s0 (releaseSet x0 x1 x2 x3 x4 s) := by
  unfold releaseSet
  try dsimp only
  repeat' with_reducible first
    | assumption | apply structPoison_keeps | apply releaseWay_keeps | apply Keeps.foldl | apply Keeps.snd (by assumption)
    | apply Keeps.thd (by assumption) | split | dsimp only [id] | intro _ _ _ | intro _ _

theorem releaseFold_keeps {x0 x1} (h : Keeps q s0 s) : Keeps q s0 (releaseFold x0 x1 s) := by
  unfold releaseFold
  try dsimp only
  repeat' with_reducible first
    | assumption | apply releaseSet_keeps | apply Keeps.foldl | split | dsimp only [id] | intro _ _ _ | intro _ _

theorem execFoldRelease_keeps {x0 x1} (h : Keeps q s0 s) : KeepsRes q s0 (execFoldRelease x0 x1 s) := by
  unfold execFoldRelease
  try dsimp only
  repeat' with_reducible first
    | assumption | apply releaseFold_keeps | apply raise_keeps | apply KeepsRes.next
    | fail_if_no_progress (refine Keeps.upd ?_ rfl rfl rfl rfl rfl rfl rfl rfl rfl) | apply Keeps.snd (by assumption)
    | apply Keeps.thd (by assumption) | split | dsimp only [id]

theorem loadSlotRow_keeps {x0 x1 x2 x3} {acc : Nat × State} (h : Keeps q s0 acc.2) : Keeps q s0 (loadSlotRow x0 x1 x2 x3 acc).2 := by
  unfold loadSlotRow
  dsimp only
  split
  · exact h
  split
  · exact putMem_keeps h
  · dsimp only
    split
    · exact putMem_keeps (tally_keeps h)
    · exact putMem_keeps h

theorem loadDie_keeps {x0 x1 x2} {acc : Nat × State} (h : Keeps q s0 acc.2) : Keeps q s0 (loadDie x0 x1 acc x2).2 := by
  unfold loadDie
  exact Keeps.foldl2 h (fun _ _ => loadSlotRow_keeps)

theorem copySpan_keeps {x0 x1 x2} (h : Keeps q s0 s) : Keeps q s0 (copySpan x0 x1 x2 s) :=
  Keeps.updMem (putMem_keeps h) rfl rfl rfl rfl (poisonAll_wf _)

theorem loadImages_keeps {x0 x1 x2} (h : Keeps q s0 s) : Keeps q s0 (loadImages x0 x1 x2 s).2 := by
  unfold loadImages
  try dsimp only
  repeat' with_reducible first
    | assumption | apply memZero_keeps | apply copySpan_keeps
    | fail_if_no_progress (refine Keeps.upd ?_ rfl rfl rfl rfl rfl rfl rfl rfl rfl) | split | dsimp only [id]

theorem runFoldLoad_keeps {x0} (h : Keeps q s0 s) : Keeps q s0 (runFoldLoad x0 s).2 := by
  unfold runFoldLoad
  split
  · split
    · refine Keeps.upd (Keeps.foldl2 h (fun _ _ => loadDie_keeps)) rfl rfl rfl rfl rfl rfl rfl rfl rfl
    · exact h
  · split
    · exact loadImages_keeps h
    · exact h
  · exact loadImages_keeps h

theorem execFoldLoadComplete_keeps {x0 x1} (h : Keeps q s0 s) : KeepsRes q s0 (execFoldLoadComplete x0 x1 s) := by
  unfold execFoldLoadComplete
  try dsimp only
  repeat' with_reducible first
    | assumption | apply runFoldLoad_keeps | apply finishStarted_keeps | apply KeepsRes.next
    | fail_if_no_progress (refine Keeps.upd ?_ rfl rfl rfl rfl rfl rfl rfl rfl rfl) | apply Keeps.snd (by assumption)
    | apply Keeps.thd (by assumption) | split | dsimp only [id]

/-! ## Matrix -/

theorem queueEngine_keeps {x0 x1 x2} (h : Keeps q s0 s) : Keeps q s0 (queueEngine x0 x1 x2 s) := by
  unfold queueEngine
  try dsimp only
  repeat' with_reducible first
    | assumption | apply noteStagger_keeps | apply modTile_keeps
    | fail_if_no_progress (refine Keeps.upd ?_ rfl rfl rfl rfl rfl rfl rfl rfl rfl) | split | dsimp only [id]

theorem execMma_keeps {x0 x1 x2} (h : Keeps q s0 s) : KeepsRes q s0 (execMma x0 x1 x2 s) := by
  unfold execMma
  try dsimp only
  repeat' with_reducible first
    | assumption | apply issue_keeps | apply trapHere_keeps | apply advance_keeps | apply queueEngine_keeps
    | apply KeepsRes.next | apply Keeps.snd (by assumption) | apply Keeps.thd (by assumption) | split | dsimp only [id]
    | intro _ _

theorem execDrain_keeps {x0 x1} (h : Keeps q s0 s) : KeepsRes q s0 (execDrain x0 x1 s) := by
  unfold execDrain
  try dsimp only
  repeat' with_reducible first
    | assumption | apply issue_keeps | apply trapHere_keeps | apply advance_keeps | apply queueEngine_keeps
    | apply KeepsRes.next | apply Keeps.snd (by assumption) | apply Keeps.thd (by assumption) | split | dsimp only [id]
    | intro _ _

theorem popEngine_keeps {x0 x1} (h : Keeps q s0 s) : Keeps q s0 (popEngine x0 x1 s) := by
  unfold popEngine
  try dsimp only
  repeat' with_reducible first
    | assumption | apply openGate_keeps | apply modTile_keeps
    | fail_if_no_progress (refine Keeps.upd ?_ rfl rfl rfl rfl rfl rfl rfl rfl rfl)

theorem freeWords32_keeps {x0} (h : Keeps q s0 s) : Keeps q s0 (freeWords32 x0 s).2 :=
  h.trans ⟨rfl, Nat.le_refl _, Nat.le_refl _, fun _ h => h, fun _ _ h => h, id, Nat.le_add_right _ _, List.suffix_rfl⟩

theorem runMma_keeps {x0 x1 x2 x3 x4 x5 x6 x7 x8 x9 x10} (h : Keeps q s0 s) : Keeps q s0 (runMma x0 x1 x2 x3 x4 x5 x6 x7 x8 x9 x10 s) := by
  unfold runMma
  try dsimp only
  repeat' with_reducible first
    | assumption | apply freeWords32_keeps | apply modTile_keeps | apply noteNans_keeps
    | fail_if_no_progress (refine Keeps.upd ?_ rfl rfl rfl rfl rfl rfl rfl rfl rfl) | apply Keeps.foldl | apply Keeps.foldl2
    | apply Keeps.foldl3 | apply Keeps.foldl4 | apply Keeps.snd (by assumption) | apply Keeps.thd (by assumption) | split
    | dsimp only [id] | intro _ _ _ | intro _ _

theorem execMmaComplete_keeps {x0 x1} (h : Keeps q s0 s) : KeepsRes q s0 (execMmaComplete x0 x1 s) := by
  unfold execMmaComplete
  try dsimp only
  repeat' with_reducible first
    | assumption | apply settleTile_keeps | apply runMma_keeps | apply popEngine_keeps | apply onUnit_keeps
    | apply KeepsRes.next | apply Keeps.snd (by assumption) | apply Keeps.thd (by assumption) | split | dsimp only [id]

theorem runDrain_keeps {x0 x1 x2 x3 x4 x5 x6 x7 x8 x9 x10 x11 x12} (h : Keeps q s0 s) : Keeps q s0 (runDrain x0 x1 x2 x3 x4 x5 x6 x7 x8 x9 x10 x11 x12 s) := by
  unfold runDrain
  try dsimp only
  repeat' with_reducible first
    | assumption | apply modTile_keeps | apply freeBytes_keeps | apply orFlags_keeps | apply noteNans_keeps
    | fail_if_no_progress (refine Keeps.upd ?_ rfl rfl rfl rfl rfl rfl rfl rfl rfl) | apply Keeps.foldl | apply Keeps.foldl2
    | apply Keeps.foldl3 | apply Keeps.foldl4 | apply Keeps.snd (by assumption) | apply Keeps.thd (by assumption) | split
    | dsimp only [id] | intro _ _ _ | intro _ _

theorem execDrainComplete_keeps {x0 x1} (h : Keeps q s0 s) : KeepsRes q s0 (execDrainComplete x0 x1 s) := by
  unfold execDrainComplete
  try dsimp only
  repeat' with_reducible first
    | assumption | apply settleTile_keeps | apply runDrain_keeps | apply popEngine_keeps | apply onUnit_keeps
    | apply KeepsRes.next | apply Keeps.snd (by assumption) | apply Keeps.thd (by assumption) | split | dsimp only [id]

/-! ## Recv -/

theorem forwardOn_keeps {x0 x1 x2} (h : Keeps q s0 s) : Keeps q s0 (forwardOn x0 x1 x2 s) := by
  unfold forwardOn
  try dsimp only
  repeat' with_reducible first
    | assumption | apply tally_keeps | apply route_keeps | split

theorem takeRun_keeps {x0 x1 x2 x4} (h : Keeps q s0 s) : Keeps q s0 (takeRun x0 x1 x2 s x4) := by
  unfold takeRun
  try dsimp only
  repeat' with_reducible first
    | assumption | apply forwardOn_keeps | apply enqueueOp_keeps
    | fail_if_no_progress (refine Keeps.upd ?_ rfl rfl rfl rfl rfl rfl rfl rfl rfl) | apply Keeps.snd (by assumption)
    | apply Keeps.thd (by assumption) | split

theorem countDuties_keeps {x0} (h : Keeps q s0 s) : Keeps q s0 (countDuties x0 s) := by
  unfold countDuties
  try dsimp only
  repeat' with_reducible first
    | assumption | apply tally_keeps | split | dsimp only [id]

theorem execIdxReceive_keeps {x0 x1 x2} (h : Keeps q s0 s) : KeepsRes q s0 (execIdxReceive x0 x1 x2 s) := by
  unfold execIdxReceive
  try dsimp only
  repeat' with_reducible first
    | assumption | apply deliverRx_keeps | apply takeRun_keeps | apply countDuties_keeps | apply onUnit_keeps
    | apply KeepsRes.next | apply Keeps.foldl | dsimp only [id] | intro _ _ _ | intro _ _

theorem execRowSend_keeps {x0 x1} (h : Keeps q s0 s) : KeepsRes q s0 (execRowSend x0 x1 s) := by
  unfold execRowSend
  try dsimp only
  repeat' with_reducible first
    | assumption | apply atTime_keeps | apply flushRow_keeps | apply KeepsRes.next | apply Keeps.foldl
    | apply Keeps.snd (by assumption) | apply Keeps.thd (by assumption) | split | dsimp only [id] | intro _ _ _ | intro _ _

theorem takeRow_keeps {x0 x1 x2} (h : Keeps q s0 s) : Keeps q s0 (takeRow x0 x1 x2 s).2 := by
  unfold takeRow
  try dsimp only
  repeat' with_reducible first
    | assumption | apply gotRow_keeps | apply gotWhole_keeps
    | fail_if_no_progress (refine Keeps.upd ?_ rfl rfl rfl rfl rfl rfl rfl rfl rfl) | apply Keeps.snd (by assumption)
    | apply Keeps.thd (by assumption) | split | dsimp only [id]

theorem noteRemote_keeps {x0 x1 x2} (h : Keeps q s0 s) : Keeps q s0 (noteRemote x0 x1 x2 s) := by
  unfold noteRemote
  try dsimp only
  repeat' with_reducible first
    | assumption | apply modOcc_keeps | fail_if_no_progress (refine Keeps.upd ?_ rfl rfl rfl rfl rfl rfl rfl rfl rfl)
    | split

theorem dropReplies_keeps {x0 x1} (h : Keeps q s0 s) : Keeps q s0 (dropReplies x0 x1 s) := by
  unfold dropReplies
  try dsimp only
  repeat' with_reducible first
    | assumption | fail_if_no_progress (refine Keeps.upd ?_ rfl rfl rfl rfl rfl rfl rfl rfl rfl) | apply Keeps.foldl
    | apply Keeps.snd (by assumption) | apply Keeps.thd (by assumption) | split | dsimp only [id] | intro _ _ _ | intro _ _

theorem execRowReceive_keeps {x0 x1 x2} (h : Keeps q s0 s) : KeepsRes q s0 (execRowReceive x0 x1 x2 s) := by
  unfold execRowReceive
  try dsimp only
  repeat' with_reducible first
    | assumption | apply deliverRx_keeps | apply releaseWindows_keeps | apply dropReplies_keeps | apply tally_keeps
    | apply noteRemote_keeps | apply takeRow_keeps | apply onUnit_keeps | apply KeepsRes.next | apply Keeps.foldl
    | apply Keeps.foldl2 | apply Keeps.foldl3 | apply Keeps.foldl4 | apply Keeps.snd (by assumption)
    | apply Keeps.thd (by assumption) | split | dsimp only [id] | intro _ _ _ | intro _ _

theorem execGradReceive_keeps {x0 x1 x2} (h : Keeps q s0 s) : KeepsRes q s0 (execGradReceive x0 x1 x2 s) := by
  unfold execGradReceive
  try dsimp only
  repeat' with_reducible first
    | assumption | apply deliverRx_keeps | apply forwardOn_keeps | apply tally_keeps | apply enqueueOp_keeps
    | apply onUnit_keeps | apply KeepsRes.next | apply Keeps.snd (by assumption) | apply Keeps.thd (by assumption) | split
    | dsimp only [id] | intro _ _

theorem execDenseReceive_keeps {x0 x1 x2 x3} (h : Keeps q s0 s) : KeepsRes q s0 (execDenseReceive x0 x1 x2 x3 s) := by
  unfold execDenseReceive
  try dsimp only
  repeat' with_reducible first
    | assumption | apply deliverRx_keeps | apply noteRemote_keeps | apply pumpDense_keeps | apply takeGather_keeps
    | apply takeDense_keeps | apply onUnit_keeps | apply KeepsRes.next | split | dsimp only [id] | intro _ _

theorem execAcceptSend_keeps {x0} (h : Keeps q s0 s) : KeepsRes q s0 (execAcceptSend x0 s) := by
  unfold execAcceptSend
  try dsimp only
  repeat' with_reducible first
    | assumption | apply atTime_keeps | apply originate_keeps | apply KeepsRes.next
    | fail_if_no_progress (refine Keeps.upd ?_ rfl rfl rfl rfl rfl rfl rfl rfl rfl) | apply Keeps.foldl | apply Keeps.foldl2
    | apply Keeps.foldl3 | apply Keeps.foldl4 | dsimp only [id] | intro _ _ _ | intro _ _

theorem execAccept_keeps {x0 x1 x2 x3 x4} (h : Keeps q s0 s) : KeepsRes q s0 (execAccept x0 x1 x2 x3 x4 s) := by
  unfold execAccept
  try dsimp only
  repeat' with_reducible first
    | assumption | apply deliverRx_keeps | apply releaseWindows_keeps | apply onUnit_keeps | apply KeepsRes.next
    | fail_if_no_progress (refine Keeps.upd ?_ rfl rfl rfl rfl rfl rfl rfl rfl rfl) | dsimp only [id] | intro _ _

theorem writeChunk_keeps {x0 x1} (h : Keeps q s0 s) : Keeps q s0 (writeChunk x0 x1 s) := by
  unfold writeChunk
  try dsimp only
  repeat' with_reducible first
    | assumption | apply putMem_keeps | apply Keeps.snd (by assumption) | apply Keeps.thd (by assumption) | split
    | dsimp only [id]

theorem bulkFuel_keeps {x0 x1} (h : Keeps q s0 s) : Keeps q s0 (bulkFuel x0 x1 s) := by
  induction x1 generalizing s x0 with
  | zero =>
    unfold bulkFuel
    try dsimp only
    repeat' with_reducible first
      | assumption | apply writeChunk_keeps | fail_if_no_progress (refine Keeps.upd ?_ rfl rfl rfl rfl rfl rfl rfl rfl rfl)
      | apply Keeps.snd (by assumption) | apply Keeps.thd (by assumption) | split | dsimp only [id]
  | succ _ ih =>
    unfold bulkFuel
    try dsimp only
    repeat' with_reducible first
      | assumption | apply ih | apply writeChunk_keeps
      | fail_if_no_progress (refine Keeps.upd ?_ rfl rfl rfl rfl rfl rfl rfl rfl rfl) | apply Keeps.snd (by assumption)
      | apply Keeps.thd (by assumption) | split | dsimp only [id]

theorem execBulkReceive_keeps {x0 x1 x2} (h : Keeps q s0 s) : KeepsRes q s0 (execBulkReceive x0 x1 x2 s) := by
  unfold execBulkReceive
  try dsimp only
  repeat' with_reducible first
    | assumption | apply deliverRx_keeps | apply bulkFuel_keeps | apply onUnit_keeps | apply KeepsRes.next
    | fail_if_no_progress (refine Keeps.upd ?_ rfl rfl rfl rfl rfl rfl rfl rfl rfl) | dsimp only [id] | intro _ _

theorem stompEgress_keeps {x0} (h : Keeps q s0 s) : Keeps q s0 (stompEgress x0 s) := by
  unfold stompEgress
  try dsimp only
  repeat' with_reducible first
    | assumption | apply sendStomped_keeps | apply Keeps.snd (by assumption) | apply Keeps.thd (by assumption) | split

theorem passOn_keeps {x0 x1 x2 x3} (h : Keeps q s0 s) : Keeps q s0 (passOn x0 x1 x2 x3 s) := by
  unfold passOn
  try dsimp only
  repeat' with_reducible first
    | assumption | apply freeBuffer_keeps | apply tally_keeps | apply stompEgress_keeps | apply route_keeps
    | apply parityPassed_keeps | apply parityPathFault_keeps | apply Keeps.foldl | apply Keeps.snd (by assumption)
    | apply Keeps.thd (by assumption) | split | dsimp only [id] | intro _ _ _ | intro _ _

theorem execTransitCarriage_keeps {x0 x1 x2 x3 x4 x5} (h : Keeps q s0 s) : KeepsRes q s0 (execTransitCarriage x0 x1 x2 x3 x4 x5 s) := by
  unfold execTransitCarriage
  try dsimp only
  repeat' with_reducible first
    | assumption | apply atTime_keeps | apply crcError_keeps | apply stompEgress_keeps | apply rxHeader_keeps
    | apply pump_keeps | apply passOn_keeps | apply onUnit_keeps | apply KeepsRes.next | apply Keeps.snd (by assumption)
    | apply Keeps.thd (by assumption) | split | dsimp only [id]

/-! ## Reduce -/

theorem laneTree_keeps {x0 x1 x2 x3 x4} (h : Keeps q s0 s) : KeepsRes q s0 (laneTree x0 x1 x2 x3 x4 s) := by
  unfold laneTree
  try dsimp only
  repeat' with_reducible first
    | assumption | apply issueNext_keeps | apply orFlags_keeps | apply modTile_keeps | apply noteNans_keeps
    | apply KeepsRes.next | apply Keeps.snd (by assumption) | apply Keeps.thd (by assumption) | split | dsimp only [id]
    | intro _ _

theorem execVrsum_keeps {x0 x1} (h : Keeps q s0 s) : KeepsRes q s0 (execVrsum x0 x1 s) := by
  unfold execVrsum
  try dsimp only
  repeat' with_reducible first
    | assumption | apply laneTree_keeps | apply KeepsRes.next

theorem execVrmax_keeps {x0 x1} (h : Keeps q s0 s) : KeepsRes q s0 (execVrmax x0 x1 s) := by
  unfold execVrmax
  try dsimp only
  repeat' with_reducible first
    | assumption | apply laneTree_keeps | apply KeepsRes.next

theorem execVrmin_keeps {x0 x1} (h : Keeps q s0 s) : KeepsRes q s0 (execVrmin x0 x1 s) := by
  unfold execVrmin
  try dsimp only
  repeat' with_reducible first
    | assumption | apply laneTree_keeps | apply KeepsRes.next

theorem execRclr_keeps {x0 x1} (h : Keeps q s0 s) : KeepsRes q s0 (execRclr x0 x1 s) := by
  unfold execRclr
  try dsimp only
  repeat' with_reducible first
    | assumption | apply issueNext_keeps | apply modTile_keeps | apply KeepsRes.next
    | fail_if_no_progress (refine Keeps.upd ?_ rfl rfl rfl rfl rfl rfl rfl rfl rfl) | dsimp only [id] | intro _ _

theorem execRread_keeps {x0 x1} (h : Keeps q s0 s) : KeepsRes q s0 (execRread x0 x1 s) := by
  unfold execRread
  try dsimp only
  repeat' with_reducible first
    | assumption | apply issueNext_keeps | apply orFlags_keeps | apply modTile_keeps | apply noteNans_keeps
    | apply KeepsRes.next | apply Keeps.snd (by assumption) | apply Keeps.thd (by assumption) | split | dsimp only [id]
    | intro _ _

theorem execVfrd_keeps {x0 x1} (h : Keeps q s0 s) : KeepsRes q s0 (execVfrd x0 x1 s) := by
  unfold execVfrd
  try dsimp only
  repeat' with_reducible first
    | assumption | apply issueNext_keeps | apply modTile_keeps | apply KeepsRes.next | dsimp only [id] | intro _ _

theorem execVfclr_keeps {x0 x1} (h : Keeps q s0 s) : KeepsRes q s0 (execVfclr x0 x1 s) := by
  unfold execVfclr
  try dsimp only
  repeat' with_reducible first
    | assumption | apply issueNext_keeps | apply modTile_keeps | apply KeepsRes.next
    | fail_if_no_progress (refine Keeps.upd ?_ rfl rfl rfl rfl rfl rfl rfl rfl rfl) | dsimp only [id] | intro _ _

/-! ## Scalar -/

theorem scalarRR_keeps {x0 x1 x2 x3} (h : Keeps q s0 s) : KeepsRes q s0 (scalarRR x0 x1 x2 x3 s) := by
  unfold scalarRR
  try dsimp only
  repeat' with_reducible first
    | assumption | apply issueNext_keeps | apply modTile_keeps | apply KeepsRes.next | dsimp only [id] | intro _ _

theorem scalarRI_keeps {x0 x1 x2 x3 x4} (h : Keeps q s0 s) : KeepsRes q s0 (scalarRI x0 x1 x2 x3 x4 s) := by
  unfold scalarRI
  try dsimp only
  repeat' with_reducible first
    | assumption | apply issueNext_keeps | apply modTile_keeps | apply KeepsRes.next | dsimp only [id] | intro _ _

theorem execAdd_keeps {x0 x1} (h : Keeps q s0 s) : KeepsRes q s0 (execAdd x0 x1 s) := by
  unfold execAdd
  try dsimp only
  repeat' with_reducible first
    | assumption | apply scalarRR_keeps | apply KeepsRes.next

theorem execSub_keeps {x0 x1} (h : Keeps q s0 s) : KeepsRes q s0 (execSub x0 x1 s) := by
  unfold execSub
  try dsimp only
  repeat' with_reducible first
    | assumption | apply scalarRR_keeps | apply KeepsRes.next

theorem execMul_keeps {x0 x1} (h : Keeps q s0 s) : KeepsRes q s0 (execMul x0 x1 s) := by
  unfold execMul
  try dsimp only
  repeat' with_reducible first
    | assumption | apply scalarRR_keeps | apply KeepsRes.next

theorem execAnd_keeps {x0 x1} (h : Keeps q s0 s) : KeepsRes q s0 (execAnd x0 x1 s) := by
  unfold execAnd
  try dsimp only
  repeat' with_reducible first
    | assumption | apply scalarRR_keeps | apply KeepsRes.next

theorem execOr_keeps {x0 x1} (h : Keeps q s0 s) : KeepsRes q s0 (execOr x0 x1 s) := by
  unfold execOr
  try dsimp only
  repeat' with_reducible first
    | assumption | apply scalarRR_keeps | apply KeepsRes.next

theorem execXor_keeps {x0 x1} (h : Keeps q s0 s) : KeepsRes q s0 (execXor x0 x1 s) := by
  unfold execXor
  try dsimp only
  repeat' with_reducible first
    | assumption | apply scalarRR_keeps | apply KeepsRes.next

theorem execShl_keeps {x0 x1} (h : Keeps q s0 s) : KeepsRes q s0 (execShl x0 x1 s) := by
  unfold execShl
  try dsimp only
  repeat' with_reducible first
    | assumption | apply scalarRR_keeps | apply KeepsRes.next

theorem execShr_keeps {x0 x1} (h : Keeps q s0 s) : KeepsRes q s0 (execShr x0 x1 s) := by
  unfold execShr
  try dsimp only
  repeat' with_reducible first
    | assumption | apply scalarRR_keeps | apply KeepsRes.next

theorem execSra_keeps {x0 x1} (h : Keeps q s0 s) : KeepsRes q s0 (execSra x0 x1 s) := by
  unfold execSra
  try dsimp only
  repeat' with_reducible first
    | assumption | apply scalarRR_keeps | apply KeepsRes.next

theorem execSlt_keeps {x0 x1} (h : Keeps q s0 s) : KeepsRes q s0 (execSlt x0 x1 s) := by
  unfold execSlt
  try dsimp only
  repeat' with_reducible first
    | assumption | apply scalarRR_keeps | apply KeepsRes.next

theorem execSltu_keeps {x0 x1} (h : Keeps q s0 s) : KeepsRes q s0 (execSltu x0 x1 s) := by
  unfold execSltu
  try dsimp only
  repeat' with_reducible first
    | assumption | apply scalarRR_keeps | apply KeepsRes.next

theorem execAddi_keeps {x0 x1} (h : Keeps q s0 s) : KeepsRes q s0 (execAddi x0 x1 s) := by
  unfold execAddi
  try dsimp only
  repeat' with_reducible first
    | assumption | apply scalarRI_keeps | apply KeepsRes.next

theorem execMuli_keeps {x0 x1} (h : Keeps q s0 s) : KeepsRes q s0 (execMuli x0 x1 s) := by
  unfold execMuli
  try dsimp only
  repeat' with_reducible first
    | assumption | apply scalarRI_keeps | apply KeepsRes.next

theorem execAndi_keeps {x0 x1} (h : Keeps q s0 s) : KeepsRes q s0 (execAndi x0 x1 s) := by
  unfold execAndi
  try dsimp only
  repeat' with_reducible first
    | assumption | apply scalarRI_keeps | apply KeepsRes.next

theorem execOri_keeps {x0 x1} (h : Keeps q s0 s) : KeepsRes q s0 (execOri x0 x1 s) := by
  unfold execOri
  try dsimp only
  repeat' with_reducible first
    | assumption | apply scalarRI_keeps | apply KeepsRes.next

theorem execXori_keeps {x0 x1} (h : Keeps q s0 s) : KeepsRes q s0 (execXori x0 x1 s) := by
  unfold execXori
  try dsimp only
  repeat' with_reducible first
    | assumption | apply scalarRI_keeps | apply KeepsRes.next

theorem execShli_keeps {x0 x1} (h : Keeps q s0 s) : KeepsRes q s0 (execShli x0 x1 s) := by
  unfold execShli
  try dsimp only
  repeat' with_reducible first
    | assumption | apply scalarRI_keeps | apply KeepsRes.next

theorem execShri_keeps {x0 x1} (h : Keeps q s0 s) : KeepsRes q s0 (execShri x0 x1 s) := by
  unfold execShri
  try dsimp only
  repeat' with_reducible first
    | assumption | apply scalarRI_keeps | apply KeepsRes.next

theorem execSrai_keeps {x0 x1} (h : Keeps q s0 s) : KeepsRes q s0 (execSrai x0 x1 s) := by
  unfold execSrai
  try dsimp only
  repeat' with_reducible first
    | assumption | apply scalarRI_keeps | apply KeepsRes.next

theorem execSlti_keeps {x0 x1} (h : Keeps q s0 s) : KeepsRes q s0 (execSlti x0 x1 s) := by
  unfold execSlti
  try dsimp only
  repeat' with_reducible first
    | assumption | apply scalarRI_keeps | apply KeepsRes.next

theorem execSltiu_keeps {x0 x1} (h : Keeps q s0 s) : KeepsRes q s0 (execSltiu x0 x1 s) := by
  unfold execSltiu
  try dsimp only
  repeat' with_reducible first
    | assumption | apply scalarRI_keeps | apply KeepsRes.next

theorem execLih_keeps {x0 x1} (h : Keeps q s0 s) : KeepsRes q s0 (execLih x0 x1 s) := by
  unfold execLih
  try dsimp only
  repeat' with_reducible first
    | assumption | apply scalarRI_keeps | apply KeepsRes.next

theorem execLd_keeps {x0 x1} (h : Keeps q s0 s) : KeepsRes q s0 (execLd x0 x1 s) := by
  unfold execLd
  try dsimp only
  repeat' with_reducible first
    | assumption | apply issueNext_keeps | apply trapHere_keeps | apply tileRead_keeps | apply modTile_keeps
    | apply KeepsRes.next | apply Keeps.snd (by assumption) | apply Keeps.thd (by assumption) | split | dsimp only [id]
    | intro _ _

theorem execSt_keeps {x0 x1} (h : Keeps q s0 s) : KeepsRes q s0 (execSt x0 x1 s) := by
  unfold execSt
  try dsimp only
  repeat' with_reducible first
    | assumption | apply issueNext_keeps | apply trapHere_keeps | apply tileWrite_keeps | apply KeepsRes.next
    | apply Keeps.snd (by assumption) | apply Keeps.thd (by assumption) | split | dsimp only [id] | intro _ _

/-! ## System -/

theorem execNop_keeps {x0 x1} (h : Keeps q s0 s) : KeepsRes q s0 (execNop x0 x1 s) := by
  unfold execNop
  try dsimp only
  repeat' with_reducible first
    | assumption | apply issueNext_keeps | apply KeepsRes.next | dsimp only [id] | intro _ _

theorem sysValue_keeps {x0 x1} (h : Keeps q s0 s) : Keeps q s0 (sysValue x0 x1 s).2 := by
  unfold sysValue
  try dsimp only
  repeat' with_reducible first
    | assumption | apply freeWord_keeps | apply Keeps.snd (by assumption) | apply Keeps.thd (by assumption) | split
    | dsimp only [id]

theorem execSysrd_keeps {x0 x1 x2} (h : Keeps q s0 s) : KeepsRes q s0 (execSysrd x0 x1 x2 s) := by
  unfold execSysrd
  try dsimp only
  repeat' with_reducible first
    | assumption | apply issueNext_keeps | apply sysValue_keeps | apply modTile_keeps | apply atTime_keeps
    | apply KeepsRes.next | apply Keeps.snd (by assumption) | apply Keeps.thd (by assumption) | split | dsimp only [id]
    | intro _ _

theorem execTrap_keeps {x0 x1 x2} (h : Keeps q s0 s) : KeepsRes q s0 (execTrap x0 x1 x2 s) := by
  unfold execTrap
  try dsimp only
  repeat' with_reducible first
    | assumption | apply issue_keeps | apply trapHere_keeps | apply atTime_keeps | apply KeepsRes.next | dsimp only [id]
    | intro _ _

/-! ## Vector -/

theorem stridedLanes_keeps {x0 x1 x2 x3} (h : Keeps q s0 s) : Keeps q s0 (stridedLanes x0 x1 x2 x3 s).2 := by
  induction x3 generalizing s x0 x1 x2 with
  | nil =>
    unfold stridedLanes
    try dsimp only
    repeat' with_reducible first
      | assumption | apply tileRead_keeps | apply Keeps.snd (by assumption) | apply Keeps.thd (by assumption) | split
      | dsimp only [id]
  | cons _ _ ih =>
    unfold stridedLanes
    try dsimp only
    repeat' with_reducible first
      | assumption | apply ih | apply tileRead_keeps | apply Keeps.snd (by assumption) | apply Keeps.thd (by assumption)
      | split | dsimp only [id]

theorem wrapRead_keeps {x0 x1 x2} (h : Keeps q s0 s) : Keeps q s0 (wrapRead x0 x1 x2 s).2 := by
  unfold wrapRead
  try dsimp only
  repeat' with_reducible first
    | assumption | apply tileRead_keeps | apply Keeps.snd (by assumption) | apply Keeps.thd (by assumption) | split
    | dsimp only [id]

theorem unitLanes_keeps {x0 x1 x2} (h : Keeps q s0 s) : Keeps q s0 (unitLanes x0 x1 x2 s).2 := by
  unfold unitLanes
  try dsimp only
  repeat' with_reducible first
    | assumption | apply wrapRead_keeps | apply Keeps.snd (by assumption) | apply Keeps.thd (by assumption) | split
    | dsimp only [id]

theorem execVld_keeps {x0 x1} (h : Keeps q s0 s) : KeepsRes q s0 (execVld x0 x1 s) := by
  unfold execVld
  try dsimp only
  repeat' with_reducible first
    | assumption | apply issueNext_keeps | apply trapHere_keeps | apply stridedLanes_keeps | apply unitLanes_keeps
    | apply vecOp_keeps | apply KeepsRes.next | apply Keeps.snd (by assumption) | apply Keeps.thd (by assumption) | split
    | dsimp only [id] | intro _ _

theorem tileWrites_keeps {x0 x1} (h : Keeps q s0 s) : Keeps q s0 (tileWrites x0 x1 s) := by
  unfold tileWrites
  try dsimp only
  repeat' with_reducible first
    | assumption | apply modTile_keeps | apply Keeps.foldl | dsimp only [id] | intro _ _ _ | intro _ _

theorem execVst_keeps {x0 x1} (h : Keeps q s0 s) : KeepsRes q s0 (execVst x0 x1 s) := by
  unfold execVst
  try dsimp only
  repeat' with_reducible first
    | assumption | apply issueNext_keeps | apply trapHere_keeps | apply tileWrites_keeps | apply orFlags_keeps
    | apply noteNans_keeps | apply KeepsRes.next | apply Keeps.snd (by assumption) | apply Keeps.thd (by assumption) | split
    | dsimp only [id] | intro _ _

theorem float1_keeps {x0 x1 x2 x3 x4} (h : Keeps q s0 s) : KeepsRes q s0 (float1 x0 x1 x2 x3 x4 s) := by
  unfold float1
  try dsimp only
  repeat' with_reducible first
    | assumption | apply issueNext_keeps | apply vecOp_keeps | apply KeepsRes.next | dsimp only [id] | intro _ _

theorem float2_keeps {x0 x1 x2 x3 x4} (h : Keeps q s0 s) : KeepsRes q s0 (float2 x0 x1 x2 x3 x4 s) := by
  unfold float2
  try dsimp only
  repeat' with_reducible first
    | assumption | apply issueNext_keeps | apply vecOp_keeps | apply KeepsRes.next | dsimp only [id] | intro _ _

theorem int2_keeps {x0 x1 x2 x3 x4} (h : Keeps q s0 s) : KeepsRes q s0 (int2 x0 x1 x2 x3 x4 s) := by
  unfold int2
  try dsimp only
  repeat' with_reducible first
    | assumption | apply issueNext_keeps | apply vecOp_keeps | apply KeepsRes.next | dsimp only [id] | intro _ _

theorem addSub_keeps {x0 x1 x2 x3 x4} (h : Keeps q s0 s) : KeepsRes q s0 (addSub x0 x1 x2 x3 x4 s) := by
  unfold addSub
  try dsimp only
  repeat' with_reducible first
    | assumption | apply int2_keeps | apply float2_keeps | apply KeepsRes.next | split

theorem execVadd_keeps {x0 x1} (h : Keeps q s0 s) : KeepsRes q s0 (execVadd x0 x1 s) := by
  unfold execVadd
  try dsimp only
  repeat' with_reducible first
    | assumption | apply addSub_keeps | apply KeepsRes.next

theorem execVsub_keeps {x0 x1} (h : Keeps q s0 s) : KeepsRes q s0 (execVsub x0 x1 s) := by
  unfold execVsub
  try dsimp only
  repeat' with_reducible first
    | assumption | apply addSub_keeps | apply KeepsRes.next

theorem execVmul_keeps {x0 x1} (h : Keeps q s0 s) : KeepsRes q s0 (execVmul x0 x1 s) := by
  unfold execVmul
  try dsimp only
  repeat' with_reducible first
    | assumption | apply float2_keeps | apply KeepsRes.next

theorem execVfma_keeps {x0 x1} (h : Keeps q s0 s) : KeepsRes q s0 (execVfma x0 x1 s) := by
  unfold execVfma
  try dsimp only
  repeat' with_reducible first
    | assumption | apply issueNext_keeps | apply vecOp_keeps | apply KeepsRes.next | dsimp only [id] | intro _ _

theorem execVmin_keeps {x0 x1} (h : Keeps q s0 s) : KeepsRes q s0 (execVmin x0 x1 s) := by
  unfold execVmin
  try dsimp only
  repeat' with_reducible first
    | assumption | apply float2_keeps | apply KeepsRes.next

theorem execVmax_keeps {x0 x1} (h : Keeps q s0 s) : KeepsRes q s0 (execVmax x0 x1 s) := by
  unfold execVmax
  try dsimp only
  repeat' with_reducible first
    | assumption | apply float2_keeps | apply KeepsRes.next

theorem execVabs_keeps {x0 x1} (h : Keeps q s0 s) : KeepsRes q s0 (execVabs x0 x1 s) := by
  unfold execVabs
  try dsimp only
  repeat' with_reducible first
    | assumption | apply float1_keeps | apply KeepsRes.next

theorem execVneg_keeps {x0 x1} (h : Keeps q s0 s) : KeepsRes q s0 (execVneg x0 x1 s) := by
  unfold execVneg
  try dsimp only
  repeat' with_reducible first
    | assumption | apply float1_keeps | apply KeepsRes.next

theorem execVdiv_keeps {x0 x1} (h : Keeps q s0 s) : KeepsRes q s0 (execVdiv x0 x1 s) := by
  unfold execVdiv
  try dsimp only
  repeat' with_reducible first
    | assumption | apply float2_keeps | apply KeepsRes.next

theorem execVsqrt_keeps {x0 x1} (h : Keeps q s0 s) : KeepsRes q s0 (execVsqrt x0 x1 s) := by
  unfold execVsqrt
  try dsimp only
  repeat' with_reducible first
    | assumption | apply float1_keeps | apply KeepsRes.next

theorem execVrsqrt_keeps {x0 x1} (h : Keeps q s0 s) : KeepsRes q s0 (execVrsqrt x0 x1 s) := by
  unfold execVrsqrt
  try dsimp only
  repeat' with_reducible first
    | assumption | apply float1_keeps | apply KeepsRes.next

theorem execVexp2_keeps {x0 x1} (h : Keeps q s0 s) : KeepsRes q s0 (execVexp2 x0 x1 s) := by
  unfold execVexp2
  try dsimp only
  repeat' with_reducible first
    | assumption | apply float1_keeps | apply KeepsRes.next

theorem execVlog2_keeps {x0 x1} (h : Keeps q s0 s) : KeepsRes q s0 (execVlog2 x0 x1 s) := by
  unfold execVlog2
  try dsimp only
  repeat' with_reducible first
    | assumption | apply float1_keeps | apply KeepsRes.next

theorem compare_keeps {x0 x1 x2 x3 x4} (h : Keeps q s0 s) : KeepsRes q s0 (compare x0 x1 x2 x3 x4 s) := by
  unfold compare
  try dsimp only
  repeat' with_reducible first
    | assumption | apply issueNext_keeps | apply orFlags_keeps | apply modTile_keeps | apply KeepsRes.next | split
    | dsimp only [id] | intro _ _

theorem execVcmpEq_keeps {x0 x1} (h : Keeps q s0 s) : KeepsRes q s0 (execVcmpEq x0 x1 s) := by
  unfold execVcmpEq
  try dsimp only
  repeat' with_reducible first
    | assumption | apply compare_keeps | apply KeepsRes.next

theorem execVcmpNe_keeps {x0 x1} (h : Keeps q s0 s) : KeepsRes q s0 (execVcmpNe x0 x1 s) := by
  unfold execVcmpNe
  try dsimp only
  repeat' with_reducible first
    | assumption | apply compare_keeps | apply KeepsRes.next

theorem execVcmpLt_keeps {x0 x1} (h : Keeps q s0 s) : KeepsRes q s0 (execVcmpLt x0 x1 s) := by
  unfold execVcmpLt
  try dsimp only
  repeat' with_reducible first
    | assumption | apply compare_keeps | apply KeepsRes.next

theorem execVcmpLe_keeps {x0 x1} (h : Keeps q s0 s) : KeepsRes q s0 (execVcmpLe x0 x1 s) := by
  unfold execVcmpLe
  try dsimp only
  repeat' with_reducible first
    | assumption | apply compare_keeps | apply KeepsRes.next

theorem execVsel_keeps {x0 x1} (h : Keeps q s0 s) : KeepsRes q s0 (execVsel x0 x1 s) := by
  unfold execVsel
  try dsimp only
  repeat' with_reducible first
    | assumption | apply issueNext_keeps | apply vecOp_keeps | apply KeepsRes.next | split | dsimp only [id] | intro _ _

theorem execVcvt_keeps {x0 x1} (h : Keeps q s0 s) : KeepsRes q s0 (execVcvt x0 x1 s) := by
  unfold execVcvt
  try dsimp only
  repeat' with_reducible first
    | assumption | apply issueNext_keeps | apply retireVec_keeps | apply KeepsRes.next | split | dsimp only [id] | intro _ _

theorem execVand_keeps {x0 x1} (h : Keeps q s0 s) : KeepsRes q s0 (execVand x0 x1 s) := by
  unfold execVand
  try dsimp only
  repeat' with_reducible first
    | assumption | apply int2_keeps | apply KeepsRes.next

theorem execVor_keeps {x0 x1} (h : Keeps q s0 s) : KeepsRes q s0 (execVor x0 x1 s) := by
  unfold execVor
  try dsimp only
  repeat' with_reducible first
    | assumption | apply int2_keeps | apply KeepsRes.next

theorem execVxor_keeps {x0 x1} (h : Keeps q s0 s) : KeepsRes q s0 (execVxor x0 x1 s) := by
  unfold execVxor
  try dsimp only
  repeat' with_reducible first
    | assumption | apply int2_keeps | apply KeepsRes.next

theorem execVshl_keeps {x0 x1} (h : Keeps q s0 s) : KeepsRes q s0 (execVshl x0 x1 s) := by
  unfold execVshl
  try dsimp only
  repeat' with_reducible first
    | assumption | apply int2_keeps | apply KeepsRes.next

theorem execVshr_keeps {x0 x1} (h : Keeps q s0 s) : KeepsRes q s0 (execVshr x0 x1 s) := by
  unfold execVshr
  try dsimp only
  repeat' with_reducible first
    | assumption | apply int2_keeps | apply KeepsRes.next

theorem execVsra_keeps {x0 x1} (h : Keeps q s0 s) : KeepsRes q s0 (execVsra x0 x1 s) := by
  unfold execVsra
  try dsimp only
  repeat' with_reducible first
    | assumption | apply int2_keeps | apply KeepsRes.next

theorem execVmov_keeps {x0 x1} (h : Keeps q s0 s) : KeepsRes q s0 (execVmov x0 x1 s) := by
  unfold execVmov
  try dsimp only
  repeat' with_reducible first
    | assumption | apply issueNext_keeps | apply vecOp_keeps | apply KeepsRes.next | dsimp only [id] | intro _ _

theorem maskOp_keeps {x0 x1 x2 x3} (h : Keeps q s0 s) : KeepsRes q s0 (maskOp x0 x1 x2 x3 s) := by
  unfold maskOp
  try dsimp only
  repeat' with_reducible first
    | assumption | apply issueNext_keeps | apply modTile_keeps | apply KeepsRes.next | dsimp only [id] | intro _ _

theorem execMand_keeps {x0 x1} (h : Keeps q s0 s) : KeepsRes q s0 (execMand x0 x1 s) := by
  unfold execMand
  try dsimp only
  repeat' with_reducible first
    | assumption | apply maskOp_keeps | apply KeepsRes.next

theorem execMor_keeps {x0 x1} (h : Keeps q s0 s) : KeepsRes q s0 (execMor x0 x1 s) := by
  unfold execMor
  try dsimp only
  repeat' with_reducible first
    | assumption | apply maskOp_keeps | apply KeepsRes.next

theorem execMxor_keeps {x0 x1} (h : Keeps q s0 s) : KeepsRes q s0 (execMxor x0 x1 s) := by
  unfold execMxor
  try dsimp only
  repeat' with_reducible first
    | assumption | apply maskOp_keeps | apply KeepsRes.next

end Sys2Proof.Machine
end

