-- ==== Sys2Proof/Laws/KeepsExec.lean ====
section
/-! SUPPORT. What every command keeps: one case for each constructor of Instr. -/

namespace Sys2Proof.Machine

/-- What a command that goes on keeps; where a requalification is asked, a tile may leave the quarantine list. -/
theorem exec_keeps {q : Bool} {s t : State} {c : Instr} (hc : q = true → asksRequalify s c = false) (h : exec c s = .next t) :
    Keeps q s t := by
  cases c
  case planLoad => exact execPlanLoad_keeps Keeps.refl _ h
  case jobStart => exact execJobStart_keeps Keeps.refl _ h
  case jobReset => exact execJobReset_keeps Keeps.refl _ h
  case queueCreate => exact execQueueCreate_keeps Keeps.refl _ h
  case queueDelete => exact execQueueDelete_keeps Keeps.refl _ h
  case timetableLoad => exact execTimetableLoad_keeps Keeps.refl _ h
  case timetableSwitch => exact execTimetableSwitch_keeps Keeps.refl _ h
  case bellwetherHandover => exact execBellwetherHandover_keeps Keeps.refl _ h
  case tileMapSwitch => exact execTileMapSwitch_keeps Keeps.refl _ h
  case descriptorLoad => exact execDescriptorLoad_keeps Keeps.refl _ h
  case programLoad => exact execProgramLoad_keeps Keeps.refl _ h
  case flockLoad => exact execFlockLoad_keeps Keeps.refl _ h
  case foldLoad => exact execFoldLoad_keeps Keeps.refl _ h
  case foldSwitch => exact execFoldSwitch_keeps Keeps.refl _ h
  case rowRepair => exact execRowRepair_keeps Keeps.refl _ h
  case commitRollback => exact execCommitRollback_keeps Keeps.refl _ h
  case handoverPrepare => exact execHandoverPrepare_keeps Keeps.refl _ h
  case handoverCopyDone => exact execHandoverCopyDone_keeps Keeps.refl _ h
  case handoverSwitch => exact execHandoverSwitch_keeps Keeps.refl _ h
  case snapshotStart => exact execSnapshotStart_keeps Keeps.refl _ h
  case snapshotAbort => exact execSnapshotAbort_keeps Keeps.refl _ h
  case mapoutAdd => exact execMapoutAdd_keeps Keeps.refl _ h
  case mapoutRemove => exact execMapoutRemove_keeps Keeps.refl _ h
  case memReconfigure => exact execMemReconfigure_keeps Keeps.refl _ h
  case bootConfig => exact execBootConfig_keeps Keeps.refl _ h
  case rdmaMrRegister => exact execRdmaMrRegister_keeps Keeps.refl _ h
  case rdmaMrDeregister => exact execRdmaMrDeregister_keeps Keeps.refl _ h
  case rdmaQpSet => exact execRdmaQpSet_keeps Keeps.refl _ h
  case nvmfAttach => exact execNvmfAttach_keeps Keeps.refl _ h
  case nonce => exact execNonce_keeps Keeps.refl _ h
  case nonceExpiry => exact execNonceExpiry_keeps Keeps.refl _ h
  case unlock => exact execUnlock_keeps Keeps.refl _ h
  case key => exact execKey_keeps Keeps.refl _ h
  case claim => exact execClaim_keeps Keeps.refl _ h
  case raiseSvn => exact execRaiseSvn_keeps Keeps.refl _ h
  case linkCtlRetrain => exact execLinkCtlRetrain_keeps Keeps.refl _ h
  case linkCtlTakeDown => exact execLinkCtlTakeDown_keeps Keeps.refl _ h
  case linkCtlBringUp => exact execLinkCtlBringUp_keeps Keeps.refl _ h
  case laserDrain => exact execLaserDrain_keeps Keeps.refl _ h
  case laserDrainComplete => exact execLaserDrainComplete_keeps Keeps.refl _ h
  case pcDrain => exact execPcDrain_keeps Keeps.refl _ h
  case pcDrainComplete => exact execPcDrainComplete_keeps Keeps.refl _ h
  case pcFence => exact execPcFence_keeps Keeps.refl _ h
  case bistQueuePass => exact execBistQueuePass_keeps Keeps.refl _ h
  case privTest => exact execPrivTest_keeps Keeps.refl _ h
  case requalify =>
    cases q
    · exact execRequalify_keeps Keeps.refl _ h
    · exact absurd (hc rfl) (by simp [asksRequalify])
  case fwGo => exact execFwGo_keeps Keeps.refl _ h
  case fwActivation => exact execFwActivation_keeps Keeps.refl _ h
  case fwRevert => exact execFwRevert_keeps Keeps.refl _ h
  case hqAttach => exact execHqAttach_keeps Keeps.refl _ h
  case hqDetach => exact execHqDetach_keeps Keeps.refl _ h
  case hqHeartbeat => exact execHqHeartbeat_keeps Keeps.refl _ h
  case heartbeatTimeout => exact execHeartbeatTimeout_keeps Keeps.refl _ h
  case doorbell => exact execDoorbell_keeps Keeps.refl _ h
  case doorbellReread => exact execDoorbellReread_keeps Keeps.refl _ h
  case adminPoll => exact execAdminPoll_keeps Keeps.refl _ h
  case staleDescriptorTimeout => exact execStaleDescriptorTimeout_keeps Keeps.refl _ h
  case tileReset => exact execTileReset_keeps Keeps.refl _ h
  case tallyClear => exact execTallyClear_keeps Keeps.refl _ h
  case gscaleWrite => exact execGscaleWrite_keeps Keeps.refl _ h
  case pwCapWrite => exact execPwCapWrite_keeps Keeps.refl _ h
  case hqRegionCtlWrite => exact execHqRegionCtlWrite_keeps Keeps.refl _ h
  case registerWrite => exact execRegisterWrite_keeps (fun hq => by simpa [asksRequalify] using hc hq) Keeps.refl _ h
  case add => exact execAdd_keeps Keeps.refl _ h
  case sub => exact execSub_keeps Keeps.refl _ h
  case mul => exact execMul_keeps Keeps.refl _ h
  case and => exact execAnd_keeps Keeps.refl _ h
  case or => exact execOr_keeps Keeps.refl _ h
  case xor => exact execXor_keeps Keeps.refl _ h
  case shl => exact execShl_keeps Keeps.refl _ h
  case shr => exact execShr_keeps Keeps.refl _ h
  case sra => exact execSra_keeps Keeps.refl _ h
  case slt => exact execSlt_keeps Keeps.refl _ h
  case sltu => exact execSltu_keeps Keeps.refl _ h
  case addi => exact execAddi_keeps Keeps.refl _ h
  case muli => exact execMuli_keeps Keeps.refl _ h
  case andi => exact execAndi_keeps Keeps.refl _ h
  case ori => exact execOri_keeps Keeps.refl _ h
  case xori => exact execXori_keeps Keeps.refl _ h
  case shli => exact execShli_keeps Keeps.refl _ h
  case shri => exact execShri_keeps Keeps.refl _ h
  case srai => exact execSrai_keeps Keeps.refl _ h
  case slti => exact execSlti_keeps Keeps.refl _ h
  case sltiu => exact execSltiu_keeps Keeps.refl _ h
  case lih => exact execLih_keeps Keeps.refl _ h
  case ld => exact execLd_keeps Keeps.refl _ h
  case st => exact execSt_keeps Keeps.refl _ h
  case jmp => exact execJmp_keeps Keeps.refl _ h
  case beq => exact execBeq_keeps Keeps.refl _ h
  case bne => exact execBne_keeps Keeps.refl _ h
  case blt => exact execBlt_keeps Keeps.refl _ h
  case bge => exact execBge_keeps Keeps.refl _ h
  case bltu => exact execBltu_keeps Keeps.refl _ h
  case bgeu => exact execBgeu_keeps Keeps.refl _ h
  case jal => exact execJal_keeps Keeps.refl _ h
  case jr => exact execJr_keeps Keeps.refl _ h
  case waitTok => exact execWaitTok_keeps Keeps.refl _ h
  case waitLeg => exact execWaitLeg_keeps Keeps.refl _ h
  case hurdle => exact execHurdle_keeps Keeps.refl _ h
  case hurdleRelease => exact execHurdleRelease_keeps Keeps.refl _ h
  case engineStaggerStart => exact execEngineStaggerStart_keeps Keeps.refl _ h
  case vld => exact execVld_keeps Keeps.refl _ h
  case vst => exact execVst_keeps Keeps.refl _ h
  case vadd => exact execVadd_keeps Keeps.refl _ h
  case vsub => exact execVsub_keeps Keeps.refl _ h
  case vmul => exact execVmul_keeps Keeps.refl _ h
  case vfma => exact execVfma_keeps Keeps.refl _ h
  case vmin => exact execVmin_keeps Keeps.refl _ h
  case vmax => exact execVmax_keeps Keeps.refl _ h
  case vabs => exact execVabs_keeps Keeps.refl _ h
  case vneg => exact execVneg_keeps Keeps.refl _ h
  case vdiv => exact execVdiv_keeps Keeps.refl _ h
  case vsqrt => exact execVsqrt_keeps Keeps.refl _ h
  case vrsqrt => exact execVrsqrt_keeps Keeps.refl _ h
  case vexp2 => exact execVexp2_keeps Keeps.refl _ h
  case vlog2 => exact execVlog2_keeps Keeps.refl _ h
  case vcmpEq => exact execVcmpEq_keeps Keeps.refl _ h
  case vcmpNe => exact execVcmpNe_keeps Keeps.refl _ h
  case vcmpLt => exact execVcmpLt_keeps Keeps.refl _ h
  case vcmpLe => exact execVcmpLe_keeps Keeps.refl _ h
  case vsel => exact execVsel_keeps Keeps.refl _ h
  case vcvt => exact execVcvt_keeps Keeps.refl _ h
  case vand => exact execVand_keeps Keeps.refl _ h
  case vor => exact execVor_keeps Keeps.refl _ h
  case vxor => exact execVxor_keeps Keeps.refl _ h
  case vshl => exact execVshl_keeps Keeps.refl _ h
  case vshr => exact execVshr_keeps Keeps.refl _ h
  case vsra => exact execVsra_keeps Keeps.refl _ h
  case vmov => exact execVmov_keeps Keeps.refl _ h
  case mand => exact execMand_keeps Keeps.refl _ h
  case mor => exact execMor_keeps Keeps.refl _ h
  case mxor => exact execMxor_keeps Keeps.refl _ h
  case vrsum => exact execVrsum_keeps Keeps.refl _ h
  case vrmax => exact execVrmax_keeps Keeps.refl _ h
  case vrmin => exact execVrmin_keeps Keeps.refl _ h
  case rclr => exact execRclr_keeps Keeps.refl _ h
  case rread => exact execRread_keeps Keeps.refl _ h
  case vfrd => exact execVfrd_keeps Keeps.refl _ h
  case vfclr => exact execVfclr_keeps Keeps.refl _ h
  case mma => exact execMma_keeps Keeps.refl _ h
  case mmaComplete => exact execMmaComplete_keeps Keeps.refl _ h
  case drain => exact execDrain_keeps Keeps.refl _ h
  case drainComplete => exact execDrainComplete_keeps Keeps.refl _ h
  case dmv => exact execDmv_keeps Keeps.refl _ h
  case dmvComplete => exact execDmvComplete_keeps Keeps.refl _ h
  case dmvDense => exact execDmvDense_keeps Keeps.refl _ h
  case embLook => exact execEmbLook_keeps Keeps.refl _ h
  case embLookComplete => exact execEmbLookComplete_keeps Keeps.refl _ h
  case embGrad => exact execEmbGrad_keeps Keeps.refl _ h
  case embGradComplete => exact execEmbGradComplete_keeps Keeps.refl _ h
  case embPost => exact execEmbPost_keeps Keeps.refl _ h
  case nop => exact execNop_keeps Keeps.refl _ h
  case sysrd => exact execSysrd_keeps Keeps.refl _ h
  case trap => exact execTrap_keeps Keeps.refl _ h
  case tileMoveComplete => exact execTileMoveComplete_keeps Keeps.refl _ h
  case markSend => exact execMarkSend_keeps Keeps.refl _ h
  case markReceive => exact execMarkReceive_keeps Keeps.refl _ h
  case tickStart => exact execTickStart_keeps Keeps.refl _ h
  case holdoverTick => exact execHoldoverTick_keeps Keeps.refl _ h
  case stretchLimit => exact execStretchLimit_keeps Keeps.refl _ h
  case jobFirstTick => exact execJobFirstTick_keeps Keeps.refl _ h
  case legStart => exact execLegStart_keeps Keeps.refl _ h
  case applyStart => exact execApplyStart_keeps Keeps.refl _ h
  case legDeadline => exact execLegDeadline_keeps Keeps.refl _ h
  case legComplete => exact execLegComplete_keeps Keeps.refl _ h
  case unitWake => exact execUnitWake_keeps Keeps.refl _ h
  case unplannedWake => exact execUnplannedWake_keeps Keeps.refl _ h
  case ackReceive => exact execAckReceive_keeps Keeps.refl _ h
  case applyGoReceive => exact execApplyGoReceive_keeps Keeps.refl _ h
  case applyEndReceive => exact execApplyEndReceive_keeps Keeps.refl _ h
  case haltReceive => exact execHaltReceive_keeps Keeps.refl _ h
  case paceReceive => exact execPaceReceive_keeps Keeps.refl _ h
  case echoTimer => exact execEchoTimer_keeps Keeps.refl _ h
  case echoReq => exact execEchoReq_keeps Keeps.refl _ h
  case echoRsp => exact execEchoRsp_keeps Keeps.refl _ h
  case planDigest => exact execPlanDigest_keeps Keeps.refl _ h
  case planDigestTimeout => exact execPlanDigestTimeout_keeps Keeps.refl _ h
  case planVerdictTimeout => exact execPlanVerdictTimeout_keeps Keeps.refl _ h
  case arrive => exact execArrive_keeps Keeps.refl _ h
  case release => exact execRelease_keeps Keeps.refl _ h
  case idxReceive => exact execIdxReceive_keeps Keeps.refl _ h
  case rowSend => exact execRowSend_keeps Keeps.refl _ h
  case rowReceive => exact execRowReceive_keeps Keeps.refl _ h
  case gradReceive => exact execGradReceive_keeps Keeps.refl _ h
  case denseReceive => exact execDenseReceive_keeps Keeps.refl _ h
  case acceptSend => exact execAcceptSend_keeps Keeps.refl _ h
  case accept => exact execAccept_keeps Keeps.refl _ h
  case bulkReceive => exact execBulkReceive_keeps Keeps.refl _ h
  case transitCarriage => exact execTransitCarriage_keeps Keeps.refl _ h
  case lookup => exact execLookup_keeps Keeps.refl _ h
  case serveRead => exact execServeRead_keeps Keeps.refl _ h
  case accumulate => exact execAccumulate_keeps Keeps.refl _ h
  case apply => exact execApply_keeps Keeps.refl _ h
  case ringIndexBlock => exact execRingIndexBlock_keeps Keeps.refl _ h
  case migrate => exact execMigrate_keeps Keeps.refl _ h
  case exportRow => exact execExportRow_keeps Keeps.refl _ h
  case commit => exact execCommit_keeps Keeps.refl _ h
  case foldRelease => exact execFoldRelease_keeps Keeps.refl _ h
  case digestRoundStart => exact execDigestRoundStart_keeps Keeps.refl _ h
  case digestSlice => exact execDigestSlice_keeps Keeps.refl _ h
  case digestRoot => exact execDigestRoot_keeps Keeps.refl _ h
  case digestCompare => exact execDigestCompare_keeps Keeps.refl _ h
  case digestQuery => exact execDigestQuery_keeps Keeps.refl _ h
  case digestReply => exact execDigestReply_keeps Keeps.refl _ h
  case descentTimeout => exact execDescentTimeout_keeps Keeps.refl _ h
  case repairOrder => exact execRepairOrder_keeps Keeps.refl _ h
  case repairTick => exact execRepairTick_keeps Keeps.refl _ h
  case repairData => exact execRepairData_keeps Keeps.refl _ h
  case repairDone => exact execRepairDone_keeps Keeps.refl _ h
  case repairDeadline => exact execRepairDeadline_keeps Keeps.refl _ h
  case digestAbort => exact execDigestAbort_keeps Keeps.refl _ h
  case snapshotTick => exact execSnapshotTick_keeps Keeps.refl _ h
  case snapshotWriteComplete => exact execSnapshotWriteComplete_keeps Keeps.refl _ h
  case snapshotTargetError => exact execSnapshotTargetError_keeps Keeps.refl _ h
  case carriageCrcError => exact execCarriageCrcError_keeps Keeps.refl _ h
  case nak => exact execNak_keeps Keeps.refl _ h
  case nakRepeat => exact execNakRepeat_keeps Keeps.refl _ h
  case link => exact execLink_keeps Keeps.refl _ h
  case linkAckTimeout => exact execLinkAckTimeout_keeps Keeps.refl _ h
  case retrainTimeout => exact execRetrainTimeout_keeps Keeps.refl _ h
  case retrainComplete => exact execRetrainComplete_keeps Keeps.refl _ h
  case linkState => exact execLinkState_keeps Keeps.refl _ h
  case linkStateTimeout => exact execLinkStateTimeout_keeps Keeps.refl _ h
  case linkTrainComplete => exact execLinkTrainComplete_keeps Keeps.refl _ h
  case linkId => exact execLinkId_keeps Keeps.refl _ h
  case laneDrop => exact execLaneDrop_keeps Keeps.refl _ h
  case cdrTrim => exact execCdrTrim_keeps Keeps.refl _ h
  case laserEol => exact execLaserEol_keeps Keeps.refl _ h
  case laserFailure => exact execLaserFailure_keeps Keeps.refl _ h
  case laserModuleRemoved => exact execLaserModuleRemoved_keeps Keeps.refl _ h
  case laserModuleInserted => exact execLaserModuleInserted_keeps Keeps.refl _ h
  case windowRead => exact execWindowRead_keeps Keeps.refl _ h
  case windowWrite => exact execWindowWrite_keeps (fun hq => by simpa [asksRequalify] using hc hq) Keeps.refl _ h
  case rdmaWriteReceive => exact execRdmaWriteReceive_keeps Keeps.refl _ h
  case rdmaReadReceive => exact execRdmaReadReceive_keeps Keeps.refl _ h
  case rdmaSendReceive => exact execRdmaSendReceive_keeps Keeps.refl _ h
  case eventOverflowDrain => exact execEventOverflowDrain_keeps Keeps.refl _ h
  case pcieLinkLoss => exact execPcieLinkLoss_keeps Keeps.refl _ h
  case pciePerstN => exact execPciePerstN_keeps Keeps.refl _ h
  case ptpMessage => exact execPtpMessage_keeps Keeps.refl _ h
  case ptpAnnounceTimeout => exact execPtpAnnounceTimeout_keeps Keeps.refl _ h
  case ppsIn => exact execPpsIn_keeps Keeps.refl _ h
  case ppsTimeout => exact execPpsTimeout_keeps Keeps.refl _ h
  case tickIn => exact execTickIn_keeps Keeps.refl _ h
  case idleMeasure => exact execIdleMeasure_keeps Keeps.refl _ h
  case capLoopUpdate => exact execCapLoopUpdate_keeps Keeps.refl _ h
  case ocpTrip => exact execOcpTrip_keeps Keeps.refl _ h
  case ocpRecover => exact execOcpRecover_keeps Keeps.refl _ h
  case ocpShutdown => exact execOcpShutdown_keeps Keeps.refl _ h
  case droopDetect => exact execDroopDetect_keeps Keeps.refl _ h
  case droopEnd => exact execDroopEnd_keeps Keeps.refl _ h
  case thermalSample => exact execThermalSample_keeps Keeps.refl _ h
  case thermalTrip => exact execThermalTrip_keeps Keeps.refl _ h
  case grazeSlice => exact execGrazeSlice_keeps Keeps.refl _ h
  case forcedSlice => exact execForcedSlice_keeps Keeps.refl _ h
  case bistSlice => exact execBistSlice_keeps Keeps.refl _ h
  case taskPeriodEnd => exact execTaskPeriodEnd_keeps Keeps.refl _ h
  case sensorCalibration => exact execSensorCalibration_keeps Keeps.refl _ h
  case laserAgeingCompensation => exact execLaserAgeingCompensation_keeps Keeps.refl _ h
  case norLogLevelling => exact execNorLogLevelling_keeps Keeps.refl _ h
  case tileRotation => exact execTileRotation_keeps Keeps.refl _ h
  case refresh => exact execRefresh_keeps Keeps.refl _ h
  case parityRetry => exact execParityRetry_keeps Keeps.refl _ h
  case pwrEnRise => exact execPwrEnRise_keeps Keeps.refl _ h
  case bootPhaseComplete => exact execBootPhaseComplete_keeps Keeps.refl _ h
  case bootPhaseTimeout => exact execBootPhaseTimeout_keeps Keeps.refl _ h
  case pwrEnFall => exact execPwrEnFall_keeps Keeps.refl _ h
  case inputOutOfRange => exact execInputOutOfRange_keeps Keeps.refl _ h
  case inputInRange => exact execInputInRange_keeps Keeps.refl _ h
  case modRstNFall => exact execModRstNFall_keeps Keeps.refl _ h
  case watchdog => exact execWatchdog_keeps Keeps.refl _ h
  case modRstNRise => exact execModRstNRise_keeps Keeps.refl _ h
  case hostRstN => exact execHostRstN_keeps Keeps.refl _ h
  case jtagExtestEntry => exact execJtagExtestEntry_keeps Keeps.refl _ h
  case jtagScanExit => exact execJtagScanExit_keeps Keeps.refl _ h
  case getVersion => exact execGetVersion_keeps Keeps.refl _ h
  case getCapabilities => exact execGetCapabilities_keeps Keeps.refl _ h
  case negotiateAlgorithms => exact execNegotiateAlgorithms_keeps Keeps.refl _ h
  case getDigests => exact execGetDigests_keeps Keeps.refl _ h
  case getCertificate => exact execGetCertificate_keeps Keeps.refl _ h
  case challenge => exact execChallenge_keeps Keeps.refl _ h
  case getMeasurements => exact execGetMeasurements_keeps Keeps.refl _ h
  case spdmUnsupportedRequest => exact execSpdmUnsupportedRequest_keeps Keeps.refl _ h
  case requestUpdate => exact execRequestUpdate_keeps Keeps.refl _ h
  case firmwareImageTransfer => exact execFirmwareImageTransfer_keeps Keeps.refl _ h
  case activateFirmware => exact execActivateFirmware_keeps Keeps.refl _ h
  case pldmSetCap => exact execPldmSetCap_keeps Keeps.refl _ h
  case pldmSensorRead => exact execPldmSensorRead_keeps Keeps.refl _ h
  case foldLoadComplete => exact execFoldLoadComplete_keeps Keeps.refl _ h
  case memReconfigureComplete => exact execMemReconfigureComplete_keeps Keeps.refl _ h
  case hqRegionCtlRead => exact execHqRegionCtlRead_keeps Keeps.refl _ h
  case pluggableInsertion => exact execPluggableInsertion_keeps Keeps.refl _ h
  case dynamicAddressAssignment _ daa => exact execDynamicAddressAssignment_keeps (x1 := daa) Keeps.refl _ h
  case peerRetrain => exact execPeerRetrain_keeps Keeps.refl _ h

/-- What any command that goes on keeps. -/
theorem exec_keeps_any {s t : State} {c : Instr} (h : exec c s = .next t) : Keeps false s t :=
  exec_keeps (fun e => by cases e) h

end Sys2Proof.Machine
end

