-- ==== Sys2Proof/Laws/Lanes.lean ====
section
/-! SUPPORT. Packed lanes: reading back what was packed. -/

namespace Sys2Proof.Machine

/-- Element `l` of packed elements that fit. -/
theorem packBits_get (w : Nat) (cs : List Nat) (h : ∀ c ∈ cs, c < 2 ^ w) (l : Nat) :
    packBits w cs / 2 ^ (w * l) % 2 ^ w = cs.getD l 0 := by
  induction cs generalizing l with
  | nil => simp [packBits]
  | cons c t ih =>
    have hc : c < 2 ^ w := h c (by simp)
    have ht := ih (fun x hx => h x (by simp [hx]))
    cases l with
    | zero => simp [packBits, Nat.add_mul_mod_self_left, Nat.mod_eq_of_lt hc]
    | succ l =>
      have e : (c + 2 ^ w * packBits w t) / 2 ^ w = packBits w t := by
        rw [Nat.add_mul_div_left _ _ (Nat.two_pow_pos w), Nat.div_eq_of_lt hc, Nat.zero_add]
      rw [packBits, Nat.mul_succ, Nat.add_comm (w * l) w, Nat.pow_add, ← Nat.div_div_eq_div_mul, e, ht l]
      rfl

/-- Packed elements fit in their width. -/
theorem packBits_lt (w : Nat) (cs : List Nat) (h : ∀ c ∈ cs, c < 2 ^ w) : packBits w cs < 2 ^ (w * cs.length) := by
  induction cs with
  | nil => simp [packBits]
  | cons c t ih =>
    have hc : c < 2 ^ w := h c (by simp)
    have ht := ih (fun x hx => h x (by simp [hx]))
    rw [packBits, List.length_cons, Nat.mul_succ, Nat.pow_add, Nat.mul_comm (2 ^ (w * t.length))]
    have : 2 ^ w * (packBits w t + 1) ≤ 2 ^ w * 2 ^ (w * t.length) := Nat.mul_le_mul_left _ ht
    rw [Nat.mul_add] at this
    omega

/-- Bit `l` of packed bits. -/
theorem packBits_testBit (bs : List Bool) (l : Nat) :
    (packBits 1 (bs.map fun b => if b then 1 else 0)).testBit l = bs.getD l false := by
  have h := packBits_get 1 (bs.map fun b => if b then 1 else 0) (by
    intro c hc
    obtain ⟨b, _, rfl⟩ := List.mem_map.mp hc
    cases b <;> simp) l
  rw [Nat.one_mul] at h
  rw [Nat.testBit_eq_decide_div_mod_eq, show (2 : Nat) = 2 ^ 1 from rfl, ← Nat.pow_mul, Nat.one_mul, h]
  by_cases hl : l < bs.length
  · simp [List.getD, hl]
  · simp [List.getD, Nat.not_lt.mp hl]

end Sys2Proof.Machine
end

