-- ==== Sys2Proof/Laws/Soft.lean ====
section
/-! SUPPORT. What signalling leaves alone: sending carriages, reporting events, counting and answering change the links, the
host queues, memory that queues lie in, the counters and what has been sent, and nothing else. -/

set_option linter.unusedTactic false
set_option linter.unreachableTactic false
set_option linter.unusedVariables false

namespace Sys2Proof.Machine

/-- A change from `s` to `t` that is signalling alone. -/
structure Soft (s t : State) : Prop where
  tk : t.tk = s.tk
  run : t.run = s.run
  start : t.start = s.start
  job : t.job = s.job
  record : t.record = s.record
  tb : t.tb = s.tb
  folds : t.folds = s.folds
  ru : t.ru = s.ru
  commit : t.commit = s.commit
  ex : t.ex = s.ex
  handovers : t.handovers = s.handovers
  bulk : t.bulk = s.bulk
  digest : t.digest = s.digest
  snap : t.snap = s.snap
  repairsDue : t.repairsDue = s.repairsDue
  tiles : t.tiles = s.tiles
  pw : t.pw = s.pw
  nor : t.nor = s.nor
  net : t.net = s.net
  pending : t.pending = s.pending

variable {s0 s t : State}

theorem Soft.refl : Soft s s := by constructor <;> rfl

theorem Soft.trans (h1 : Soft s0 s) (h2 : Soft s t) : Soft s0 t :=
  ⟨h2.tk.trans h1.tk,
    h2.run.trans h1.run,
    h2.start.trans h1.start,
    h2.job.trans h1.job,
    h2.record.trans h1.record,
    h2.tb.trans h1.tb,
    h2.folds.trans h1.folds,
    h2.ru.trans h1.ru,
    h2.commit.trans h1.commit,
    h2.ex.trans h1.ex,
    h2.handovers.trans h1.handovers,
    h2.bulk.trans h1.bulk,
    h2.digest.trans h1.digest,
    h2.snap.trans h1.snap,
    h2.repairsDue.trans h1.repairsDue,
    h2.tiles.trans h1.tiles,
    h2.pw.trans h1.pw,
    h2.nor.trans h1.nor,
    h2.net.trans h1.net,
    h2.pending.trans h1.pending⟩

section update
variable {now : Nat} {boot : Boot} {nor : Nor} {sc : Sc} {mm : Mm} {hq : Hq} {net : Net} {tk : Tk} {run : TkRun} {start : StartCheck} {job : Job} {record : JobRecord} {tb : Tables} {folds : Folds} {ru : Tab RowUnit} {commit : Commit} {ex : Ex} {handovers : List Handover} {bulk : Bulk} {lg : Lg} {digest : Digest} {snap : Option Snapshot} {repairsDue : List (Nat × Nat × Nat)} {tiles : Tiles} {pw : Pw} {gz : Gz} {tallies : Tallies} {out : List Out} {freeCtr : Nat} {pending : List Instr}

/-- A record update that touches none of these parts. -/
theorem Soft.upd (h : Soft s0 s) (e0 : tk = s.tk) (e1 : run = s.run) (e2 : start = s.start) (e3 : job = s.job) (e4 : record = s.record) (e5 : tb = s.tb) (e6 : folds = s.folds) (e7 : ru = s.ru) (e8 : commit = s.commit) (e9 : ex = s.ex) (e10 : handovers = s.handovers) (e11 : bulk = s.bulk) (e12 : digest = s.digest) (e13 : snap = s.snap) (e14 : repairsDue = s.repairsDue) (e15 : tiles = s.tiles) (e16 : pw = s.pw) (e17 : nor = s.nor) (e18 : net = s.net) (e19 : pending = s.pending) :
    Soft s0 (State.mk now boot nor sc mm hq net tk run start job record tb folds ru commit ex handovers bulk lg digest snap repairsDue tiles pw gz tallies out freeCtr pending) :=
  h.trans ⟨e0, e1, e2, e3, e4, e5, e6, e7, e8, e9, e10, e11, e12, e13, e14, e15, e16, e17, e18, e19⟩

end update

theorem Soft.snd {α : Type} {x : α × State} {a : α} (e : x = (a, t)) (h : Soft s0 x.2) : Soft s0 t := by
  subst e; exact h

theorem Soft.foldl {α : Type} {f : State → α → State} {l : List α} (h : Soft s0 s)
    (hf : ∀ t x, Soft s0 t → Soft s0 (f t x)) : Soft s0 (l.foldl f s) := by
  induction l generalizing s with
  | nil => exact h
  | cons x l ih => exact ih (hf s x h)

theorem Soft.foldl2 {α β : Type} {f : β × State → α → β × State} {l : List α} {p : β × State} (h : Soft s0 p.2)
    (hf : ∀ (p : β × State) x, Soft s0 p.2 → Soft s0 (f p x).2) : Soft s0 (l.foldl f p).2 := by
  induction l generalizing p with
  | nil => exact h
  | cons x l ih => exact ih (hf p x h)

theorem emit_soft {x0} (h : Soft s0 s) : Soft s0 (emit x0 s) := by
  unfold emit
  try dsimp only
  repeat' with_reducible first
    | assumption
    | fail_if_no_progress (refine Soft.upd ?_ rfl rfl rfl rfl rfl rfl rfl rfl rfl rfl rfl rfl rfl rfl rfl rfl rfl rfl rfl rfl)
    | apply Soft.foldl | apply Soft.foldl2 | apply Soft.snd (by assumption) | split | dsimp only [id] | intro _ _ _

theorem platformEvent_soft {x0} (h : Soft s0 s) : Soft s0 (platformEvent x0 s) := by
  unfold platformEvent
  try dsimp only
  repeat' with_reducible first
    | assumption | apply emit_soft
    | fail_if_no_progress (refine Soft.upd ?_ rfl rfl rfl rfl rfl rfl rfl rfl rfl rfl rfl rfl rfl rfl rfl rfl rfl rfl rfl rfl)
    | apply Soft.foldl | apply Soft.foldl2 | apply Soft.snd (by assumption) | split | dsimp only [id] | intro _ _ _

theorem stampEvent_soft {x0 x1 x2 x3} (h : Soft s0 s) : Soft s0 (stampEvent x0 x1 x2 x3 s).2 := by
  unfold stampEvent
  try dsimp only
  repeat' with_reducible first
    | assumption | apply platformEvent_soft
    | fail_if_no_progress (refine Soft.upd ?_ rfl rfl rfl rfl rfl rfl rfl rfl rfl rfl rfl rfl rfl rfl rfl rfl rfl rfl rfl rfl)
    | apply Soft.foldl | apply Soft.foldl2 | apply Soft.snd (by assumption) | split | dsimp only [id] | intro _ _ _

theorem tallyBy_soft {x0 x1} (h : Soft s0 s) : Soft s0 (tallyBy x0 x1 s) := by
  unfold tallyBy
  try dsimp only
  repeat' with_reducible first
    | assumption
    | fail_if_no_progress (refine Soft.upd ?_ rfl rfl rfl rfl rfl rfl rfl rfl rfl rfl rfl rfl rfl rfl rfl rfl rfl rfl rfl rfl)
    | apply Soft.foldl | apply Soft.foldl2 | apply Soft.snd (by assumption) | split | dsimp only [id] | intro _ _ _

theorem tally_soft {x0} (h : Soft s0 s) : Soft s0 (tally x0 s) := by
  unfold tally
  try dsimp only
  repeat' with_reducible first
    | assumption | apply tallyBy_soft
    | fail_if_no_progress (refine Soft.upd ?_ rfl rfl rfl rfl rfl rfl rfl rfl rfl rfl rfl rfl rfl rfl rfl rfl rfl rfl rfl rfl)
    | apply Soft.foldl | apply Soft.foldl2 | apply Soft.snd (by assumption) | split | dsimp only [id] | intro _ _ _

theorem pushOvf_soft {x0} (h : Soft s0 s) : Soft s0 (pushOvf x0 s) := by
  unfold pushOvf
  try dsimp only
  repeat' with_reducible first
    | assumption | apply tally_soft
    | fail_if_no_progress (refine Soft.upd ?_ rfl rfl rfl rfl rfl rfl rfl rfl rfl rfl rfl rfl rfl rfl rfl rfl rfl rfl rfl rfl)
    | apply Soft.foldl | apply Soft.foldl2 | apply Soft.snd (by assumption) | split | dsimp only [id] | intro _ _ _

theorem violationIntoOvf_soft {x0 x1} (h : Soft s0 s) : Soft s0 (violationIntoOvf x0 x1 s) := by
  unfold violationIntoOvf
  try dsimp only
  repeat' with_reducible first
    | assumption | apply stampEvent_soft | apply tally_soft | apply pushOvf_soft
    | fail_if_no_progress (refine Soft.upd ?_ rfl rfl rfl rfl rfl rfl rfl rfl rfl rfl rfl rfl rfl rfl rfl rfl rfl rfl rfl rfl)
    | apply Soft.foldl | apply Soft.foldl2 | apply Soft.snd (by assumption) | split | dsimp only [id] | intro _ _ _

theorem freeBytes_soft {x0} (h : Soft s0 s) : Soft s0 (freeBytes x0 s).2 := by
  unfold freeBytes
  try dsimp only
  repeat' with_reducible first
    | assumption
    | fail_if_no_progress (refine Soft.upd ?_ rfl rfl rfl rfl rfl rfl rfl rfl rfl rfl rfl rfl rfl rfl rfl rfl rfl rfl rfl rfl)
    | apply Soft.foldl | apply Soft.foldl2 | apply Soft.snd (by assumption) | split | dsimp only [id] | intro _ _ _

theorem rawRead_soft {x0 x1} (h : Soft s0 s) : Soft s0 (rawRead x0 x1 s).2 := by
  unfold rawRead
  try dsimp only
  repeat' with_reducible first
    | assumption | apply freeBytes_soft
    | fail_if_no_progress (refine Soft.upd ?_ rfl rfl rfl rfl rfl rfl rfl rfl rfl rfl rfl rfl rfl rfl rfl rfl rfl rfl rfl rfl)
    | apply Soft.foldl | apply Soft.foldl2 | apply Soft.snd (by assumption) | split | dsimp only [id] | intro _ _ _

theorem readOwn_soft {x0} (h : Soft s0 s) : Soft s0 (readOwn x0 s).2 := by
  unfold readOwn
  try dsimp only
  repeat' with_reducible first
    | assumption | apply rawRead_soft
    | fail_if_no_progress (refine Soft.upd ?_ rfl rfl rfl rfl rfl rfl rfl rfl rfl rfl rfl rfl rfl rfl rfl rfl rfl rfl rfl rfl)
    | apply Soft.foldl | apply Soft.foldl2 | apply Soft.snd (by assumption) | split | dsimp only [id] | intro _ _ _

theorem rawWrite_soft {x0 x1} (h : Soft s0 s) : Soft s0 (rawWrite x0 x1 s) := by
  unfold rawWrite
  try dsimp only
  repeat' with_reducible first
    | assumption | apply emit_soft
    | fail_if_no_progress (refine Soft.upd ?_ rfl rfl rfl rfl rfl rfl rfl rfl rfl rfl rfl rfl rfl rfl rfl rfl rfl rfl rfl rfl)
    | apply Soft.foldl | apply Soft.foldl2 | apply Soft.snd (by assumption) | split | dsimp only [id] | intro _ _ _

theorem writeEventSlot_soft {x0 x1 x2} (h : Soft s0 s) : Soft s0 (writeEventSlot x0 x1 x2 s) := by
  unfold writeEventSlot
  try dsimp only
  repeat' with_reducible first
    | assumption | apply rawWrite_soft | apply emit_soft
    | fail_if_no_progress (refine Soft.upd ?_ rfl rfl rfl rfl rfl rfl rfl rfl rfl rfl rfl rfl rfl rfl rfl rfl rfl rfl rfl rfl)
    | apply Soft.foldl | apply Soft.foldl2 | apply Soft.snd (by assumption) | split | dsimp only [id] | intro _ _ _

theorem deliver_soft {x0} (h : Soft s0 s) : Soft s0 (deliver x0 s) := by
  unfold deliver
  try dsimp only
  repeat' with_reducible first
    | assumption | apply pushOvf_soft | apply violationIntoOvf_soft | apply readOwn_soft | apply writeEventSlot_soft
    | fail_if_no_progress (refine Soft.upd ?_ rfl rfl rfl rfl rfl rfl rfl rfl rfl rfl rfl rfl rfl rfl rfl rfl rfl rfl rfl rfl)
    | apply Soft.foldl | apply Soft.foldl2 | apply Soft.snd (by assumption) | split | dsimp only [id] | intro _ _ _

theorem raise_soft {x0 x1 x2 x3} (h : Soft s0 s) : Soft s0 (raise x0 x1 x2 x3 s) := by
  unfold raise
  try dsimp only
  repeat' with_reducible first
    | assumption | apply stampEvent_soft | apply pushOvf_soft | apply deliver_soft
    | fail_if_no_progress (refine Soft.upd ?_ rfl rfl rfl rfl rfl rfl rfl rfl rfl rfl rfl rfl rfl rfl rfl rfl rfl rfl rfl rfl)
    | apply Soft.foldl | apply Soft.foldl2 | apply Soft.snd (by assumption) | split | dsimp only [id] | intro _ _ _

theorem securityViolation_soft {x0 x1 x2 x3} (h : Soft s0 s) : Soft s0 (securityViolation x0 x1 x2 x3 s) := by
  unfold securityViolation
  try dsimp only
  repeat' with_reducible first
    | assumption | apply raise_soft | apply tally_soft
    | fail_if_no_progress (refine Soft.upd ?_ rfl rfl rfl rfl rfl rfl rfl rfl rfl rfl rfl rfl rfl rfl rfl rfl rfl rfl rfl rfl)
    | apply Soft.foldl | apply Soft.foldl2 | apply Soft.snd (by assumption) | split | dsimp only [id] | intro _ _ _

theorem hqWrite_soft {x0 x1 x2} (h : Soft s0 s) : Soft s0 (hqWrite x0 x1 x2 s) := by
  unfold hqWrite
  try dsimp only
  repeat' with_reducible first
    | assumption | apply securityViolation_soft | apply rawWrite_soft
    | fail_if_no_progress (refine Soft.upd ?_ rfl rfl rfl rfl rfl rfl rfl rfl rfl rfl rfl rfl rfl rfl rfl rfl rfl rfl rfl rfl)
    | apply Soft.foldl | apply Soft.foldl2 | apply Soft.snd (by assumption) | split | dsimp only [id] | intro _ _ _

theorem hqRead_soft {x0 x1 x2} (h : Soft s0 s) : Soft s0 (hqRead x0 x1 x2 s).2 := by
  unfold hqRead
  try dsimp only
  repeat' with_reducible first
    | assumption | apply securityViolation_soft | apply rawRead_soft
    | fail_if_no_progress (refine Soft.upd ?_ rfl rfl rfl rfl rfl rfl rfl rfl rfl rfl rfl rfl rfl rfl rfl rfl rfl rfl rfl rfl)
    | apply Soft.foldl | apply Soft.foldl2 | apply Soft.snd (by assumption) | split | dsimp only [id] | intro _ _ _

theorem freeWord_soft (h : Soft s0 s) : Soft s0 (freeWord s).2 := by
  unfold freeWord
  try dsimp only
  repeat' with_reducible first
    | assumption
    | fail_if_no_progress (refine Soft.upd ?_ rfl rfl rfl rfl rfl rfl rfl rfl rfl rfl rfl rfl rfl rfl rfl rfl rfl rfl rfl rfl)
    | apply Soft.foldl | apply Soft.foldl2 | apply Soft.snd (by assumption) | split | dsimp only [id] | intro _ _ _

theorem atTime_soft {x0} (h : Soft s0 s) : Soft s0 (atTime x0 s) := by
  unfold atTime
  try dsimp only
  repeat' with_reducible first
    | assumption
    | fail_if_no_progress (refine Soft.upd ?_ rfl rfl rfl rfl rfl rfl rfl rfl rfl rfl rfl rfl rfl rfl rfl rfl rfl rfl rfl rfl)
    | apply Soft.foldl | apply Soft.foldl2 | apply Soft.snd (by assumption) | split | dsimp only [id] | intro _ _ _

theorem tableTally_soft {x0 x1 x2} (h : Soft s0 s) : Soft s0 (tableTally x0 x1 x2 s) := by
  unfold tableTally
  try dsimp only
  repeat' with_reducible first
    | assumption
    | fail_if_no_progress (refine Soft.upd ?_ rfl rfl rfl rfl rfl rfl rfl rfl rfl rfl rfl rfl rfl rfl rfl rfl rfl rfl rfl rfl)
    | apply Soft.foldl | apply Soft.foldl2 | apply Soft.snd (by assumption) | split | dsimp only [id] | intro _ _ _

theorem sendCodeword_soft {x0 x1 x2} (h : Soft s0 s) : Soft s0 (sendCodeword x0 x1 x2 s).2 := by
  unfold sendCodeword
  try dsimp only
  repeat' with_reducible first
    | assumption | apply emit_soft
    | fail_if_no_progress (refine Soft.upd ?_ rfl rfl rfl rfl rfl rfl rfl rfl rfl rfl rfl rfl rfl rfl rfl rfl rfl rfl rfl rfl)
    | apply Soft.foldl | apply Soft.foldl2 | apply Soft.snd (by assumption) | split | dsimp only [id] | intro _ _ _

theorem fillLink_soft {x0 x1} (h : Soft s0 s) : Soft s0 (fillLink x0 x1 s).2 := by
  unfold fillLink
  try dsimp only
  repeat' with_reducible first
    | assumption | apply sendCodeword_soft
    | fail_if_no_progress (refine Soft.upd ?_ rfl rfl rfl rfl rfl rfl rfl rfl rfl rfl rfl rfl rfl rfl rfl rfl rfl rfl rfl rfl)
    | apply Soft.foldl | apply Soft.foldl2 | apply Soft.snd (by assumption) | split | dsimp only [id] | intro _ _ _

theorem feedLink_soft {x0 x1 x2} (h : Soft s0 s) : Soft s0 (feedLink x0 x1 x2 s).2 := by
  unfold feedLink
  try dsimp only
  repeat' with_reducible first
    | assumption | apply sendCodeword_soft
    | fail_if_no_progress (refine Soft.upd ?_ rfl rfl rfl rfl rfl rfl rfl rfl rfl rfl rfl rfl rfl rfl rfl rfl rfl rfl rfl rfl)
    | apply Soft.foldl | apply Soft.foldl2 | apply Soft.snd (by assumption) | split | dsimp only [id] | intro _ _ _

theorem setLink_soft {x0 x1} (h : Soft s0 s) : Soft s0 (setLink x0 x1 s) := by
  unfold setLink
  try dsimp only
  repeat' with_reducible first
    | assumption
    | fail_if_no_progress (refine Soft.upd ?_ rfl rfl rfl rfl rfl rfl rfl rfl rfl rfl rfl rfl rfl rfl rfl rfl rfl rfl rfl rfl)
    | apply Soft.foldl | apply Soft.foldl2 | apply Soft.snd (by assumption) | split | dsimp only [id] | intro _ _ _

theorem idleFill_soft {x0} (h : Soft s0 s) : Soft s0 (idleFill x0 s) := by
  unfold idleFill
  try dsimp only
  repeat' with_reducible first
    | assumption | apply fillLink_soft | apply setLink_soft
    | fail_if_no_progress (refine Soft.upd ?_ rfl rfl rfl rfl rfl rfl rfl rfl rfl rfl rfl rfl rfl rfl rfl rfl rfl rfl rfl rfl)
    | apply Soft.foldl | apply Soft.foldl2 | apply Soft.snd (by assumption) | split | dsimp only [id] | intro _ _ _

theorem modLink_soft {x0 x1} (h : Soft s0 s) : Soft s0 (modLink x0 x1 s) := by
  unfold modLink
  try dsimp only
  repeat' with_reducible first
    | assumption | apply setLink_soft
    | fail_if_no_progress (refine Soft.upd ?_ rfl rfl rfl rfl rfl rfl rfl rfl rfl rfl rfl rfl rfl rfl rfl rfl rfl rfl rfl rfl)
    | apply Soft.foldl | apply Soft.foldl2 | apply Soft.snd (by assumption) | split | dsimp only [id] | intro _ _ _

theorem freeBuffer_soft {x0 x1} (h : Soft s0 s) : Soft s0 (freeBuffer x0 x1 s) := by
  unfold freeBuffer
  try dsimp only
  repeat' with_reducible first
    | assumption | apply modLink_soft
    | fail_if_no_progress (refine Soft.upd ?_ rfl rfl rfl rfl rfl rfl rfl rfl rfl rfl rfl rfl rfl rfl rfl rfl rfl rfl rfl rfl)
    | apply Soft.foldl | apply Soft.foldl2 | apply Soft.snd (by assumption) | split | dsimp only [id] | intro _ _ _

theorem freeHeld_soft {x0} (h : Soft s0 s) : Soft s0 (freeHeld x0 s) := by
  unfold freeHeld
  try dsimp only
  repeat' with_reducible first
    | assumption | apply freeBuffer_soft
    | fail_if_no_progress (refine Soft.upd ?_ rfl rfl rfl rfl rfl rfl rfl rfl rfl rfl rfl rfl rfl rfl rfl rfl rfl rfl rfl rfl)
    | apply Soft.foldl | apply Soft.foldl2 | apply Soft.snd (by assumption) | split | dsimp only [id] | intro _ _ _

theorem sendBytes_soft {x0 x1 x2 x3 x4} (h : Soft s0 s) : Soft s0 (sendBytes x0 x1 x2 x3 x4 s) := by
  unfold sendBytes
  try dsimp only
  repeat' with_reducible first
    | assumption | apply feedLink_soft | apply emit_soft | apply setLink_soft
    | fail_if_no_progress (refine Soft.upd ?_ rfl rfl rfl rfl rfl rfl rfl rfl rfl rfl rfl rfl rfl rfl rfl rfl rfl rfl rfl rfl)
    | apply Soft.foldl | apply Soft.foldl2 | apply Soft.snd (by assumption) | split | dsimp only [id] | intro _ _ _

theorem putOnWire_soft {x0 x1 x2 x3} (h : Soft s0 s) : Soft s0 (putOnWire x0 x1 x2 x3 s) := by
  unfold putOnWire
  try dsimp only
  repeat' with_reducible first
    | assumption | apply sendBytes_soft
    | fail_if_no_progress (refine Soft.upd ?_ rfl rfl rfl rfl rfl rfl rfl rfl rfl rfl rfl rfl rfl rfl rfl rfl rfl rfl rfl rfl)
    | apply Soft.foldl | apply Soft.foldl2 | apply Soft.snd (by assumption) | split | dsimp only [id] | intro _ _ _

theorem transmit_soft {x0 x1} (h : Soft s0 s) : Soft s0 (transmit x0 x1 s) := by
  unfold transmit
  try dsimp only
  repeat' with_reducible first
    | assumption | apply setLink_soft | apply freeHeld_soft | apply putOnWire_soft
    | fail_if_no_progress (refine Soft.upd ?_ rfl rfl rfl rfl rfl rfl rfl rfl rfl rfl rfl rfl rfl rfl rfl rfl rfl rfl rfl rfl)
    | apply Soft.foldl | apply Soft.foldl2 | apply Soft.snd (by assumption) | split | dsimp only [id] | intro _ _ _

theorem pumpFuel_soft {x0 x1} (h : Soft s0 s) : Soft s0 (pumpFuel x0 x1 s) := by
  induction x1 generalizing s x0 with
  | zero =>
    unfold pumpFuel
    try dsimp only
    repeat' with_reducible first
      | assumption | apply transmit_soft | apply setLink_soft
      | fail_if_no_progress (refine Soft.upd ?_ rfl rfl rfl rfl rfl rfl rfl rfl rfl rfl rfl rfl rfl rfl rfl rfl rfl rfl rfl rfl)
      | apply Soft.foldl | apply Soft.foldl2 | apply Soft.snd (by assumption) | split | dsimp only [id] | intro _ _ _
  | succ _ ih =>
    unfold pumpFuel
    try dsimp only
    repeat' with_reducible first
      | assumption | apply ih | apply transmit_soft | apply setLink_soft
      | fail_if_no_progress (refine Soft.upd ?_ rfl rfl rfl rfl rfl rfl rfl rfl rfl rfl rfl rfl rfl rfl rfl rfl rfl rfl rfl rfl)
      | apply Soft.foldl | apply Soft.foldl2 | apply Soft.snd (by assumption) | split | dsimp only [id] | intro _ _ _

theorem pump_soft {x0} (h : Soft s0 s) : Soft s0 (pump x0 s) := by
  unfold pump
  try dsimp only
  repeat' with_reducible first
    | assumption | apply idleFill_soft | apply pumpFuel_soft
    | fail_if_no_progress (refine Soft.upd ?_ rfl rfl rfl rfl rfl rfl rfl rfl rfl rfl rfl rfl rfl rfl rfl rfl rfl rfl rfl rfl)
    | apply Soft.foldl | apply Soft.foldl2 | apply Soft.snd (by assumption) | split | dsimp only [id] | intro _ _ _

theorem enqueue_soft {x0 x1} (h : Soft s0 s) : Soft s0 (enqueue x0 x1 s) := by
  unfold enqueue
  try dsimp only
  repeat' with_reducible first
    | assumption | apply pump_soft | apply modLink_soft
    | fail_if_no_progress (refine Soft.upd ?_ rfl rfl rfl rfl rfl rfl rfl rfl rfl rfl rfl rfl rfl rfl rfl rfl rfl rfl rfl rfl)
    | apply Soft.foldl | apply Soft.foldl2 | apply Soft.snd (by assumption) | split | dsimp only [id] | intro _ _ _

theorem sendOn_soft {x0 x1} (h : Soft s0 s) : Soft s0 (sendOn x0 x1 s) := by
  unfold sendOn
  try dsimp only
  repeat' with_reducible first
    | assumption | apply enqueue_soft
    | fail_if_no_progress (refine Soft.upd ?_ rfl rfl rfl rfl rfl rfl rfl rfl rfl rfl rfl rfl rfl rfl rfl rfl rfl rfl rfl rfl)
    | apply Soft.foldl | apply Soft.foldl2 | apply Soft.snd (by assumption) | split | dsimp only [id] | intro _ _ _

theorem linkDown_soft {x0 x1 x2 x3 x4} (h : Soft s0 s) : Soft s0 (linkDown x0 x1 x2 x3 x4 s) := by
  unfold linkDown
  try dsimp only
  repeat' with_reducible first
    | assumption | apply raise_soft
    | fail_if_no_progress (refine Soft.upd ?_ rfl rfl rfl rfl rfl rfl rfl rfl rfl rfl rfl rfl rfl rfl rfl rfl rfl rfl rfl rfl)
    | apply Soft.foldl | apply Soft.foldl2 | apply Soft.snd (by assumption) | split | dsimp only [id] | intro _ _ _

theorem endHandoff_soft {x0} (h : Soft s0 s) : Soft s0 (endHandoff x0 s) := by
  unfold endHandoff
  try dsimp only
  repeat' with_reducible first
    | assumption | apply linkDown_soft | apply modLink_soft
    | fail_if_no_progress (refine Soft.upd ?_ rfl rfl rfl rfl rfl rfl rfl rfl rfl rfl rfl rfl rfl rfl rfl rfl rfl rfl rfl rfl)
    | apply Soft.foldl | apply Soft.foldl2 | apply Soft.snd (by assumption) | split | dsimp only [id] | intro _ _ _

theorem dropHandoff_soft {x0} (h : Soft s0 s) : Soft s0 (dropHandoff x0 s) := by
  unfold dropHandoff
  try dsimp only
  repeat' with_reducible first
    | assumption | apply endHandoff_soft | apply modLink_soft | apply tallyBy_soft
    | fail_if_no_progress (refine Soft.upd ?_ rfl rfl rfl rfl rfl rfl rfl rfl rfl rfl rfl rfl rfl rfl rfl rfl rfl rfl rfl rfl)
    | apply Soft.foldl | apply Soft.foldl2 | apply Soft.snd (by assumption) | split | dsimp only [id] | intro _ _ _

theorem route_soft {x0 x1} (h : Soft s0 s) : Soft s0 (route x0 x1 s) := by
  unfold route
  try dsimp only
  repeat' with_reducible first
    | assumption | apply enqueue_soft | apply freeHeld_soft | apply tally_soft
    | fail_if_no_progress (refine Soft.upd ?_ rfl rfl rfl rfl rfl rfl rfl rfl rfl rfl rfl rfl rfl rfl rfl rfl rfl rfl rfl rfl)
    | apply Soft.foldl | apply Soft.foldl2 | apply Soft.snd (by assumption) | split | dsimp only [id] | intro _ _ _

theorem originate_soft {x0 x1 x2 x3} (h : Soft s0 s) : Soft s0 (originate x0 x1 x2 x3 s) := by
  unfold originate
  try dsimp only
  repeat' with_reducible first
    | assumption | apply route_soft
    | fail_if_no_progress (refine Soft.upd ?_ rfl rfl rfl rfl rfl rfl rfl rfl rfl rfl rfl rfl rfl rfl rfl rfl rfl rfl rfl rfl)
    | apply Soft.foldl | apply Soft.foldl2 | apply Soft.snd (by assumption) | split | dsimp only [id] | intro _ _ _

theorem sendLinkState_soft {x0} (h : Soft s0 s) : Soft s0 (sendLinkState x0 s) := by
  unfold sendLinkState
  try dsimp only
  repeat' with_reducible first
    | assumption | apply originate_soft
    | fail_if_no_progress (refine Soft.upd ?_ rfl rfl rfl rfl rfl rfl rfl rfl rfl rfl rfl rfl rfl rfl rfl rfl rfl rfl rfl rfl)
    | apply Soft.foldl | apply Soft.foldl2 | apply Soft.snd (by assumption) | split | dsimp only [id] | intro _ _ _

theorem rerouteQueue_soft {x0} (h : Soft s0 s) : Soft s0 (rerouteQueue x0 s) := by
  unfold rerouteQueue
  try dsimp only
  repeat' with_reducible first
    | assumption | apply route_soft | apply freeHeld_soft | apply setLink_soft
    | fail_if_no_progress (refine Soft.upd ?_ rfl rfl rfl rfl rfl rfl rfl rfl rfl rfl rfl rfl rfl rfl rfl rfl rfl rfl rfl rfl)
    | apply Soft.foldl | apply Soft.foldl2 | apply Soft.snd (by assumption) | split | dsimp only [id] | intro _ _ _

theorem leaveLive_soft {x0 x1 x2} (h : Soft s0 s) : Soft s0 (leaveLive x0 x1 x2 s) := by
  unfold leaveLive
  try dsimp only
  repeat' with_reducible first
    | assumption | apply dropHandoff_soft | apply setLink_soft | apply sendLinkState_soft | apply rerouteQueue_soft
    | fail_if_no_progress (refine Soft.upd ?_ rfl rfl rfl rfl rfl rfl rfl rfl rfl rfl rfl rfl rfl rfl rfl rfl rfl rfl rfl rfl)
    | apply Soft.foldl | apply Soft.foldl2 | apply Soft.snd (by assumption) | split | dsimp only [id] | intro _ _ _

theorem enterRetrain_soft {x0 x1} (h : Soft s0 s) : Soft s0 (enterRetrain x0 x1 s) := by
  unfold enterRetrain
  try dsimp only
  repeat' with_reducible first
    | assumption | apply leaveLive_soft
    | fail_if_no_progress (refine Soft.upd ?_ rfl rfl rfl rfl rfl rfl rfl rfl rfl rfl rfl rfl rfl rfl rfl rfl rfl rfl rfl rfl)
    | apply Soft.foldl | apply Soft.foldl2 | apply Soft.snd (by assumption) | split | dsimp only [id] | intro _ _ _

theorem resendAll_soft {x0} (h : Soft s0 s) : Soft s0 (resendAll x0 s) := by
  unfold resendAll
  try dsimp only
  repeat' with_reducible first
    | assumption | apply putOnWire_soft
    | fail_if_no_progress (refine Soft.upd ?_ rfl rfl rfl rfl rfl rfl rfl rfl rfl rfl rfl rfl rfl rfl rfl rfl rfl rfl rfl rfl)
    | apply Soft.foldl | apply Soft.foldl2 | apply Soft.snd (by assumption) | split | dsimp only [id] | intro _ _ _

theorem onNak_soft {x0 x1} (h : Soft s0 s) : Soft s0 (onNak x0 x1 s) := by
  unfold onNak
  try dsimp only
  repeat' with_reducible first
    | assumption | apply tally_soft | apply setLink_soft | apply enterRetrain_soft | apply resendAll_soft
    | fail_if_no_progress (refine Soft.upd ?_ rfl rfl rfl rfl rfl rfl rfl rfl rfl rfl rfl rfl rfl rfl rfl rfl rfl rfl rfl rfl)
    | apply Soft.foldl | apply Soft.foldl2 | apply Soft.snd (by assumption) | split | dsimp only [id] | intro _ _ _

theorem rxReports_soft {x0} (h : Soft s0 s) : Soft s0 (rxReports x0 s) := by
  unfold rxReports
  try dsimp only
  repeat' with_reducible first
    | assumption | apply modLink_soft | apply onNak_soft | apply pump_soft
    | fail_if_no_progress (refine Soft.upd ?_ rfl rfl rfl rfl rfl rfl rfl rfl rfl rfl rfl rfl rfl rfl rfl rfl rfl rfl rfl rfl)
    | apply Soft.foldl | apply Soft.foldl2 | apply Soft.snd (by assumption) | split | dsimp only [id] | intro _ _ _

theorem sendLocal_soft {x0 x1} (h : Soft s0 s) : Soft s0 (sendLocal x0 x1 s) := by
  unfold sendLocal
  try dsimp only
  repeat' with_reducible first
    | assumption | apply idleFill_soft | apply transmit_soft | apply sendOn_soft
    | fail_if_no_progress (refine Soft.upd ?_ rfl rfl rfl rfl rfl rfl rfl rfl rfl rfl rfl rfl rfl rfl rfl rfl rfl rfl rfl rfl)
    | apply Soft.foldl | apply Soft.foldl2 | apply Soft.snd (by assumption) | split | dsimp only [id] | intro _ _ _

theorem sendNak_soft {x0} (h : Soft s0 s) : Soft s0 (sendNak x0 s) := by
  unfold sendNak
  try dsimp only
  repeat' with_reducible first
    | assumption | apply sendLocal_soft | apply modLink_soft
    | fail_if_no_progress (refine Soft.upd ?_ rfl rfl rfl rfl rfl rfl rfl rfl rfl rfl rfl rfl rfl rfl rfl rfl rfl rfl rfl rfl)
    | apply Soft.foldl | apply Soft.foldl2 | apply Soft.snd (by assumption) | split | dsimp only [id] | intro _ _ _

theorem rxHeader_soft {x0} (h : Soft s0 s) : Soft s0 (rxHeader x0 s).2 := by
  unfold rxHeader
  try dsimp only
  repeat' with_reducible first
    | assumption | apply rxReports_soft | apply modLink_soft | apply sendNak_soft
    | fail_if_no_progress (refine Soft.upd ?_ rfl rfl rfl rfl rfl rfl rfl rfl rfl rfl rfl rfl rfl rfl rfl rfl rfl rfl rfl rfl)
    | apply Soft.foldl | apply Soft.foldl2 | apply Soft.snd (by assumption) | split | dsimp only [id] | intro _ _ _

theorem sendEcho_soft (h : Soft s0 s) : Soft s0 (sendEcho s) := by
  unfold sendEcho
  try dsimp only
  repeat' with_reducible first
    | assumption | apply sendOn_soft
    | fail_if_no_progress (refine Soft.upd ?_ rfl rfl rfl rfl rfl rfl rfl rfl rfl rfl rfl rfl rfl rfl rfl rfl rfl rfl rfl rfl)
    | apply Soft.foldl | apply Soft.foldl2 | apply Soft.snd (by assumption) | split | dsimp only [id] | intro _ _ _

theorem crcError_soft {x0} (h : Soft s0 s) : Soft s0 (crcError x0 s) := by
  unfold crcError
  try dsimp only
  repeat' with_reducible first
    | assumption | apply tally_soft | apply sendNak_soft
    | fail_if_no_progress (refine Soft.upd ?_ rfl rfl rfl rfl rfl rfl rfl rfl rfl rfl rfl rfl rfl rfl rfl rfl rfl rfl rfl rfl)
    | apply Soft.foldl | apply Soft.foldl2 | apply Soft.snd (by assumption) | split | dsimp only [id] | intro _ _ _

theorem sendStomped_soft {x0 x1} (h : Soft s0 s) : Soft s0 (sendStomped x0 x1 s) := by
  unfold sendStomped
  try dsimp only
  repeat' with_reducible first
    | assumption | apply idleFill_soft | apply sendBytes_soft
    | fail_if_no_progress (refine Soft.upd ?_ rfl rfl rfl rfl rfl rfl rfl rfl rfl rfl rfl rfl rfl rfl rfl rfl rfl rfl rfl rfl)
    | apply Soft.foldl | apply Soft.foldl2 | apply Soft.snd (by assumption) | split | dsimp only [id] | intro _ _ _

theorem logAdmin_soft {x0 x1 x2} (h : Soft s0 s) : Soft s0 (logAdmin x0 x1 x2 s) := by
  unfold logAdmin
  try dsimp only
  repeat' with_reducible first
    | assumption
    | fail_if_no_progress (refine Soft.upd ?_ rfl rfl rfl rfl rfl rfl rfl rfl rfl rfl rfl rfl rfl rfl rfl rfl rfl rfl rfl rfl)
    | apply Soft.foldl | apply Soft.foldl2 | apply Soft.snd (by assumption) | split | dsimp only [id] | intro _ _ _

theorem adminComplete_soft {x0 x1 x2 x3 x4} (h : Soft s0 s) : Soft s0 (adminComplete x0 x1 x2 x3 x4 s) := by
  unfold adminComplete
  try dsimp only
  repeat' with_reducible first
    | assumption | apply logAdmin_soft | apply hqWrite_soft | apply emit_soft
    | fail_if_no_progress (refine Soft.upd ?_ rfl rfl rfl rfl rfl rfl rfl rfl rfl rfl rfl rfl rfl rfl rfl rfl rfl rfl rfl rfl)
    | apply Soft.foldl | apply Soft.foldl2 | apply Soft.snd (by assumption) | split | dsimp only [id] | intro _ _ _

theorem writeReply_soft {x0 x1} (h : Soft s0 s) : Soft s0 (writeReply x0 x1 s) := by
  unfold writeReply
  try dsimp only
  repeat' with_reducible first
    | assumption | apply emit_soft
    | fail_if_no_progress (refine Soft.upd ?_ rfl rfl rfl rfl rfl rfl rfl rfl rfl rfl rfl rfl rfl rfl rfl rfl rfl rfl rfl rfl)
    | apply Soft.foldl | apply Soft.foldl2 | apply Soft.snd (by assumption) | split | dsimp only [id] | intro _ _ _

theorem freeSlot_soft {x0 x1} (h : Soft s0 s) : Soft s0 (freeSlot x0 x1 s) := by
  unfold freeSlot
  try dsimp only
  repeat' with_reducible first
    | assumption | apply hqWrite_soft
    | fail_if_no_progress (refine Soft.upd ?_ rfl rfl rfl rfl rfl rfl rfl rfl rfl rfl rfl rfl rfl rfl rfl rfl rfl rfl rfl rfl)
    | apply Soft.foldl | apply Soft.foldl2 | apply Soft.snd (by assumption) | split | dsimp only [id] | intro _ _ _

theorem dropEntry_soft {x0 x1} (h : Soft s0 s) : Soft s0 (dropEntry x0 x1 s) := by
  unfold dropEntry
  try dsimp only
  repeat' with_reducible first
    | assumption
    | fail_if_no_progress (refine Soft.upd ?_ rfl rfl rfl rfl rfl rfl rfl rfl rfl rfl rfl rfl rfl rfl rfl rfl rfl rfl rfl rfl)
    | apply Soft.foldl | apply Soft.foldl2 | apply Soft.snd (by assumption) | split | dsimp only [id] | intro _ _ _

theorem finishStarted_soft {x0 x1 x2} (h : Soft s0 s) : Soft s0 (finishStarted x0 x1 x2 s) := by
  unfold finishStarted
  try dsimp only
  repeat' with_reducible first
    | assumption | apply adminComplete_soft
    | fail_if_no_progress (refine Soft.upd ?_ rfl rfl rfl rfl rfl rfl rfl rfl rfl rfl rfl rfl rfl rfl rfl rfl rfl rfl rfl rfl)
    | apply Soft.foldl | apply Soft.foldl2 | apply Soft.snd (by assumption) | split | dsimp only [id] | intro _ _ _

theorem answerCtlRead_soft {x0} (h : Soft s0 s) : Soft s0 (answerCtlRead x0 s) := by
  unfold answerCtlRead
  try dsimp only
  repeat' with_reducible first
    | assumption | apply emit_soft
    | fail_if_no_progress (refine Soft.upd ?_ rfl rfl rfl rfl rfl rfl rfl rfl rfl rfl rfl rfl rfl rfl rfl rfl rfl rfl rfl rfl)
    | apply Soft.foldl | apply Soft.foldl2 | apply Soft.snd (by assumption) | split | dsimp only [id] | intro _ _ _

theorem releaseCtlReads_soft (h : Soft s0 s) : Soft s0 (releaseCtlReads s) := by
  unfold releaseCtlReads
  try dsimp only
  repeat' with_reducible first
    | assumption | apply answerCtlRead_soft
    | fail_if_no_progress (refine Soft.upd ?_ rfl rfl rfl rfl rfl rfl rfl rfl rfl rfl rfl rfl rfl rfl rfl rfl rfl rfl rfl rfl)
    | apply Soft.foldl | apply Soft.foldl2 | apply Soft.snd (by assumption) | split | dsimp only [id] | intro _ _ _

theorem bumpInFlight_soft {x0 x1} (h : Soft s0 s) : Soft s0 (bumpInFlight x0 x1 s) := by
  unfold bumpInFlight
  try dsimp only
  repeat' with_reducible first
    | assumption | apply releaseCtlReads_soft
    | fail_if_no_progress (refine Soft.upd ?_ rfl rfl rfl rfl rfl rfl rfl rfl rfl rfl rfl rfl rfl rfl rfl rfl rfl rfl rfl rfl)
    | apply Soft.foldl | apply Soft.foldl2 | apply Soft.snd (by assumption) | split | dsimp only [id] | intro _ _ _

theorem closeEmb_soft {x1} (h : Soft s0 s) : Soft s0 (closeEmb s x1) := by
  unfold closeEmb
  try dsimp only
  repeat' with_reducible first
    | assumption | apply bumpInFlight_soft
    | fail_if_no_progress (refine Soft.upd ?_ rfl rfl rfl rfl rfl rfl rfl rfl rfl rfl rfl rfl rfl rfl rfl rfl rfl rfl rfl rfl)
    | apply Soft.foldl | apply Soft.foldl2 | apply Soft.snd (by assumption) | split | dsimp only [id] | intro _ _ _

theorem closeMove_soft {x1} (h : Soft s0 s) : Soft s0 (closeMove s x1) := by
  unfold closeMove
  try dsimp only
  repeat' with_reducible first
    | assumption | apply bumpInFlight_soft
    | fail_if_no_progress (refine Soft.upd ?_ rfl rfl rfl rfl rfl rfl rfl rfl rfl rfl rfl rfl rfl rfl rfl rfl rfl rfl rfl rfl)
    | apply Soft.foldl | apply Soft.foldl2 | apply Soft.snd (by assumption) | split | dsimp only [id] | intro _ _ _

theorem readRegionCtl_soft {x0} (h : Soft s0 s) : Soft s0 (readRegionCtl x0 s) := by
  unfold readRegionCtl
  try dsimp only
  repeat' with_reducible first
    | assumption | apply answerCtlRead_soft
    | fail_if_no_progress (refine Soft.upd ?_ rfl rfl rfl rfl rfl rfl rfl rfl rfl rfl rfl rfl rfl rfl rfl rfl rfl rfl rfl rfl)
    | apply Soft.foldl | apply Soft.foldl2 | apply Soft.snd (by assumption) | split | dsimp only [id] | intro _ _ _

theorem tileRead_soft {x0 x1 x2} (h : Soft s0 s) : Soft s0 (tileRead x0 x1 x2 s).2 := by
  unfold tileRead
  try dsimp only
  repeat' with_reducible first
    | assumption | apply freeBytes_soft
    | fail_if_no_progress (refine Soft.upd ?_ rfl rfl rfl rfl rfl rfl rfl rfl rfl rfl rfl rfl rfl rfl rfl rfl rfl rfl rfl rfl)
    | apply Soft.foldl | apply Soft.foldl2 | apply Soft.snd (by assumption) | split | dsimp only [id] | intro _ _ _

theorem returnSamples_soft {x0 x1} (h : Soft s0 s) : Soft s0 (returnSamples x0 x1 s) := by
  unfold returnSamples
  try dsimp only
  repeat' with_reducible first
    | assumption | apply tallyBy_soft
    | fail_if_no_progress (refine Soft.upd ?_ rfl rfl rfl rfl rfl rfl rfl rfl rfl rfl rfl rfl rfl rfl rfl rfl rfl rfl rfl rfl)
    | apply Soft.foldl | apply Soft.foldl2 | apply Soft.snd (by assumption) | split | dsimp only [id] | intro _ _ _

theorem sendDown_soft {x0 x1} (h : Soft s0 s) : Soft s0 (sendDown x0 x1 s) := by
  unfold sendDown
  try dsimp only
  repeat' with_reducible first
    | assumption | apply sendOn_soft
    | fail_if_no_progress (refine Soft.upd ?_ rfl rfl rfl rfl rfl rfl rfl rfl rfl rfl rfl rfl rfl rfl rfl rfl rfl rfl rfl rfl)
    | apply Soft.foldl | apply Soft.foldl2 | apply Soft.snd (by assumption) | split | dsimp only [id] | intro _ _ _

theorem sendUp_soft {x0} (h : Soft s0 s) : Soft s0 (sendUp x0 s) := by
  unfold sendUp
  try dsimp only
  repeat' with_reducible first
    | assumption | apply sendOn_soft
    | fail_if_no_progress (refine Soft.upd ?_ rfl rfl rfl rfl rfl rfl rfl rfl rfl rfl rfl rfl rfl rfl rfl rfl rfl rfl rfl rfl)
    | apply Soft.foldl | apply Soft.foldl2 | apply Soft.snd (by assumption) | split | dsimp only [id] | intro _ _ _

theorem sendAck_soft {x0 x1 x2} (h : Soft s0 s) : Soft s0 (sendAck x0 x1 x2 s) := by
  unfold sendAck
  try dsimp only
  repeat' with_reducible first
    | assumption | apply sendUp_soft
    | fail_if_no_progress (refine Soft.upd ?_ rfl rfl rfl rfl rfl rfl rfl rfl rfl rfl rfl rfl rfl rfl rfl rfl rfl rfl rfl rfl)
    | apply Soft.foldl | apply Soft.foldl2 | apply Soft.snd (by assumption) | split | dsimp only [id] | intro _ _ _

theorem ackNow_soft (h : Soft s0 s) : Soft s0 (ackNow s) := by
  unfold ackNow
  try dsimp only
  repeat' with_reducible first
    | assumption | apply sendAck_soft
    | fail_if_no_progress (refine Soft.upd ?_ rfl rfl rfl rfl rfl rfl rfl rfl rfl rfl rfl rfl rfl rfl rfl rfl rfl rfl rfl rfl)
    | apply Soft.foldl | apply Soft.foldl2 | apply Soft.snd (by assumption) | split | dsimp only [id] | intro _ _ _

theorem setTask_soft {x0 x1 x2} (h : Soft s0 s) : Soft s0 (setTask x0 x1 x2 s) := by
  unfold setTask
  try dsimp only
  repeat' with_reducible first
    | assumption
    | fail_if_no_progress (refine Soft.upd ?_ rfl rfl rfl rfl rfl rfl rfl rfl rfl rfl rfl rfl rfl rfl rfl rfl rfl rfl rfl rfl)
    | apply Soft.foldl | apply Soft.foldl2 | apply Soft.snd (by assumption) | split | dsimp only [id] | intro _ _ _

theorem taskRan_soft {x0 x1} (h : Soft s0 s) : Soft s0 (taskRan x0 x1 s) := by
  unfold taskRan
  try dsimp only
  repeat' with_reducible first
    | assumption | apply setTask_soft
    | fail_if_no_progress (refine Soft.upd ?_ rfl rfl rfl rfl rfl rfl rfl rfl rfl rfl rfl rfl rfl rfl rfl rfl rfl rfl rfl rfl)
    | apply Soft.foldl | apply Soft.foldl2 | apply Soft.snd (by assumption) | split | dsimp only [id] | intro _ _ _

theorem noteStarved_soft {x0 x1} (h : Soft s0 s) : Soft s0 (noteStarved x0 x1 s) := by
  unfold noteStarved
  try dsimp only
  repeat' with_reducible first
    | assumption | apply raise_soft | apply setTask_soft
    | fail_if_no_progress (refine Soft.upd ?_ rfl rfl rfl rfl rfl rfl rfl rfl rfl rfl rfl rfl rfl rfl rfl rfl rfl rfl rfl rfl)
    | apply Soft.foldl | apply Soft.foldl2 | apply Soft.snd (by assumption) | split | dsimp only [id] | intro _ _ _

theorem grazeLegEnd_soft {x0} (h : Soft s0 s) : Soft s0 (grazeLegEnd x0 s) := by
  unfold grazeLegEnd
  try dsimp only
  repeat' with_reducible first
    | assumption | apply noteStarved_soft
    | fail_if_no_progress (refine Soft.upd ?_ rfl rfl rfl rfl rfl rfl rfl rfl rfl rfl rfl rfl rfl rfl rfl rfl rfl rfl rfl rfl)
    | apply Soft.foldl | apply Soft.foldl2 | apply Soft.snd (by assumption) | split | dsimp only [id] | intro _ _ _

theorem trapTag_soft {x0} (h : Soft s0 s) : Soft s0 (trapTag x0 s).2 := by
  unfold trapTag
  try dsimp only
  repeat' with_reducible first
    | assumption | apply freeWord_soft
    | fail_if_no_progress (refine Soft.upd ?_ rfl rfl rfl rfl rfl rfl rfl rfl rfl rfl rfl rfl rfl rfl rfl rfl rfl rfl rfl rfl)
    | apply Soft.foldl | apply Soft.foldl2 | apply Soft.snd (by assumption) | split | dsimp only [id] | intro _ _ _

theorem tapValues_soft {x0 x1} (h : Soft s0 s) : Soft s0 (tapValues x0 x1 s).2 := by
  induction x1 generalizing s x0 with
  | nil =>
    unfold tapValues
    try dsimp only
    repeat' with_reducible first
      | assumption | apply freeWord_soft
      | fail_if_no_progress (refine Soft.upd ?_ rfl rfl rfl rfl rfl rfl rfl rfl rfl rfl rfl rfl rfl rfl rfl rfl rfl rfl rfl rfl)
      | apply Soft.foldl | apply Soft.foldl2 | apply Soft.snd (by assumption) | split | dsimp only [id] | intro _ _ _
  | cons _ _ ih =>
    unfold tapValues
    try dsimp only
    repeat' with_reducible first
      | assumption | apply ih | apply freeWord_soft
      | fail_if_no_progress (refine Soft.upd ?_ rfl rfl rfl rfl rfl rfl rfl rfl rfl rfl rfl rfl rfl rfl rfl rfl rfl rfl rfl rfl)
      | apply Soft.foldl | apply Soft.foldl2 | apply Soft.snd (by assumption) | split | dsimp only [id] | intro _ _ _

theorem scanFuel_soft {x0 x1 x2} (h : Soft s0 s) : Soft s0 (scanFuel x0 x1 x2 s) := by
  induction x2 generalizing s x0 x1 with
  | zero =>
    unfold scanFuel
    try dsimp only
    repeat' with_reducible first
      | assumption | apply hqRead_soft
      | fail_if_no_progress (refine Soft.upd ?_ rfl rfl rfl rfl rfl rfl rfl rfl rfl rfl rfl rfl rfl rfl rfl rfl rfl rfl rfl rfl)
      | apply Soft.foldl | apply Soft.foldl2 | apply Soft.snd (by assumption) | split | dsimp only [id] | intro _ _ _
  | succ _ ih =>
    unfold scanFuel
    try dsimp only
    repeat' with_reducible first
      | assumption | apply ih | apply hqRead_soft
      | fail_if_no_progress (refine Soft.upd ?_ rfl rfl rfl rfl rfl rfl rfl rfl rfl rfl rfl rfl rfl rfl rfl rfl rfl rfl rfl rfl)
      | apply Soft.foldl | apply Soft.foldl2 | apply Soft.snd (by assumption) | split | dsimp only [id] | intro _ _ _

theorem scanRing_soft {x0 x1} (h : Soft s0 s) : Soft s0 (scanRing x0 x1 s) := by
  unfold scanRing
  try dsimp only
  repeat' with_reducible first
    | assumption | apply scanFuel_soft
    | fail_if_no_progress (refine Soft.upd ?_ rfl rfl rfl rfl rfl rfl rfl rfl rfl rfl rfl rfl rfl rfl rfl rfl rfl rfl rfl rfl)
    | apply Soft.foldl | apply Soft.foldl2 | apply Soft.snd (by assumption) | split | dsimp only [id] | intro _ _ _

theorem modEntry_soft {x0 x1 x2} (h : Soft s0 s) : Soft s0 (modEntry x0 x1 x2 s) := by
  unfold modEntry
  try dsimp only
  repeat' with_reducible first
    | assumption
    | fail_if_no_progress (refine Soft.upd ?_ rfl rfl rfl rfl rfl rfl rfl rfl rfl rfl rfl rfl rfl rfl rfl rfl rfl rfl rfl rfl)
    | apply Soft.foldl | apply Soft.foldl2 | apply Soft.snd (by assumption) | split | dsimp only [id] | intro _ _ _

theorem checkRequest_soft {x0 x1 x2 x3} (h : Soft s0 s) : Soft s0 (checkRequest x0 x1 x2 x3 s).2 := by
  unfold checkRequest
  try dsimp only
  repeat' with_reducible first
    | assumption | apply hqRead_soft
    | fail_if_no_progress (refine Soft.upd ?_ rfl rfl rfl rfl rfl rfl rfl rfl rfl rfl rfl rfl rfl rfl rfl rfl rfl rfl rfl rfl)
    | apply Soft.foldl | apply Soft.foldl2 | apply Soft.snd (by assumption) | split | dsimp only [id] | intro _ _ _

theorem markLimited_soft {x0} (h : Soft s0 s) : Soft s0 (markLimited x0 s) := by
  unfold markLimited
  try dsimp only
  repeat' with_reducible first
    | assumption
    | fail_if_no_progress (refine Soft.upd ?_ rfl rfl rfl rfl rfl rfl rfl rfl rfl rfl rfl rfl rfl rfl rfl rfl rfl rfl rfl rfl)
    | apply Soft.foldl | apply Soft.foldl2 | apply Soft.snd (by assumption) | split | dsimp only [id] | intro _ _ _

theorem setDue_soft {x0} (h : Soft s0 s) : Soft s0 (setDue x0 s) := by
  unfold setDue
  try dsimp only
  repeat' with_reducible first
    | assumption
    | fail_if_no_progress (refine Soft.upd ?_ rfl rfl rfl rfl rfl rfl rfl rfl rfl rfl rfl rfl rfl rfl rfl rfl rfl rfl rfl rfl)
    | apply Soft.foldl | apply Soft.foldl2 | apply Soft.snd (by assumption) | split | dsimp only [id] | intro _ _ _

theorem noteLastErr_soft {x0 x1 x2 x3 x4} (h : Soft s0 s) : Soft s0 (noteLastErr x0 x1 x2 x3 x4 s) := by
  unfold noteLastErr
  try dsimp only
  repeat' with_reducible first
    | assumption
    | fail_if_no_progress (refine Soft.upd ?_ rfl rfl rfl rfl rfl rfl rfl rfl rfl rfl rfl rfl rfl rfl rfl rfl rfl rfl rfl rfl)
    | apply Soft.foldl | apply Soft.foldl2 | apply Soft.snd (by assumption) | split | dsimp only [id] | intro _ _ _

theorem sendOpenRow_soft {x0} (h : Soft s0 s) : Soft s0 (sendOpenRow x0 s) := by
  unfold sendOpenRow
  try dsimp only
  repeat' with_reducible first
    | assumption | apply route_soft
    | fail_if_no_progress (refine Soft.upd ?_ rfl rfl rfl rfl rfl rfl rfl rfl rfl rfl rfl rfl rfl rfl rfl rfl rfl rfl rfl rfl)
    | apply Soft.foldl | apply Soft.foldl2 | apply Soft.snd (by assumption) | split | dsimp only [id] | intro _ _ _

theorem sendWide_soft {x0 x1 x2} (h : Soft s0 s) : Soft s0 (sendWide x0 x1 x2 s) := by
  unfold sendWide
  try dsimp only
  repeat' with_reducible first
    | assumption | apply route_soft
    | fail_if_no_progress (refine Soft.upd ?_ rfl rfl rfl rfl rfl rfl rfl rfl rfl rfl rfl rfl rfl rfl rfl rfl rfl rfl rfl rfl)
    | apply Soft.foldl | apply Soft.foldl2 | apply Soft.snd (by assumption) | split | dsimp only [id] | intro _ _ _

theorem freeSamples_soft {x0} (h : Soft s0 s) : Soft s0 (freeSamples x0 s) := by
  unfold freeSamples
  try dsimp only
  repeat' with_reducible first
    | assumption | apply dropEntry_soft | apply freeSlot_soft
    | fail_if_no_progress (refine Soft.upd ?_ rfl rfl rfl rfl rfl rfl rfl rfl rfl rfl rfl rfl rfl rfl rfl rfl rfl rfl rfl rfl)
    | apply Soft.foldl | apply Soft.foldl2 | apply Soft.snd (by assumption) | split | dsimp only [id] | intro _ _ _

theorem repairEntry_soft {x0 x1 x2 x3} (h : Soft s0 s) : Soft s0 (repairEntry x0 x1 x2 x3 s).2 := by
  unfold repairEntry
  try dsimp only
  repeat' with_reducible first
    | assumption
    | fail_if_no_progress (refine Soft.upd ?_ rfl rfl rfl rfl rfl rfl rfl rfl rfl rfl rfl rfl rfl rfl rfl rfl rfl rfl rfl rfl)
    | apply Soft.foldl | apply Soft.foldl2 | apply Soft.snd (by assumption) | split | dsimp only [id] | intro _ _ _

theorem queueTest_soft {x0 x1 x2} (h : Soft s0 s) : Soft s0 (queueTest x0 x1 x2 s) := by
  unfold queueTest
  try dsimp only
  repeat' with_reducible first
    | assumption
    | fail_if_no_progress (refine Soft.upd ?_ rfl rfl rfl rfl rfl rfl rfl rfl rfl rfl rfl rfl rfl rfl rfl rfl rfl rfl rfl rfl)
    | apply Soft.foldl | apply Soft.foldl2 | apply Soft.snd (by assumption) | split | dsimp only [id] | intro _ _ _

theorem queueUnit_soft {x0 x1} (h : Soft s0 s) : Soft s0 (queueUnit x0 x1 s) := by
  unfold queueUnit
  try dsimp only
  repeat' with_reducible first
    | assumption | apply queueTest_soft
    | fail_if_no_progress (refine Soft.upd ?_ rfl rfl rfl rfl rfl rfl rfl rfl rfl rfl rfl rfl rfl rfl rfl rfl rfl rfl rfl rfl)
    | apply Soft.foldl | apply Soft.foldl2 | apply Soft.snd (by assumption) | split | dsimp only [id] | intro _ _ _

theorem coreFault_soft {x0 x1} (h : Soft s0 s) : Soft s0 (coreFault x0 x1 s) := by
  unfold coreFault
  try dsimp only
  repeat' with_reducible first
    | assumption | apply emit_soft
    | fail_if_no_progress (refine Soft.upd ?_ rfl rfl rfl rfl rfl rfl rfl rfl rfl rfl rfl rfl rfl rfl rfl rfl rfl rfl rfl rfl)
    | apply Soft.foldl | apply Soft.foldl2 | apply Soft.snd (by assumption) | split | dsimp only [id] | intro _ _ _

theorem parityPassed_soft {x0 x1 x2 x3 x4} (h : Soft s0 s) : Soft s0 (parityPassed x0 x1 x2 x3 x4 s) := by
  unfold parityPassed
  try dsimp only
  repeat' with_reducible first
    | assumption | apply raise_soft | apply tally_soft
    | fail_if_no_progress (refine Soft.upd ?_ rfl rfl rfl rfl rfl rfl rfl rfl rfl rfl rfl rfl rfl rfl rfl rfl rfl rfl rfl rfl)
    | apply Soft.foldl | apply Soft.foldl2 | apply Soft.snd (by assumption) | split | dsimp only [id] | intro _ _ _

theorem telemetry_soft {x0} (h : Soft s0 s) : Soft s0 (telemetry x0 s) := by
  unfold telemetry
  try dsimp only
  repeat' with_reducible first
    | assumption | apply tally_soft | apply securityViolation_soft | apply readOwn_soft | apply rawWrite_soft
    | apply emit_soft
    | fail_if_no_progress (refine Soft.upd ?_ rfl rfl rfl rfl rfl rfl rfl rfl rfl rfl rfl rfl rfl rfl rfl rfl rfl rfl rfl rfl)
    | apply Soft.foldl | apply Soft.foldl2 | apply Soft.snd (by assumption) | split | dsimp only [id] | intro _ _ _

theorem raiseCap_soft {x0 x1 x2} (h : Soft s0 s) : Soft s0 (raiseCap x0 x1 x2 s) := by
  unfold raiseCap
  try dsimp only
  repeat' with_reducible first
    | assumption | apply raise_soft
    | fail_if_no_progress (refine Soft.upd ?_ rfl rfl rfl rfl rfl rfl rfl rfl rfl rfl rfl rfl rfl rfl rfl rfl rfl rfl rfl rfl)
    | apply Soft.foldl | apply Soft.foldl2 | apply Soft.snd (by assumption) | split | dsimp only [id] | intro _ _ _

theorem markLost_soft {x0 x1 x2 x3} (h : Soft s0 s) : Soft s0 (markLost x0 x1 x2 x3 s) := by
  unfold markLost
  try dsimp only
  repeat' with_reducible first
    | assumption | apply raise_soft
    | fail_if_no_progress (refine Soft.upd ?_ rfl rfl rfl rfl rfl rfl rfl rfl rfl rfl rfl rfl rfl rfl rfl rfl rfl rfl rfl rfl)
    | apply Soft.foldl | apply Soft.foldl2 | apply Soft.snd (by assumption) | split | dsimp only [id] | intro _ _ _

theorem memZero_soft {x0 x1} (h : Soft s0 s) : Soft s0 (memZero x0 x1 s) := by
  unfold memZero
  try dsimp only
  repeat' with_reducible first
    | assumption
    | fail_if_no_progress (refine Soft.upd ?_ rfl rfl rfl rfl rfl rfl rfl rfl rfl rfl rfl rfl rfl rfl rfl rfl rfl rfl rfl rfl)
    | apply Soft.foldl | apply Soft.foldl2 | apply Soft.snd (by assumption) | split | dsimp only [id] | intro _ _ _

theorem paramBlock_soft {x0 x1} (h : Soft s0 s) : Soft s0 (paramBlock x0 x1 s).2 := by
  unfold paramBlock
  try dsimp only
  repeat' with_reducible first
    | assumption | apply hqRead_soft
    | fail_if_no_progress (refine Soft.upd ?_ rfl rfl rfl rfl rfl rfl rfl rfl rfl rfl rfl rfl rfl rfl rfl rfl rfl rfl rfl rfl)
    | apply Soft.foldl | apply Soft.foldl2 | apply Soft.snd (by assumption) | split | dsimp only [id] | intro _ _ _

theorem makeQueue_soft {x0} (h : Soft s0 s) : Soft s0 (makeQueue x0 s) := by
  unfold makeQueue
  try dsimp only
  repeat' with_reducible first
    | assumption
    | fail_if_no_progress (refine Soft.upd ?_ rfl rfl rfl rfl rfl rfl rfl rfl rfl rfl rfl rfl rfl rfl rfl rfl rfl rfl rfl rfl)
    | apply Soft.foldl | apply Soft.foldl2 | apply Soft.snd (by assumption) | split | dsimp only [id] | intro _ _ _

theorem sendPace_soft {x0} (h : Soft s0 s) : Soft s0 (sendPace x0 s) := by
  unfold sendPace
  try dsimp only
  repeat' with_reducible first
    | assumption | apply sendOn_soft
    | fail_if_no_progress (refine Soft.upd ?_ rfl rfl rfl rfl rfl rfl rfl rfl rfl rfl rfl rfl rfl rfl rfl rfl rfl rfl rfl rfl)
    | apply Soft.foldl | apply Soft.foldl2 | apply Soft.snd (by assumption) | split | dsimp only [id] | intro _ _ _

theorem setLaser_soft {x0 x1} (h : Soft s0 s) : Soft s0 (setLaser x0 x1 s) := by
  unfold setLaser
  try dsimp only
  repeat' with_reducible first
    | assumption
    | fail_if_no_progress (refine Soft.upd ?_ rfl rfl rfl rfl rfl rfl rfl rfl rfl rfl rfl rfl rfl rfl rfl rfl rfl rfl rfl rfl)
    | apply Soft.foldl | apply Soft.foldl2 | apply Soft.snd (by assumption) | split | dsimp only [id] | intro _ _ _

theorem dropHolds_soft {x0} (h : Soft s0 s) : Soft s0 (dropHolds x0 s) := by
  unfold dropHolds
  try dsimp only
  repeat' with_reducible first
    | assumption
    | fail_if_no_progress (refine Soft.upd ?_ rfl rfl rfl rfl rfl rfl rfl rfl rfl rfl rfl rfl rfl rfl rfl rfl rfl rfl rfl rfl)
    | apply Soft.foldl | apply Soft.foldl2 | apply Soft.snd (by assumption) | split | dsimp only [id] | intro _ _ _

theorem startTraining_soft {x0} (h : Soft s0 s) : Soft s0 (startTraining x0 s) := by
  unfold startTraining
  try dsimp only
  repeat' with_reducible first
    | assumption | apply dropHolds_soft | apply modLink_soft
    | fail_if_no_progress (refine Soft.upd ?_ rfl rfl rfl rfl rfl rfl rfl rfl rfl rfl rfl rfl rfl rfl rfl rfl rfl rfl rfl rfl)
    | apply Soft.foldl | apply Soft.foldl2 | apply Soft.snd (by assumption) | split | dsimp only [id] | intro _ _ _

theorem goDown_soft {x0 x1} (h : Soft s0 s) : Soft s0 (goDown x0 x1 s) := by
  unfold goDown
  try dsimp only
  repeat' with_reducible first
    | assumption | apply leaveLive_soft | apply setLink_soft | apply linkDown_soft
    | fail_if_no_progress (refine Soft.upd ?_ rfl rfl rfl rfl rfl rfl rfl rfl rfl rfl rfl rfl rfl rfl rfl rfl rfl rfl rfl rfl)
    | apply Soft.foldl | apply Soft.foldl2 | apply Soft.snd (by assumption) | split | dsimp only [id] | intro _ _ _

theorem linkDegraded_soft {x0 x1 x2 x3 x4 x5 x6 x7} (h : Soft s0 s) : Soft s0 (linkDegraded x0 x1 x2 x3 x4 x5 x6 x7 s) := by
  unfold linkDegraded
  try dsimp only
  repeat' with_reducible first
    | assumption | apply raise_soft
    | fail_if_no_progress (refine Soft.upd ?_ rfl rfl rfl rfl rfl rfl rfl rfl rfl rfl rfl rfl rfl rfl rfl rfl rfl rfl rfl rfl)
    | apply Soft.foldl | apply Soft.foldl2 | apply Soft.snd (by assumption) | split | dsimp only [id] | intro _ _ _

theorem laserFault_soft {x0 x1 x2 x3 x4 x5} (h : Soft s0 s) : Soft s0 (laserFault x0 x1 x2 x3 x4 x5 s) := by
  unfold laserFault
  try dsimp only
  repeat' with_reducible first
    | assumption | apply raise_soft
    | fail_if_no_progress (refine Soft.upd ?_ rfl rfl rfl rfl rfl rfl rfl rfl rfl rfl rfl rfl rfl rfl rfl rfl rfl rfl rfl rfl)
    | apply Soft.foldl | apply Soft.foldl2 | apply Soft.snd (by assumption) | split | dsimp only [id] | intro _ _ _

theorem placeEntries_soft {x0 x1} (h : Soft s0 s) : Soft s0 (placeEntries x0 x1 s) := by
  unfold placeEntries
  try dsimp only
  repeat' with_reducible first
    | assumption | apply modLink_soft | apply endHandoff_soft | apply route_soft
    | fail_if_no_progress (refine Soft.upd ?_ rfl rfl rfl rfl rfl rfl rfl rfl rfl rfl rfl rfl rfl rfl rfl rfl rfl rfl rfl rfl)
    | apply Soft.foldl | apply Soft.foldl2 | apply Soft.snd (by assumption) | split | dsimp only [id] | intro _ _ _

theorem setLanes_soft {x0 x1 x2 x3 x4} (h : Soft s0 s) : Soft s0 (setLanes x0 x1 x2 x3 x4 s) := by
  unfold setLanes
  try dsimp only
  repeat' with_reducible first
    | assumption | apply setLink_soft | apply linkDegraded_soft | apply goDown_soft | apply pump_soft
    | fail_if_no_progress (refine Soft.upd ?_ rfl rfl rfl rfl rfl rfl rfl rfl rfl rfl rfl rfl rfl rfl rfl rfl rfl rfl rfl rfl)
    | apply Soft.foldl | apply Soft.foldl2 | apply Soft.snd (by assumption) | split | dsimp only [id] | intro _ _ _

theorem dropLane_soft {x0 x1 x2 x3 x4} (h : Soft s0 s) : Soft s0 (dropLane x0 x1 x2 x3 x4 s) := by
  unfold dropLane
  try dsimp only
  repeat' with_reducible first
    | assumption | apply setLanes_soft
    | fail_if_no_progress (refine Soft.upd ?_ rfl rfl rfl rfl rfl rfl rfl rfl rfl rfl rfl rfl rfl rfl rfl rfl rfl rfl rfl rfl)
    | apply Soft.foldl | apply Soft.foldl2 | apply Soft.snd (by assumption) | split | dsimp only [id] | intro _ _ _

theorem restoreLane_soft {x0 x1 x2} (h : Soft s0 s) : Soft s0 (restoreLane x0 x1 x2 s) := by
  unfold restoreLane
  try dsimp only
  repeat' with_reducible first
    | assumption | apply setLanes_soft
    | fail_if_no_progress (refine Soft.upd ?_ rfl rfl rfl rfl rfl rfl rfl rfl rfl rfl rfl rfl rfl rfl rfl rfl rfl rfl rfl rfl)
    | apply Soft.foldl | apply Soft.foldl2 | apply Soft.snd (by assumption) | split | dsimp only [id] | intro _ _ _

theorem setSer_soft {x0 x1} (h : Soft s0 s) : Soft s0 (setSer x0 x1 s) := by
  unfold setSer
  try dsimp only
  repeat' with_reducible first
    | assumption | apply modLink_soft
    | fail_if_no_progress (refine Soft.upd ?_ rfl rfl rfl rfl rfl rfl rfl rfl rfl rfl rfl rfl rfl rfl rfl rfl rfl rfl rfl rfl)
    | apply Soft.foldl | apply Soft.foldl2 | apply Soft.snd (by assumption) | split | dsimp only [id] | intro _ _ _

theorem reportLanes_soft {x0 x1 x2 x3} (h : Soft s0 s) : Soft s0 (reportLanes x0 x1 x2 x3 s) := by
  unfold reportLanes
  try dsimp only
  repeat' with_reducible first
    | assumption | apply linkDegraded_soft
    | fail_if_no_progress (refine Soft.upd ?_ rfl rfl rfl rfl rfl rfl rfl rfl rfl rfl rfl rfl rfl rfl rfl rfl rfl rfl rfl rfl)
    | apply Soft.foldl | apply Soft.foldl2 | apply Soft.snd (by assumption) | split | dsimp only [id] | intro _ _ _

theorem linkService_soft {x0 x1 x2} (h : Soft s0 s) : Soft s0 (linkService x0 x1 x2 s) := by
  unfold linkService
  try dsimp only
  repeat' with_reducible first
    | assumption | apply setLink_soft | apply pump_soft | apply reportLanes_soft | apply sendEcho_soft
    | fail_if_no_progress (refine Soft.upd ?_ rfl rfl rfl rfl rfl rfl rfl rfl rfl rfl rfl rfl rfl rfl rfl rfl rfl rfl rfl rfl)
    | apply Soft.foldl | apply Soft.foldl2 | apply Soft.snd (by assumption) | split | dsimp only [id] | intro _ _ _

theorem tryUp_soft {x0} (h : Soft s0 s) : Soft s0 (tryUp x0 s) := by
  unfold tryUp
  try dsimp only
  repeat' with_reducible first
    | assumption | apply setLink_soft | apply linkService_soft | apply goDown_soft
    | fail_if_no_progress (refine Soft.upd ?_ rfl rfl rfl rfl rfl rfl rfl rfl rfl rfl rfl rfl rfl rfl rfl rfl rfl rfl rfl rfl)
    | apply Soft.foldl | apply Soft.foldl2 | apply Soft.snd (by assumption) | split | dsimp only [id] | intro _ _ _

theorem sendLinkId_soft {x0} (h : Soft s0 s) : Soft s0 (sendLinkId x0 s) := by
  unfold sendLinkId
  try dsimp only
  repeat' with_reducible first
    | assumption | apply sendLocal_soft
    | fail_if_no_progress (refine Soft.upd ?_ rfl rfl rfl rfl rfl rfl rfl rfl rfl rfl rfl rfl rfl rfl rfl rfl rfl rfl rfl rfl)
    | apply Soft.foldl | apply Soft.foldl2 | apply Soft.snd (by assumption) | split | dsimp only [id] | intro _ _ _

theorem drainLink_soft {x0} (h : Soft s0 s) : Soft s0 (drainLink x0 s) := by
  unfold drainLink
  try dsimp only
  repeat' with_reducible first
    | assumption | apply modLink_soft | apply goDown_soft
    | fail_if_no_progress (refine Soft.upd ?_ rfl rfl rfl rfl rfl rfl rfl rfl rfl rfl rfl rfl rfl rfl rfl rfl rfl rfl rfl rfl)
    | apply Soft.foldl | apply Soft.foldl2 | apply Soft.snd (by assumption) | split | dsimp only [id] | intro _ _ _

theorem adminHead_soft (h : Soft s0 s) : Soft s0 (adminHead s).2 := by
  unfold adminHead
  try dsimp only
  repeat' with_reducible first
    | assumption | apply hqRead_soft
    | fail_if_no_progress (refine Soft.upd ?_ rfl rfl rfl rfl rfl rfl rfl rfl rfl rfl rfl rfl rfl rfl rfl rfl rfl rfl rfl rfl)
    | apply Soft.foldl | apply Soft.foldl2 | apply Soft.snd (by assumption) | split | dsimp only [id] | intro _ _ _

theorem hostLost_soft {x0 x1} (h : Soft s0 s) : Soft s0 (hostLost x0 x1 s) := by
  unfold hostLost
  try dsimp only
  repeat' with_reducible first
    | assumption | apply stampEvent_soft | apply pushOvf_soft
    | fail_if_no_progress (refine Soft.upd ?_ rfl rfl rfl rfl rfl rfl rfl rfl rfl rfl rfl rfl rfl rfl rfl rfl rfl rfl rfl rfl)
    | apply Soft.foldl | apply Soft.foldl2 | apply Soft.snd (by assumption) | split | dsimp only [id] | intro _ _ _

theorem countDelivered_soft (h : Soft s0 s) : Soft s0 (countDelivered s) := by
  unfold countDelivered
  try dsimp only
  repeat' with_reducible first
    | assumption | apply deliver_soft
    | fail_if_no_progress (refine Soft.upd ?_ rfl rfl rfl rfl rfl rfl rfl rfl rfl rfl rfl rfl rfl rfl rfl rfl rfl rfl rfl rfl)
    | apply Soft.foldl | apply Soft.foldl2 | apply Soft.snd (by assumption) | split | dsimp only [id] | intro _ _ _

theorem drainFuel_soft {x0} (h : Soft s0 s) : Soft s0 (drainFuel x0 s) := by
  induction x0 generalizing s  with
  | zero =>
    unfold drainFuel
    try dsimp only
    repeat' with_reducible first
      | assumption | apply violationIntoOvf_soft | apply readOwn_soft | apply writeEventSlot_soft
      | apply countDelivered_soft
      | fail_if_no_progress (refine Soft.upd ?_ rfl rfl rfl rfl rfl rfl rfl rfl rfl rfl rfl rfl rfl rfl rfl rfl rfl rfl rfl rfl)
      | apply Soft.foldl | apply Soft.foldl2 | apply Soft.snd (by assumption) | split | dsimp only [id] | intro _ _ _
  | succ _ ih =>
    unfold drainFuel
    try dsimp only
    repeat' with_reducible first
      | assumption | apply ih | apply violationIntoOvf_soft | apply readOwn_soft | apply writeEventSlot_soft
      | apply countDelivered_soft
      | fail_if_no_progress (refine Soft.upd ?_ rfl rfl rfl rfl rfl rfl rfl rfl rfl rfl rfl rfl rfl rfl rfl rfl rfl rfl rfl rfl)
      | apply Soft.foldl | apply Soft.foldl2 | apply Soft.snd (by assumption) | split | dsimp only [id] | intro _ _ _

theorem drainOvf_soft (h : Soft s0 s) : Soft s0 (drainOvf s) := by
  unfold drainOvf
  try dsimp only
  repeat' with_reducible first
    | assumption | apply drainFuel_soft
    | fail_if_no_progress (refine Soft.upd ?_ rfl rfl rfl rfl rfl rfl rfl rfl rfl rfl rfl rfl rfl rfl rfl rfl rfl rfl rfl rfl)
    | apply Soft.foldl | apply Soft.foldl2 | apply Soft.snd (by assumption) | split | dsimp only [id] | intro _ _ _

theorem rereadSlot_soft {x0 x1} (h : Soft s0 s) : Soft s0 (rereadSlot x0 x1 s) := by
  unfold rereadSlot
  try dsimp only
  repeat' with_reducible first
    | assumption | apply violationIntoOvf_soft | apply hqRead_soft
    | fail_if_no_progress (refine Soft.upd ?_ rfl rfl rfl rfl rfl rfl rfl rfl rfl rfl rfl rfl rfl rfl rfl rfl rfl rfl rfl rfl)
    | apply Soft.foldl | apply Soft.foldl2 | apply Soft.snd (by assumption) | split | dsimp only [id] | intro _ _ _

theorem setPc_soft {x0 x1 x2} (h : Soft s0 s) : Soft s0 (setPc x0 x1 x2 s) := by
  unfold setPc
  try dsimp only
  repeat' with_reducible first
    | assumption
    | fail_if_no_progress (refine Soft.upd ?_ rfl rfl rfl rfl rfl rfl rfl rfl rfl rfl rfl rfl rfl rfl rfl rfl rfl rfl rfl rfl)
    | apply Soft.foldl | apply Soft.foldl2 | apply Soft.snd (by assumption) | split | dsimp only [id] | intro _ _ _

theorem applyMapouts_soft {x0 x1} (h : Soft s0 s) : Soft s0 (applyMapouts x0 x1 s) := by
  unfold applyMapouts
  try dsimp only
  repeat' with_reducible first
    | assumption | apply setPc_soft | apply raise_soft
    | fail_if_no_progress (refine Soft.upd ?_ rfl rfl rfl rfl rfl rfl rfl rfl rfl rfl rfl rfl rfl rfl rfl rfl rfl rfl rfl rfl)
    | apply Soft.foldl | apply Soft.foldl2 | apply Soft.snd (by assumption) | split | dsimp only [id] | intro _ _ _

theorem dropOvf_soft (h : Soft s0 s) : Soft s0 (dropOvf s) := by
  unfold dropOvf
  try dsimp only
  repeat' with_reducible first
    | assumption | apply tallyBy_soft | apply deliver_soft
    | fail_if_no_progress (refine Soft.upd ?_ rfl rfl rfl rfl rfl rfl rfl rfl rfl rfl rfl rfl rfl rfl rfl rfl rfl rfl rfl rfl)
    | apply Soft.foldl | apply Soft.foldl2 | apply Soft.snd (by assumption) | split | dsimp only [id] | intro _ _ _

theorem sramError_soft {x0 x1} (h : Soft s0 s) : Soft s0 (sramError x0 x1 s) := by
  unfold sramError
  try dsimp only
  repeat' with_reducible first
    | assumption | apply queueUnit_soft | apply raise_soft | apply tally_soft
    | fail_if_no_progress (refine Soft.upd ?_ rfl rfl rfl rfl rfl rfl rfl rfl rfl rfl rfl rfl rfl rfl rfl rfl rfl rfl rfl rfl)
    | apply Soft.foldl | apply Soft.foldl2 | apply Soft.snd (by assumption) | split | dsimp only [id] | intro _ _ _

theorem mboxReply_soft {x0 x1 x2} (h : Soft s0 s) : Soft s0 (mboxReply x0 x1 x2 s) := by
  unfold mboxReply
  try dsimp only
  repeat' with_reducible first
    | assumption | apply emit_soft
    | fail_if_no_progress (refine Soft.upd ?_ rfl rfl rfl rfl rfl rfl rfl rfl rfl rfl rfl rfl rfl rfl rfl rfl rfl rfl rfl rfl)
    | apply Soft.foldl | apply Soft.foldl2 | apply Soft.snd (by assumption) | split | dsimp only [id] | intro _ _ _

theorem unlockFailed_soft {x0} (h : Soft s0 s) : Soft s0 (unlockFailed x0 s) := by
  unfold unlockFailed
  try dsimp only
  repeat' with_reducible first
    | assumption | apply securityViolation_soft
    | fail_if_no_progress (refine Soft.upd ?_ rfl rfl rfl rfl rfl rfl rfl rfl rfl rfl rfl rfl rfl rfl rfl rfl rfl rfl rfl rfl)
    | apply Soft.foldl | apply Soft.foldl2 | apply Soft.snd (by assumption) | split | dsimp only [id] | intro _ _ _

theorem authFailure_soft {x0} (h : Soft s0 s) : Soft s0 (authFailure x0 s) := by
  unfold authFailure
  try dsimp only
  repeat' with_reducible first
    | assumption | apply securityViolation_soft
    | fail_if_no_progress (refine Soft.upd ?_ rfl rfl rfl rfl rfl rfl rfl rfl rfl rfl rfl rfl rfl rfl rfl rfl rfl rfl rfl rfl)
    | apply Soft.foldl | apply Soft.foldl2 | apply Soft.snd (by assumption) | split | dsimp only [id] | intro _ _ _

theorem bootHost_soft (h : Soft s0 s) : Soft s0 (bootHost s) := by
  unfold bootHost
  try dsimp only
  repeat' with_reducible first
    | assumption
    | fail_if_no_progress (refine Soft.upd ?_ rfl rfl rfl rfl rfl rfl rfl rfl rfl rfl rfl rfl rfl rfl rfl rfl rfl rfl rfl rfl)
    | apply Soft.foldl | apply Soft.foldl2 | apply Soft.snd (by assumption) | split | dsimp only [id] | intro _ _ _

theorem privFail_soft {x0 x1 x2} (h : Soft s0 s) : Soft s0 (privFail x0 x1 x2 s) := by
  unfold privFail
  try dsimp only
  repeat' with_reducible first
    | assumption | apply raise_soft
    | fail_if_no_progress (refine Soft.upd ?_ rfl rfl rfl rfl rfl rfl rfl rfl rfl rfl rfl rfl rfl rfl rfl rfl rfl rfl rfl rfl)
    | apply Soft.foldl | apply Soft.foldl2 | apply Soft.snd (by assumption) | split | dsimp only [id] | intro _ _ _

theorem testDrivers_soft {x0 x1} (h : Soft s0 s) : Soft s0 (testDrivers x0 x1 s) := by
  unfold testDrivers
  try dsimp only
  repeat' with_reducible first
    | assumption | apply goDown_soft | apply startTraining_soft | apply privFail_soft
    | fail_if_no_progress (refine Soft.upd ?_ rfl rfl rfl rfl rfl rfl rfl rfl rfl rfl rfl rfl rfl rfl rfl rfl rfl rfl rfl rfl)
    | apply Soft.foldl | apply Soft.foldl2 | apply Soft.snd (by assumption) | split | dsimp only [id] | intro _ _ _

theorem setBist_soft {x0 x1 x2} (h : Soft s0 s) : Soft s0 (setBist x0 x1 x2 s) := by
  unfold setBist
  try dsimp only
  repeat' with_reducible first
    | assumption
    | fail_if_no_progress (refine Soft.upd ?_ rfl rfl rfl rfl rfl rfl rfl rfl rfl rfl rfl rfl rfl rfl rfl rfl rfl rfl rfl rfl)
    | apply Soft.foldl | apply Soft.foldl2 | apply Soft.snd (by assumption) | split | dsimp only [id] | intro _ _ _

theorem dequeue_soft {x0 x1} (h : Soft s0 s) : Soft s0 (dequeue x0 x1 s) := by
  unfold dequeue
  try dsimp only
  repeat' with_reducible first
    | assumption
    | fail_if_no_progress (refine Soft.upd ?_ rfl rfl rfl rfl rfl rfl rfl rfl rfl rfl rfl rfl rfl rfl rfl rfl rfl rfl rfl rfl)
    | apply Soft.foldl | apply Soft.foldl2 | apply Soft.snd (by assumption) | split | dsimp only [id] | intro _ _ _

theorem requalFail_soft {x0 x1 x2} (h : Soft s0 s) : Soft s0 (requalFail x0 x1 x2 s) := by
  unfold requalFail
  try dsimp only
  repeat' with_reducible first
    | assumption | apply raise_soft
    | fail_if_no_progress (refine Soft.upd ?_ rfl rfl rfl rfl rfl rfl rfl rfl rfl rfl rfl rfl rfl rfl rfl rfl rfl rfl rfl rfl)
    | apply Soft.foldl | apply Soft.foldl2 | apply Soft.snd (by assumption) | split | dsimp only [id] | intro _ _ _

theorem refuseFw_soft {x0} (h : Soft s0 s) : Soft s0 (refuseFw x0 s) := by
  unfold refuseFw
  try dsimp only
  repeat' with_reducible first
    | assumption
    | fail_if_no_progress (refine Soft.upd ?_ rfl rfl rfl rfl rfl rfl rfl rfl rfl rfl rfl rfl rfl rfl rfl rfl rfl rfl rfl rfl)
    | apply Soft.foldl | apply Soft.foldl2 | apply Soft.snd (by assumption) | split | dsimp only [id] | intro _ _ _

theorem hostReset_soft (h : Soft s0 s) : Soft s0 (hostReset s) := by
  unfold hostReset
  try dsimp only
  repeat' with_reducible first
    | assumption | apply hostLost_soft
    | fail_if_no_progress (refine Soft.upd ?_ rfl rfl rfl rfl rfl rfl rfl rfl rfl rfl rfl rfl rfl rfl rfl rfl rfl rfl rfl rfl)
    | apply Soft.foldl | apply Soft.foldl2 | apply Soft.snd (by assumption) | split | dsimp only [id] | intro _ _ _

theorem beginBlackout_soft {x0 x1} (h : Soft s0 s) : Soft s0 (beginBlackout x0 x1 s) := by
  unfold beginBlackout
  try dsimp only
  repeat' with_reducible first
    | assumption
    | fail_if_no_progress (refine Soft.upd ?_ rfl rfl rfl rfl rfl rfl rfl rfl rfl rfl rfl rfl rfl rfl rfl rfl rfl rfl rfl rfl)
    | apply Soft.foldl | apply Soft.foldl2 | apply Soft.snd (by assumption) | split | dsimp only [id] | intro _ _ _

theorem noteRetrained_soft {x0} (h : Soft s0 s) : Soft s0 (noteRetrained x0 s) := by
  unfold noteRetrained
  try dsimp only
  repeat' with_reducible first
    | assumption
    | fail_if_no_progress (refine Soft.upd ?_ rfl rfl rfl rfl rfl rfl rfl rfl rfl rfl rfl rfl rfl rfl rfl rfl rfl rfl rfl rfl)
    | apply Soft.foldl | apply Soft.foldl2 | apply Soft.snd (by assumption) | split | dsimp only [id] | intro _ _ _

theorem drainNext_soft {x0 x1} (h : Soft s0 s) : Soft s0 (drainNext x0 x1 s) := by
  unfold drainNext
  try dsimp only
  repeat' with_reducible first
    | assumption | apply setTask_soft | apply noteRetrained_soft | apply setPc_soft
    | fail_if_no_progress (refine Soft.upd ?_ rfl rfl rfl rfl rfl rfl rfl rfl rfl rfl rfl rfl rfl rfl rfl rfl rfl rfl rfl rfl)
    | apply Soft.foldl | apply Soft.foldl2 | apply Soft.snd (by assumption) | split | dsimp only [id] | intro _ _ _

theorem flushBuffer_soft (h : Soft s0 s) : Soft s0 (flushBuffer s) := by
  unfold flushBuffer
  try dsimp only
  repeat' with_reducible first
    | assumption | apply deliver_soft
    | fail_if_no_progress (refine Soft.upd ?_ rfl rfl rfl rfl rfl rfl rfl rfl rfl rfl rfl rfl rfl rfl rfl rfl rfl rfl rfl rfl)
    | apply Soft.foldl | apply Soft.foldl2 | apply Soft.snd (by assumption) | split | dsimp only [id] | intro _ _ _

theorem endBoot_soft {x0} (h : Soft s0 s) : Soft s0 (endBoot x0 s) := by
  unfold endBoot
  try dsimp only
  repeat' with_reducible first
    | assumption | apply raise_soft
    | fail_if_no_progress (refine Soft.upd ?_ rfl rfl rfl rfl rfl rfl rfl rfl rfl rfl rfl rfl rfl rfl rfl rfl rfl rfl rfl rfl)
    | apply Soft.foldl | apply Soft.foldl2 | apply Soft.snd (by assumption) | split | dsimp only [id] | intro _ _ _

theorem enterPhase_soft {x0} (h : Soft s0 s) : Soft s0 (enterPhase x0 s) := by
  unfold enterPhase
  try dsimp only
  repeat' with_reducible first
    | assumption
    | fail_if_no_progress (refine Soft.upd ?_ rfl rfl rfl rfl rfl rfl rfl rfl rfl rfl rfl rfl rfl rfl rfl rfl rfl rfl rfl rfl)
    | apply Soft.foldl | apply Soft.foldl2 | apply Soft.snd (by assumption) | split | dsimp only [id] | intro _ _ _

theorem endPower_soft (h : Soft s0 s) : Soft s0 (endPower s) := by
  unfold endPower
  try dsimp only
  repeat' with_reducible first
    | assumption | apply enterPhase_soft
    | fail_if_no_progress (refine Soft.upd ?_ rfl rfl rfl rfl rfl rfl rfl rfl rfl rfl rfl rfl rfl rfl rfl rfl rfl rfl rfl rfl)
    | apply Soft.foldl | apply Soft.foldl2 | apply Soft.snd (by assumption) | split | dsimp only [id] | intro _ _ _

theorem endPriv_soft {x0} (h : Soft s0 s) : Soft s0 (endPriv x0 s) := by
  unfold endPriv
  try dsimp only
  repeat' with_reducible first
    | assumption | apply enterPhase_soft | apply privFail_soft | apply endBoot_soft
    | fail_if_no_progress (refine Soft.upd ?_ rfl rfl rfl rfl rfl rfl rfl rfl rfl rfl rfl rfl rfl rfl rfl rfl rfl rfl rfl rfl)
    | apply Soft.foldl | apply Soft.foldl2 | apply Soft.snd (by assumption) | split | dsimp only [id] | intro _ _ _

theorem startOptics_soft (h : Soft s0 s) : Soft s0 (startOptics s) := by
  unfold startOptics
  try dsimp only
  repeat' with_reducible first
    | assumption | apply setLaser_soft | apply startTraining_soft
    | fail_if_no_progress (refine Soft.upd ?_ rfl rfl rfl rfl rfl rfl rfl rfl rfl rfl rfl rfl rfl rfl rfl rfl rfl rfl rfl rfl)
    | apply Soft.foldl | apply Soft.foldl2 | apply Soft.snd (by assumption) | split | dsimp only [id] | intro _ _ _

theorem setSpdm_soft {x0 x1} (h : Soft s0 s) : Soft s0 (setSpdm x0 x1 s) := by
  unfold setSpdm
  try dsimp only
  repeat' with_reducible first
    | assumption
    | fail_if_no_progress (refine Soft.upd ?_ rfl rfl rfl rfl rfl rfl rfl rfl rfl rfl rfl rfl rfl rfl rfl rfl rfl rfl rfl rfl)
    | apply Soft.foldl | apply Soft.foldl2 | apply Soft.snd (by assumption) | split | dsimp only [id] | intro _ _ _

theorem identitySignature_soft {x0} (h : Soft s0 s) : Soft s0 (identitySignature x0 s).2 := by
  unfold identitySignature
  try dsimp only
  repeat' with_reducible first
    | assumption | apply freeBytes_soft
    | fail_if_no_progress (refine Soft.upd ?_ rfl rfl rfl rfl rfl rfl rfl rfl rfl rfl rfl rfl rfl rfl rfl rfl rfl rfl rfl rfl)
    | apply Soft.foldl | apply Soft.foldl2 | apply Soft.snd (by assumption) | split | dsimp only [id] | intro _ _ _

theorem moveRead_soft {x0 x1 x2 x3 x4 x5} (h : Soft s0 s) : Soft s0 (moveRead x0 x1 x2 x3 x4 x5 s).2.2 := by
  unfold moveRead
  try dsimp only
  repeat' with_reducible first
    | assumption | apply freeBytes_soft
    | fail_if_no_progress (refine Soft.upd ?_ rfl rfl rfl rfl rfl rfl rfl rfl rfl rfl rfl rfl rfl rfl rfl rfl rfl rfl rfl rfl)
    | apply Soft.foldl | apply Soft.foldl2 | apply Soft.snd (by assumption) | split | dsimp only [id] | intro _ _ _

theorem csrRead_soft {x0 x1} (h : Soft s0 s) : Soft s0 (csrRead x0 x1 s).2 := by
  unfold csrRead
  try dsimp only
  repeat' with_reducible first
    | assumption | apply freeBytes_soft
    | fail_if_no_progress (refine Soft.upd ?_ rfl rfl rfl rfl rfl rfl rfl rfl rfl rfl rfl rfl rfl rfl rfl rfl rfl rfl rfl rfl)
    | apply Soft.foldl | apply Soft.foldl2 | apply Soft.snd (by assumption) | split | dsimp only [id] | intro _ _ _

theorem clearTally_soft {x0} (h : Soft s0 s) : Soft s0 (clearTally x0 s) := by
  unfold clearTally
  try dsimp only
  repeat' with_reducible first
    | assumption
    | fail_if_no_progress (refine Soft.upd ?_ rfl rfl rfl rfl rfl rfl rfl rfl rfl rfl rfl rfl rfl rfl rfl rfl rfl rfl rfl rfl)
    | apply Soft.foldl | apply Soft.foldl2 | apply Soft.snd (by assumption) | split | dsimp only [id] | intro _ _ _

theorem setRegion_soft {x0 x1} (h : Soft s0 s) : Soft s0 (setRegion x0 x1 s) := by
  unfold setRegion
  try dsimp only
  repeat' with_reducible first
    | assumption
    | fail_if_no_progress (refine Soft.upd ?_ rfl rfl rfl rfl rfl rfl rfl rfl rfl rfl rfl rfl rfl rfl rfl rfl rfl rfl rfl rfl)
    | apply Soft.foldl | apply Soft.foldl2 | apply Soft.snd (by assumption) | split | dsimp only [id] | intro _ _ _

theorem freeOutcome_soft (h : Soft s0 s) : Soft s0 (freeOutcome s).2 := by
  unfold freeOutcome
  try dsimp only
  repeat' with_reducible first
    | assumption | apply freeWord_soft
    | fail_if_no_progress (refine Soft.upd ?_ rfl rfl rfl rfl rfl rfl rfl rfl rfl rfl rfl rfl rfl rfl rfl rfl rfl rfl rfl rfl)
    | apply Soft.foldl | apply Soft.foldl2 | apply Soft.snd (by assumption) | split | dsimp only [id] | intro _ _ _

theorem mboxWrite_soft {x0 x1 x2} (h : Soft s0 s) : Soft s0 (mboxWrite x0 x1 x2 s) := by
  unfold mboxWrite
  try dsimp only
  repeat' with_reducible first
    | assumption
    | fail_if_no_progress (refine Soft.upd ?_ rfl rfl rfl rfl rfl rfl rfl rfl rfl rfl rfl rfl rfl rfl rfl rfl rfl rfl rfl rfl)
    | apply Soft.foldl | apply Soft.foldl2 | apply Soft.snd (by assumption) | split | dsimp only [id] | intro _ _ _

theorem regionWrite_soft {x0 x1} (h : Soft s0 s) : Soft s0 (regionWrite x0 x1 s) := by
  unfold regionWrite
  try dsimp only
  repeat' with_reducible first
    | assumption | apply setRegion_soft
    | fail_if_no_progress (refine Soft.upd ?_ rfl rfl rfl rfl rfl rfl rfl rfl rfl rfl rfl rfl rfl rfl rfl rfl rfl rfl rfl rfl)
    | apply Soft.foldl | apply Soft.foldl2 | apply Soft.snd (by assumption) | split | dsimp only [id] | intro _ _ _

theorem adminCfg_soft {x0} (h : Soft s0 s) : Soft s0 (adminCfg x0 s) := by
  unfold adminCfg
  try dsimp only
  repeat' with_reducible first
    | assumption
    | fail_if_no_progress (refine Soft.upd ?_ rfl rfl rfl rfl rfl rfl rfl rfl rfl rfl rfl rfl rfl rfl rfl rfl rfl rfl rfl rfl)
    | apply Soft.foldl | apply Soft.foldl2 | apply Soft.snd (by assumption) | split | dsimp only [id] | intro _ _ _

theorem routeWrite_soft {x0 x1} (h : Soft s0 s) : Soft s0 (routeWrite x0 x1 s) := by
  unfold routeWrite
  try dsimp only
  repeat' with_reducible first
    | assumption
    | fail_if_no_progress (refine Soft.upd ?_ rfl rfl rfl rfl rfl rfl rfl rfl rfl rfl rfl rfl rfl rfl rfl rfl rfl rfl rfl rfl)
    | apply Soft.foldl | apply Soft.foldl2 | apply Soft.snd (by assumption) | split | dsimp only [id] | intro _ _ _

theorem tallyWrite_soft {x0 x1 x2} (h : Soft s0 s) : Soft s0 (tallyWrite x0 x1 x2 s) := by
  unfold tallyWrite
  try dsimp only
  repeat' with_reducible first
    | assumption | apply clearTally_soft
    | fail_if_no_progress (refine Soft.upd ?_ rfl rfl rfl rfl rfl rfl rfl rfl rfl rfl rfl rfl rfl rfl rfl rfl rfl rfl rfl rfl)
    | apply Soft.foldl | apply Soft.foldl2 | apply Soft.snd (by assumption) | split | dsimp only [id] | intro _ _ _

theorem csrApertureRead_soft {x0 x1} (h : Soft s0 s) : Soft s0 (csrApertureRead x0 x1 s).2 := by
  unfold csrApertureRead
  try dsimp only
  repeat' with_reducible first
    | assumption | apply csrRead_soft
    | fail_if_no_progress (refine Soft.upd ?_ rfl rfl rfl rfl rfl rfl rfl rfl rfl rfl rfl rfl rfl rfl rfl rfl rfl rfl rfl rfl)
    | apply Soft.foldl | apply Soft.foldl2 | apply Soft.snd (by assumption) | split | dsimp only [id] | intro _ _ _

theorem raiseDiverged_soft {x0 x1} (h : Soft s0 s) : Soft s0 (raiseDiverged x0 x1 s) := by
  unfold raiseDiverged
  try dsimp only
  repeat' with_reducible first
    | assumption | apply freeWord_soft | apply raise_soft
    | fail_if_no_progress (refine Soft.upd ?_ rfl rfl rfl rfl rfl rfl rfl rfl rfl rfl rfl rfl rfl rfl rfl rfl rfl rfl rfl rfl)
    | apply Soft.foldl | apply Soft.foldl2 | apply Soft.snd (by assumption) | split | dsimp only [id] | intro _ _ _

theorem queueRepairTests_soft {x0} (h : Soft s0 s) : Soft s0 (queueRepairTests x0 s) := by
  unfold queueRepairTests
  try dsimp only
  repeat' with_reducible first
    | assumption | apply queueTest_soft
    | fail_if_no_progress (refine Soft.upd ?_ rfl rfl rfl rfl rfl rfl rfl rfl rfl rfl rfl rfl rfl rfl rfl rfl rfl rfl rfl rfl)
    | apply Soft.foldl | apply Soft.foldl2 | apply Soft.snd (by assumption) | split | dsimp only [id] | intro _ _ _

theorem endFetch_soft {x0 x1 x2} (h : Soft s0 s) : Soft s0 (endFetch x0 x1 x2 s).2.2 := by
  unfold endFetch
  try dsimp only
  repeat' with_reducible first
    | assumption | apply tileRead_soft | apply freeBytes_soft
    | fail_if_no_progress (refine Soft.upd ?_ rfl rfl rfl rfl rfl rfl rfl rfl rfl rfl rfl rfl rfl rfl rfl rfl rfl rfl rfl rfl)
    | apply Soft.foldl | apply Soft.foldl2 | apply Soft.snd (by assumption) | split | dsimp only [id] | intro _ _ _

theorem markRequests_soft {x0 x1} (h : Soft s0 s) : Soft s0 (markRequests x0 x1 s) := by
  unfold markRequests
  try dsimp only
  repeat' with_reducible first
    | assumption
    | fail_if_no_progress (refine Soft.upd ?_ rfl rfl rfl rfl rfl rfl rfl rfl rfl rfl rfl rfl rfl rfl rfl rfl rfl rfl rfl rfl)
    | apply Soft.foldl | apply Soft.foldl2 | apply Soft.snd (by assumption) | split | dsimp only [id] | intro _ _ _

theorem gradRead_soft {x0 x1 x2 x3} (h : Soft s0 s) : Soft s0 (gradRead x0 x1 x2 x3 s).2.2 := by
  unfold gradRead
  try dsimp only
  repeat' with_reducible first
    | assumption | apply freeBytes_soft | apply endFetch_soft
    | fail_if_no_progress (refine Soft.upd ?_ rfl rfl rfl rfl rfl rfl rfl rfl rfl rfl rfl rfl rfl rfl rfl rfl rfl rfl rfl rfl)
    | apply Soft.foldl | apply Soft.foldl2 | apply Soft.snd (by assumption) | split | dsimp only [id] | intro _ _ _

theorem freeWords32_soft {x0} (h : Soft s0 s) : Soft s0 (freeWords32 x0 s).2 := by
  unfold freeWords32
  try dsimp only
  repeat' with_reducible first
    | assumption
    | fail_if_no_progress (refine Soft.upd ?_ rfl rfl rfl rfl rfl rfl rfl rfl rfl rfl rfl rfl rfl rfl rfl rfl rfl rfl rfl rfl)
    | apply Soft.foldl | apply Soft.foldl2 | apply Soft.snd (by assumption) | split | dsimp only [id] | intro _ _ _

theorem forwardOn_soft {x0 x1 x2} (h : Soft s0 s) : Soft s0 (forwardOn x0 x1 x2 s) := by
  unfold forwardOn
  try dsimp only
  repeat' with_reducible first
    | assumption | apply tally_soft | apply route_soft
    | fail_if_no_progress (refine Soft.upd ?_ rfl rfl rfl rfl rfl rfl rfl rfl rfl rfl rfl rfl rfl rfl rfl rfl rfl rfl rfl rfl)
    | apply Soft.foldl | apply Soft.foldl2 | apply Soft.snd (by assumption) | split | dsimp only [id] | intro _ _ _

theorem countDuties_soft {x0} (h : Soft s0 s) : Soft s0 (countDuties x0 s) := by
  unfold countDuties
  try dsimp only
  repeat' with_reducible first
    | assumption | apply tally_soft
    | fail_if_no_progress (refine Soft.upd ?_ rfl rfl rfl rfl rfl rfl rfl rfl rfl rfl rfl rfl rfl rfl rfl rfl rfl rfl rfl rfl)
    | apply Soft.foldl | apply Soft.foldl2 | apply Soft.snd (by assumption) | split | dsimp only [id] | intro _ _ _

theorem stompEgress_soft {x0} (h : Soft s0 s) : Soft s0 (stompEgress x0 s) := by
  unfold stompEgress
  try dsimp only
  repeat' with_reducible first
    | assumption | apply sendStomped_soft
    | fail_if_no_progress (refine Soft.upd ?_ rfl rfl rfl rfl rfl rfl rfl rfl rfl rfl rfl rfl rfl rfl rfl rfl rfl rfl rfl rfl)
    | apply Soft.foldl | apply Soft.foldl2 | apply Soft.snd (by assumption) | split | dsimp only [id] | intro _ _ _

theorem sysValue_soft {x0 x1} (h : Soft s0 s) : Soft s0 (sysValue x0 x1 s).2 := by
  unfold sysValue
  try dsimp only
  repeat' with_reducible first
    | assumption | apply freeWord_soft
    | fail_if_no_progress (refine Soft.upd ?_ rfl rfl rfl rfl rfl rfl rfl rfl rfl rfl rfl rfl rfl rfl rfl rfl rfl rfl rfl rfl)
    | apply Soft.foldl | apply Soft.foldl2 | apply Soft.snd (by assumption) | split | dsimp only [id] | intro _ _ _

theorem stridedLanes_soft {x0 x1 x2 x3} (h : Soft s0 s) : Soft s0 (stridedLanes x0 x1 x2 x3 s).2 := by
  induction x3 generalizing s x0 x1 x2 with
  | nil =>
    unfold stridedLanes
    try dsimp only
    repeat' with_reducible first
      | assumption | apply tileRead_soft
      | fail_if_no_progress (refine Soft.upd ?_ rfl rfl rfl rfl rfl rfl rfl rfl rfl rfl rfl rfl rfl rfl rfl rfl rfl rfl rfl rfl)
      | apply Soft.foldl | apply Soft.foldl2 | apply Soft.snd (by assumption) | split | dsimp only [id] | intro _ _ _
  | cons _ _ ih =>
    unfold stridedLanes
    try dsimp only
    repeat' with_reducible first
      | assumption | apply ih | apply tileRead_soft
      | fail_if_no_progress (refine Soft.upd ?_ rfl rfl rfl rfl rfl rfl rfl rfl rfl rfl rfl rfl rfl rfl rfl rfl rfl rfl rfl rfl)
      | apply Soft.foldl | apply Soft.foldl2 | apply Soft.snd (by assumption) | split | dsimp only [id] | intro _ _ _

theorem wrapRead_soft {x0 x1 x2} (h : Soft s0 s) : Soft s0 (wrapRead x0 x1 x2 s).2 := by
  unfold wrapRead
  try dsimp only
  repeat' with_reducible first
    | assumption | apply tileRead_soft
    | fail_if_no_progress (refine Soft.upd ?_ rfl rfl rfl rfl rfl rfl rfl rfl rfl rfl rfl rfl rfl rfl rfl rfl rfl rfl rfl rfl)
    | apply Soft.foldl | apply Soft.foldl2 | apply Soft.snd (by assumption) | split | dsimp only [id] | intro _ _ _

theorem unitLanes_soft {x0 x1 x2} (h : Soft s0 s) : Soft s0 (unitLanes x0 x1 x2 s).2 := by
  unfold unitLanes
  try dsimp only
  repeat' with_reducible first
    | assumption | apply wrapRead_soft
    | fail_if_no_progress (refine Soft.upd ?_ rfl rfl rfl rfl rfl rfl rfl rfl rfl rfl rfl rfl rfl rfl rfl rfl rfl rfl rfl rfl)
    | apply Soft.foldl | apply Soft.foldl2 | apply Soft.snd (by assumption) | split | dsimp only [id] | intro _ _ _

end Sys2Proof.Machine
end

