-- ==== Sys2Proof/Laws/Receive.lean ====
section
/-! SUPPORT. Receiving a carriage that is next in order. -/

namespace Sys2Proof.Machine

variable {s : State} {rx : Rx} {now : Nat} {b : Body}

theorem InOrder.header (h : InOrder s rx) : (rxHeader rx (atTime now s)).1 = true := by
  have e : getLink (atTime now s) rx.li = getLink s rx.li := rfl
  simp [rxHeader, e, h.up, h.seq]

/-- The carriage's effect, on the state with its header taken; then what waits on the link goes. -/
theorem InOrder.delivers (h : InOrder s rx) (f : State → State) :
    deliverRx now rx b f s = pump rx.li (f (received now rx b s)) := by
  have e := h.header (now := now)
  unfold deliverRx received
  generalize rxHeader rx (atTime now s) = x at e ⊢
  obtain ⟨ok, t⟩ := x
  simp only at e
  simp [e]

/-- Receiving changes the links alone. -/
theorem received_soft : Soft s (received now rx b s) := freeBuffer_soft (rxHeader_soft (atTime_soft Soft.refl))

theorem pump_is_soft (li : Nat) (t : State) : Soft t (pump li t) := pump_soft Soft.refl

end Sys2Proof.Machine
end

