-- ==== Sys2Proof/Machine/HostCores.lean ====
section
/-! DEFINITION. Accesses of the host cores (R14, R15, R312, R320, R323). The opcode table has no row for them, so no command runs
them (log 71); they say what such an access does. The host caches are coherent, so a load sees what memory holds. -/

namespace Sys2Proof.Machine

/-- A load of n bytes by a host core: the data, or an access fault where the address decodes to an error or a line is poisoned. -/
def coreLoad (core a n : Nat) (s : State) : State :=
  if windowCsr a n then
    if csrServed s (a - csrBase) then
      let (b, s) := csrRead (a - csrBase) n s
      emit (.coreData core b) s
    else coreFault core a s
  else if !devOk s.mm a n || (poisonIn s.mm a n).isSome then coreFault core a s
  else emit (.coreData core (memRead s.mm a n)) s

/-- A store by a host core: to a CSR page, to memory, or an access fault. A line of a fenced pseudo-channel faults too (R320). -/
def coreStore (now core a : Nat) (bs : List Byte) (s : State) : State :=
  if windowCsr a bs.length then
    if csrServed s (a - csrBase) then csrWrite now (a - csrBase) bs.length (leNat bs) s else coreFault core a s
  else if !devOk s.mm a bs.length || (linesOf a bs.length).any (lineFenced s.mm) then coreFault core a s
  else { s with mm := memWrite s.mm a bs }

end Sys2Proof.Machine
end

