-- ==== Sys2Proof/Tests/Slice0.lean ====
section
/-! SUPPORT. Tests: the WellFormed smoke, decoding, small steps, and for each statement states and operands that meet its
hypotheses, clause by clause. -/

namespace Sys2Proof.Tests
open Sys2Proof Sys2Proof.Machine

set_option Elab.async false

/-! ## A tile that issues -/

/-- An instruction's fields, all zero where not given. -/
def fields (d a b c imm : Nat) : Fields :=
  { d := BitVec.ofNat 6 d, a := BitVec.ofNat 6 a, b := BitVec.ofNat 6 b, c := BitVec.ofNat 6 c, imm := BitVec.ofNat 32 imm }

def zeroFields : Fields := fields 0 0 0 0 0

/-- A tile with one instruction at 0 and nops at 8 and 0x10. -/
def oneTile (op : Nat) (f : Fields) : Tile :=
  { imem := [(0, encodeWord op f), (1, encodeWord 0xE1 zeroFields), (2, encodeWord 0xE1 zeroFields)], issuing := true }

/-- The module with that tile, changed by `g`, as logical and physical tile 0. -/
def tileIn (s : State) (op : Nat) (f : Fields) (g : Tile → Tile) : State :=
  { s with tiles := { tile := [(0, g (oneTile op f))], map := [(0, 0)] } }

def withTile (op : Nat) (f : Fields) (g : Tile → Tile) : State := tileIn State.reset op f g

def onTile (op : Nat) (f : Fields) : State := withTile op f fun t => t

/-- A change of the tile that leaves its program where it is. -/
structure KeepsProgram (g : Tile → Tile) : Prop where
  imem : ∀ t, (g t).imem = t.imem
  pc : ∀ t, (g t).pc = t.pc
  issuing : ∀ t, (g t).issuing = t.issuing
  trap : ∀ t, (g t).trap = t.trap
  blocked : ∀ t, (g t).blocked = t.blocked

theorem issues_tileIn (s : State) (op : Nat) (f : Fields) (g : Tile → Tile) (k : KeepsProgram g) {l : Bool} (h : l = true) :
    Issues (tileIn s op f g) 0 op f l := by
  have e : getTile (tileIn s op f g) 0 = g (oneTile op f) := rfl
  refine ⟨by decide, ?_, ?_, ?_, h⟩
  · simp only [canIssue, e, k.issuing, k.trap, k.blocked]; rfl
  · rw [e, k.pc]; show (0 : Nat) < imemBytes; decide
  · simp [fetchWord, e, k.imem, k.pc, oneTile, tabGet]

theorem nop_listed (op : Nat) (f : Fields) (i : Nat) (h : i = 1 ∨ i = 2) :
    listedOpcode (opcodeOf (tabGet 0 (oneTile op f).imem i)) = true := by
  have e : tabGet 0 (oneTile op f).imem i = encodeWord 0xE1 zeroFields := by rcases h with h | h <;> simp [h, oneTile, tabGet]
  rw [e]; decide +kernel

theorem goesOn_tileIn (s : State) (op : Nat) (f : Fields) (g : Tile → Tile) (k : KeepsProgram g) : GoesOn (tileIn s op f g) 0 := by
  have e : getTile (tileIn s op f g) 0 = g (oneTile op f) := rfl
  refine ⟨?_, ?_⟩
  · rw [e, k.pc]; show (8 : Nat) < imemBytes; decide
  · have h : ((oneTile op f).pc + 8) / 8 = 1 := by simp [oneTile]
    simp only [e, k.imem, k.pc, h]; exact nop_listed op f 1 (.inl rfl)

theorem keeps_id : KeepsProgram fun t => t := ⟨fun _ => rfl, fun _ => rfl, fun _ => rfl, fun _ => rfl, fun _ => rfl⟩

theorem issues_onTile (op : Nat) (f : Fields) {l : Bool} (h : l = true) : Issues (onTile op f) 0 op f l :=
  issues_tileIn _ op f _ keeps_id h

theorem goesOn_onTile (op : Nat) (f : Fields) : GoesOn (onTile op f) 0 := goesOn_tileIn _ op f _ keeps_id

/-! ## Trelet instructions: states that meet the hypotheses of each statement -/

theorem witness_ReservedEncodingsTrap : ∀ e ∈ treletOps, ∃ f : Fields, (!e.legal f) = true ∧ Issues (onTile e.code f) 0 e.code f (!e.legal f) := by
  have h : treletOps.all (fun e => !e.legal (fields 63 63 63 63 0xFFFFFFFF)) = true := by decide +kernel
  intro e he
  have k := (List.all_eq_true.mp h) e he
  exact ⟨_, k, issues_onTile _ _ k⟩

theorem witness_TrapStopsTheTile :
    (getTile State.reset 0).trap = none ∧ startedOp State.reset 3 = none ∧
      (getTile (trapAs 0 11 20 0 0xE3 0 [] State.reset) 0).trap.isSome = true ∧
      startedOp (trapAs 0 11 20 0 0xE3 0 [] State.reset) 3 = none := by decide +kernel

theorem witness_RegisterOperations : ∀ e ∈ scalarOps ++ registerOps, ∃ f : Fields,
    Issues (onTile e.code f) 0 e.code f (e.legal f) ∧ GoesOn (onTile e.code f) 0 := by
  have h : (scalarOps ++ registerOps).all (fun e => e.legal zeroFields || e.legal (fields 33 32 39 0 0)) = true := by decide +kernel
  intro e he
  rcases Bool.or_eq_true_iff.mp ((List.all_eq_true.mp h) e he) with k | k
  · exact ⟨_, issues_onTile _ _ k, goesOn_onTile _ _⟩
  · exact ⟨_, issues_onTile _ _ k, goesOn_onTile _ _⟩

/-- Clauses of ld and st at the highest address, with base and offset. -/
theorem witness_ScalarLoadStore :
    (0x1FFFF8 : Nat) = (readS (getTile (onTile 0x1D (fields 1 0 0 0 0x1FFFF8)) 0) 0 + (0x1FFFF8 : Word32).signExtend 64).toNat ∧
      Issues (onTile 0x1D (fields 1 0 0 0 0x1FFFF8)) 0 0x1D (fields 1 0 0 0 0x1FFFF8) (okRRI (fields 1 0 0 0 0x1FFFF8)) ∧
      rgnUnseen (getTile (onTile 0x1D (fields 1 0 0 0 0x1FFFF8)) 0) (rgnOne 0x1FFFF8 8) = false ∧
      GoesOn (onTile 0x1D (fields 1 0 0 0 0x1FFFF8)) 0 ∧
      Issues (onTile 0x1E (fields 0 0 1 0 0x1FFFF8)) 0 0x1E (fields 0 0 1 0 0x1FFFF8) (okStore (fields 0 0 1 0 0x1FFFF8)) :=
  ⟨by decide +kernel, issues_onTile _ _ (by decide +kernel), by decide +kernel, goesOn_onTile _ _, issues_onTile _ _ (by decide +kernel)⟩

/-- The same two at an odd address and at the end of tile memory. -/
theorem witness_ScalarAddressTraps :
    (∀ op imm, okRRI (fields 1 0 0 0 imm) = true → Issues (onTile op (fields 1 0 0 0 imm)) 0 op (fields 1 0 0 0 imm) (okRRI (fields 1 0 0 0 imm))) ∧
      okRRI (fields 1 0 0 0 1) = true ∧ (readS (getTile (onTile 0x1D (fields 1 0 0 0 1)) 0) 0 + (1 : Word32).signExtend 64).toNat = 1 ∧
      okRRI (fields 1 0 0 0 0x200000) = true ∧
      (readS (getTile (onTile 0x1D (fields 1 0 0 0 0x200000)) 0) 0 + (0x200000 : Word32).signExtend 64).toNat = 0x200000 ∧
      Issues (onTile 0x1E (fields 0 0 1 0 1)) 0 0x1E (fields 0 0 1 0 1) (okStore (fields 0 0 1 0 1)) ∧
      Issues (onTile 0x1E (fields 0 0 1 0 0x200000)) 0 0x1E (fields 0 0 1 0 0x200000) (okStore (fields 0 0 1 0 0x200000)) :=
  ⟨fun _ _ h => issues_onTile _ _ h, by decide +kernel, by decide +kernel, by decide +kernel, by decide +kernel,
    issues_onTile _ _ (by decide +kernel), issues_onTile _ _ (by decide +kernel)⟩

/-- Branches to 0x10, and jr to the address in a register. -/
def jrTile (a : Word64) : State := withTile 0x29 (fields 0 1 0 0 0) fun t => { t with sreg := [(1, a)] }

theorem keeps_sreg (r : Tab Word64) : KeepsProgram fun t => { t with sreg := r } :=
  ⟨fun _ => rfl, fun _ => rfl, fun _ => rfl, fun _ => rfl, fun _ => rfl⟩

theorem listed_onTile (op : Nat) (f : Fields) : ListedAt (onTile op f) 0 0x10 := ⟨by decide, nop_listed op f 2 (.inr rfl)⟩

theorem witness_Branches :
    (∀ e ∈ branchOps, Issues (onTile e.code (fields 0 1 2 0 0x10)) 0 e.code (fields 0 1 2 0 0x10) (okBranch (fields 0 1 2 0 0x10)) ∧
      ListedAt (onTile e.code (fields 0 1 2 0 0x10)) 0 0x10 ∧ GoesOn (onTile e.code (fields 0 1 2 0 0x10)) 0) ∧
    Issues (onTile 0x21 (fields 0 0 0 0 0x10)) 0 0x21 (fields 0 0 0 0 0x10) (okJmp (fields 0 0 0 0 0x10)) ∧
    Issues (onTile 0x28 (fields 1 0 0 0 0x10)) 0 0x28 (fields 1 0 0 0 0x10) (okJal (fields 1 0 0 0 0x10)) ∧
    (∀ a, Issues (jrTile a) 0 0x29 (fields 0 1 0 0 0) (okJr (fields 0 1 0 0 0))) ∧
    (readS (getTile (jrTile 0x10) 0) 1).toNat = 0x10 ∧ ListedAt (jrTile 0x10) 0 0x10 ∧
    (readS (getTile (jrTile 0x14) 0) 1).toNat % 8 ≠ 0 :=
  ⟨fun _ _ => ⟨issues_onTile _ _ (by decide +kernel), listed_onTile _ _, goesOn_onTile _ _⟩, issues_onTile _ _ (by decide +kernel),
    issues_onTile _ _ (by decide +kernel), fun a => issues_tileIn _ _ _ _ (keeps_sreg _) (by decide +kernel), by decide +kernel,
    ⟨by decide, nop_listed _ _ 2 (.inr rfl)⟩, by decide +kernel⟩

theorem witness_SystemInstructions :
    Issues (onTile 0xE1 zeroFields) 0 0xE1 zeroFields (okNop zeroFields) ∧ GoesOn (onTile 0xE2 (fields 1 0 0 0 0)) 0 ∧
    (∀ c ∈ [0, 1, 2, 6], Issues (onTile 0xE2 (fields 1 0 0 0 c)) 0 0xE2 (fields 1 0 0 0 c) (okSysrd (fields 1 0 0 0 c)) ∧
      (systemValue (onTile 0xE2 (fields 1 0 0 0 c)) 0 c).isSome = true) ∧
    (∀ c ∈ [3, 4, 5], Issues (onTile 0xE2 (fields 1 0 0 0 c)) 0 0xE2 (fields 1 0 0 0 c) (okSysrd (fields 1 0 0 0 c)) ∧
      systemValue (onTile 0xE2 (fields 1 0 0 0 c)) 0 c = none) ∧
    Issues (onTile 0xE2 (fields 1 0 0 0 7)) 0 0xE2 (fields 1 0 0 0 7) true ∧
    Issues (onTile 0xE3 (fields 0 0 0 0 0xFFFFFFFF)) 0 0xE3 (fields 0 0 0 0 0xFFFFFFFF) (okTrap (fields 0 0 0 0 0xFFFFFFFF)) := by
  refine ⟨issues_onTile _ _ (by decide +kernel), goesOn_onTile _ _, fun c h => ⟨issues_onTile _ _ ?_, ?_⟩,
    fun c h => ⟨issues_onTile _ _ ?_, ?_⟩, issues_onTile _ _ rfl, issues_onTile _ _ (by decide +kernel)⟩
  · revert c; decide +kernel
  · revert c; decide +kernel
  · revert c; decide +kernel
  · revert c; decide +kernel

theorem witness_VectorElementwise : ∀ e ∈ vecOps, ∃ f : Fields, Issues (onTile e.code f) 0 e.code f (e.legal f) := by
  have h : vecOps.all (fun e => e.legal zeroFields || e.legal (fields 0 0 0 39 0) || e.legal (fields 1 2 3 0 (3 * 2 ^ 26))) = true := by
    decide +kernel
  intro e he
  rcases Bool.or_eq_true_iff.mp ((List.all_eq_true.mp h) e he) with k | k
  · rcases Bool.or_eq_true_iff.mp k with k | k
    · exact ⟨_, issues_onTile _ _ k⟩
    · exact ⟨_, issues_onTile _ _ k⟩
  · exact ⟨_, issues_onTile _ _ k⟩

theorem witness_VectorRetires : vTap zeroFields = false ∧ nansOf [(0, { code := 1 })] = [] := by decide +kernel

theorem witness_LanesRead : ∀ v ≤ 5, ∃ cs : List Nat, cs.length = viewLanes v ∧ ∀ c ∈ cs, c < 2 ^ viewBits v := by
  intro v hv
  refine ⟨List.replicate (viewLanes v) (2 ^ viewBits v - 1), by simp, fun c h => ?_⟩
  rw [(List.mem_replicate.mp h).2]
  exact Nat.sub_lt (Nat.two_pow_pos _) Nat.one_pos

theorem witness_Compares : ∀ e ∈ compareOps, Issues (onTile e.code (fields 39 1 2 0 0)) 0 e.code (fields 39 1 2 0 0) (okVcmp (fields 39 1 2 0 0)) ∧
    GoesOn (onTile e.code (fields 39 1 2 0 0)) 0 :=
  fun _ _ => ⟨issues_onTile _ _ (by decide +kernel), goesOn_onTile _ _⟩

/-- sA at the end of tile memory, or past it. -/
def vecTile (op : Nat) (f : Fields) (a : Word64) : State := withTile op f fun t => { t with sreg := [(1, a)] }

theorem witness_VectorMemory :
    (∀ op a, Issues (vecTile op (fields 0 1 0 0 0) a) 0 op (fields 0 1 0 0 0) (okVld (fields 0 1 0 0 0))) ∧
    (∀ a m, okVst (fields 0 1 0 0 (m * 2 ^ 20)) = true →
      Issues (vecTile 0x42 (fields 0 1 0 0 (m * 2 ^ 20)) a) 0 0x42 (fields 0 1 0 0 (m * 2 ^ 20)) (okVst (fields 0 1 0 0 (m * 2 ^ 20)))) ∧
    okVst (fields 0 1 0 0 0) = true ∧ okVst (fields 0 1 0 0 (3 * 2 ^ 20)) = true ∧
    (∀ op ∈ [0x41, 0x42], vecFault (getTile (vecTile op (fields 0 1 0 0 0) 0x1FFF00) 0) (fields 0 1 0 0 0) = none ∧
      (vecFault (getTile (vecTile op (fields 0 1 0 0 0) 0x1FFF04) 0) (fields 0 1 0 0 0)).isSome = true) ∧
    ownFormat (vView (fields 0 1 0 0 0)) (vMfmt (fields 0 1 0 0 0)) = true ∧
    vecFault (getTile (vecTile 0x42 (fields 0 1 0 0 (3 * 2 ^ 20)) 0) 0) (fields 0 1 0 0 (3 * 2 ^ 20)) = none ∧
    ownFormat (vView (fields 0 1 0 0 (3 * 2 ^ 20))) (vMfmt (fields 0 1 0 0 (3 * 2 ^ 20))) = false ∧
    Issues (onTile 0x55 (fields 0 1 0 0 (2 ^ 26))) 0 0x55 (fields 0 1 0 0 (2 ^ 26)) (okVcvt (fields 0 1 0 0 (2 ^ 26))) :=
  ⟨fun _ _ => issues_tileIn _ _ _ _ (keeps_sreg _) (by decide +kernel), fun _ _ h => issues_tileIn _ _ _ _ (keeps_sreg _) h,
    by decide +kernel, by decide +kernel, by decide +kernel, by decide +kernel, by decide +kernel, by decide +kernel,
    issues_onTile _ _ (by decide +kernel)⟩

theorem witness_Reductions :
    (∀ e ∈ laneTrees, Issues (onTile e.code zeroFields) 0 e.code zeroFields (okVred zeroFields)) ∧
      Issues (onTile 0x65 zeroFields) 0 0x65 zeroFields (okRread zeroFields) :=
  ⟨fun _ _ => issues_onTile _ _ (by decide +kernel), issues_onTile _ _ (by decide +kernel)⟩

theorem witness_TreeIsBalanced : [1, 2].length = 2 ^ 1 ∧ [3, 4].length = 2 ^ 1 := by decide

/-! ## Waiting instructions -/

/-- An empty drover transfer and an engine instruction, with token 0. -/
def someMove : MoveEnt :=
  { order := 0, op := .copy (.own 0) (.own 64) 1 4 0 0, tok := some 0, addr := 0, opcode := 0xA1, tick := 0, leg := 0, step := 0
    reads := [], writes := [] }

def someMma : EngEnt :=
  { order := 0, acc := 0, op := .mma true 0 0 1 0 128 0 128, tok := some 0, addr := 0, opcode := 0x82, reads := [], writes := [] }

def someDrain : EngEnt :=
  { order := 0, acc := 0, op := .drain 0 128 0 0 0 0 0 false 0 0, tok := none, addr := 0, opcode := 0x83, reads := [], writes := [] }

def tileZero : USet := { tiles := 1, mds := 0, lgs := 0, io := 0 }

/-- An open occurrence of leg 0 of tick 0 whose unit set is `u`. -/
def openOcc (kind : Nat) (u : USet) : LegOcc :=
  { leg := 0, tick := 0, step := 0, attempt := 0, kind, cls := 0, startAt := 0, deadline := 5000, uset := u }

def inLeg (u : USet) : State := { State.reset with run := { legs := [openOcc 1 u] } }

def hurdleIn (scope : Nat) : State :=
  { State.reset with job := { header := { hurdles := [{ scope, mask := 0 }] } } }

def legWait : Fields := fields 1 0 0 0 0

theorem keeps_moves (m : List MoveEnt) : KeepsProgram fun t => { t with moves := m } :=
  ⟨fun _ => rfl, fun _ => rfl, fun _ => rfl, fun _ => rfl, fun _ => rfl⟩

theorem witness_Waits_wait_tok :
    Issues (withTile 0x2A (fields 0 0 0 0 1) fun t => { t with moves := [someMove] }) 0 0x2A (fields 0 0 0 0 1) (okWaitTok (fields 0 0 0 0 1)) ∧
      (maskTokens (fields 0 0 0 0 1)).any (tokBusy (getTile (withTile 0x2A (fields 0 0 0 0 1) fun t => { t with moves := [someMove] }) 0)) = true ∧
      Issues (onTile 0x2A (fields 0 0 0 0 0xFFFF)) 0 0x2A (fields 0 0 0 0 0xFFFF) (okWaitTok (fields 0 0 0 0 0xFFFF)) ∧
      (maskTokens (fields 0 0 0 0 0xFFFF)).any (tokBusy (getTile (onTile 0x2A (fields 0 0 0 0 0xFFFF)) 0)) = false ∧
      GoesOn (onTile 0x2A (fields 0 0 0 0 0xFFFF)) 0 :=
  ⟨issues_tileIn _ _ _ _ (keeps_moves _) (by decide +kernel), by decide +kernel, issues_onTile _ _ (by decide +kernel), by decide +kernel,
    goesOn_onTile _ _⟩

/-- The leg starts in the next tick; it is open with the tile in its unit set; it is open without it. -/
theorem witness_Waits_wait_leg :
    (∀ s : State, Issues (tileIn s 0x2B legWait fun t => t) 0 0x2B legWait (okWaitLeg legWait) ∧ GoesOn (tileIn s 0x2B legWait fun t => t) 0) ∧
      targetTick (atTime 5 (tileIn { State.reset with start := { firstTick := 1 } } 0x2B legWait fun t => t))
        (getTile (tileIn { State.reset with start := { firstTick := 1 } } 0x2B legWait fun t => t) 0) 0 = 1 ∧
      (∀ u ∈ [tileZero, { tileZero with tiles := 2 }],
        targetTick (atTime 5 (tileIn (inLeg u) 0x2B legWait fun t => t)) (getTile (tileIn (inLeg u) 0x2B legWait fun t => t) 0) 0 = 0 ∧
        isMoving (tileIn (inLeg u) 0x2B legWait fun t => t) 0 = false ∧
        legOcc (tileIn (inLeg u) 0x2B legWait fun t => t) 0 0 = some (openOcc 1 u)) ∧
      (logicalOf (tileIn (inLeg tileZero) 0x2B legWait fun t => t) 0).getD 0xFF = 0 ∧
      tileZero.tiles.getLsbD 0 = true ∧ ({ tileZero with tiles := 2 } : USet).tiles.getLsbD 0 = false :=
  ⟨fun _ => ⟨issues_tileIn _ _ _ _ keeps_id (by decide +kernel), goesOn_tileIn _ _ _ _ keeps_id⟩, by decide +kernel, by decide +kernel,
    by decide +kernel, by decide +kernel, by decide +kernel⟩

theorem witness_Waits_hurdle :
    (∀ n m, okHurdle zeroFields = true ∧
      Issues (tileIn (hurdleIn n) 0x2C zeroFields fun t => { t with moves := m }) 0 0x2C zeroFields (okHurdle zeroFields)) ∧
      outstanding (getTile (tileIn (hurdleIn 3) 0x2C zeroFields fun t => { t with moves := [someMove] }) 0) = true ∧
      outstanding (getTile (tileIn (hurdleIn 3) 0x2C zeroFields fun t => { t with moves := [] }) 0) = false ∧
      0 ∈ participants (tileIn (hurdleIn 3) 0x2C zeroFields fun t => { t with moves := [] }) { scope := 3, mask := 0 } 4 ∧
      0 ∉ participants (tileIn (hurdleIn 1) 0x2C zeroFields fun t => { t with moves := [] }) { scope := 1, mask := 0 } 4 ∧
      hurdleEnt (tileIn (hurdleIn 3) 0x2C zeroFields fun t => { t with moves := [] }) 0 = { scope := 3, mask := 0 } :=
  ⟨fun _ _ => ⟨by decide +kernel, issues_tileIn _ _ _ _ (keeps_moves _) (by decide +kernel)⟩, by decide +kernel, by decide +kernel,
    by decide +kernel, by decide +kernel, by decide +kernel⟩

theorem witness_Waits_release :
    (getHurdle (setHurdle 63 4 { releaseAt := some 7 } State.reset) 63 4).releaseAt = some 7 ∧
      tabFind (getTile (withTile 0xE1 zeroFields fun t => { t with stagger := [(15, 13)], engines := [(15, [someMma])] }) 0).stagger 15 = some 13 ∧
      (tabGet [] (getTile (withTile 0xE1 zeroFields fun t => { t with stagger := [(15, 13)], engines := [(15, [someMma])] }) 0).engines 15).isEmpty =
        false := by decide +kernel

/-! ## Matrix instructions -/

/-- s1 holds a descriptor with base 0x40 and stride `w`, s2 one with base 0 and stride 8,192. -/
def matTile (op : Nat) (f : Fields) (w : Nat) : State := withTile op f fun t =>
  { t with sreg := [(1, BitVec.ofNat 64 (0x40 + w * 2 ^ 32)), (2, BitVec.ofNat 64 (8192 * 2 ^ 32))] }

def fullEngine : Tile → Tile := fun t => { t with engines := [(0, [someMma, someMma, someMma, someMma])] }

theorem keeps_fullEngine : KeepsProgram fullEngine := ⟨fun _ => rfl, fun _ => rfl, fun _ => rfl, fun _ => rfl, fun _ => rfl⟩

def mmaF : Fields := fields 0 1 2 0 (127 * 2 ^ 8 + 2 * 2 ^ 4 + 2)
def drainF : Fields := fields 0 1 0 0 0
def fuseF : Fields := fields 0 1 2 0 (2 ^ 13)

theorem witness_MatrixIssue :
    (∀ op w, Issues (matTile op mmaF w) 0 op mmaF (okMma mmaF) ∧ Issues (withTile op mmaF fullEngine) 0 op mmaF (okMma mmaF)) ∧
      engineStall (getTile (withTile 0x81 mmaF fullEngine) 0) mmaF = true ∧
      engineStall (getTile (matTile 0x82 mmaF 8192) 0) mmaF = false ∧
      descFault (readS (getTile (matTile 0x82 mmaF 8192) 0) 1) (storedBytes 2 4096) = none ∧
      (descFault (readS (getTile (matTile 0x82 mmaF 64) 0) 1) (storedBytes 2 4096)).isSome = true ∧
      descFault (readS (getTile (matTile 0x82 mmaF 64) 0) 2) (storedBytes 2 4096) = none ∧
      (∀ w, Issues (matTile 0x83 drainF w) 0 0x83 drainF (okDrain drainF) ∧ Issues (matTile 0x83 fuseF w) 0 0x83 fuseF (okDrain fuseF)) ∧
      engineStall (getTile (matTile 0x83 fuseF 128) 0) fuseF = false ∧
      descFault (readS (getTile (matTile 0x83 fuseF 128) 0) 1) (storedBytes 0 32) = none ∧
      descFault (readS (getTile (matTile 0x83 fuseF 128) 0) 2) (storedBytes 0 32) = none ∧ immF drainF 13 2 = 0 ∧ immF fuseF 13 2 ≠ 0 ∧
      (descFault (readS (getTile (matTile 0x83 drainF 64) 0) 1) (storedBytes 0 32)).isSome = true :=
  ⟨fun _ _ => ⟨issues_tileIn _ _ _ _ (keeps_sreg _) (by decide +kernel), issues_tileIn _ _ _ _ keeps_fullEngine (by decide +kernel)⟩,
    by decide +kernel, by decide +kernel, by decide +kernel, by decide +kernel, by decide +kernel,
    fun _ => ⟨issues_tileIn _ _ _ _ (keeps_sreg _) (by decide +kernel), issues_tileIn _ _ _ _ (keeps_sreg _) (by decide +kernel)⟩,
    by decide +kernel, by decide +kernel, by decide +kernel, by decide +kernel, by decide +kernel, by decide +kernel⟩

theorem witness_MatrixCompletes :
    engineHead (withTile 0xE1 zeroFields fun t => { t with engines := [(15, [someMma])] }) 0 15 = some someMma ∧
      engineHead (withTile 0xE1 zeroFields fun t => { t with engines := [(15, [someDrain])] }) 0 15 = some someDrain ∧
      someMma.dirty = false ∧ startedOp (withTile 0xE1 zeroFields fun t => { t with engines := [(15, [someMma])] }) 3 = none := by
  decide +kernel

/-! ## Drover and embedding instructions -/

def someDesc : Desc :=
  { raw := [], mode := 0, width := 4, wFormat := 0, states := [], poolMode := 0, outFormat := 0, gradExp := 0, flock := 0
    promoteAt := 0, rowCount := 8, indexLimit := 8, hashA := 0, hashB := 0, compM := 0, compQ := 0, compR := 0, combine := 0, sLog2 := 0
    ownerMap := 0, foldA := [0, 0, 0, 0], foldB := [0, 0, 0, 0], localRows := [8, 0, 0, 0], paddock := [0, 0, 0, 0] }

def someTable : Table := { desc := someDesc, current := 0 }

def someTensor : Tensor :=
  { num := 0, wFormat := 0, flock := 0, gradFormat := 0, shear := 0, shearK := 0, elements := 1024, wBase := 0, residBase := 0
    stateBase := 0, treeSet := 0, partialFormat := 0 }

def someTree : TreeSet := { shards := [(0, 1)], nodes := [{ chip := 0, lg := 0, parent := none, children := [.leaf 0] }] }

def legTag (kind : Nat) : LegTag := { tick := 0, leg := 0, kind, step := 0, startAt := 0, abandoned := false }

/-- A module that knows table 0, tensor 0 with one tree, and one model. -/
def withPlan : State :=
  { State.reset with
    tb := { tables := [(0, someTable)] }
    job := { state := 1, header := { models := [{ featBytes := 64, maxIndices := 1, outCount := 1, outFormat := 0, entry := 0 }] }
             exchange := { chips := 1, tensors := [someTensor], trees := [someTree] } } }

/-- s1 holds the shape of `rows` rows of `n` bytes, s2 the destination. -/
def moveF : Fields := fields 1 0 2 0 0

def moveTile : Tile → Tile := fun t => { t with sreg := [(1, BitVec.ofNat 64 (4 + 2 ^ 32)), (2, 64)] }

theorem keeps_moveTile : KeepsProgram moveTile := ⟨fun _ => rfl, fun _ => rfl, fun _ => rfl, fun _ => rfl, fun _ => rfl⟩

theorem witness_DroverMoves_dmv :
    Issues (withTile 0xA1 moveF moveTile) 0 0xA1 moveF (okDmv moveF) ∧
      tagFields (getTile (withTile 0xA1 moveF moveTile) 0) = (0, 0, 0) ∧ moveStall (getTile (withTile 0xA1 moveF moveTile) 0) moveF = false ∧
      dmvLegal (dmvArgs (getTile (withTile 0xA1 moveF moveTile) 0) moveF) = true ∧
      endOf (withTile 0xA1 moveF moveTile) 0 0 0 0 2 4 false = (none, .own 0) ∧
      endOf (withTile 0xA1 moveF moveTile) 0 0 64 0 2 4 true = (none, .own 64) :=
  ⟨issues_tileIn _ _ _ _ keeps_moveTile (by decide +kernel), by decide +kernel, by decide +kernel, by decide +kernel, by decide +kernel,
    by decide +kernel⟩

/-- s3 = 1: one group of 4 KiB, from group 0, at 0. -/
def tagTile (g : LegTag) : Tile → Tile := fun t => { t with sreg := [(3, 1)], tag := some g }

theorem keeps_tagTile (g : LegTag) : KeepsProgram (tagTile g) := ⟨fun _ => rfl, fun _ => rfl, fun _ => rfl, fun _ => rfl, fun _ => rfl⟩

def denseF : Fields := fields 0 0 0 3 0

theorem witness_DroverMoves_dense :
    (∀ g, Issues (tileIn withPlan 0xA2 denseF (tagTile g)) 0 0xA2 denseF (okDense denseF) ∧
      (getTile (tileIn withPlan 0xA2 denseF (tagTile g)) 0).tag = some g ∧
      tensorOf (tileIn withPlan 0xA2 denseF (tagTile g)) 0 = some someTensor) ∧
      (∀ g ∈ [legTag 4, { legTag 4 with abandoned := true }, { legTag 4 with dropped := true }],
        g.kind = 4 ∧ moveStall (getTile (tileIn withPlan 0xA2 denseF (tagTile g)) 0) denseF = false) ∧
      (readS (getTile (tileIn withPlan 0xA2 denseF (tagTile (legTag 4))) 0) 3).toNat = 1 ∧ groupCount someTensor = 1 ∧
      groupLen someTensor 0 = 1024 ∧ (0, 0) ∉ (returnRun (tileIn withPlan 0xA2 denseF (tagTile (legTag 4))) 0).sent :=
  ⟨fun g => ⟨issues_tileIn _ _ _ _ (keeps_tagTile g) (by decide +kernel), rfl, rfl⟩, by decide +kernel, by decide +kernel, by decide +kernel,
    by decide +kernel, by decide +kernel⟩

def denseMove : MoveEnt := { someMove with op := .dense 0 0 1 0 }

theorem witness_DroverMoves_complete :
    (getTile (withTile 0xE1 zeroFields fun t => { t with moves := [someMove] }) 0).moves[0]? = some someMove ∧
      endReady (withTile 0xE1 zeroFields fun t => { t with moves := [someMove] }) (.own 0) = true ∧
      (getTile (tileIn withPlan 0xE1 zeroFields fun t => { t with moves := [denseMove] }) 0).moves[0]? = some denseMove ∧
      tensorOf (tileIn withPlan 0xE1 zeroFields fun t => { t with moves := [denseMove] }) 0 = some someTensor ∧
      treeSetOf (tileIn withPlan 0xE1 zeroFields fun t => { t with moves := [denseMove] }) someTensor = some someTree ∧
      someTensor.shear = 0 := by decide +kernel

/-- s1 = 1 bag; its two offsets, at 0, are 0. -/
def lookF : Fields := fields 1 0 0 0 0

def lookTile (g : LegTag) : Tile → Tile := fun t => { t with sreg := [(1, 1)], tag := some g }

theorem keeps_lookTile (g : LegTag) : KeepsProgram (lookTile g) := ⟨fun _ => rfl, fun _ => rfl, fun _ => rfl, fun _ => rfl, fun _ => rfl⟩

def lookIn (g : LegTag) : State := tileIn withPlan 0xC1 lookF (lookTile g)

theorem witness_Embedding_look :
    (∀ g, Issues (lookIn g) 0 0xC1 lookF (okLook lookF) ∧ (getTile (lookIn g) 0).tag = some g ∧ getTable (lookIn g) 0 = some someTable) ∧
      (∀ g ∈ [legTag 6, legTag 2, { legTag 2 with abandoned := true }], embStall (getTile (lookIn g) 0) lookF = false ∧
        tabFind (getTile (lookIn g) 0).handles (immF lookF 11 4) = none ∧ operandEnd (lookIn g) false 0 8 false = (none, .own 0) ∧
        operandEnd (lookIn g) false 0 0 false = (none, .own 0)) ∧
      (∀ g, endFetch 0 (.own 0) 8 (lookIn g) = (List.replicate 8 0, none, lookIn g) ∧ endFetch 0 (.own 0) 0 (lookIn g) = ([], none, lookIn g)) ∧
      offsetsOk [0, 0] = true ∧ (readS (getTile (lookIn (legTag 6)) 0) 1).toNat = 1 :=
  ⟨fun g => ⟨issues_tileIn _ _ _ _ (keeps_lookTile g) (by decide +kernel), rfl, rfl⟩, by decide +kernel, fun _ => ⟨rfl, rfl⟩,
    by decide +kernel, by decide +kernel⟩

def someBatch : Batch :=
  { id := 0, tile := 0, die := 0, table := 0, handle := 0, offsets := [0, 0], index := [], unique := [], place := .own 0, tok := none
    serve := false, tick := 0, leg := 0, step := 0, fold := 0, ready := true, written := true }

def someLook : EmbEnt :=
  { order := 0, op := .look 0, step := some 0, tick := 0, tok := none, addr := 0, opcode := 0xC1, reads := [], writes := [] }

def someGrad : EmbEnt := { someLook with op := .grad 0 (.own 0) 0, opcode := 0xC2 }

def withBatch : State := { withPlan with ex := { batches := [someBatch] } }

def gradF : Fields := fields 0 1 0 0 0

def gradTile (g : LegTag) : Tile → Tile := fun t => { t with handles := [(0, 0)], tag := some g }

theorem keeps_gradTile (g : LegTag) : KeepsProgram (gradTile g) := ⟨fun _ => rfl, fun _ => rfl, fun _ => rfl, fun _ => rfl, fun _ => rfl⟩

theorem witness_Embedding_batches :
    ((getTile (tileIn withBatch 0xE1 zeroFields fun t => { t with embs := [someLook] }) 0).embs.findIdx? (fun x => x.op == .look 0) = some 0) ∧
      withBatch.ex.batches.find? (fun b => b.id == 0) = some someBatch ∧ getTable withBatch 0 = some someTable ∧ someBatch.ready = true ∧
      (∀ g, Issues (tileIn withBatch 0xC2 gradF (gradTile g)) 0 0xC2 gradF (okGrad gradF) ∧
        (getTile (tileIn withBatch 0xC2 gradF (gradTile g)) 0).tag = some g ∧
        tabFind (getTile (tileIn withBatch 0xC2 gradF (gradTile g)) 0).handles 0 = some 0) ∧
      (∀ g ∈ [legTag 4, { legTag 4 with dropped := true }], g.kind = 4 ∧ someBatch.step = g.step ∧
        embStall (getTile (tileIn withBatch 0xC2 gradF (gradTile g)) 0) gradF = false ∧
        operandEnd (tileIn withBatch 0xC2 gradF (gradTile g)) false 0
          (gradBytes someDesc 0 (resultCount someDesc 1 (batchSurvivors someBatch))) false = (none, .own 0)) ∧
      someBatch.usedBy = false ∧ someBatch.written = true ∧
      (getTile (tileIn withBatch 0xE1 zeroFields fun t => { t with embs := [someGrad] }) 0).embs[0]? = some someGrad ∧
      (gradRead 0 someGrad (.own 0) 16 (tileIn withBatch 0xE1 zeroFields fun t => { t with embs := [someGrad] })).2.1 = none ∧
      (gradRead 0 someGrad (.dev 0x40) 16 { withBatch with mm := { poison := [1] } }).2.1 = some 0x40 :=
  ⟨by decide +kernel, by decide +kernel, by decide +kernel, by decide +kernel,
    fun g => ⟨issues_tileIn _ _ _ _ (keeps_gradTile g) (by decide +kernel), rfl, rfl⟩, by decide +kernel, by decide +kernel, by decide +kernel,
    by decide +kernel, by decide +kernel, by decide +kernel⟩

def someClaim : Claim := { position := 0, queue := 1, slot := 0, header := 0 }

def someRequest : RingEnt := { queue := 1, slot := 0, firstLeg := 0, firstTick := 0, firstStart := 0, hdr := List.replicate 64 0 }

def withRequest : State := { withPlan with hq := { entries := [someRequest] } }

def postF : Fields := fields 0 1 2 0 0

def postTile : Tile → Tile := fun t => { t with tag := some (legTag 6), claims := [{ leg := 0, tick := 0, claims := [someClaim] }] }

theorem keeps_postTile : KeepsProgram postTile := ⟨fun _ => rfl, fun _ => rfl, fun _ => rfl, fun _ => rfl, fun _ => rfl⟩

theorem witness_Embedding_post :
    Issues (tileIn withRequest 0xC3 postF postTile) 0 0xC3 postF (okPost postF) ∧
      embStall (getTile (tileIn withRequest 0xC3 postF postTile) 0) postF = false ∧
      (getTile (tileIn withRequest 0xC3 postF postTile) 0).tag = some (legTag 6) ∧
      (getTile (tileIn withRequest 0xC3 postF postTile) 0).claims.find? (fun l => l.leg == 0 && l.tick == 0) =
        some { leg := 0, tick := 0, claims := [someClaim] } ∧
      [someClaim].find? (fun c => c.position == (readS (getTile (tileIn withRequest 0xC3 postF postTile) 0) 1).toNat && !c.answered) = some someClaim ∧
      withRequest.hq.entries.find? (fun e => e.queue == 1 && e.slot == 0) = some someRequest ∧
      (ringModel withRequest (byteAt someRequest.hdr 2)).isSome = true ∧
      operandEnd (tileIn withRequest 0xC3 postF postTile) false 0 (elemBytes 0 1) false = (none, .own 0) ∧
      (endFetch 0 (.own 0) (elemBytes 0 1) (atTime 3 (tileIn withRequest 0xC3 postF postTile))).2.1 = none :=
  ⟨issues_tileIn _ _ _ _ keeps_postTile (by decide +kernel), by decide +kernel, by decide +kernel, by decide +kernel, by decide +kernel,
    by decide +kernel, by decide +kernel, by decide +kernel, by decide +kernel⟩

/-! ## The MARK tree, ticks and legs -/

def someTimetable : Timetable :=
  { raw := [], periodUs := 1000, policy := 0, form := 0, ttId := 7, usets := [tileZero]
    legs := [{ startNs := 4000, budgetNs := 1000, kind := 6, cls := 1, uset := 0 }] }

/-- A module with tick unit state `st`, whose parent is chip 1 on link 0 and whose child is chip 2 on link 1. -/
def inTree (st : Nat) : State :=
  { State.reset with
    lg := { links := [(0, { state := 2, txMask := 15, rxMask := 15 }), (1, { state := 2, txMask := 1, rxMask := 1 })] }
    tk := { state := st, parentLi := 0, slotA := { tt := some someTimetable } }
    job := { state := 2, header := { hurdles := [{ scope := 4, mask := 0 }] }
             exchange := { chips := 3, candidates := [1], wiring := [(1, 0), (2, 0)], treeDepth := [2]
                           marks := [{ parent := 0, altParent := 0x7F, depth := 1, children := 2 }] } } }

/-- The next carriage of link 0, from chip `src`; sequence numbers wrap. -/
def rxFrom (src : Nat) : Rx := { li := 0, cls := 3, hops := 0, src, seq := 0, ackSeq := 0xFFFF, credPool := 0, credCount := 0, nak := false }

theorem inOrder_tree (st src : Nat) : InOrder (inTree st) (rxFrom src) :=
  ⟨show 0 < 96 by decide, rfl, show 0 = (0xFFFF + 1) % 65536 by decide⟩

def someMark : MarkMsg :=
  { tickNum := 1, stepNum := 1, slot := 0, mkind := 0, stretched := false, abandon := false, handover := false, lateOpen := false
    returnDone := false, skipReq := false, committed := false, haltReq := false, countdownNs := 5000, stretchNs := 0, ttId := 7
    sourceChip := 2, lateChip := 0, latenessNs := 0, nextChip := 0, hurdle := 0, lateKind := 0 }

def somePace : PaceMsg := { tickNum := 0, slowChip := 0, kind := 1, pace := 1024, hold := 1024 }

theorem witness_TreeMessages_mark :
    InOrder (inTree 2) (rxFrom 1) ∧ markLink (received 9 (rxFrom 1) (.mark someMark) (inTree 2)) 1 = some 0 ∧ (inTree 2).run.halting = false ∧
      sources (received 9 (rxFrom 1) (.mark someMark) (inTree 2)) 1 = false ∧ (inTree 2).tk.tick < someMark.tickNum ∧ (inTree 2).run.next = none ∧
      slotMatches (received 9 (rxFrom 1) (.mark someMark) (inTree 2)) someMark = true :=
  ⟨inOrder_tree _ _, by decide +kernel, by decide +kernel, by decide +kernel, by decide +kernel, by decide +kernel, by decide +kernel⟩

theorem witness_TreeMessages_down :
    (∀ m ∈ [someMark, { someMark with abandon := true }], fromParent (received 9 (rxFrom 1) (.mark m) (inTree 2)) (rxFrom 1) = true ∧
      (m.stepNum, m.tickNum) ∉ (inTree 2).run.abandoned) ∧
      fromTree (received 9 (rxFrom 1) (.mark someMark) (inTree 4)) (rxFrom 1) = true ∧
      fromTree (received 9 (rxFrom 1) (.mark someMark) (inTree 2)) (rxFrom 1) = true ∧
      running (inTree 2) = true ∧ someMark.sourceChip ∈ childChips (inTree 2) ∧ someMark.sourceChip ∈ childChips (inTree 4) ∧
      fromParent (received 9 (rxFrom 1) (.pace somePace) (inTree 2)) (rxFrom 1) = true ∧ (rxFrom 1).li = (inTree 2).tk.parentLi ∧
      InOrder (inTree 4) (rxFrom 1) :=
  ⟨by decide +kernel, by decide +kernel, by decide +kernel, by decide +kernel, by decide +kernel, by decide +kernel, by decide +kernel,
    by decide +kernel, inOrder_tree _ _⟩

theorem witness_HurdleCarriages :
    InOrder (setHurdle 0 4 { gen := 1 } (inTree 2)) (rxFrom 2) ∧ (getHurdle (setHurdle 0 4 { gen := 1 } (inTree 2)) 0 4).gen = someMark.tickNum ∧
      someMark.sourceChip ∈ childChips (setHurdle 0 4 { gen := 1 } (inTree 2)) ∧ (getHurdle (inTree 2) 0 4).gen ≠ someMark.tickNum :=
  ⟨⟨by decide, rfl, by decide +kernel⟩, by decide +kernel, by decide +kernel, by decide +kernel⟩

/-- A bellwether, its boundary due, with the open legs given. -/
def bellwether (legs : List LegOcc) : State :=
  { inTree 2 with tk := { (inTree 2).tk with bellwether := true }, run := { nominal := 5000, legs } }

def lateOcc : LegOcc := { openOcc 1 tileZero with late := true }

theorem witness_TickBoundaries_mark : ∀ legs ∈ [[], [lateOcc]],
    canMark (bellwether legs) = true ∧ sources (bellwether legs) (nextTickNum (bellwether legs)) = true ∧
      (bellwether legs).run.nominal ≤ (atTime 0 (bellwether legs)).now + (bellwether legs).tk.leadNs ∧
      (mergedAck (atTime 0 (bellwether legs))).lateOpen = !legs.isEmpty := by decide +kernel

def armed (bell : Bool) : State :=
  { inTree 1 with
    tk := { (inTree 1).tk with bellwether := bell }, start := { matched := true }
    run := { next := some { tick := 0, step := 0, startAt := 3, stretchNs := 0, stretched := false, slot := 0, ttId := 7 } } }

def followerAt (ticks : Nat) : State :=
  { inTree 3 with tk := { (inTree 3).tk with holdoverTicks := ticks }, run := { nominal := 5000 } }

def stretching : State :=
  { bellwether [lateOcc] with run := { nominal := 5000, legs := [lateOcc], markHeld := true } }

theorem witness_TickBoundaries_start :
    ((armed false).run.next.isSome = true ∧ (armed false).run.halting = false ∧ (armed false).tk.state = 1 ∧ (armed false).tk.bellwether = false) ∧
      (running (followerAt 7) = true ∧ sources (followerAt 7) ((followerAt 7).tk.tick + 1) = false ∧ (followerAt 7).run.next = none ∧
        (followerAt 7).run.nominal ≤ (atTime 5000 (followerAt 7)).now ∧ (followerAt 7).tk.holdoverTicks < 8) ∧
      ((followerAt 8).tk.holdoverTicks = 8 ∧ sources (followerAt 8) ((followerAt 8).tk.tick + 1) = false) ∧
      (stretching.run.markHeld = true ∧ (mergedAck (atTime 250000 stretching)).lateOpen = true ∧
        stretching.run.nominal + periodNs stretching / 4 - stretching.tk.leadNs ≤ (atTime 250000 stretching).now) ∧
      ((armed true).tk.bellwether = true ∧ (armed true).start.matched = true ∧ (armed true).run.nominal ≤ (atTime 0 (armed true)).now) := by
  decide +kernel

/-- Logical tile 0 moves from tile 0 to tile 159: lifted already, or still in its place. -/
def movingTile (parked : Bool) : State :=
  { State.reset with tiles := { moving := [(0, 0, 159)], map := if parked then [] else [(0, 0)], parked := if parked then [(0, {})] else [] } }

theorem witness_TickBoundaries_move :
    (∀ b, (movingTile b).tiles.moving.find? (fun m => m.1 == 0) = some (0, 0, 159)) ∧ (∀ b, logicalOf (movingTile b) 159 = none) ∧
      physicalOf (movingTile true) 0 = none ∧ (tabFind (movingTile true).tiles.parked 0).isSome = true ∧
      physicalOf (movingTile false) 0 = some 0 ∧ liftable (getTile (movingTile false) 0) = true := by decide +kernel

/-- The leg of the timetable opens at 4,000 ns. -/
def runningLeg (o : List LegOcc) : State :=
  { inTree 2 with run := { legs := o, goSteps := [0] }, pw := { idle := [(256, 2)], moduleState := 4 }
                  tiles := { map := [(0, 0)] } }

def doneOcc : LegOcc := { openOcc 1 tileZero with finished := [0] }

theorem witness_Legs :
    (legEntry (runningLeg []) (runningLeg []).tk.tick 0).isSome = true ∧ running (runningLeg []) = true ∧ (runningLeg []).run.halting = false ∧
      0 ∉ (runningLeg []).run.legsStarted ∧ (runningLeg []).run.tickStartAt + 4000 ≤ (atTime 4000 (runningLeg [])).now ∧
      applyReady (atTime 0 (runningLeg [openOcc 5 tileZero])) = some (openOcc 5 tileZero) ∧
      (runningLeg [openOcc 5 tileZero]).commit.openStep = allOnes ∧
      legOcc (runningLeg [openOcc 5 tileZero]) 0 0 = some (openOcc 5 tileZero) ∧ (openOcc 5 tileZero).late = false ∧
      (openOcc 5 tileZero).deadline ≤ (atTime 5000 (runningLeg [openOcc 5 tileZero])).now ∧
      legOcc (runningLeg [doneOcc]) 0 0 = some doneOcc ∧ legDone (atTime 0 (runningLeg [doneOcc])) doneOcc = true ∧
      gapOf (atTime 0 (runningLeg [])) (uTile 0) = some 4000 ∧ 4000 ≤ wakeNs (idleOf (atTime 0 (runningLeg [])) (uTile 0)) ∧
      uTile 0 ≠ uModule ∧ (runningLeg []).pw.moduleState = 4 := by decide +kernel

/-- The same module as its own bellwether, JOB_START accepted at 0. -/
def checking (bell : Nat) : State :=
  { inTree 1 with
    job := { (inTree 1).job with exchange := { (inTree 1).job.exchange with candidates := [bell] } }
    start := { startedAt := some 0 }, hq := { started := [{ slot := 0, tag := 0, opcode := 2 }] } }

theorem witness_PlanCheck :
    InOrder (checking 0) (rxFrom 1) ∧ InOrder (checking 1) (rxFrom 1) ∧ (checking 0).job.state ≠ 0 ∧ bellChip (checking 0) = (checking 0).lg.chip ∧
      (rxFrom 1).src = bellChip (checking 1) ∧ (checking 1).start.matched = false ∧ (startedOp (checking 0) 2).isSome = true ∧
      (checking 0).start.startedAt = some 0 ∧ 0 + 100000000 ≤ (atTime 100000000 (checking 0)).now ∧
      0 + 200000000 ≤ (atTime 200000000 (checking 0)).now :=
  ⟨⟨by decide, rfl, by decide +kernel⟩, ⟨by decide, rfl, by decide +kernel⟩, by decide +kernel, by decide +kernel, by decide +kernel, by decide +kernel, by decide +kernel,
    by decide +kernel, by decide +kernel, by decide +kernel⟩

/-! ## Rows and the exchange -/

def someMap : OwnerMap := { stripeLog2 := 0, rowSpan := 4, pos := [{ chip := 0, die := 3, slotBase := 0 }, { chip := 1, die := 0, slotBase := 0 }] }

def someHandover : Handover := { map := 0, pos := 1, newChip := 1, newDie := 0, newBase := 0, oldChip := 0, oldDie := 0, oldBase := 0, switchTick := some 0 }

/-- The module of `inTree` with table 0, tensor 0 and an owner map of two positions, the second handed over to chip 1. -/
def withRows (st : Nat) : State :=
  { inTree st with
    tb := { tables := [(0, someTable)] }
    folds := { eff := [(0, { present := true })] }
    job := { (inTree st).job with
      header := { digestInterval := 64 }
      exchange := { (inTree st).job.exchange with maps := [someMap], tensors := [someTensor], trees := [someTree] } } }

def rx2 : Rx := rxFrom 2

theorem inOrder_rows (st : Nat) : InOrder (withRows st) rx2 := ⟨show 0 < 96 by decide, rfl, show 0 = (0xFFFF + 1) % 65536 by decide⟩

def someIdx : IdxMsg := { tick16 := 0, leg := 0, firstSeq := 0, entries := [{ row := 0, table := 0, die := 3 }] }

def someRow (rows : Nat) : RowMsg := { tick16 := 0, leg := 0, rows, firstSeq := 0, part := 0, zeroed := 0, payload := List.replicate 256 0 }

def someGradMsg (row : Nat) : GradMsg := { step32 := 0, tick16 := 0, row, table := 0, part := 0, bf16 := false, payload := List.replicate 256 0 }

def someReply : Reply := { tick16 := 0, leg := 0, chip := 2, seq := 0, batch := 0, slot := 0, cls := 0 }

def withReply (rs : List Reply) : State := { withRows 2 with run := { legs := [openOcc 2 tileZero] }, ex := { replies := rs } }

theorem witness_ExchangeCarriages_rows :
    InOrder (withRows 2) rx2 ∧ InOrder (withReply [someReply]) rx2 ∧
      windowOver (atTime 50 (withRows 2)).now 0 = true ∧ windowOver 49 0 = false ∧
      [({ dest := 2, cls := 0, tick16 := 0, leg := 0, table := 0, firstSeq := 0, rows := 1, zeroed := 0, payload := [], startNs := 0 } : OpenRow)].find?
        (isOpenFor 2 1) = none ∧
      legOcc (withRows 2) 0 (expandTick (withRows 2) 0) = none ∧ (withRows 2).tk.state ≠ 4 ∧
      legOcc (withReply []) 0 (expandTick (withReply []) 0) ≠ none ∧ (someRow 1).rows = 1 ∧
      (takeRow 2 (someRow 1) 0 (noteRemote 0 0 2 (received 9 rx2 (.row (someRow 1)) (withReply [someReply])))).1 = true ∧
      (takeRow 2 (someRow 1) 0 (noteRemote 0 0 2 (received 9 rx2 (.row (someRow 1)) (withReply [])))).1 = false :=
  ⟨inOrder_rows _, ⟨by decide, rfl, by decide +kernel⟩, by decide +kernel, by decide +kernel, by decide +kernel, by decide +kernel,
    by decide +kernel, by decide +kernel, by decide +kernel, by decide +kernel, by decide +kernel⟩

theorem witness_ExchangeCarriages_grad :
    dutyOf (received 9 rx2 (.grad (someGradMsg 0)) (withRows 2)) 0 0 0 = .here 3 0 ∧
      dutyOf (received 9 rx2 (.grad (someGradMsg 1)) { withRows 2 with handovers := [someHandover] }) 0 1 0 = .forward 1 ∧
      dutyOf (received 9 rx2 (.grad (someGradMsg 8)) (withRows 2)) 0 8 0 = .misrouted ∧
      InOrder { withRows 2 with handovers := [someHandover] } rx2 ∧ (getTable (withRows 2) 0).isSome = true :=
  ⟨by decide +kernel, by decide +kernel, by decide +kernel, ⟨by decide, rfl, by decide +kernel⟩, by decide +kernel⟩

theorem witness_ExchangeCarriages_rest :
    countOf (withRows 2).ex.toldCnt 2 0 < 1 ∧ (withRows 2).bulk.early = [] ∧ tabGet 0 (withRows 2).bulk.nextIn rx2.src = 0 ∧
      tabGet 0 (withRows 2).bulk.nextIn rx2.src ≠ 1 ∧ (5 : Nat) ≠ (withRows 2).lg.chip ∧ bodySpecial (.idx someIdx) = false ∧
      rx2.hops < 2 ∧ InOrder (withRows 2) { rx2 with hops := 2 } :=
  ⟨by decide +kernel, by decide +kernel, by decide +kernel, by decide +kernel, by decide +kernel, by decide +kernel, by decide +kernel,
    ⟨by decide, rfl, by decide +kernel⟩⟩

def someOp (k : OpKind) : RowOp := { kind := k, table := 0, row := 0, slot := 0 }

/-- One operation, alone in a queue of die 3. -/
def withOp (k : OpKind) : State := { withRows 2 with ru := [(3, { queues := [(31, [someOp k])] })] }

theorem witness_RowOperations :
    (∀ k ∈ [OpKind.lookup, .serveRead, .accumulate, .apply, .repair 0, .promote 0, .demote 15 none, .demote 15 (some (1, 1)), .exportOp, .handoverCopy],
      startable (atTime 9 (withOp k)) 3 31 0 = some (someOp k)) ∧
      (opAt (atTime 9 (withOp .lookup)) 3 31 0 (· == .lookup)).isSome = true ∧
      (opAt (atTime 9 (withOp .serveRead)) 3 31 0 (· == .serveRead)).isSome = true ∧
      tagPoison (dropOp 3 31 0 (atTime 9 (withOp (.promote 0)))) someDesc 3 0 = none ∧
      tagPoison { withRows 2 with mm := { poison := [0] } } { someDesc with sLog2 := 1 } 3 0 = some 0 ∧
      tagValid (tagEntry (demoteRow someDesc 3 15 (someOp (.demote 15 (some (1, 1)))) (dropOp 3 31 0 (atTime 9 (withOp (.demote 15 (some (1, 1)))))))
        someDesc 3 0 15) = false := by decide +kernel

def someRingBatch : RingBatch := { base := 0, first := 0, rows := [(64, 0, 64, 0, true)] }

theorem witness_RowOperations_index :
    (getRu { withRows 2 with ru := [(3, { batches := [someRingBatch] })] } 3).batches = [someRingBatch] ∧
      someRingBatch.rows.all (fun x => x.2.2.2.2) = true := by decide +kernel

theorem witness_AccumulatorOrder :
    (∀ l, lineFenced State.reset.mm l = false) ∧
      ∀ k, ((0 ≤ k ∧ k < 0 + [(1 : Int)].length) ∨ (1 ≤ k ∧ k < 1 + [(-1 : Int)].length)) → devOk State.reset.mm (64 + 6 * k) 6 = true := by
  refine ⟨fun l => ?_, fun k h => ?_⟩
  · unfold lineFenced
    split <;> rfl
  · have : k = 0 ∨ k = 1 := by simp at h; omega
    rcases this with h | h <;> subst h <;> decide +kernel

theorem witness_OwnersDistinct : ownerAt (withRows 2) 0 0 0 = some (0, 3, 0, 0) ∧ ownerAt (withRows 2) 0 0 2 = some (0, 3, 1, 0) := by
  decide +kernel

theorem witness_CommitRecord :
    (∀ s ∈ [{ withRows 2 with commit := { openStep := 0 }, ru := (List.range 4).map fun d => (d, { done := true }) }],
      s.commit.openStep ≠ 2 ^ 64 - 1 ∧ diesDone s = true) ∧
      (withRows 2).commit.openStep = 2 ^ 64 - 1 ∧ diesDone { withRows 2 with commit := { openStep := 0 } } = false := by decide +kernel

def someFold : FoldJob := { slot := 0, tag := 0, target := { kind := 0, num := 0 }, dieMask := 0, init := true, words := [0, 0, 0, 0] }

def folding : State := { withRows 2 with folds := { loading := [someFold], releases := [({ kind := 0, num := 0 }, 0)] } }

theorem witness_FoldCompletions :
    folding.folds.loading.find? (fun j => j.target.kind == 0 && j.target.num == 0) = some someFold ∧
      folding.folds.releases.find? (fun r => r.1.kind == 0 && r.1.num == 0) = some ({ kind := 0, num := 0 }, 0) ∧
      getTable folding 0 = some someTable ∧ foldUnnamed folding 0 (1 - someTable.current) = true ∧ noApplyBefore folding 0 = true ∧
      noLegBefore folding 0 = true := by decide +kernel

/-! ## Digests, repairs, snapshots -/

theorem witness_DigestTree :
    0 < regionBlocks (withRows 2) 0 ∧ [((0 : Nat), (0 : Nat), (5 : Word64))].find? (fun x => x.1 == 0 && x.2.1 == 0) = some (0, 0, 5) ∧
      ((withRows 2).folds.eff.map (·.1)).Pairwise (· < ·) ∧ 0 < topLevel 17 := by decide +kernel

/-- A bellwether in tick `t` of a round begun at 0. -/
def inRound (t : Nat) (d : Digest) : State :=
  { withRows 2 with tk := { (withRows 2).tk with tick := t, bellwether := true }, digest := { d with round := some 0 } }

def rootsOf (a b c : Word64) : Digest := { roots := [(0, some a), (1, some b), (2, some c)] }

theorem witness_DigestRounds :
    (running (withRows 2) = true ∧ 1 < (withRows 2).job.exchange.chips ∧ (withRows 2).tk.tick % (withRows 2).job.header.digestInterval = 0 ∧
      (withRows 2).digest.round ≠ some (withRows 2).tk.tick) ∧
      (∀ j ∈ [0, 31], (inRound j { slices := j }).digest.round = some 0 ∧ (inRound j { slices := j }).digest.slices = j ∧
        j < digestSpan (inRound j { slices := j })) ∧
      (inRound 0 {}).tk.bellwether = true ∧ (inRound 32 (rootsOf 1 1 1)).tk.tick = 0 + digestSpan (inRound 32 (rootsOf 1 1 1)) ∧
      (inRound 32 (rootsOf 1 1 2)).digest.compared = false ∧ referenceRoot (inRound 32 (rootsOf 1 1 2)) [(0, 1), (1, 1), (2, 2)] = some 1 ∧
      referenceRoot (inRound 32 (rootsOf 1 2 3)) [(0, 1), (1, 2), (2, 3)] = none ∧
      (answerQuery (inRound 32 { leaves := [(0, 0, 5)], slices := 32 }) { round := 0, region := 0, level := 0, node := 0 }).isSome = true ∧
      InOrder (inRound 32 {}) rx2 :=
  ⟨by decide +kernel, by decide +kernel, by decide +kernel, by decide +kernel, by decide +kernel, by decide +kernel, by decide +kernel,
    by decide +kernel, ⟨by decide, rfl, by decide +kernel⟩⟩

def someRepair (tick outlier reference : Nat) : Repair := { tick, region := 0, block := 0, outlier, reference, before := some 0 }

def repairing (tick : Nat) (bell : Bool) (r : Repair) : State :=
  { withRows 2 with tk := { (withRows 2).tk with tick, bellwether := bell }, digest := { repairs := [r] } }

def someData (chunk : Nat) : RepairDataMsg := { region := 0, block := 0, chunk, refDigest := 0, payload := List.replicate 240 0 }

theorem witness_Repairs :
    (someRepair 0 0 1).outlier = (withRows 2).lg.chip ∧ (someRepair 0 1 0).reference = (withRows 2).lg.chip ∧
      (repairing 0 false (someRepair 0 1 0)).digest.repairs = [someRepair 0 1 0] ∧ (someRepair 0 1 0).tick = (repairing 0 false (someRepair 0 1 0)).tk.tick ∧
      (someRepair 0 1 0).started = false ∧ (repairing 0 false (someRepair 0 1 0)).tk.bellwether = false ∧
      (∀ t ∈ [0, 1], (repairing t false (someRepair 0 0 1)).digest.repairs.find? (isRepair 0 0 (withRows 2).lg.chip) = some (someRepair 0 0 1) ∧
        (someData 17).chunk ∉ (someRepair 0 0 1).chunks ∧ (someData 17).chunk < chunkCount (repairing t false (someRepair 0 0 1)) (someRepair 0 0 1)) ∧
      (someRepair 0 0 1).before.isSome = true ∧ (someRepair 0 0 1).tick < (repairing 1 false (someRepair 0 0 1)).tk.tick ∧
      (repairing 1 true (someRepair 0 2 1)).digest.repairs.find? (isRepair 0 0 2) = some (someRepair 0 2 1) ∧
      (repairing 1 true (someRepair 0 2 1)).tk.bellwether = true ∧ (2 : Nat) ≠ (withRows 2).lg.chip ∧ InOrder (repairing 1 true (someRepair 0 2 1)) rx2 :=
  ⟨by decide +kernel, by decide +kernel, by decide +kernel, by decide +kernel, by decide +kernel, by decide +kernel, by decide +kernel,
    by decide +kernel, by decide +kernel, by decide +kernel, by decide +kernel, by decide +kernel, ⟨by decide, rfl, by decide +kernel⟩⟩

def someSnap : Snapshot :=
  { id := 1, tick := 2, slot := 0, tag := 0, extents := [{ port := 0, handle := 0, nsid := 1, lba := 0, lbas := 0 }], workBase := 0x10000
    workSize := 0x100000, started := true, bellwether := true }

def snapping (n : Snapshot) (poison : List Nat) : State :=
  { withRows 2 with snap := some n, mm := { poison }, hq := { started := [{ slot := 0, tag := 0, opcode := 0x40 }] } }

theorem witness_Snapshots :
    someSnap.started = true ∧ someSnap.copied = false ∧
      (snapCopies (snapping someSnap []) true [] 2 0).any (copyPoison (snapping someSnap [])) = false ∧
      (snapCopies (snapping someSnap [0]) true [] 2 0).any (copyPoison (snapping someSnap [0])) = true ∧
      (0 < someSnap.extents.length ∧ mibOf { someSnap with issued := [0] } 0 1 = 0 ∧ 0 ∈ ({ someSnap with issued := [0] } : Snapshot).issued ∧
        0 ∉ ({ someSnap with issued := [0] } : Snapshot).doneMib) ∧
      ({ someSnap with manifestOut := true } : Snapshot).manifestOut = true ∧
      ((snapping { someSnap with manifestOut := true } []).hq.started.find? (fun c => c.opcode == 0x0040 && c.slot == 0 && c.tag == 0)).isSome = true := by
  decide +kernel

/-! ## Links, lasers, power, grazing, boot -/

def withLink (l : Link) : State := { State.reset with lg := { links := [(95, l)] } }

def rx95 : Rx := { li := 95, cls := 3, hops := 0, src := 1, seq := 0, ackSeq := 0xFFFF, credPool := 12, credCount := 0, nak := true }

theorem witness_LinkRetry :
    (getLink (withLink { state := 1 }) 95).state = 1 ∧ (getLink (withLink { state := 2, nakWait := true }) 95).state = 2 ∧
      (getLink (withLink { state := 2, nakWait := true }) 95).nakWait = true ∧
      (getLink (withLink { state := 2, ackOwed := true }) 95).ackOwed = true ∧
      (getLink (withLink { nakSeq := 5, nakCount := 6 }) 95).nakSeq = 5 ∧ (getLink (withLink { nakSeq := 5, nakCount := 6 }) 95).nakCount = 6 ∧
      InOrder (withLink { state := 2 }) rx95 :=
  ⟨by decide +kernel, by decide +kernel, by decide +kernel, by decide +kernel, by decide +kernel, by decide +kernel,
    ⟨by decide, rfl, by decide +kernel⟩⟩

def goodTraining : Training := { txMask := 1, rxMask := 15, ok := true }

theorem witness_LinkTraining :
    ((getLink (withLink { state := 2, replay := [(0, localCarriage State.reset (.link .none))] }) 95).replay.isEmpty = false) ∧
      (∀ st ∈ [0, 1, 2, 3, 4, 5], (getLink (withLink { state := st }) 95).state = st ∧ (getLink (withLink { state := st }) 95).held = false ∧
        (getLink (withLink { state := st }) 95).admitTx = 0) ∧
      trained goodTraining = true ∧ trained { goodTraining with ok := false } = false ∧
      linkOfPeer (received 9 rx95 (.linkState 3 7)
        (withLink { state := 2, peerChip := 1, peerLi := 3, handoff := some { cause := 0, next := 0, entries := [], rerouted := 0, lost := 0 } })) 1 3 = some 95 ∧
      ((getLink (received 9 rx95 (.linkState 3 7)
        (withLink { state := 2, peerChip := 1, peerLi := 3, handoff := some { cause := 0, next := 0, entries := [], rerouted := 0, lost := 0 } })) 95).handoff.isSome = true) ∧
      InOrder (withLink { state := 2, peerChip := 1, peerLi := 3 }) rx95 :=
  ⟨by decide +kernel, by decide +kernel, by decide +kernel, by decide +kernel, by decide +kernel, by decide +kernel,
    ⟨by decide, rfl, by decide +kernel⟩⟩

def withLaser (x : Laser) : State := { State.reset with lg := { lasers := [(5, x)], links := [(95, { state := 2, dropped := 8 })] } }

theorem witness_LanesAndLasers :
    (getLink (withLaser {}) 95).state = 2 ∧ (getLink (taskRan 5 0 (atTime 9 (withLaser {}))) 95).dropped.getLsbD 3 = true ∧
      (getLaser (withLaser { state := 1, ok := 0xFF }) 5).state ≠ 0 ∧ (getLaser (withLaser { state := 1, ok := 0xFF }) 5).eol.getLsbD 7 = false ∧
      (getLaser (withLaser { state := 1, ok := 0xFF }) 5).ok.getLsbD 7 = true ∧
      (∀ st ∈ [0, 1, 2, 3], (getLaser (withLaser { state := st }) 5).state = st ∧ (getLaser (withLaser { state := st }) 5).draining = false) ∧
      (getLaser (withLaser { draining := true }) 5).draining = true ∧
      (∀ li ∈ moduleLinks 5, (getLink (withLaser { draining := true }) li).state ≠ 2 ∨ (getLink (withLaser { draining := true }) li).replay = []) := by
  decide +kernel

def withPw (p : Pw) : State := { State.reset with pw := p, boot := { powered := true } }

theorem witness_PowerAndHeat :
    ({ State.reset with job := { state := 1 } } : State).job.state ≠ 0 ∧ State.reset.run.legs = [] ∧
      (∀ w ∈ [1400, 3000], 1400 ≤ w ∧ w ≤ 3000) ∧ (∀ w ∈ [1399, 3001], w < 1400 ∨ 3000 < w) ∧ (withPw {}).pw.pldmAt ≠ some (atTime 9 (withPw {})).now ∧
      (withPw {}).boot.powered = true ∧ (∀ n ∈ [0, 1, 12, 13], (sensorValue (withPw {}) n).isSome = true) ∧
      (withPw { ocpTrip := true }).pw.ocpTrip = true ∧ (withPw { capUnmet := true }).pw.capUnmet = true ∧
      (withPw { capUnmet := true }).pw.cap ≤ min 4095 4095 ∧ (withPw {}).gz.blackout = false ∧ (withPw {}).pw.ocpTrip = false ∧
      (withPw { ocpTrip := true }).pw.ocpSince + 10000000 ≤ (atTime 10000000 (withPw { ocpTrip := true })).now ∧
      (getDroop (withPw { droop := [(8, { active := true })] }) 8).active = true ∧
      (List.replicate 9 (20 : Int)).length = 9 ∧ (List.replicate 12 (86 : Int)).length = 12 ∧
      ({ State.reset with gz := { blackout := true } } : State).gz.blackout = true := by decide +kernel

/-- A GRAZE leg that names every unit is open, in the tick and at the instant given. -/
def grazing (b : Tab TaskUnit) (q : List (Nat × Nat × Nat)) : State :=
  { State.reset with
    tk := { state := 2 }, run := { legs := [{ openOcc 7 { tiles := BitVec.allOnes 160, mds := 15, lgs := 0xFFF, io := 3 } with deadline := 86400000000000 }] }
    gz := { tasks := b, queued := q } }

theorem witness_GrazingSlices :
    (∀ x ∈ [(0, 3), (1, 3), (6, 3), (13, 3), (14, 11)], legBound x.1 = true ∧ x.2 < taskUnits x.1 ∧
      (sliceOpen (atTime 14400000000000 (grazing [] [])) x.1 x.2).isSome = true ∧ taskActive (grazing [] []) x.1 x.2 = true ∧
      ((sliceOpen (atTime 14400000000000 (grazing [] [])) x.1 x.2).elim false fun o => drainOpen (grazing [] []) x.1 x.2 o) = true ∧
      mayReach (atTime 14400000000000 (grazing [] [])) x.1 x.2 (sliceReaches (grazing [] []) x.1 x.2 1) (passSteps (grazing [] []) x.1 x.2) = true ∧
      isBehind (atTime 86400000000000 (grazing [] [])) x.1 x.2 = true ∧ (getTask (grazing [] []) x.1 x.2).forcedIn ≠ some (0, 0) ∧
      (getTask (grazing [] []) x.1 x.2).startAt + taskPeriod (grazing [] []) x.1 x.2 ≤ (atTime 86400000000000 (grazing [] [])).now) ∧
      queuedFor (grazing [] [(1, 31, 3)]) 13 3 = true ∧
      (∀ x ∈ [(1, 31), (2, 3), (3, 11)], testExists x.1 x.2 = true ∧ testOpen (atTime 9 (grazing [] [])) x.1 x.2 = true ∧
        unitQuarantined (grazing [] []) x.1 x.2 = false) ∧
      unitQuarantined { State.reset with nor := { quarTiles := (1 : BitVec 160) <<< 159 } } 0 159 = true ∧
      unitQuarantined { State.reset with nor := { quarEngines := (1 : BitVec 32) <<< 31 } } 1 31 = true ∧ State.reset.job.state = 0 ∧
      ((grazing [] []).gz.rotateEn = true ∧ running (grazing [] []) = true ∧ (grazing [] []).tiles.pendMap = none ∧ (grazing [] []).tiles.moving = [] ∧
        (grazing [] []).gz.blackout = false ∧ (getTask (grazing [] []) 10 0).startAt + 24 * hourNs ≤ (atTime 86400000000000 (grazing [] [])).now) ∧
      withPlan.job.state ≠ 0 := by decide +kernel

def booting (phase : Nat) (b : Boot) : State := { State.reset with boot := { b with phase } }

def fwState (live : Bool) (pending : Option (Nat × Nat × Nat)) (black : Bool) : State :=
  { State.reset with
    tk := { state := if live then 2 else 0, tick := 8 }, nor := { verified := 0xFF }
    gz := { fwTick := 10, fwPending := pending, blackout := black, fwSince := 0 } }

theorem witness_FirmwareAndBoot :
    (∀ p ∈ [0, 1, 2, 3, 4, 5, 6, 7], (booting p { powered := true }).boot.powered = true ∧ (booting p { powered := true }).boot.recovery = false ∧
      (booting p { powered := true }).boot.warm = false ∧ (booting p { powered := true }).boot.scan = false ∧ (booting p { powered := true }).boot.phase = p) ∧
      (booting 6 { powered := true }).boot.phaseAt + 3 * phaseMs 6 * 1000000 ≤ (atTime (3 * phaseMs 6 * 1000000) (booting 6 { powered := true })).now ∧
      (booting 8 { warm := true }).boot.warm = true ∧ (booting 0 { powered := true, pgood := true }).boot.pgood = true ∧
      State.reset.sc.debug = false ∧ ({ State.reset with sc := { debug := true } } : State).sc.debug = true ∧ (booting 0 { scan := true }).boot.scan = true ∧
      (∀ t < 2, ∀ i < 2, imageOk (fwState true none false) t i = true) ∧
      (fwState true none false).gz.fwPending = none ∧ jobLive (fwState true none false) = true ∧
      (fwState true none false).tk.tick + 2 ≤ (fwState true none false).gz.fwTick ∧ jobLive (fwState false none false) = false ∧
      (fwState true (some (0, 1, 8)) true).gz.fwPending = some (0, 1, 8) ∧ (fwState true (some (0, 1, 8)) true).gz.blackout = true ∧
      (atTime 200000 (fwState true (some (0, 1, 8)) true)).now = (fwState true (some (0, 1, 8)) true).gz.fwSince + 200000 ∧
      (fwState true (some (0, 1, 8)) false).gz.blackout = false ∧ 8 ≤ (fwState true (some (0, 1, 8)) false).tk.tick := by decide +kernel

/-! ## Security, management, memory, host -/

def powered : State := { State.reset with boot := { powered := true } }

/-- An UNOWNED module takes a key record without a signature; its serial number is the module's. -/
theorem witness_SecurityMailbox :
    powered.boot.powered = true ∧ powered.sc.mboxState ≠ 1 ∧ (mboxPayload 0 (.mctp 1 []) powered).isSome = true ∧
      ({ powered with sc := { lockout := true } } : State).sc.lockout = true ∧ powered.sc.lockout = false ∧
      (∀ n ∈ [1, 384, 832, 1216], (mboxPayload n .csr powered).isSome = true ∧ (mboxPayload n (.mctp 1 (List.replicate n 1)) powered).isSome = true) ∧
      ({ powered with sc := { nonce := some ([], 0) } } : State).sc.nonce = some ([], 0) ∧ powered.nor.ownerHash = none ∧ powered.job.state = 0 ∧
      ({ powered with nor := { ownerHash := some [] } } : State).nor.ownerHash.isSome = true ∧
      (∀ c < 4, 1 ≤ imageSvn (runningBytes { powered with nor := { images := (List.range 8).map fun i => (i, List.replicate 13 1) } } c)) ∧
      powered.nor.svn < 1 := by decide +kernel

theorem witness_Management :
    spdmAt { powered with sc := { spdm := [(0, 3)] } } 0 = 3 ∧ spdmAt powered 0 < 3 ∧ powered.sc.zeroized = false ∧
      powered.gz.fwPending = none ∧ powered.gz.blackout = false ∧ (fwState true (some (0, 1, 8)) true).gz.fwPending.isSome = true ∧
      ({ powered with sc := { updating := some 2 } } : State).sc.updating = some 2 ∧ powered.boot.recovery = false ∧
      (booting 9 { powered := true, recovery := true }).boot.recovery = true ∧
      (∀ c < 4, imageOk { fwState false none false with boot := { powered := true } } c (newImage (fwState false none false) c) = true) := by
  decide +kernel

def withPc (x : PcState) : State := { State.reset with mm := { dies := [(3, { pcs := [(127, x)] })] } }

theorem witness_PseudoChannels :
    (∀ st ∈ [0, 1], mmPc (withPc { state := st }).mm 3 127 = { state := st }) ∧
      ({ State.reset with mm := { reconfig := some (1, 2, 12) } } : State).mm.reconfig = some (1, 2, 12) ∧
      unitExists (uTile 159) = true ∧ (uTile 159).kind = 1 := by decide +kernel

def someQueue (kind : Nat) : Queue := { kind, role := 0, log2 := 4, intr := false, vector := 0, base := 0x2000, slotBytes := 64 }

def someEvent : Event := { code := 1, severity := 0, unit := uModule, tick := 0, detail := [], seq := 0, timeNs := 0 }

/-- The ADMIN ring at 0x1000, served; OWN of its first entry is `own`. -/
def serving (own : Byte) (rereads : Nat) (ovf : List Event) : State :=
  { State.reset with
    boot := { powered := true, phase := 7 }, mm := { bytes := [(0x103F, own)] }
    hq := { enable := true, adminBase := 0x1000, rereads, ovf, queues := [(1, someQueue 1), (2, someQueue 2), (3, someQueue 3)] } }

theorem witness_HostQueues :
    ((serving 0 0 []).boot.phase = 7 ∧ (serving 0 0 []).hq.attach.state ≠ 1 ∧ (serving 0 0 []).hq.ovf = [] ∧ (serving 0 0 [someEvent]).hq.ovf ≠ []) ∧
      ((serving 0 0 []).hq.hbMs ≠ 0 ∧ (serving 0 0 []).hq.beatAt + (serving 0 0 []).hq.hbMs * 1000000 ≤ (atTime 100000000 (serving 0 0 [])).now) ∧
      (serving 0 0 []).gz.blackout = false ∧
      (∀ r ∈ [0, 16], adminOn (serving 2 r []) = true ∧ (adminHead (atTime 9 (serving 2 r []))).1.isSome = true ∧ (serving 2 r []).hq.rereads = r ∧
        adminOn (serving 0 r []) = true ∧ (adminHead (atTime 9 (serving 0 r []))).1 = none) ∧
      (∀ q ∈ [1, 2, 3], (tabFind (serving 0 0 []).hq.queues q).isSome = true) ∧ (someQueue 3).kind > 2 ∧
      (serving 1 0 []).hq.adminStale = false ∧
      hostOwned (hqRead 0 (adminSlot (serving 1 0 []) 0 + 63) 1 (atTime 9 (serving 1 0 []))).1 = true := by decide +kernel

def withNet (n : Net) (src : Nat) : State := { State.reset with net := n, tk := { timeSrc := src }, hq := { ptpEn := true } }

def someQp : Qp := { port := 0, remoteGid := [], remoteQp := 0, sendPsn := 0, recvPsn := 0, mtu := 0, dscp := 0, ready := true }

def withMr : State := withNet { qps := [(5, someQp)], mrs := [(1, { base := 64, bytes := 128, read := true, write := true })], nextMr := 2 } 0

theorem findMr_own : findMr withMr (keyOf 1) = some (1, { base := 64, bytes := 128, read := true, write := true }) := by
  simp [findMr, withMr, withNet]

theorem witness_mrGrants :
    mrGrants withMr (keyOf 1) 64 128 true = true ∧ mrGrants withMr (keyOf 1) 64 129 true = false ∧
      mrGrants withMr (keyOf 1) 191 1 false = true ∧ mrGrants withMr (keyOf 1) 63 1 false = false := by
  simp only [mrGrants, findMr_own]; decide +kernel

theorem witness_TimeAndRdma :
    (withNet {} 1).hq.ptpEn = true ∧ (withNet {} 1).tk.timeSrc = 1 ∧
      ((withNet { ptpLast := some 0 } 1).net.ptpHold = false ∧ (withNet { ptpLast := some 0 } 1).net.ptpLast = some 0 ∧
        0 + 3 * second ≤ (atTime (3 * second) (withNet { ptpLast := some 0 } 1)).now) ∧
      (ppsAccepted (atTime 999900000 (withNet { ppsLast := some 0 } 2)) = true ∧ ppsAccepted (atTime 1000100000 (withNet { ppsLast := some 0 } 1)) = true ∧
        (withNet { ppsLast := some 0 } 2).tk.timeSrc = 2) ∧
      ((withNet { ppsLast := some 0 } 2).net.ppsHold = false ∧ 0 + 3 * second ≤ (atTime (3 * second) (withNet { ppsLast := some 0 } 2)).now) ∧
      (withNet {} 0).tk.tickinLast = none ∧ tabFind withMr.net.qps 5 = some someQp ∧
      poisonIn withMr.mm 191 1 = none ∧ (poisonIn ({ withMr with mm := { poison := [2] } } : State).mm 191 1).isSome = true := by decide +kernel

/-- A module in service whose window is at `hi`. -/
def windowAt (hi : Nat) : State :=
  { State.reset with boot := { powered := true, phase := 7 }, net := { pcieUp := true }, hq := { windowHi := hi } }

theorem witness_RegisterAccess :
    (regionAt State.reset 15).valid = false ∧ (regionAt { State.reset with hq := { regions := [(15, { valid := true })] } } 15).valid = true ∧
      regionBusy State.reset 15 = false ∧ regionBusy { State.reset with hq := { inFlight := [(15, 1)] } } 15 = true ∧
      ((1 : Word32).getLsbD 0 = true ∧ (2 : Word32).getLsbD 0 = false) ∧
      (running State.reset = false ∧ State.reset.nor.quarTiles.getLsbD 159 = false ∧ State.reset.tiles.pendMap = none) ∧
      (csrServed (windowAt 0) 0xB008 = true ∧ 0xB008 % 8 = 0 ∧ csrServed (windowAt 0) 0xB00C = true ∧ 0xB00C % 8 = 4) ∧
      (windowCsr (windowAddr (windowAt 0) 64) 8 = false ∧ devOk (windowAt 0).mm 64 8 = true) ∧
      (windowCsr (windowAddr (windowAt 0xFFF) 0) 8 = false ∧ devOk (windowAt 0xFFF).mm (windowAddr (windowAt 0xFFF) 0) 8 = false) ∧
      (windowCsr (windowAddr (windowAt 0xF00) 0xF280) 8 = true ∧ csrServed (windowAt 0xF00) (windowAddr (windowAt 0xF00) 0xF280 - csrBase) = true ∧
        csrAligned (windowAddr (windowAt 0xF00) 0xF280 - csrBase) 8 = true ∧ ctlRead (windowAddr (windowAt 0xF00) 0xF280 - csrBase) = some 0) ∧
      csrAligned (windowAddr (windowAt 0xF00) 0xF281 - csrBase) 8 = false ∧ ctlRead (windowAddr (windowAt 0xF00) 0xF300 - csrBase) = none ∧
      csrServed { windowAt 0xF00 with boot := { powered := true, phase := 2 } } 0 = false := by decide +kernel

/-! ## ADMIN commands -/

/-- An entry of the ADMIN queue whose parameter block is at 64. -/
def entry (n a0 a1 a2 a3 : Nat) : AdminEntry :=
  { slot := 0, tag := 0, arg0 := a0, arg1 := a1, arg2 := a2, arg3 := a3, paramAddr := 64, paramBytes := n, reserved := false }

def patch (l : List Byte) (x : Nat × Nat × Nat) : List Byte := l.take x.1 ++ leBytes x.2.2 x.2.1 ++ l.drop (x.1 + x.2.2)

/-- `n` zero bytes with fields (offset, value, width) put in. -/
def blockOf (n : Nat) (xs : List (Nat × Nat × Nat)) : List Byte := xs.foldl patch (List.replicate n 0)

/-- The module with a parameter block at 64. -/
def holding (bs : List Byte) (s : State) : State :=
  { s with mm := { s.mm with bytes := bs.zipIdx.filterMap fun x => if x.1 = 0 then none else some (64 + x.2, x.1) } }

/-- The block is read, and what the statement asks of it and of the state holds. -/
def blockMeets (n : Nat) (e : AdminEntry) (s : State) (p : List Byte → State → Bool) : Bool :=
  match paramBlock n e (rouse s) with
  | (some b, v) => p b v
  | (none, _) => false

theorem blockMeets_iff (n : Nat) (e : AdminEntry) (s : State) (p : List Byte → State → Bool) (h : blockMeets n e s p = true) :
    ∃ b v, paramBlock n e (rouse s) = (some b, v) ∧ p b v = true := by
  unfold blockMeets at h; split at h
  · exact ⟨_, _, ‹_›, h⟩
  · cases h

def loaded (st : Nat) : State := { withRows 1 with job := { (withRows 1).job with state := st } }

/-- A timetable of one GRAZE leg. -/
def grazeBlock : List Byte :=
  blockOf 1088 [(0, 1, 2), (2, 1, 1), (3, 1, 1), (4, 1000, 4), (12, 1, 4), (84, 1, 1), (580, 20000, 4), (584, 7, 1), (585, 3, 1)]

/-- A tile map that names physical tile 159 only. -/
def mapBlock : List Byte := 159 :: List.replicate 159 0xFF ++ List.replicate 96 0

theorem witness_planLoad :
    (entry 4096 0 0 0 0).reserved = false ∧ devOk State.reset.mm 64 4096 = true ∧ State.reset.job.state = 0 ∧
      (loadPlan (memRead (rouse State.reset).mm 64 4096) 64 (rouse State.reset)).1 = 2 := by decide +kernel

theorem witness_jobStart : startStatus (rouse (atTime 7 (loaded 1))) (entry 0 0 0 0 0) = 0 := by decide +kernel

theorem witness_jobReset :
    (∀ st ∈ [1, 2, 3], (loaded st).job.state = st ∧ startedOp (loaded st) 0x0002 = none ∧ startedOp (loaded st) 0x0003 = none) := by
  decide +kernel

theorem witness_queueCreate :
    blockMeets 64 (entry 64 0 0 0 0) (holding (blockOf 64 [(0, 1, 2), (2, 1, 1), (4, 4, 1), (9, 0x10, 1), (16, 64, 4)]) State.reset)
      (fun b v => !anySet b 6 2 && !anySet b 20 44 && decide (byteAt b 5 < 64) && !queueBad v b) = true := by decide +kernel

theorem witness_queueDelete :
    (tabFind (serving 0 0 []).hq.queues 1).isSome = true ∧ (serving 0 0 []).job.state ≠ 2 ∧ (1 : Nat) ∉ (loaded 2).job.header.rings := by decide +kernel

theorem witness_timetableLoad :
    blockMeets ttBytes (entry 1088 1 0 0 0) (holding grazeBlock (loaded 1)) (fun b v =>
      v.job.state != 0 && v.tk.switch == none && v.tk.active != 1 && timetableStatus b v.tk.leadNs v.tiles.map == 0) = true := by decide +kernel

theorem witness_timetableSwitch :
    (loaded 2).tk.tick + 2 ≤ 2 ∧ (loaded 2).tk.switch = none ∧
      (slotTimetable { loaded 2 with tk := { (loaded 2).tk with slotA := { status := 0, tt := some someTimetable }, slotB := { status := 0, tt := some someTimetable } } } 0).isSome = true ∧
      (slotTimetable { loaded 2 with tk := { (loaded 2).tk with slotA := { status := 0, tt := some someTimetable }, slotB := { status := 0, tt := some someTimetable } } } 1).isSome = true ∧
      (loaded 2).tk.handover = none ∧
      ({ loaded 2 with job := { exchange := { chips := 4, candidates := [0, 1] } } } : State).job.exchange.candidates = [0, 1] := by decide +kernel

theorem witness_tileMapSwitch :
    blockMeets mapBytes (entry 256 2 0 0 0) (holding mapBlock (loaded 1)) (fun b v =>
      v.job.state != 0 && decide (v.tk.tick + 2 ≤ 2) && v.tiles.pendMap == none && v.tiles.moving == [] && !mapBad v.nor.quarTiles b) = true := by
  decide +kernel

/-- A descriptor of 4 rows of 8, two on die 0 and two on die 3, under owner map 0. -/
def descBlock : List Byte :=
  let p := pastureBase State.reset.mm
  blockOf 256 [(0, 1, 2), (4, 8, 2), (16, 4, 8), (24, 4, 8), (64, p 0, 8), (88, p 3, 8), (96, p 0 + 4096, 8), (120, p 3 + 4096, 8), (128, 2, 8),
    (152, 2, 8)]

/-- One operation: W = G + W. -/
def progBlock : List Byte := blockOf 160 [(0, 1, 2), (2, 1, 1), (32, 0x04000400, 4)]

def flockBlock : List Byte := blockOf 128 [(0, 1, 2)]

/-- A module whose table 0 has a fold loaded, in a job of state `st`. -/
def foldReady (st : Nat) : State := { loaded st with tb := { tables := [(0, { someTable with foldLoaded := true })] } }

theorem witness_descriptorLoad :
    blockMeets 256 (entry 256 1 0 0 0) (holding descBlock (loaded 1)) (fun b v => getTable v 1 == none && descStatus v 1 b == 0) = true := by
  decide +kernel

theorem witness_programLoad :
    (∀ st ∈ [1, 2], blockMeets 160 (entry 160 63 2 0 0) (holding progBlock (loaded st)) (fun b v =>
      !changePending v v.tb.programs 63 && decide (v.job.state = st ∧ v.tk.tick + 2 ≤ 2) &&
        programStatus v (if st < 2 then 0 else 2) 63 b == 0) = true) := by decide +kernel

theorem witness_flockLoad :
    (∀ st ∈ [1, 2], blockMeets 128 (entry 128 255 2 0 0) (holding flockBlock
        { loaded st with tb := { programs := [(0, [(0, parseProg progBlock)])] } }) (fun b v =>
      !changePending v v.tb.flocks 255 && decide (v.job.state = st ∧ v.tk.tick + 2 ≤ 2) &&
        flockStatus v (if st < 2 then 0 else 2) 255 b == 0) = true) := by decide +kernel

theorem witness_foldLoad :
    blockMeets 64 (entry 64 (2 ^ 16) 0 0 0) (holding (blockOf 64 []) (loaded 1)) (fun b v =>
      !foldWordsReserved v 0 0 0 true [0, 0, 0, 0] && !anySet b 32 32 && !foldLoadPending v { kind := 0, num := 0 } && v.snap == none &&
        !foldLoadBad v 0 0 0 true [0, 0, 0, 0]) = true := by decide +kernel

theorem witness_foldSwitch :
    blockMeets 4 (entry 4 2 0 0 0) (holding (blockOf 4 []) (foldReady 2)) (fun b v =>
      decide (parseTargets b = [{ kind := 0, num := 0 }] ∧ v.tk.tick + 2 ≤ 2) && v.folds.switch == none && v.snap == none &&
        !tableHandover v { kind := 0, num := 0 } && !notLoaded v { kind := 0, num := 0 }) = true := by decide +kernel

theorem witness_rowRepair :
    (rouse (loaded 2)).snap = none ∧ getTable (rouse (loaded 2)) 0 = some someTable ∧ notOwned (rouse (loaded 2)) 0 0 = false ∧
      inMemory (rouse (loaded 2)) 64 (recordBytes someTable.desc) = true := by decide +kernel

def rollable : State := { loaded 3 with tk := { (loaded 3).tk with state := 4 }, commit := { rollbackOk := true, tickAtomic := true } }

theorem witness_commitRollback :
    (rouse rollable).job.state = 3 ∧ (rouse rollable).tk.state = 4 ∧ (rouse rollable).snap = none ∧ (rouse rollable).commit.tickAtomic = true ∧
      (rouse rollable).commit.rollbackOk = true ∧ (rouse rollable).commit.step = 0 := by decide +kernel

theorem witness_handoverPrepare :
    (∀ k < 2, (rouse (loaded 2)).job.exchange.maps[0]? = some someMap ∧ (someMap.pos[k]?).isSome = true ∧
      handoverPending (rouse (loaded 2)) 0 = false ∧ mapFoldLoaded (rouse (loaded 2)) 0 = false ∧
      newPlaceBad (rouse (loaded 2)) 0 k 1 0 4096 = false) ∧
      1 < (rouse (loaded 2)).job.exchange.chips ∧ (rouse (loaded 2)).job.state ≠ 0 ∧ (rouse (loaded 2)).snap = none ∧
      (posAt (rouse (loaded 2)) 0 0 (rouse (loaded 2)).tk.tick { chip := 0, die := 3, slotBase := 0 }).chip = (rouse (loaded 2)).lg.chip ∧
      (posAt (rouse (loaded 2)) 0 1 (rouse (loaded 2)).tk.tick { chip := 1, die := 0, slotBase := 0 }).chip ≠ (rouse (loaded 2)).lg.chip := by
  decide +kernel

def prepared : Handover := { someHandover with switchTick := none, prepared := true }

theorem witness_handoverSwitch :
    (∃ h ∈ [prepared], h.map = 0 ∧ h.pos = 1 ∧ h.released = false ∧ h.prepared = true) ∧
      (∀ h ∈ [prepared], h.map = 0 → h.pos = 1 → h.released = false → h.switchTick = none) ∧ (loaded 2).tk.tick + 2 ≤ 2 := by decide +kernel

/-- The old owner has copied every row. -/
def copied : State :=
  { loaded 2 with
    tb := {}
    handovers := [{ someHandover with switchTick := none, copying := true, entry := some (0, 0) }]
    hq := { started := [{ slot := 0, tag := 0, opcode := 0x0030 }] } }

theorem witness_handoverCopyDone :
    ((copied.handovers.find? fun h => h.map == 0 && h.copying && !h.prepared && (nextCopy copied h).isNone).bind (·.entry)) = some (0, 0) ∧
      (copied.hq.started.find? fun c => c.opcode == 0x0030 && c.slot == 0 && c.tag == 0).isSome = true := by decide +kernel

def snapBlock : List Byte :=
  blockOf 96 [(0, 1, 8), (8, 2, 8), (24, 0x20000000, 8), (32, 1, 1), (68, 1, 4), (80, 2 ^ 32, 8)]

theorem witness_snapshotStart :
    blockMeets 96 (entry 96 0 0 0 0) (holding snapBlock { State.reset with job := { state := 1 }, net := { handles := [(0, (5, 0))] } }) (fun b v =>
      decide (byteAt b 32 = 1) && !anySet b 33 31 && !anySet b 65 1 && !anySet b 88 8 && decide (v.job.state ≠ 0 ∧ v.tk.tick + 2 ≤ leAt b 8 8) &&
        !snapConflict v && !snapshotBad v b) = true := by decide +kernel

theorem witness_AdminDevice :
    (rouse (snapping someSnap [])).snap = some someSnap ∧ (3, 127) ∉ (rouse State.reset).nor.mapout ∧
      (3, 127) ∈ (rouse { State.reset with nor := { mapout := [(3, 127)] } }).nor.mapout ∧ (rouse State.reset).nor.mapout.length < 32 ∧
      (rouse State.reset).job.state = 0 ∧ (rouse State.reset).mm.reconfig = none ∧ 12 ≤ maxSpread (rouse State.reset) ∧
      devOk (rouse State.reset).mm 64 128 = true ∧ (rouse State.reset).net.mrs.length < 1024 ∧
      tabFind (rouse withMr).net.qps 5 = some someQp ∧ (rouse withMr).net.nextHandle ≤ 65535 := by decide +kernel

theorem witness_rdmaQpSet :
    (∀ st ∈ [0, 1], blockMeets 64 (entry 64 0 0 0 0) (holding (blockOf 64 [(0, 1, 4), (4, st, 1)]) State.reset) (fun b v =>
      !anySet b 5 3 && !anySet b 39 25 && !qpBad v b) = true) := by decide +kernel

/-! ## Steps of the queue -/

/-- One command waits and is run (StepRunsTheFront, StepKeepsMemoryForm, StepNeverUnfuses, QuarantineStays, StepTakesOneCommand); an
empty queue is reset's. -/
theorem witness_steps :
    ∃ (c : Instr) (s t : State), s.pending = c :: [] ∧ Memory.wf s.mm = true ∧ asksRequalify s c = false ∧ step s = .next t :=
  ⟨.tallyClear 0 0, { State.reset with pending := [.tallyClear 0 0] }, _, rfl, by decide +kernel, rfl, rfl⟩

/-! ## Worked examples of the manual -/

/-- R53: a block of 200, 3, -0.7, 0.01 and zeros in E4M3 with RNE. -/
theorem test_block_scaled :
    encodeVec 6 0 (fun _ => 0) (([0x43480000, 0x40400000, 0xBF333333, 0x3C23D70A] ++ List.replicate 28 0 : List Word32).map f32) =
      ([0x7C, 0x4C, 0xBB, 0x0A] ++ List.replicate 28 0 ++ [0x7E], [0x7C, 0x4C, 0xBB, 0x0A] ++ List.replicate 28 0, flInexact) := by
  decide +kernel

/-- R58: E4M3 directly and through BF16 with round to odd gives 0x39, through BF16 with RNE 0x38. -/
theorem test_double_rounding :
    (fpRound fmtE4m3 0 0 (f32 0x3F880800)).1 = 0x39 ∧ (fpRound fmtBf16 0 0 (f32 0x3F880800)).1 = 0x3F88 ∧
      (fpRound fmtE4m3 0 0 (fpDecode fmtBf16 0x3F88)).1 = 0x38 ∧ (fpRound fmtBf16 1 0 (f32 0x3F880800)).1 = 0x3F89 ∧
      (fpRound fmtE4m3 0 0 (stageBf16 (f32 0x3F880800))).1 = 0x39 := by decide +kernel

/-- R60: stochastic rounding to BF16. -/
theorem test_stochastic :
    (fpRound fmtBf16 2 0xF9000000 (f32 0x3F880800)).1 = 0x3F89 ∧ (fpRound fmtBf16 2 0xF7000000 (f32 0x3F880800)).1 = 0x3F88 ∧
      (fpRound fmtBf16 2 0xFFFFFFFF (f32 0x3F880000)).1 = 0x3F88 := by decide +kernel

/-- R62: E5M2 0x7C, which is 65,536, in FP16 and BF16. -/
theorem test_e5m2_converts :
    fpRound fmtFp16 0 0 (fpDecode fmtE5m2 0x7C) = (0x7C00, flOverflow ||| flInexact) ∧ fpRound fmtBf16 0 0 (fpDecode fmtE5m2 0x7C) = (0x4780, 0) := by
  decide +kernel

/-- R94: fixed point at E = -40. -/
theorem test_fixed_point :
    fixedOf (-40) 0x3DCCCCCD = { q := 109951164416 } ∧ fixedOf (-40) 0xBD4D0000 = { q := -55029268480 } ∧
      fixedOf (-40) 0x2B000000 = { q := 0, under := true } ∧ fixedOf (-40) 0x2A800000 = { q := 0, under := true } ∧ fixedOf (-40) 0x2B400000 = { q := 1 } := by
  decide +kernel

/-- R102: the two arrival orders of 0.1, 0.1 and -0.05 end at the same element, and G[0] is FP32 0x3E19_8CCD. -/
theorem test_accumulate_orders :
    (55029268480 : Int) * (-1) + 109951164416 + 109951164416 = 164873060352 ∧ fixedOf (-40) 0x3E198CCD = { q := 164873060352 } := by
  decide +kernel

/-- R71: the record of the default tick. -/
theorem test_record_bytes :
    recordBytes { someDesc with width := 128, wFormat := 2, states := [6, 6] } = 576 ∧ recordBytes { someDesc with width := 8, wFormat := 0, states := [0] } = 128 := by
  decide +kernel

/-- R76: a hashed index. -/
theorem test_hash :
    hashRow { someDesc with mode := 1, rowCount := 2 ^ 20, hashA := 0x9E3779B97F4A7C15, hashB := 0x8000000000000000 } 4294967296 = 1045671 := by
  decide +kernel

def composedDesc : Desc := { someDesc with mode := 2, rowCount := 0, indexLimit := 0, compM := 100000, compQ := 1, compR := 2 }

/-- R76: a COMPOSED table with 2,000 quotient rows. -/
theorem test_composed :
    let s := { State.reset with tb := { tables := [(1, { someTable with desc := { someDesc with rowCount := 2000 } }),
      (2, { someTable with desc := { someDesc with rowCount := 100000 } }), (3, { someTable with desc := composedDesc })] } }
    resolve s 3 composedDesc 123456789 = .rows [(1, 1234), (2, 56789)] ∧ resolve s 3 composedDesc 250000000 = .invalid := by decide +kernel

/-- R139: row 1,000,000 over eight positions in stripes of 1,024. -/
theorem test_owner :
    ownerAt { State.reset with job := { exchange := { maps := [{ stripeLog2 := 10, rowSpan := 2000000, pos := (List.range 8).map fun i =>
      { chip := i, die := 1, slotBase := 100 * i } }] } } } 0 0 1000000 = some (0, 1, 125504, 0) := by decide +kernel

/-- R119: the steps since the last update wrap. -/
theorem test_row_dt : rowDt 1 0xFFFFFFF0 0x100000010 = 32 ∧ rowDt 0 0xFFFFFFF0 0x100000010 = 1 ∧ rowDt 1 1 0 = 2 ^ 31 := by decide +kernel

/-- R235: the narrow tree over 16 and 31 times 0.25 holds 257.875; the wide path is exact. -/
theorem test_matrix_narrow :
    let r := opRow 3 32 (0x58 :: List.replicate 31 0x28)
    let w := opRow 2 32 ((0x80 : Byte) :: 0x41 :: (List.replicate 31 [(0x80 : Byte), 0x3E]).flatten)
    (mmaElem true r r 1 0 0).1 = 0x4380F000 ∧ (mmaElem false w w 1 0 0).1 = 0x4380F800 := by decide +kernel

/-- R242: 257.875 - 1.5 drains to E4M3 code 0x78 with scale code 0x7F. -/
theorem test_drain :
    let y := add32 0x4380F000 0xBFC00000
    y = 0x43803000 ∧ (stageBf16 (f32 y)) = fpDecode fmtBf16 0x4381 ∧ (encodeStaged 6 0 (fun _ => 0) (f32 y :: List.replicate 31 (fpNat 0))).1 =
      0x78 :: List.replicate 31 0 ++ [0x7F] := by decide +kernel

/-- R302: vld.fp32 v0, bf16, [s1 + 0], tap u0. -/
theorem test_assemble : encodeWord 0x41 (fields 0 1 0 0 0x220000) = 0x4100100000220000 := by decide +kernel

def adagrad : Prog :=
  { raw := [], ops := [0x0D408C00, 0x0D092400, 0x41080000, 0x04422000, 0x05824400, 0x1D8A0000, 0x0D8A4000, 0x100A2410].map parseOp }

/-- The row-wise Adagrad example of 06_update_programs.md: S1 becomes 1.0, W[0] 0x3E47_AE15, W[3] stays. -/
theorem test_adagrad :
    let env : UpEnv := { g := [0x3F000000, 0xBE800000, 0x3E000000, 0, 0x3F000000, 0xBF000000, 0x3E800000, 0xBE000000], k := [0xBC23D70A, 0x2EDBE6FF]
                         scale := one32, gstep := 0, rowstep := 1, dt := 1, draw := fun _ => 0 }
    let w : Stored := (0, (List.replicate 8 (leBytes 4 0x3E4CCCCD)).flatten)
    let r := runProgram adagrad env 8 [w, (0, (List.replicate 8 (leBytes 4 0x3F630000)).flatten)]
    tabFind r.regs 1 = some (List.replicate 8 one32) ∧ (decode32 0 8 (finalStore r env [0, 0] 0 w)).take 4 = [0x3E47AE15, 0x3E4F5C29, 0x3E4B851F, 0x3E4CCCCD] := by
  decide +kernel

def adam : Prog :=
  { raw := [], ops := [0x0D008C00, 0x0D424400, 0x10484890, 0x0D882000, 0x0DC34C00, 0x108A50B0, 0x3A118400, 0x0A253000, 0x16423000, 0x3A938400,
      0x0AA53800, 0x16833800, 0x1A8E0000, 0x068E5400, 0x164D3800, 0x100D4010].map parseOp }

/-- The block-scaled Adam example of 06_update_programs.md, element 0 alone. -/
theorem test_adam :
    let env : UpEnv := { g := [0x3F4CCCCD], k := [0xBA83126F, 0x3F666666, 0x3DCCCCCD, 0x3F7FBE77, 0x3A83126F, 0x322BCC77]
                         scale := 0x3F000000, gstep := 0, rowstep := 2, dt := 1, draw := fun _ => 0 }
    let w : Stored := (2, [0x00, 0x3F])
    let r := runProgram adam env 1 [w, (6, [0x5A, 0x77]), (6, [0x48, 0x6F])]
    finalStore r env [0, 0, 0] 0 w = [0xFF, 0x3E] ∧ finalStore r env [0, 0, 0] 1 (6, [0x5A, 0x77]) = [0x7E, 0x73] ∧
      finalStore r env [0, 0, 0] 2 (6, [0x48, 0x6F]) = [0x7E, 0x6A] := by decide +kernel

/-- Check values of CRC-32C ("123456789") and SHA-256 (the empty message), from their standards. -/
theorem test_crc32c : crc32c [0x31, 0x32, 0x33, 0x34, 0x35, 0x36, 0x37, 0x38, 0x39] = 0xE3069283 := by decide +kernel

theorem test_sha256 : (sha256 []).take 4 = [0xE3, 0xB0, 0xC4, 0x42] := by decide +kernel

/-! ## Small steps -/

/-- No word spells a command, and the state is left as it is. -/
theorem test_no_table_word : decodeTableWord 8 1 = none ∧ State.reset.withFetchWord 8 1 = State.reset := by decide +kernel

/-- add and sub into a register that is also a source; s0 stays 0. -/
theorem test_add_sub :
    readS (writeS 1 (readS { sreg := [(1, 3), (2, 5)] } 1 - readS { sreg := [(1, 3), (2, 5)] } 2) { sreg := [(1, 3), (2, 5)] }) 1 = 0xFFFFFFFFFFFFFFFE ∧
      readS (writeS 0 7 { sreg := [] }) 0 = 0 := by decide +kernel

/-- The module powers up in the cold state, and the first phase starts with the input in range and PWR_EN high. -/
theorem test_reset : State.reset.boot.powered = false ∧ State.reset.pending = [] ∧ csrSlot State.reset 0x38 = 1000 := by decide +kernel

/-! ## Ill-formed commands, one for each check -/

def badEntry : AdminEntry := { slot := 0, tag := 2 ^ 32, arg0 := 0, arg1 := 0, arg2 := 0, arg3 := 0, paramAddr := 0, paramBytes := 0, reserved := false }

theorem test_wf_entry : wellFormed (.queueDelete badEntry) = false ∧ wellFormed (.queueDelete { badEntry with tag := 0 }) = true := by decide

theorem test_wf_numbers :
    wellFormed (.linkCtlRetrain 0 96) = false ∧ wellFormed (.linkCtlRetrain 0 95) = true ∧ wellFormed (.laserDrain 0 6) = false ∧
      wellFormed (.laserEol 0 5 8 0 0) = false ∧ wellFormed (.laneDrop 0 0 4 false .cdrLock 0) = false ∧ wellFormed (.pcDrain 4 0) = false ∧
      wellFormed (.pcFence 0 128) = false ∧ wellFormed (.droopDetect 0 9 0 0) = false ∧ wellFormed (.refresh 0 4) = false ∧
      wellFormed (.lookup 0 4 0 0) = false ∧ wellFormed (.nop 160 zeroFields) = false ∧ wellFormed (.nop 159 zeroFields) = true ∧
      wellFormed (.mmaComplete 0 16) = false ∧ wellFormed (.legStart 0 32) = false ∧ wellFormed (.doorbell 0 1024) = false ∧
      wellFormed (.ptpMessage 0 4 false 0) = false ∧ wellFormed (.hurdleRelease 0 64 0) = false ∧ wellFormed (.hurdleRelease 0 0 5) = false ∧
      wellFormed (.hqRegionCtlWrite 16 0) = false ∧ wellFormed (.gscaleWrite 0 0 3 0) = false ∧ wellFormed (.hqAttach 0 2) = false ∧
      wellFormed (.fwGo 0 2) = false ∧ wellFormed (.registerWrite 0 2 4 0) = false ∧ wellFormed (.registerWrite 0 4 2 0) = false ∧
      wellFormed (.registerWrite 0 4 4 0) = true := by decide

theorem test_wf_units :
    wellFormed (.unitWake 0 { kind := 1, index := 160 }) = false ∧ wellFormed (.unitWake 0 { kind := 17, index := 0 }) = false ∧
      wellFormed (.bistQueuePass 0 160) = false ∧ wellFormed (.bistQueuePass 4 0) = false ∧ wellFormed (.grazeSlice 0 2 0 { amount := 0 }) = false ∧
      wellFormed (.grazeSlice 0 14 12 { amount := 0 }) = false ∧ wellFormed (.parityRetry 0 8 { kind := 0, index := 0 } 0 0 0 0 { kind := 0, index := 0 }) = false ∧
      wellFormed (.thermalSample 0 [] [] 0 0) = false := by decide

theorem test_wf_header :
    rxOk (rxFrom 4096) = false ∧ rxOk { rxFrom 0 with li := 96 } = false ∧ rxOk { rxFrom 0 with cls := 4 } = false ∧
      rxOk { rxFrom 0 with hops := 3 } = false ∧ rxOk { rxFrom 0 with credPool := 13 } = false ∧ rxOk (rxFrom 4095) = true ∧
      wellFormed (.nak 0 { rxFrom 0 with seq := 65536 }) = false ∧ wellFormed (.transitCarriage 0 rx2 4096 0 (.echoReq 0) .clean) = false ∧
      wellFormed (.denseReceive 0 rx2 12 { step32 := 0, tick16 := 0, tensor := 0, group := 0, part := 0, kind := 0, fmt := 0, shear := 0, stage := 0, payload := List.replicate 256 0 }) = false := by
  decide +kernel

theorem test_wf_payloads :
    markOk someMark = true ∧ markOk { someMark with mkind := 7 } = false ∧ markOk { someMark with committed := true, skipReq := true } = false ∧
      paceOk somePace = true ∧ paceOk { somePace with pace := 511 } = false ∧ paceOk { somePace with hold := 0 } = false ∧
      idxOk someIdx = true ∧ idxOk { someIdx with entries := [] } = false ∧ rowOk (someRow 1) = true ∧ rowOk (someRow 17) = false ∧
      gradOk (someGradMsg 0) = true ∧ gradOk (someGradMsg (2 ^ 40)) = false ∧
      denseOk { step32 := 0, tick16 := 0, tensor := 0, group := 0, part := 0, kind := 3, fmt := 0, shear := 0, stage := 0, payload := List.replicate 256 0 } = false ∧
      bulkOk { bseq := 0, stream := 1, table := 0, slot := 0, chunk := 0, payload := [0] } = false ∧
      planDigestOk { digest := [], planId := 0, kind := 0, verdict := 0, chip := 0 } = false ∧
      nodeOk { round := 0, region := 65536, level := 0, node := 0 } = false ∧ laneOk (.drop 4) = false ∧
      bodyOk (.digestReply { round := 0, region := 0, level := 0, node := 0 } (List.replicate 17 (0, 0))) = false ∧
      bodyOk (.repairData { region := 0, block := 0, chunk := 274, refDigest := 0, payload := [] }) = false ∧
      classOk (.echoReq 0) 0 = false ∧ classOk (.echoReq 0) 3 = true := by decide +kernel

end Sys2Proof.Tests
end

section
/-! What the commands that access registers do: register writes by width, and the accesses of the window aperture case by case. -/

namespace Sys2Proof.Machine

variable {s : State}

@[simp] theorem csrServed_atTime (now off : Nat) (s : State) : csrServed (atTime now s) off = csrServed s off := rfl

@[simp] theorem windowAddr_atTime (now off : Nat) (s : State) : windowAddr (atTime now s) off = windowAddr s off := rfl

/-! ## Commands that are a register write -/

theorem execTallyClear_zero (off : Nat) (s : State) : execTallyClear off 0 s = .next (clearTally off s) := rfl

theorem execTallyClear_of_ne_zero (off : Nat) {v : Nat} (hv : v ≠ 0) (s : State) : execTallyClear off v s = .next s := by
  simp [execTallyClear, hv]

section gscale
variable {b f : Nat} (hb : b < 2) (hf : f < 256) (v : Word64)
include hb hf

theorem execGscaleWrite_tag : execGscaleWrite b f 0 v s = .next (gscalePut b (8 * f) (v.setWidth 32) s) := by
  simp [execGscaleWrite, onUnit, hb, hf]

theorem execGscaleWrite_scale : execGscaleWrite b f 1 v s = .next (gscalePut b (8 * f + 4) (v.setWidth 32) s) := by
  simp [execGscaleWrite, onUnit, hb, hf]

theorem execGscaleWrite_entry :
    execGscaleWrite b f 2 v s =
      .next (gscalePut b (8 * f + 4) ((v >>> (32 : Nat)).setWidth 32) (gscalePut b (8 * f) (v.setWidth 32) s)) := by
  simp [execGscaleWrite, onUnit, hb, hf]

end gscale

section region
variable {n : Nat} (hn : n < 16)
include hn

theorem execHqRegionCtlWrite_of_invalid (v : Word32) (hr : (regionAt s n).valid = false) :
    execHqRegionCtlWrite n v s = .next (setRegion n { regionAt s n with
      valid := v.getLsbD 0 && regionLegal s (regionAt s n) (v.getLsbD 3)
      read := v.getLsbD 1, write := v.getLsbD 2, target := v.getLsbD 3 } s) := by
  simp [execHqRegionCtlWrite, onUnit, hn, hr]

theorem execHqRegionCtlWrite_clears_valid (v : Word32) (hr : (regionAt s n).valid = true) (hv : v.getLsbD 0 = false) :
    execHqRegionCtlWrite n v s = .next (setRegion n { regionAt s n with valid := false } s) := by
  simp only [execHqRegionCtlWrite, onUnit, hn, hr, hv, decide_true, if_true]
  rfl

/-- A VALID entry's control takes a clearing of VALID and nothing else (R342). -/
theorem execHqRegionCtlWrite_keeps_valid (v : Word32) (hr : (regionAt s n).valid = true) (hv : v.getLsbD 0 = true) :
    execHqRegionCtlWrite n v s = .next s := by
  simp only [execHqRegionCtlWrite, onUnit, hn, hr, hv, decide_true, if_true]

theorem execHqRegionCtlRead_of_lt :
    execHqRegionCtlRead n s = .next (readRegionCtl { entry := n, window := false, off := 0, len := 8 } s) := by
  simp [execHqRegionCtlRead, onUnit, hn]

end region

/-- A read of an entry's control returns at once where no access through the cleared entry is open. -/
theorem readRegionCtl_of_idle (r : CtlRead) (h : regionBusy s r.entry = false) :
    readRegionCtl r s = answerCtlRead r s := by
  simp [readRegionCtl, h]

/-- It waits, where one is open. -/
theorem readRegionCtl_of_busy (r : CtlRead) (h : regionBusy s r.entry = true) :
    readRegionCtl r s = { s with hq := { s.hq with ctlReads := s.hq.ctlReads ++ [r] } } := by
  simp [readRegionCtl, h]

theorem execTileReset_of_idle {p : Nat} (hp : p < 160) (hrun : running s = false) (hquar : s.nor.quarTiles.getLsbD p = false)
    (hmap : s.tiles.pendMap = none) : execTileReset p s = .next (resetTile p s) := by
  simp only [execTileReset, onUnit, hp, hrun, hquar, hmap]
  rfl

/-! ## Writes of a served page by width -/

section width
variable {off : Nat} (now : Nat) (hserved : csrServed s off = true)
include hserved

/-- An aligned write of 8 bytes puts both halves of its slot; a 64-bit value has no more. -/
theorem csrWrite_eight (h : off % 8 = 0) {v : Nat} (hv : v < 2 ^ 64) :
    csrWrite now off 8 v s = csrPut now off (some (v % 2 ^ 32)) (some (v / 2 ^ 32)) s := by
  have hhigh : v / 2 ^ 32 % 2 ^ 32 = v / 2 ^ 32 := Nat.mod_eq_of_lt (by omega)
  simp only [csrWrite, csrAligned, h, hserved, hhigh]
  rfl

theorem csrWrite_four_low (h : off % 8 = 0) (v : Nat) :
    csrWrite now off 4 v s = csrPut now off (some (v % 2 ^ 32)) none s := by
  have halign : off % 4 = 0 := by omega
  simp [csrWrite, csrAligned, h, halign, hserved]

theorem csrWrite_four_high (h : off % 8 = 4) (v : Nat) :
    csrWrite now off 4 v s = csrPut now (off - 4) none (some (v % 2 ^ 32)) s := by
  have halign : off % 4 = 0 := by omega
  simp [csrWrite, csrAligned, h, halign, hserved]

end width

/-! ## The window aperture

With the link up and an access inside the aperture, the address is one of CSR space, in a page that is served or not, or one
that decodes to memory, or one that decodes to nothing (R15, R343). -/

section windowRead
variable {off n : Nat} (now : Nat) (hup : s.net.pcieUp = true) (hfit : off + n ≤ 2 ^ 32)
include hup hfit

theorem execWindowRead_memory (hcsr : windowCsr (windowAddr s off) n = false)
    (hdev : devOk s.mm (windowAddr s off) n = true) :
    execWindowRead now off n s = .next (emit (.completion cplOk (poisonIn s.mm (windowAddr s off) n).isSome
      (memRead s.mm (windowAddr s off) n)) (rouse (atTime now s))) := by
  simp [-Nat.reducePow, execWindowRead, hup, hfit.not_gt, hcsr, hdev]

theorem execWindowRead_undecoded (hcsr : windowCsr (windowAddr s off) n = false)
    (hdev : devOk s.mm (windowAddr s off) n = false) :
    execWindowRead now off n s = .next (emit (.completion cplUnsupported false []) (atTime now s)) := by
  simp [-Nat.reducePow, execWindowRead, hup, hfit.not_gt, hcsr, hdev]

variable (hcsr : windowCsr (windowAddr s off) n = true)
include hcsr

theorem execWindowRead_unserved (hserved : csrServed s (windowAddr s off - csrBase) = false) :
    execWindowRead now off n s = .next (emit (.completion cplUnsupported false []) (atTime now s)) := by
  simp [-Nat.reducePow, execWindowRead, hup, hfit.not_gt, hcsr, hserved]

variable (hserved : csrServed s (windowAddr s off - csrBase) = true)
include hserved

theorem execWindowRead_regionCtl (halign : csrAligned (windowAddr s off - csrBase) n = true) {e : Nat}
    (hctl : ctlRead (windowAddr s off - csrBase) = some e) :
    execWindowRead now off n s = .next (readRegionCtl
      { entry := e, window := true, off := (windowAddr s off - csrBase) % 8, len := n } (atTime now s)) := by
  simp [-Nat.reducePow, execWindowRead, hup, hfit.not_gt, hcsr, hserved, halign, hctl]

/-- A read of any other register, and an unaligned one, gives what `csrRead` does. -/
theorem execWindowRead_register
    (hplain : csrAligned (windowAddr s off - csrBase) n = false ∨ ctlRead (windowAddr s off - csrBase) = none)
    {bs : List Byte} {v : State} (hread : csrRead (windowAddr s off - csrBase) n (atTime now s) = (bs, v)) :
    execWindowRead now off n s = .next (emit (.completion cplOk false bs) v) := by
  rcases hplain with h | h <;> simp [-Nat.reducePow, execWindowRead, hup, hfit.not_gt, hcsr, hserved, h, hread]

end windowRead

section windowWrite
variable {off : Nat} {bs : List Byte} (now : Nat) (hup : s.net.pcieUp = true) (hfit : off + bs.length ≤ 2 ^ 32)
include hup hfit

theorem execWindowWrite_memory (hcsr : windowCsr (windowAddr s off) bs.length = false)
    (hdev : devOk s.mm (windowAddr s off) bs.length = true) :
    execWindowWrite now off bs s = .next { rouse (atTime now s) with
      mm := memWrite (rouse (atTime now s)).mm (windowAddr s off) bs } := by
  simp [-Nat.reducePow, execWindowWrite, hup, hfit.not_gt, hcsr, hdev]

theorem execWindowWrite_undecoded (hcsr : windowCsr (windowAddr s off) bs.length = false)
    (hdev : devOk s.mm (windowAddr s off) bs.length = false) :
    execWindowWrite now off bs s = .next (emit (.completion cplUnsupported false []) (atTime now s)) := by
  simp [-Nat.reducePow, execWindowWrite, hup, hfit.not_gt, hcsr, hdev]

theorem execWindowWrite_unserved (hcsr : windowCsr (windowAddr s off) bs.length = true)
    (hserved : csrServed s (windowAddr s off - csrBase) = false) :
    execWindowWrite now off bs s = .next (emit (.completion cplUnsupported false []) (atTime now s)) := by
  simp [-Nat.reducePow, execWindowWrite, hup, hfit.not_gt, hcsr, hserved]

theorem execWindowWrite_register (hcsr : windowCsr (windowAddr s off) bs.length = true)
    (hserved : csrServed s (windowAddr s off - csrBase) = true) :
    execWindowWrite now off bs s =
      .next (csrWrite now (windowAddr s off - csrBase) bs.length (leNat bs) (atTime now s)) := by
  simp [-Nat.reducePow, execWindowWrite, hup, hfit.not_gt, hcsr, hserved]

end windowWrite

/-- Settles O56: each command's equation, clause by clause. A window access to memory wakes a module in I4 (R353). -/
theorem registerAccess : Obligations.RegisterAccess := by
  refine ⟨?tally, ?gscale, ?region, ?tile, ?register, ?read, ?write⟩
  case tally =>
    refine fun s off v => ⟨?_, fun hv => execTallyClear_of_ne_zero off hv s⟩
    rintro rfl
    exact execTallyClear_zero off s
  case gscale =>
    exact fun s b f v hb hf => ⟨execGscaleWrite_tag hb hf v, execGscaleWrite_scale hb hf v, execGscaleWrite_entry hb hf v⟩
  case region =>
    rintro s n v _ hn rfl
    have hread := execHqRegionCtlRead_of_lt (s := s) hn
    exact ⟨execHqRegionCtlWrite_of_invalid hn v, execHqRegionCtlWrite_clears_valid hn v, execHqRegionCtlWrite_keeps_valid hn v,
      fun hidle => hread.trans (congrArg Host.Outcome.next (readRegionCtl_of_idle _ hidle)),
      fun hbusy => hread.trans (congrArg Host.Outcome.next (readRegionCtl_of_busy _ hbusy))⟩
  case tile => exact fun s p => execTileReset_of_idle
  case register =>
    rintro s _ now off v rfl hserved
    rw [← csrServed_atTime now] at hserved
    exact ⟨fun h => congrArg Host.Outcome.next (csrWrite_eight now hserved h v.isLt),
      fun h => congrArg Host.Outcome.next (csrWrite_four_low now hserved h v.toNat),
      fun h => congrArg Host.Outcome.next (csrWrite_four_high now hserved h v.toNat)⟩
  case read =>
    rintro s _ now off n _ rfl hup hfit rfl
    exact ⟨fun hcsr => ⟨execWindowRead_memory now hup hfit hcsr, execWindowRead_undecoded now hup hfit hcsr⟩,
      execWindowRead_unserved now hup hfit,
      fun hcsr hserved halign _ hctl => execWindowRead_regionCtl now hup hfit hcsr hserved halign hctl,
      fun hcsr hserved hplain _ _ hread => execWindowRead_register now hup hfit hcsr hserved hplain hread⟩
  case write =>
    rintro s _ now off _ bs rfl hup hfit rfl
    exact ⟨fun hcsr => ⟨execWindowWrite_memory now hup hfit hcsr, execWindowWrite_undecoded now hup hfit hcsr⟩,
      execWindowWrite_unserved now hup hfit, execWindowWrite_register now hup hfit⟩

end Sys2Proof.Machine
end

section
/-! Little-endian values: storing a value and reading it back, and what a read of memory returns after a write. -/

namespace Sys2Proof.Machine

@[simp] theorem length_leBytes (n v : Nat) : (leBytes n v).length = n := by
  induction n generalizing v with
  | zero => rfl
  | succ n ih => simp [leBytes, ih]

theorem leNat_lt (bs : List Byte) : leNat bs < 256 ^ bs.length := by
  induction bs with
  | nil => simp [leNat]
  | cons b bs ih =>
    have hb := b.isLt
    simp only [leNat, List.length_cons, Nat.pow_succ]
    omega

theorem leNat_leBytes (n v : Nat) : leNat (leBytes n v) = v % 256 ^ n := by
  induction n generalizing v with
  | zero => simp [leBytes, leNat, Nat.mod_one]
  | succ n ih =>
    rw [leBytes, leNat, ih, BitVec.toNat_ofNat, pow_succ' 256 n, Nat.mod_mul]

theorem leBytes_leNat (bs : List Byte) : leBytes bs.length (leNat bs) = bs := by
  induction bs with
  | nil => rfl
  | cons b bs ih =>
    have hb := b.isLt
    have hlow : BitVec.ofNat 8 (b.toNat + 256 * leNat bs) = b := by
      apply BitVec.eq_of_toNat_eq
      rw [BitVec.toNat_ofNat]
      omega
    have hrest : (b.toNat + 256 * leNat bs) / 256 = leNat bs := by omega
    rw [List.length_cons, leBytes, leNat, hlow, hrest, ih]

@[simp] theorem length_memRead (m : Mm) (a n : Nat) : (memRead m a n).length = n := by
  simp [memRead]

theorem memNat_lt (m : Mm) (a n : Nat) : memNat m a n < 256 ^ n := by
  simpa [memNat] using leNat_lt (memRead m a n)

theorem memRead_memWrite_same {m : Mm} (hopen : ∀ l, lineFenced m l = false) (a : Nat) (bs : List Byte) :
    memRead (memWrite m a bs) a bs.length = bs := by
  apply List.ext_getElem (by simp)
  intro k _ hk
  simp [memRead, memByte_memWrite, hopen, hk]

theorem memRead_memWrite_outside (m : Mm) {a b n : Nat} {bs : List Byte} (hout : b + n ≤ a ∨ a + bs.length ≤ b) :
    memRead (memWrite m a bs) b n = memRead m b n := by
  refine List.map_congr_left fun k hk => memByte_memWrite_outside m a bs (b + k) ?_
  have := List.mem_range.mp hk
  omega

/-- The bytes of a word are determined by its value. -/
theorem memByte_eq_of_memNat_eq {m m' : Mm} {a n r : Nat} (hr : r < n) (h : memNat m a n = memNat m' a n) :
    memByte m (a + r) = memByte m' (a + r) := by
  have hread : memRead m a n = memRead m' a n :=
    calc memRead m a n = leBytes n (memNat m a n) := by simpa [memNat] using (leBytes_leNat (memRead m a n)).symm
      _ = leBytes n (memNat m' a n) := by rw [h]
      _ = memRead m' a n := by simpa [memNat] using leBytes_leNat (memRead m' a n)
  simp only [memRead, List.map_inj_left, List.mem_range] at hread
  exact hread r hr

/-! Fencing and decoding do not depend on what memory holds. -/

@[simp] theorem localBase_memWrite (m : Mm) (a : Nat) (bs : List Byte) : localBase (memWrite m a bs) = localBase m := by
  funext d
  induction d with
  | zero => rfl
  | succ d ih => rw [localBase, ih]; rfl

@[simp] theorem pastureBase_memWrite (m : Mm) (a : Nat) (bs : List Byte) :
    pastureBase (memWrite m a bs) = pastureBase m := by
  funext d
  induction d with
  | zero => rfl
  | succ d ih => rw [pastureBase, ih]; rfl

@[simp] theorem decodeAddr_memWrite (m : Mm) (a : Nat) (bs : List Byte) (b : Nat) :
    decodeAddr (memWrite m a bs) b = decodeAddr m b := by
  have hhbm : decodeHbm (memWrite m a bs) b = decodeHbm m b := by
    rw [decodeHbm, localBase_memWrite]; rfl
  have hlp : decodeLp (memWrite m a bs) b = decodeLp m b := by
    rw [decodeLp, pastureBase_memWrite]; rfl
  rw [decodeAddr, hhbm, hlp, decodeAddr]

@[simp] theorem lineFenced_memWrite (m : Mm) (a : Nat) (bs : List Byte) (l : Nat) :
    lineFenced (memWrite m a bs) l = lineFenced m l := by
  have hpc : mmPc (memWrite m a bs) = mmPc m := rfl
  rw [lineFenced, decodeAddr_memWrite, hpc, lineFenced]

@[simp] theorem devOk_memWrite (m : Mm) (a : Nat) (bs : List Byte) (b n : Nat) :
    devOk (memWrite m a bs) b n = devOk m b n := rfl

theorem putMem_of_devOk {s : State} {a : Nat} {bs : List Byte} (hdev : devOk s.mm a bs.length = true) :
    putMem a bs s = { s with mm := memWrite s.mm a bs } := by
  simp [putMem, hdev]

end Sys2Proof.Machine
end

section
/-! Contributions to an accumulator slot (R95): the value of every element after they are added, and that their order does not matter. -/

namespace Sys2Proof.Machine

/-- An element of a slot after q is added to it, modulo 2^48 (R95). -/
def sum48 (n : Nat) (q : Int) : Nat := (((n : Int) + q) % 2 ^ 48).toNat

theorem coe_sum48 (n : Nat) (q : Int) : (sum48 n q : Int) = ((n : Int) + q) % 2 ^ 48 :=
  Int.toNat_of_nonneg (Int.emod_nonneg _ (by decide))

theorem sum48_lt (n : Nat) (q : Int) : sum48 n q < 256 ^ 6 := by
  have := coe_sum48 n q
  omega

theorem sum48_zero {n : Nat} (hn : n < 256 ^ 6) : sum48 n 0 = n := by
  have := coe_sum48 n 0
  omega

theorem sum48_sum48 (n : Nat) (q r : Int) : sum48 (sum48 n q) r = sum48 n (q + r) := by
  rw [sum48, coe_sum48, Int.emod_add_emod, Int.add_assoc, sum48]

theorem sum48_comm (n : Nat) (q r : Int) : sum48 (sum48 n q) r = sum48 (sum48 n r) q := by
  rw [sum48_sum48, sum48_sum48, Int.add_comm]

/-- What a contribution `qs` from element `first` on adds to element `k`. -/
def shareAt (first : Nat) (qs : List Int) (k : Nat) : Int := if first ≤ k then qs.getD (k - first) 0 else 0

theorem shareAt_nil (first k : Nat) : shareAt first [] k = 0 := by
  simp [shareAt]

theorem shareAt_cons (first : Nat) (q : Int) (qs : List Int) (k : Nat) :
    shareAt first (q :: qs) k = (if k = first then q else 0) + shareAt (first + 1) qs k := by
  rcases Nat.lt_trichotomy k first with h | rfl | h
  · simp [shareAt, h.ne, Nat.not_le.mpr h, Nat.not_le.mpr (Nat.lt_succ_of_lt h)]
  · simp [shareAt]
  · have hidx : k - first = (k - (first + 1)) + 1 := by omega
    simp [shareAt, h.ne', h.le, Nat.succ_le_of_lt h, hidx]

/-- One element's addition: the step that `addElems` repeats. -/
def addElem (a k : Nat) (q : Int) (s : State) : State :=
  putMem (a + 6 * k) (leBytes 6 (sum48 (memNat s.mm (a + 6 * k) 6) q)) s

theorem addElems_eq_foldl (a first : Nat) (qs : List Int) (s : State) :
    addElems a first qs s = qs.zipIdx.foldl (fun s x => addElem a (first + x.2) x.1 s) s := rfl

theorem addElems_nil (a first : Nat) (s : State) : addElems a first [] s = s := rfl

theorem addElems_cons (a first : Nat) (q : Int) (qs : List Int) (s : State) :
    addElems a first (q :: qs) s = addElems a (first + 1) qs (addElem a first q s) := by
  rw [addElems_eq_foldl, List.zipIdx_cons', List.foldl_cons, List.foldl_map, addElems_eq_foldl]
  simp [Nat.add_assoc, Nat.add_comm 1]

/-- Elements `first` to `first + n - 1` of the slot at `a` decode (R15), and no line of memory is fenced. -/
structure SlotOpen (a first n : Nat) (m : Mm) : Prop where
  unfenced : ∀ l, lineFenced m l = false
  decodes : ∀ k, first ≤ k → k < first + n → devOk m (a + 6 * k) 6 = true

section addElem
variable {a first n : Nat} {s : State}

theorem SlotOpen.head (h : SlotOpen a first (n + 1) s.mm) : SlotOpen a first 1 s.mm :=
  ⟨h.unfenced, fun k hk hlt => h.decodes k hk (by omega)⟩

theorem SlotOpen.tail (h : SlotOpen a first (n + 1) s.mm) : SlotOpen a (first + 1) n s.mm :=
  ⟨h.unfenced, fun k hk hlt => h.decodes k (by omega) (by omega)⟩

theorem addElem_mm (h : SlotOpen a first 1 s.mm) (q : Int) :
    (addElem a first q s).mm =
      memWrite s.mm (a + 6 * first) (leBytes 6 (sum48 (memNat s.mm (a + 6 * first) 6) q)) := by
  rw [addElem, putMem_of_devOk (by simpa using h.decodes first le_rfl (by omega))]

theorem addElem_slotOpen (h : SlotOpen a first 1 s.mm) (q : Int) {b j c : Nat} (ho : SlotOpen b j c s.mm) :
    SlotOpen b j c (addElem a first q s).mm := by
  rw [addElem_mm h]
  exact ⟨by simpa using ho.unfenced, by simpa using ho.decodes⟩

/-- One addition changes its own element alone. -/
theorem memNat_addElem (h : SlotOpen a first 1 s.mm) (q : Int) (k : Nat) :
    memNat (addElem a first q s).mm (a + 6 * k) 6 =
      sum48 (memNat s.mm (a + 6 * k) 6) (if k = first then q else 0) := by
  rw [addElem_mm h]
  split
  case isTrue hk =>
    subst hk
    have hsame := memRead_memWrite_same h.unfenced (a + 6 * k) (leBytes 6 (sum48 (memNat s.mm (a + 6 * k) 6) q))
    rw [length_leBytes] at hsame
    rw [memNat, hsame, leNat_leBytes, Nat.mod_eq_of_lt (sum48_lt _ _)]
  case isFalse hk =>
    rw [sum48_zero (memNat_lt _ _ _), memNat, memRead_memWrite_outside _ (by rw [length_leBytes]; omega), memNat]

theorem memByte_addElem_below (h : SlotOpen a first 1 s.mm) (q : Int) {b : Nat} (hb : b < a) :
    memByte (addElem a first q s).mm b = memByte s.mm b := by
  rw [addElem_mm h]
  exact memByte_memWrite_outside _ _ _ _ (.inl (by omega))

end addElem

theorem addElems_slotOpen {a first : Nat} {qs : List Int} {s : State} (h : SlotOpen a first qs.length s.mm)
    {b j c : Nat} (ho : SlotOpen b j c s.mm) : SlotOpen b j c (addElems a first qs s).mm := by
  induction qs generalizing first s with
  | nil => exact ho
  | cons q qs ih =>
    rw [addElems_cons]
    exact ih (addElem_slotOpen h.head q h.tail) (addElem_slotOpen h.head q ho)

/-- Every element of the slot after a contribution: its 48-bit sum with what the contribution holds for it (R95). -/
theorem memNat_addElems {a first : Nat} {qs : List Int} {s : State} (h : SlotOpen a first qs.length s.mm) (k : Nat) :
    memNat (addElems a first qs s).mm (a + 6 * k) 6 = sum48 (memNat s.mm (a + 6 * k) 6) (shareAt first qs k) := by
  induction qs generalizing first s with
  | nil => rw [addElems_nil, shareAt_nil, sum48_zero (memNat_lt _ _ _)]
  | cons q qs ih =>
    rw [addElems_cons, ih (addElem_slotOpen h.head q h.tail), memNat_addElem h.head, sum48_sum48, shareAt_cons]

theorem memByte_addElems_below {a first : Nat} {qs : List Int} {s : State} (h : SlotOpen a first qs.length s.mm)
    {b : Nat} (hb : b < a) : memByte (addElems a first qs s).mm b = memByte s.mm b := by
  induction qs generalizing first s with
  | nil => rfl
  | cons q qs ih => rw [addElems_cons, ih (addElem_slotOpen h.head q h.tail), memByte_addElem_below h.head q hb]

/-- Memories that agree below `a` and in every 6-byte element from `a` on agree in every byte. -/
theorem memByte_eq_of_elements_eq {m m' : Mm} {a : Nat} (hbelow : ∀ b, b < a → memByte m b = memByte m' b)
    (helem : ∀ k, memNat m (a + 6 * k) 6 = memNat m' (a + 6 * k) 6) (b : Nat) : memByte m b = memByte m' b := by
  rcases Nat.lt_or_ge b a with hb | hb
  · exact hbelow b hb
  · have hsplit : b = a + 6 * ((b - a) / 6) + (b - a) % 6 := by omega
    rw [hsplit]
    exact memByte_eq_of_memNat_eq (Nat.mod_lt _ (by decide)) (helem _)

/-- Settles O37: each element ends as its 48-bit sum with both contributions (R95), and such sums commute. -/
theorem accumulatorOrder : Obligations.AccumulatorOrder := by
  intro s a i j xs ys hfence hdev
  have hx : SlotOpen a i xs.length s.mm := ⟨hfence, fun k hk hlt => hdev k (.inl ⟨hk, hlt⟩)⟩
  have hy : SlotOpen a j ys.length s.mm := ⟨hfence, fun k hk hlt => hdev k (.inr ⟨hk, hlt⟩)⟩
  have hxy := addElems_slotOpen hy hx
  have hyx := addElems_slotOpen hx hy
  refine memByte_eq_of_elements_eq (a := a) (fun b hb => ?_) (fun k => ?_)
  · rw [memByte_addElems_below hxy hb, memByte_addElems_below hy hb, memByte_addElems_below hyx hb,
      memByte_addElems_below hx hb]
  · rw [memNat_addElems hxy, memNat_addElems hy, memNat_addElems hyx, memNat_addElems hx, sum48_comm]

end Sys2Proof.Machine
end

section
/-! Where a module stands within a command: the instant, its chip, and the numbers and start of its tick. Every operation below
leaves them alone; what a boundary or a carriage does beside its own effect is made of these operations. -/

namespace Sys2Proof.Machine

/-- The instant, the module's chip, and its tick's number, step and start. -/
structure Bearings where
  now : Nat
  chip : Nat
  tick : Nat
  step : Nat
  tickStartAt : Nat

def bearings (s : State) : Bearings := ⟨s.now, s.lg.chip, s.tk.tick, s.tk.step, s.run.tickStartAt⟩

@[simp] theorem bearings_mk {now : Nat} {boot : Boot} {nor : Nor} {sc : Sc} {mm : Mm} {hq : Hq} {net : Net} {tk : Tk}
    {run : TkRun} {start : StartCheck} {job : Job} {record : JobRecord} {tb : Tables} {folds : Folds} {ru : Tab RowUnit} {commit : Commit}
    {ex : Ex} {handovers : List Handover} {bulk : Bulk} {lg : Lg} {digest : Digest} {snap : Option Snapshot}
    {repairsDue : List (Nat × Nat × Nat)} {tiles : Tiles} {pw : Pw} {gz : Gz} {tallies : Tallies} {out : List Out}
    {freeCtr : Nat} {pending : List Instr} :
    bearings (State.mk now boot nor sc mm hq net tk run start job record tb folds ru commit ex handovers bulk lg digest snap
      repairsDue tiles pw gz tallies out freeCtr pending) = ⟨now, lg.chip, tk.tick, tk.step, run.tickStartAt⟩ := rfl

/-- The fields of one state fold back. -/
@[simp] theorem bearings_eta (s : State) :
    Bearings.mk s.now s.lg.chip s.tk.tick s.tk.step s.run.tickStartAt = bearings s := rfl

@[simp] theorem bearings_ite (c : Prop) [Decidable c] (s t : State) :
    bearings (if c then s else t) = if c then bearings s else bearings t := apply_ite ..

@[simp] theorem bearings_foldl {α : Type} {f : State → α → State} (h : ∀ t x, bearings (f t x) = bearings t) (l : List α)
    (s : State) : bearings (l.foldl f s) = bearings s := by
  induction l generalizing s with
  | nil => rfl
  | cons x l ih => rw [List.foldl_cons, ih, h]

section
variable {s t : State} (h : bearings t = bearings s)
include h

theorem now_eq_of_bearings : t.now = s.now := congrArg Bearings.now h

theorem chip_eq_of_bearings : t.lg.chip = s.lg.chip := congrArg Bearings.chip h

end

variable (s : State)

/-! ### Counters, free values, events -/

@[simp] theorem bearings_emit (o) : bearings (emit o s) = bearings s := rfl

@[simp] theorem bearings_tallyBy (off by_) : bearings (tallyBy off by_ s) = bearings s := rfl

@[simp] theorem bearings_tally (off) : bearings (tally off s) = bearings s := rfl

@[simp] theorem bearings_freeWord : bearings (freeWord s).2 = bearings s := rfl

@[simp] theorem bearings_freeBytes (n) : bearings (freeBytes n s).2 = bearings s := rfl

@[simp] theorem bearings_platformEvent (e) : bearings (platformEvent e s) = bearings s := by
  unfold platformEvent
  split <;> rfl

@[simp] theorem bearings_stampEvent (code sev u detail) : bearings (stampEvent code sev u detail s).2 = bearings s := by
  simp [stampEvent]

@[simp] theorem bearings_pushOvf (e) : bearings (pushOvf e s) = bearings s := by simp [pushOvf]

@[simp] theorem bearings_violationIntoOvf (queue addr) : bearings (violationIntoOvf queue addr s) = bearings s := by
  simp [violationIntoOvf]

@[simp] theorem bearings_rawRead (addr n) : bearings (rawRead addr n s).2 = bearings s := by
  unfold rawRead
  split
  · rfl
  · split <;> simp

@[simp] theorem bearings_rawWrite (addr bs) : bearings (rawWrite addr bs s) = bearings s := by
  unfold rawWrite
  (repeat' split) <;> simp

@[simp] theorem bearings_writeEventSlot (q qu e) : bearings (writeEventSlot q qu e s) = bearings s := by
  simp [writeEventSlot]

@[simp] theorem bearings_readOwn (a) : bearings (readOwn a s).2 = bearings s := by simp [readOwn]

@[simp] theorem bearings_deliver (e) : bearings (deliver e s) = bearings s := by
  unfold deliver
  (repeat' split) <;> simp

@[simp] theorem bearings_raise (code sev u detail) : bearings (raise code sev u detail s) = bearings s := by simp [raise]

@[simp] theorem bearings_securityViolation (cause code index addr) :
    bearings (securityViolation cause code index addr s) = bearings s := by simp [securityViolation]

@[simp] theorem bearings_hqWrite (queue addr bs) : bearings (hqWrite queue addr bs s) = bearings s := by simp [hqWrite]

/-! ### Links -/

@[simp] theorem bearings_sendCodeword (li l bits) : bearings (sendCodeword li l bits s).2 = bearings s := rfl

@[simp] theorem bearings_feedLink (li bs l) : bearings (feedLink li bs l s).2 = bearings s := by
  unfold feedLink
  dsimp only
  split <;> simp

@[simp] theorem bearings_fillLink (li l) : bearings (fillLink li l s).2 = bearings s := by
  unfold fillLink
  split <;> rfl

@[simp] theorem bearings_setLink (li l) : bearings (setLink li l s) = bearings s := rfl

@[simp] theorem bearings_modLink (li f) : bearings (modLink li f s) = bearings s := rfl

@[simp] theorem bearings_freeBuffer (li p) : bearings (freeBuffer li p s) = bearings s := rfl

@[simp] theorem bearings_freeHeld (h) : bearings (freeHeld h s) = bearings s := by
  unfold freeHeld
  split <;> rfl

@[simp] theorem bearings_sendBytes (li h stomped c l) : bearings (sendBytes li h stomped c l s) = bearings s := by
  simp [sendBytes]

@[simp] theorem bearings_putOnWire (li seq resent c) : bearings (putOnWire li seq resent c s) = bearings s := by
  simp [putOnWire]

@[simp] theorem bearings_idleFill (li) : bearings (idleFill li s) = bearings s := by simp [idleFill]

@[simp] theorem bearings_transmit (li w) : bearings (transmit li w s) = bearings s := by simp [transmit]

@[simp] theorem bearings_pumpFuel (li n) : bearings (pumpFuel li n s) = bearings s := by
  induction n generalizing s with
  | zero => rfl
  | succ n ih =>
    unfold pumpFuel
    dsimp only
    split
    · split
      · rfl
      · split <;> simp [ih]
    · rfl

@[simp] theorem bearings_pump (li) : bearings (pump li s) = bearings s := by simp [pump]

@[simp] theorem bearings_enqueue (li w) : bearings (enqueue li w s) = bearings s := by simp [enqueue]

@[simp] theorem bearings_sendOn (li c) : bearings (sendOn li c s) = bearings s := by simp [sendOn]

@[simp] theorem bearings_route (c holds) : bearings (route c holds s) = bearings s := by
  unfold route
  split <;> simp

@[simp] theorem bearings_originate (cls dest lg body) : bearings (originate cls dest lg body s) = bearings s := by
  simp [originate]

@[simp] theorem bearings_resendAll (li) : bearings (resendAll li s) = bearings s := by simp [resendAll]

@[simp] theorem bearings_linkDown (li cause next rerouted lost) :
    bearings (linkDown li cause next rerouted lost s) = bearings s := by simp [linkDown]

@[simp] theorem bearings_endHandoff (li) : bearings (endHandoff li s) = bearings s := by
  unfold endHandoff
  split <;> simp

@[simp] theorem bearings_dropHandoff (li) : bearings (dropHandoff li s) = bearings s := by
  unfold dropHandoff
  split <;> simp

@[simp] theorem bearings_sendLinkState (li) : bearings (sendLinkState li s) = bearings s := by simp [sendLinkState]

@[simp] theorem bearings_rerouteQueue (li) : bearings (rerouteQueue li s) = bearings s := by simp [rerouteQueue]

@[simp] theorem bearings_leaveLive (li cause next) : bearings (leaveLive li cause next s) = bearings s := by
  simp [leaveLive]

@[simp] theorem bearings_enterRetrain (li cause) : bearings (enterRetrain li cause s) = bearings s := by simp [enterRetrain]

@[simp] theorem bearings_onNak (li ackSeq) : bearings (onNak li ackSeq s) = bearings s := by simp [onNak]

@[simp] theorem bearings_rxReports (rx) : bearings (rxReports rx s) = bearings s := by simp [rxReports]

@[simp] theorem bearings_sendLocal (li b) : bearings (sendLocal li b s) = bearings s := by simp [sendLocal]

@[simp] theorem bearings_sendNak (li) : bearings (sendNak li s) = bearings s := by simp [sendNak]

@[simp] theorem bearings_rxHeader (rx) : bearings (rxHeader rx s).2 = bearings s := by
  unfold rxHeader
  dsimp only
  split
  · rfl
  · split
    · simp
    · split <;> simp

/-! ### Completions and answers -/

@[simp] theorem bearings_logAdmin (tag opcode status) : bearings (logAdmin tag opcode status s) = bearings s := rfl

@[simp] theorem bearings_adminComplete (slot tag opcode status args) :
    bearings (adminComplete slot tag opcode status args s) = bearings s := by simp [adminComplete]

@[simp] theorem bearings_finishStarted (c status args) : bearings (finishStarted c status args s) = bearings s := by
  simp [finishStarted]

@[simp] theorem bearings_modOcc (leg tick f) : bearings (modOcc leg tick f s) = bearings s := rfl

@[simp] theorem bearings_serveLate (e o due) : bearings (serveLate e o due s) = bearings s := by simp [serveLate]

@[simp] theorem bearings_writeReply (hdr bytes) : bearings (writeReply hdr bytes s) = bearings s := by
  unfold writeReply
  split <;> rfl

@[simp] theorem bearings_freeSlot (queue slot) : bearings (freeSlot queue slot s) = bearings s := by
  unfold freeSlot
  split <;> simp

@[simp] theorem bearings_dropEntry (queue slot) : bearings (dropEntry queue slot s) = bearings s := rfl

@[simp] theorem bearings_answer (status vals e) : bearings (answer status vals e s) = bearings s := by
  unfold answer
  (repeat' split) <;> simp

/-! ### Tiles -/

@[simp] theorem bearings_modTile (p f) : bearings (modTile p f s) = bearings s := rfl

@[simp] theorem bearings_answerCtlRead (r) : bearings (answerCtlRead r s) = bearings s := rfl

@[simp] theorem bearings_releaseCtlReads : bearings (releaseCtlReads s) = bearings s := by
  unfold releaseCtlReads
  exact bearings_foldl (fun t r => bearings_answerCtlRead t r) _ _

@[simp] theorem bearings_bumpInFlight (add e) : bearings (bumpInFlight add e s) = bearings s := by
  unfold bumpInFlight
  split <;> simp

@[simp] theorem bearings_closeEmb (x) : bearings (closeEmb s x) = bearings s := by simp [closeEmb]

@[simp] theorem bearings_closeMove (m) : bearings (closeMove s m) = bearings s := by
  unfold closeMove
  split <;> simp

@[simp] theorem bearings_dropBatches (p) : bearings (dropBatches p s) = bearings s := rfl

@[simp] theorem bearings_resetTile (p) : bearings (resetTile p s) = bearings s := by simp [resetTile]

@[simp] theorem bearings_resetTiles : bearings (resetTiles s) = bearings s := by simp [resetTiles]

/-! ### The MARK tree and halts -/

@[simp] theorem bearings_sendUp (m) : bearings (sendUp m s) = bearings s := by
  unfold sendUp
  split <;> simp

@[simp] theorem bearings_sendDown (m dueAt) : bearings (sendDown m dueAt s) = bearings s := by simp [sendDown]

@[simp] theorem bearings_sendAck (tick step f) : bearings (sendAck tick step f s) = bearings s := by simp [sendAck]

@[simp] theorem bearings_emptyGens (p) : bearings (emptyGens p s) = bearings s := rfl

@[simp] theorem bearings_discardDense (mine) : bearings (discardDense mine s) = bearings s := rfl

@[simp] theorem bearings_returnSamples (p count) : bearings (returnSamples p count s) = bearings s := by
  unfold returnSamples
  split <;> rfl

@[simp] theorem bearings_noteOverrun : bearings (noteOverrun s) = bearings s := by
  unfold noteOverrun
  (repeat' split) <;> simp

@[simp] theorem bearings_dropQuarantined : bearings (dropQuarantined s) = bearings s := rfl

@[simp] theorem bearings_enterI4 : bearings (enterI4 s) = bearings s := rfl

@[simp] theorem bearings_endJobReset : bearings (endJobReset s) = bearings s := by simp [endJobReset]

@[simp] theorem bearings_finishJobReset : bearings (finishJobReset s) = bearings s := by
  unfold finishJobReset
  split <;> simp

@[simp] theorem bearings_finishHalt : bearings (finishHalt s) = bearings s := by simp [finishHalt]

@[simp] theorem bearings_beginHalt : bearings (beginHalt s) = bearings s := by simp [beginHalt]

@[simp] theorem bearings_haltTree : bearings (haltTree s) = bearings s := by simp [haltTree]

@[simp] theorem bearings_requestHalt : bearings (requestHalt s) = bearings s := by simp [requestHalt]

/-! ### Traps and waiting transfers -/

@[simp] theorem bearings_trapTag (t) : bearings (trapTag t s).2 = bearings s := by
  unfold trapTag
  split <;> rfl

@[simp] theorem bearings_trapAs (p cause engine instr opcode addr detail) :
    bearings (trapAs p cause engine instr opcode addr detail s) = bearings s := by simp [trapAs]

@[simp] theorem bearings_trapHere (p cause engine addr detail) :
    bearings (trapHere p cause engine addr detail s) = bearings s := by simp [trapHere]

@[simp] theorem bearings_noteMoving (e leg tick) : bearings (noteMoving e leg tick s) = bearings s := by
  unfold noteMoving
  split <;> simp

@[simp] theorem bearings_trapLegWait (p) : bearings (trapLegWait p s) = bearings s := by simp [trapLegWait]

@[simp] theorem bearings_trapMissingLegs : bearings (trapMissingLegs s) = bearings s := by
  unfold trapMissingLegs
  refine bearings_foldl (fun t x => ?_) _ _
  split <;> simp

/-! ### Grazing and power -/

@[simp] theorem bearings_taskRan (task unit) : bearings (taskRan task unit s) = bearings s := rfl

@[simp] theorem bearings_setLegPower (l p) : bearings (setLegPower l p s) = bearings s := rfl

@[simp] theorem bearings_learnLeg (l meas bubble) : bearings (learnLeg l meas bubble s) = bearings s := rfl

@[simp] theorem bearings_noteCause (bit_) : bearings (noteCause bit_ s) = bearings s := by
  unfold noteCause
  exact bearings_foldl (fun t o => bearings_setLegPower t _ _) _ _

@[simp] theorem bearings_noteInForce : bearings (noteInForce s) = bearings s := by simp [noteInForce]

@[simp] theorem bearings_telemetry (m) : bearings (telemetry m s) = bearings s := by
  unfold telemetry
  split <;> simp

/-! ### Rows and the exchange's windows -/

@[simp] theorem bearings_putMem (a bs) : bearings (putMem a bs s) = bearings s := by simp [putMem]

@[simp] theorem bearings_setTag (d die slot way e) : bearings (setTag d die slot way e s) = bearings s := by simp [setTag]

@[simp] theorem bearings_noteLastErr (d addr mem source pc) :
    bearings (noteLastErr d addr mem source pc s) = bearings s := rfl

@[simp] theorem bearings_structPoison (content line) : bearings (structPoison content line s) = bearings s := by
  simp [structPoison]

@[simp] theorem bearings_pruneEx : bearings (pruneEx s) = bearings s := rfl

@[simp] theorem bearings_launch (c) : bearings (launch c s) = bearings s := by simp [launch]

@[simp] theorem bearings_sendWindowed (c) : bearings (sendWindowed c s) = bearings s := by
  unfold sendWindowed
  split <;> simp

@[simp] theorem bearings_siteNan (bit_ unit seen detail) : bearings (siteNan bit_ unit seen detail s) = bearings s := by
  simp [siteNan]

@[simp] theorem bearings_saveRecord : bearings (saveRecord s) = bearings s := by
  unfold saveRecord
  split <;> rfl

@[simp] theorem bearings_releaseWays (d die base count) : bearings (releaseWays d die base count s) = bearings s := by
  simp [releaseWays]

/-! ### Dense work -/

@[simp] theorem bearings_sliceWrite (fmt total addr first n from_ bs) :
    bearings (sliceWrite fmt total addr first n from_ bs s) = bearings s := by simp [sliceWrite]

@[simp] theorem bearings_sendDense (dest lg tick step tensor group kind fmt shear stage bs) :
    bearings (sendDense dest lg tick step tensor group kind fmt shear stage bs s) = bearings s := by simp [sendDense]

@[simp] theorem bearings_stageOwn (c) : bearings (stageOwn c s) = bearings s := by
  unfold stageOwn
  split <;> rfl

@[simp] theorem bearings_modReturn (tick step f) : bearings (modReturn tick step f s) = bearings s := rfl

@[simp] theorem bearings_toNode (ts node child tick step tensor group kind fmt shear stage bs) :
    bearings (toNode ts node child tick step tensor group kind fmt shear stage bs s) = bearings s := by simp [toNode]

@[simp] theorem bearings_writeGather (t tick step group part bs) :
    bearings (writeGather t tick step group part bs s) = bearings s := by simp [writeGather]

@[simp] theorem bearings_gatherDown (t ts tick step group part bs fuel node) :
    bearings (gatherDown t ts tick step group part bs fuel node s) = bearings s := by
  induction fuel generalizing node s with
  | zero => rfl
  | succ fuel ih =>
    unfold gatherDown
    refine bearings_foldl (fun t c => ?_) _ _
    dsimp only
    split <;> simp [ih]

@[simp] theorem bearings_gatherRoot (t ts tick step group node bs) :
    bearings (gatherRoot t ts tick step group node bs s) = bearings s := by simp [gatherRoot]

@[simp] theorem bearings_markNanSeen (lg) : bearings (markNanSeen lg s) = bearings s := rfl

@[simp] theorem bearings_denseNans (t f lg group nans) : bearings (denseNans t f lg group nans s) = bearings s := by
  simp [denseNans]

@[simp] theorem bearings_updateGroup (t ts lg tick step group g) :
    bearings (updateGroup t ts lg tick step group g s).2 = bearings s := by
  unfold updateGroup
  dsimp only
  split
  · rfl
  · split
    · simp
    · split <;> simp

@[simp] theorem bearings_nodeWork (t ts tick group node) : bearings (nodeWork t ts tick group node s) = bearings s := by
  unfold nodeWork
  dsimp only
  split
  · rfl
  · split
    · rfl
    · split <;> simp

@[simp] theorem bearings_denseRounds (n) : bearings (denseRounds n s) = bearings s := by
  induction n generalizing s with
  | zero => rfl
  | succ n ih =>
    unfold denseRounds
    simp only [bearings_ite, ih]
    rw [ite_self]
    refine bearings_foldl (fun t k => ?_) _ _
    split
    · rfl
    · split <;> simp

@[simp] theorem bearings_acceptDense (src m) : bearings (acceptDense src m s) = bearings s := by
  unfold acceptDense
  split <;> rfl

@[simp] theorem bearings_stagePart (t lg node child m) : bearings (stagePart t lg node child m s) = bearings s := by
  unfold stagePart
  dsimp only
  split
  · split <;> rfl
  · rfl

@[simp] theorem bearings_takeDense (src lg m) : bearings (takeDense src lg m s) = bearings s := by
  unfold takeDense
  (repeat' split) <;> simp

@[simp] theorem bearings_pumpDense : bearings (pumpDense s) = bearings s := by
  unfold pumpDense
  refine (bearings_foldl (fun t h => ?_) _ _).trans ?_
  · split <;> simp
  · simp

/-! ### Handovers, snapshots, digest rounds -/

@[simp] theorem bearings_releasePosition (h) : bearings (releasePosition h s) = bearings s := by simp [releasePosition]

@[simp] theorem bearings_releaseHandovers : bearings (releaseHandovers s) = bearings s := by simp [releaseHandovers]

@[simp] theorem bearings_snapBoundary (tick) : bearings (snapBoundary tick s) = bearings s := by
  unfold snapBoundary
  split <;> simp

@[simp] theorem bearings_noteRoot (chip round root) : bearings (noteRoot chip round root s) = bearings s := by
  unfold noteRoot
  split <;> rfl

@[simp] theorem bearings_sendRoot (round) : bearings (sendRoot round s) = bearings s := by simp [sendRoot]

@[simp] theorem bearings_endSlice (round) : bearings (endSlice round s) = bearings s := by simp [endSlice]

@[simp] theorem bearings_missSlice (round) : bearings (missSlice round s) = bearings s := by simp [missSlice]

@[simp] theorem bearings_missSlices (tick) : bearings (missSlices tick s) = bearings s := by
  unfold missSlices
  split <;> simp

/-! ### The boundary -/

@[simp] theorem bearings_setParent : bearings (setParent s) = bearings s := rfl

@[simp] theorem bearings_handOver (tick) : bearings (handOver tick s) = bearings s := by
  unfold handOver
  split <;> simp

@[simp] theorem bearings_waitForMoves : bearings (waitForMoves s) = bearings s := by
  unfold waitForMoves
  refine bearings_foldl (fun t e => bearings_foldl (fun t x => ?_) _ _) _ _
  split <;> simp

@[simp] theorem bearings_startMoves (m) : bearings (startMoves m s) = bearings s := by simp [startMoves]

@[simp] theorem bearings_memZero (a n) : bearings (memZero a n s) = bearings s := rfl

@[simp] theorem bearings_dropStaged (tick t) : bearings (dropStaged tick t s) = bearings s := by
  unfold dropStaged
  split <;> simp

@[simp] theorem bearings_switchBase (tick t) : bearings (switchBase tick t s) = bearings s := by
  unfold switchBase
  dsimp only
  split <;> simp

@[simp] theorem bearings_switchTable (tick t) : bearings (switchTable tick t s) = bearings s := by
  unfold switchTable
  split <;> rfl

@[simp] theorem bearings_switchFolds (tick) : bearings (switchFolds tick s) = bearings s := by
  unfold switchFolds
  split <;> simp

@[simp] theorem bearings_closePower (m) : bearings (closePower m s) = bearings s := by
  simp only [closePower, bearings_mk, bearings_eta, bearings_telemetry]
  exact bearings_foldl (fun t l => bearings_learnLeg t _ _ _) _ _

@[simp] theorem bearings_switchTimetable (tick) : bearings (switchTimetable tick s) = bearings s := by
  unfold switchTimetable
  split <;> simp

@[simp] theorem bearings_switchMap (tick) : bearings (switchMap tick s) = bearings s := by
  unfold switchMap
  split <;> simp

@[simp] theorem bearings_switchHandovers (tick) : bearings (switchHandovers tick s) = bearings s := by
  simp [switchHandovers]

@[simp] theorem bearings_freshTick (tick) : bearings (freshTick tick s) = bearings s := by simp [freshTick]

@[simp] theorem bearings_noteSlices (tick) : bearings (noteSlices tick s) = bearings s := rfl

end Sys2Proof.Machine
end

section
/-! Starting a tick (R26, R29). -/

namespace Sys2Proof.Machine

/-- A tick starts with the numbers given, at the instant of its command, on the same module. -/
theorem bearings_startTick (tick step stretch : Nat) (m : TickMeasure) (s : State) :
    bearings (startTick tick step stretch m s) = ⟨s.now, s.lg.chip, tick, step, s.now⟩ := by
  simp only [startTick, bearings_emit, bearings_trapMissingLegs, bearings_noteInForce, bearings_snapBoundary,
    bearings_noteSlices, bearings_switchFolds, bearings_switchHandovers, bearings_freshTick, bearings_ite, bearings_tally,
    ite_self, bearings_mk, bearings_eta, Bearings.mk.injEq, true_and]
  exact ⟨now_eq_of_bearings (by simp), chip_eq_of_bearings (by simp), now_eq_of_bearings (by simp)⟩

/-- Settles O32: what precedes the start keeps the instant, and what follows it keeps the numbers and the start. -/
theorem tickNumbers : Obligations.TickNumbers := by
  intro tick step stretch m s
  obtain ⟨-, -, htick, hstep, hstart⟩ := Bearings.mk.inj (bearings_startTick tick step stretch m s)
  exact ⟨htick, hstep, hstart⟩

end Sys2Proof.Machine
end

section
/-! Carriages of the MARK tree received in order (R29 to R42, R160, R161), and the latency echoes (R30). -/

namespace Sys2Proof.Machine

variable {s t : State} {rx : Rx} {now : Nat} {b : Body}

/-! ### Receiving -/

/-- A command that delivers a carriage next in order goes on with the carriage's effect, and the link with what waits on it. -/
theorem onUnit_deliverRx (h : InOrder s rx) (f : State → State) :
    onUnit (decide (rx.li < 96)) (deliverRx now rx b f s) = .next (pump rx.li (f (received now rx b s))) := by
  simp [onUnit, h.li, h.delivers]

theorem bearings_received : bearings (received now rx b s) = bearings (atTime now s) := by simp [received]

/-! ### What the place in the tree depends on -/

theorem Soft.running_eq (h : Soft s t) : running t = running s := by simp only [running, h.tk]

theorem Soft.childChips_eq (h : Soft s t) : childChips t = childChips s := by
  have hlinks : childLinks t = childLinks s := by simp only [childLinks, markPlace, h.job, h.run]
  have hchip : wiredChip t = wiredChip s := by funext li; simp only [wiredChip, h.job]
  rw [childChips, hlinks, hchip, childChips]

/-! ### A MARK that is adopted (R29) -/

/-- An effect over a candidate's tree is signalling where the effect is: the candidate in force comes back. -/
theorem underTree_soft (k : Nat) {f : State → State} (hf : ∀ t, Soft t (f t)) (s : State) : Soft s (underTree k f s) := by
  have h := hf { s with run := { s.run with candidate := k } }
  have hrun : { (f { s with run := { s.run with candidate := k } }).run with candidate := s.run.candidate } = s.run := by
    rw [h.run]
  exact ⟨h.tk, hrun, h.start, h.job, h.record, h.tb, h.folds, h.ru, h.commit, h.ex, h.handovers, h.bulk, h.digest, h.snap,
    h.repairsDue, h.tiles, h.pw, h.nor, h.net, h.pending⟩

/-- The signals of an adopted MARK: it goes on down, and an ACK goes up, both in the tree of its tick. -/
theorem markSignals_soft (m : MarkMsg) (due j k : Nat) (s : State) :
    Soft s (underTree k (sendAck m.tickNum m.stepNum id) (underTree j (sendDown m due) s)) :=
  (underTree_soft j (fun _ => sendDown_soft .refl) s).trans (underTree_soft k (fun _ => sendAck_soft .refl) _)

theorem adoptMark_next (m : MarkMsg) (s : State) :
    (adoptMark m s).run.next = some (NextTick.mk m.tickNum m.stepNum (s.now + (m.countdownNs - s.tk.latencyNs)) m.stretchNs
      m.stretched m.slot m.ttId) := by
  simp only [adoptMark, clearLateness]
  rw [(markSignals_soft m _ _ _ _).run]

theorem adoptMark_tk (m : MarkMsg) (s : State) : ∃ e, (adoptMark m s).tk =
    { s.tk with alignErr := e, handover := if m.handover then some (m.tickNum + 1, m.nextChip) else s.tk.handover } := by
  refine ⟨alignErr (s.now + (m.countdownNs - s.tk.latencyNs)) s.run.nominal, ?_⟩
  simp only [adoptMark, clearLateness]
  rw [(markSignals_soft m _ _ _ _).tk]
  split <;> split <;> rfl

/-- A RUNNING module with no MARK for the next tick adopts one of a later tick whose SLOT and TT_ID match, whatever its
numbers are (log 54). -/
theorem takeMark_of_later {m : MarkMsg} (hstate : s.tk.state = 2) (htick : s.tk.tick < m.tickNum) (hnext : s.run.next = none)
    (hslot : slotMatches s m = true) : takeMark m s = adoptMark m s := by
  simp [takeMark, hstate, htick.not_ge, hnext, hslot]

/-! ### The carriages' effects, the module's place in the tree being what each asks for -/

section effects
variable (h : InOrder s rx) {m : MarkMsg}
include h

theorem execMarkReceive_later (hlink : markLink (received now rx (.mark m) s) m.tickNum = some rx.li)
    (hhalt : s.run.halting = false) (hsource : sources (received now rx (.mark m) s) m.tickNum = false)
    (hstate : s.tk.state = 2) (htick : s.tk.tick < m.tickNum) (hnext : s.run.next = none)
    (hslot : slotMatches (received now rx (.mark m) s) m = true) :
    execMarkReceive now rx m s = .next (pump rx.li (adoptMark m (received now rx (.mark m) s))) := by
  have hsoft : Soft s (received now rx (.mark m) s) := received_soft
  have hadopt := takeMark_of_later (hsoft.tk ▸ hstate) (hsoft.tk ▸ htick) (hsoft.run ▸ hnext) hslot
  have hrunning : running (received now rx (.mark m) s) = true := by rw [hsoft.running_eq]; simp [running, hstate]
  rw [execMarkReceive, onUnit_deliverRx h]
  simp [hlink, hsource, hrunning, hsoft.run, hhalt, hadopt]

theorem execApplyGoReceive_parent (hparent : fromParent (received now rx (.mark m) s) rx = true) :
    execApplyGoReceive now rx m s = .next (pump rx.li (
      let t := sendDown m 0 (received now rx (.mark m) s)
      if m.abandon then if t.run.abandoned.contains (m.stepNum, m.tickNum) then t else onAbandon m.tickNum m.stepNum t
      else if t.run.goSteps.contains m.stepNum then t
      else { t with run := { t.run with goSteps := m.stepNum :: t.run.goSteps } })) := by
  rw [execApplyGoReceive, onUnit_deliverRx h]
  simp only [hparent, Bool.not_true, Bool.false_eq_true, if_false]

theorem execApplyEndReceive_tree (htree : fromTree (received now rx (.mark m) s) rx = true) :
    execApplyEndReceive now rx m s =
      .next (pump rx.li (sendDown m 0 (recordApplyEnd m.stepNum (received now rx (.mark m) s)))) := by
  rw [execApplyEndReceive, onUnit_deliverRx h, if_pos htree]

theorem execHaltReceive_tree (htree : fromTree (received now rx (.mark m) s) rx = true) :
    execHaltReceive now rx m s = .next (pump rx.li (if s.run.halting then sendDown m 0 (received now rx (.mark m) s)
      else beginHalt (sendDown m 0 (received now rx (.mark m) s)))) := by
  have hsoft : Soft s (sendDown m 0 (received now rx (.mark m) s)) := sendDown_soft received_soft
  rw [execHaltReceive, onUnit_deliverRx h]
  simp only [htree, Bool.not_true, Bool.false_eq_true, if_false, hsoft.run]

theorem execAckReceive_child (hchild : m.sourceChip ∈ childChips s) :
    execAckReceive now rx m s = .next (pump rx.li (if s.tk.state = 1 || running s then takeAck m (received now rx (.mark m) s)
      else if s.tk.state = 4 then takeCommitted m (received now rx (.mark m) s) else received now rx (.mark m) s)) := by
  have hsoft : Soft s (received now rx (.mark m) s) := received_soft
  rw [execAckReceive, onUnit_deliverRx h]
  simp [hsoft.childChips_eq, hchild, hsoft.running_eq, hsoft.tk]

theorem execPaceReceive_parent {p : PaceMsg} (hparent : fromParent (received now rx (.pace p) s) rx = true) :
    execPaceReceive now rx p s = .next (pump rx.li (takePace p (sendPace p (received now rx (.pace p) s)))) := by
  rw [execPaceReceive, onUnit_deliverRx h, if_pos hparent]

theorem execEchoReq_answers (ns : Nat) : execEchoReq now rx ns s = .next (pump rx.li
    (sendOn rx.li (localCarriage (received now rx (.echoReq ns) s) (.echoRsp ns)) (received now rx (.echoReq ns) s))) := by
  rw [execEchoReq, onUnit_deliverRx h]

end effects

/-! ### What the effects write -/

theorem recordApplyEnd_eq (step : Nat) (s : State) :
    ∃ legs, recordApplyEnd step s = { s with run := { s.run with applyEnded := some step, legs } } := by
  unfold recordApplyEnd
  split
  case isTrue h => exact ⟨s.run.legs, by rw [← h]⟩
  case isFalse => exact ⟨_, rfl⟩

theorem takePace_paces (m : PaceMsg) (s : State) : (takePace m s).run.paces =
    if m.pace = 1024 ∨ m.slowChip = s.lg.chip then tabDel s.run.paces m.kind
    else tabPut s.run.paces m.kind ⟨m.slowChip, m.pace, m.tickNum, m.hold⟩ := by
  unfold takePace
  dsimp only
  split
  case isTrue h => simp [h]
  case isFalse h => rw [(raise_soft .refl).run]; simp [h]

theorem bearings_sendPace (m : PaceMsg) (s : State) : bearings (sendPace m s) = bearings s := by simp [sendPace]

section clauses
variable (h : InOrder s rx) {m : MarkMsg}
include h

theorem markReceive_sets_next (hlink : markLink (received now rx (.mark m) s) m.tickNum = some rx.li)
    (hhalt : s.run.halting = false) (hsource : sources (received now rx (.mark m) s) m.tickNum = false)
    (hstate : s.tk.state = 2) (htick : s.tk.tick < m.tickNum) (hnext : s.run.next = none)
    (hslot : slotMatches (received now rx (.mark m) s) m = true) :
    ∃ t, execMarkReceive now rx m s = .next t ∧ t.run.next = some (NextTick.mk m.tickNum m.stepNum
        ((received now rx (.mark m) s).now + (m.countdownNs - s.tk.latencyNs)) m.stretchNs m.stretched m.slot m.ttId) ∧
      t.tk.tick = s.tk.tick ∧ t.tk.step = s.tk.step ∧ t.tk.state = 2 ∧
      t.tk.handover = (if m.handover then some (m.tickNum + 1, m.nextChip) else s.tk.handover) := by
  have hsoft : Soft s (received now rx (.mark m) s) := received_soft
  obtain ⟨e, htk⟩ := adoptMark_tk m (received now rx (.mark m) s)
  have hpump := pump_is_soft rx.li (adoptMark m (received now rx (.mark m) s))
  refine ⟨_, execMarkReceive_later h hlink hhalt hsource hstate htick hnext hslot, ?_⟩
  rw [hpump.run, hpump.tk, adoptMark_next, htk, hsoft.tk]
  exact ⟨rfl, rfl, rfl, hstate, rfl⟩

theorem applyGoReceive_adds_step (hparent : fromParent (received now rx (.mark m) s) rx = true) (hm : m.abandon = false) :
    ∃ t, execApplyGoReceive now rx m s = .next t ∧ (∀ x, x ∈ t.run.goSteps ↔ x = m.stepNum ∨ x ∈ s.run.goSteps) ∧
      t.tk = s.tk ∧ t.ru = s.ru ∧ t.commit = s.commit := by
  have hdown : Soft s (sendDown m 0 (received now rx (.mark m) s)) := sendDown_soft received_soft
  refine ⟨_, execApplyGoReceive_parent h hparent, ?_⟩
  simp only [hm, Bool.false_eq_true, if_false]
  split
  case isTrue hgo =>
    have hall := hdown.trans (pump_is_soft rx.li _)
    rw [List.contains_iff_mem, hdown.run] at hgo
    rw [hall.run]
    exact ⟨fun x => ⟨.inr, by rintro (rfl | hx); exacts [hgo, hx]⟩, hall.tk, hall.ru, hall.commit⟩
  case isFalse =>
    have hpump := pump_is_soft rx.li { sendDown m 0 (received now rx (.mark m) s) with
      run := { (sendDown m 0 (received now rx (.mark m) s)).run with
        goSteps := m.stepNum :: (sendDown m 0 (received now rx (.mark m) s)).run.goSteps } }
    rw [hpump.run, hpump.tk, hpump.ru, hpump.commit]
    simp only [hdown.run]
    exact ⟨fun x => List.mem_cons, hdown.tk, hdown.ru, hdown.commit⟩

theorem applyGoReceive_abandons (hparent : fromParent (received now rx (.mark m) s) rx = true) (hm : m.abandon = true)
    (hnew : (m.stepNum, m.tickNum) ∉ s.run.abandoned) : execApplyGoReceive now rx m s =
      .next (pump rx.li (onAbandon m.tickNum m.stepNum (sendDown m 0 (received now rx (.mark m) s)))) := by
  have hdown : Soft s (sendDown m 0 (received now rx (.mark m) s)) := sendDown_soft received_soft
  rw [execApplyGoReceive_parent h hparent]
  simp [hm, hdown.run, hnew]

theorem applyEndReceive_records (htree : fromTree (received now rx (.mark m) s) rx = true) :
    ∃ t, execApplyEndReceive now rx m s = .next t ∧ t.run.applyEnded = some m.stepNum ∧ t.run.goSteps = s.run.goSteps ∧
      t.tk = s.tk ∧ t.ru = s.ru ∧ t.commit = s.commit := by
  have hsoft : Soft s (received now rx (.mark m) s) := received_soft
  refine ⟨_, execApplyEndReceive_tree h htree, ?_⟩
  obtain ⟨legs, hrecord⟩ := recordApplyEnd_eq m.stepNum (received now rx (.mark m) s)
  have hall := (sendDown_soft (x0 := m) (x1 := 0) (.refl (s := recordApplyEnd m.stepNum (received now rx (.mark m) s)))).trans
    (pump_is_soft rx.li _)
  rw [hall.run, hall.tk, hall.ru, hall.commit, hrecord]
  exact ⟨rfl, by simp only [hsoft.run], hsoft.tk, hsoft.ru, hsoft.commit⟩

theorem paceReceive_paces {p : PaceMsg} (hparent : fromParent (received now rx (.pace p) s) rx = true) :
    ∃ t, execPaceReceive now rx p s = .next t ∧ t.run.paces =
      if p.pace = 1024 ∨ p.slowChip = s.lg.chip then tabDel s.run.paces p.kind
      else tabPut s.run.paces p.kind ⟨p.slowChip, p.pace, p.tickNum, p.hold⟩ := by
  have hsoft : Soft s (sendPace p (received now rx (.pace p) s)) := sendPace_soft received_soft
  have hchip : (sendPace p (received now rx (.pace p) s)).lg.chip = (atTime now s).lg.chip :=
    chip_eq_of_bearings ((bearings_sendPace p _).trans bearings_received)
  refine ⟨_, execPaceReceive_parent h hparent, ?_⟩
  rw [(pump_is_soft rx.li _).run, takePace_paces, hsoft.run, hchip]
  rfl

theorem echoRsp_sets_latency (ns : Nat) (hli : rx.li = s.tk.parentLi) :
    ∃ t, execEchoRsp now rx ns s = .next t ∧
      t.tk = { s.tk with latencyNs := min ((max s.now now - ns) / 2) (2 ^ 20 - 1) } := by
  have hsoft : Soft s (received now rx (.echoRsp ns) s) := received_soft
  have hnow : (received now rx (.echoRsp ns) s).now = max s.now now := now_eq_of_bearings bearings_received
  rw [execEchoRsp, onUnit_deliverRx h, if_pos (hsoft.tk ▸ hli)]
  refine ⟨_, rfl, ?_⟩
  rw [(pump_is_soft rx.li _).tk, hsoft.tk, hnow]

end clauses

/-- Settles O29: the carriages of the MARK tree, then PACE, the echoes and their timer. Receiving is signalling, so what the
module had before the carriage is what its effect starts from; any later MARK whose SLOT and TT_ID match is adopted (log 54),
and on a halted module COMMITTED alone goes on (log 22). -/
theorem treeMessages : Obligations.TreeMessages := by
  refine ⟨?tree, ?pace, ?echoReq, ?echoRsp, ?timer⟩
  case tree =>
    rintro s _ now rx m h rfl
    refine ⟨markReceive_sets_next h, applyGoReceive_adds_step h, applyGoReceive_abandons h, applyEndReceive_records h,
      execHaltReceive_tree h, fun hstate hchild => ?_, fun hstate hchild => ?_⟩
    · refine (execAckReceive_child h hchild).trans ?_
      rw [if_pos (by simpa using hstate)]
    · refine (execAckReceive_child h hchild).trans ?_
      rw [if_neg (by simp [running, hstate]), if_pos hstate]
  case pace =>
    rintro s _ now rx m h rfl
    exact paceReceive_paces h
  case echoReq =>
    rintro s _ now ns rx h rfl
    exact execEchoReq_answers h ns
  case echoRsp => exact fun s now ns rx h => echoRsp_sets_latency h ns
  case timer => exact fun s now => rfl

end Sys2Proof.Machine
end

section
/-! Tick boundaries: what the commands that start a tick, hold it or move a tile between ticks do where they act (R29, R32,
R39, R264, R410). -/

namespace Sys2Proof.Machine

variable {s : State}

@[simp] theorem canMark_atTime (now : Nat) (s : State) : canMark (atTime now s) = canMark s := rfl

@[simp] theorem running_atTime (now : Nat) (s : State) : running (atTime now s) = running s := rfl

@[simp] theorem sources_atTime (now tick : Nat) (s : State) : sources (atTime now s) tick = sources s tick := rfl

@[simp] theorem nextTickNum_atTime (now : Nat) (s : State) : nextTickNum (atTime now s) = nextTickNum s := rfl

@[simp] theorem candidateFor_atTime (now tick : Nat) (s : State) : candidateFor (atTime now s) tick = candidateFor s tick := rfl

@[simp] theorem periodNs_atTime (now : Nat) (s : State) : periodNs (atTime now s) = periodNs s := rfl

@[simp] theorem physicalOf_atTime (now l : Nat) (s : State) : physicalOf (atTime now s) l = physicalOf s l := rfl

@[simp] theorem logicalOf_atTime (now p : Nat) (s : State) : logicalOf (atTime now s) p = logicalOf s p := rfl

@[simp] theorem getTile_atTime (now p : Nat) (s : State) : getTile (atTime now s) p = getTile s p := rfl

/-! ### MARK_SEND and STRETCH_LIMIT (R29, R39) -/

section mark
variable (now : Nat) (hcan : canMark s = true) (hsource : sources s (nextTickNum s) = true)
  (hlead : s.run.nominal ≤ (atTime now s).now + s.tk.leadNs)
include hcan hsource hlead

theorem execMarkSend_sends (hlate : (mergedAck (atTime now s)).lateOpen = false) :
    execMarkSend now s = .next (underTree (candidateFor s (nextTickNum s))
      (sendMark (max s.run.nominal (atTime now s).now) 0) (atTime now s)) := by
  simp [execMarkSend, hcan, hsource, hlead, hlate]

/-- The bellwether holds the MARK while LATE_OPEN is outstanding; at a handover boundary the incoming one does (log 56). -/
theorem execMarkSend_holds (hlate : (mergedAck (atTime now s)).lateOpen = true) :
    execMarkSend now s = .next { atTime now s with
      run := { s.run with markHeld := true, heldKind := (mergedAck (atTime now s)).lateKind } } := by
  simp [execMarkSend, hcan, hsource, hlead, hlate]

end mark

theorem execStretchLimit_halts (now : Nat) (hheld : s.run.markHeld = true) (hhalt : s.run.halting = false)
    (hlate : (mergedAck (atTime now s)).lateOpen = true)
    (hlimit : s.run.nominal + periodNs s / 4 - s.tk.leadNs ≤ (atTime now s).now) :
    execStretchLimit now s = .next (haltOwn (raise evTickOverrun sevFault uModule
      (overrunDetail ((atTime now s).now + s.tk.leadNs - s.run.nominal) (mergedAck (atTime now s)).lateChip
        (mergedAck (atTime now s)).lateKind true (mergedAck (atTime now s)).latenessNs) (atTime now s))) := by
  simp [execStretchLimit, hheld, hhalt, hlate, hlimit]

/-! ### Starting a tick (R29, R32, R410) -/

theorem execTickStart_starts (now : Nat) (m : TickMeasure) {n : NextTick} (hnext : s.run.next = some n)
    (hdue : n.startAt ≤ (atTime now s).now) (hhalt : s.run.halting = false)
    (hstate : running s = true ∨ (s.tk.state = 1 ∧ s.tk.bellwether = false)) :
    execTickStart now m s = .next
      (let t := startTick n.tick n.step (if n.stretched then n.stretchNs else 0) m (atTime now s)
       { t with tk := { t.tk with holdoverTicks := 0 } }) := by
  simp only [execTickStart, atTime_run, hnext]
  refine congrArg Host.Outcome.next (if_pos ?_)
  rcases hstate with hrunning | ⟨harmed, hother⟩
  · simp [hdue, hhalt, hrunning]
  · simp [hdue, hhalt, harmed, hother]

section holdover
variable (now : Nat) (m : TickMeasure) (hrunning : running s = true) (hhalt : s.run.halting = false)
  (hsource : sources s (s.tk.tick + 1) = false) (hnext : s.run.next = none) (hdue : s.run.nominal ≤ (atTime now s).now)
include hrunning hhalt hsource hnext hdue

/-- Where no MARK has come by the nominal boundary (log 55), the tick starts on the local clock; the first in a row is
reported. -/
theorem execHoldoverTick_starts (hless : s.tk.holdoverTicks < 8) {v : State}
    (hv : v = if s.tk.holdoverTicks = 0 then markLost 0 sevDegrade (s.tk.tick + 1) none (atTime now s) else atTime now s) :
    execHoldoverTick now m s = .next (tally tlMarkHoldover
      (let t := startTick (s.tk.tick + 1) (predictedStep v) 0 m v
       { t with tk := { t.tk with state := 3, holdoverTicks := s.tk.holdoverTicks + 1 } })) := by
  have hlost : (markLost 0 sevDegrade (s.tk.tick + 1) none (atTime now s)).tk = s.tk := (markLost_soft .refl).tk
  subst hv
  by_cases hfirst : s.tk.holdoverTicks = 0
  · simp [execHoldoverTick, hrunning, hhalt, hsource, hnext, hdue, hfirst, hlost]
  · simp [execHoldoverTick, hrunning, hhalt, hsource, hnext, hdue, hfirst, hless.ne]

/-- The ninth in a row halts (R32). -/
theorem execHoldoverTick_halts (hticks : s.tk.holdoverTicks = 8) :
    execHoldoverTick now m s = .next (haltOwn (markLost 2 sevFault (s.tk.tick + 1) none (atTime now s))) := by
  simp [execHoldoverTick, hrunning, hhalt, hsource, hnext, hdue, hticks]

end holdover

theorem sendMark_start (due stretch : Nat) (s : State) : (sendMark due stretch s).start = s.start :=
  (sendDown_soft (.refl (s := s))).start

theorem execJobFirstTick_starts (now : Nat) (hstate : s.tk.state = 1) (hbell : s.tk.bellwether = true)
    (hmatched : s.start.matched = true) (hhalt : s.run.halting = false) (hdue : s.run.nominal ≤ (atTime now s).now) :
    execJobFirstTick now s = .next (startTick s.start.firstTick s.start.firstStep 0 noMeasure
      (if s.run.next.isNone then sendMark (atTime now s).now 0 (atTime now s) else atTime now s)) := by
  by_cases hnext : s.run.next = none
  · simp [execJobFirstTick, hstate, hbell, hmatched, hhalt, hdue, hnext, sendMark_start]
  · simp [execJobFirstTick, hstate, hbell, hmatched, hhalt, hdue, hnext]

/-! ### Moving a tile (R264) -/

theorem logicalOf_eq_none (p : Nat) : logicalOf s p = none ↔ ∀ e ∈ s.tiles.map, e.2 ≠ p := by
  simp [logicalOf]

section move
variable {l old new : Nat} (hmove : s.tiles.moving.find? (fun m => m.1 == l) = some (l, old, new))
  (hfree : logicalOf s new = none)
include hmove hfree

theorem execTileMoveComplete_places (now : Nat) (hlifted : physicalOf s l = none) (t : Tile)
    (hparked : tabFind s.tiles.parked l = some t) :
    execTileMoveComplete now l s = .next (installTile l new t (atTime now s)) := by
  have hlift : tryLift l (atTime now s) = atTime now s := by simp [tryLift, hlifted]
  simp [execTileMoveComplete, hmove, hlift, hfree, hparked]

theorem execTileMoveComplete_lifts (now : Nat) {p : Nat} (hplace : physicalOf s l = some p)
    (hmay : liftable (getTile s p) = true) :
    execTileMoveComplete now l s = .next (installTile l new (getTile s p) (liftTile l p (atTime now s))) := by
  have hlift : tryLift l (atTime now s) = liftTile l p (atTime now s) := by simp [tryLift, hplace, hmay]
  have hstill : logicalOf (liftTile l p (atTime now s)) new = none := by
    rw [logicalOf_eq_none] at hfree ⊢
    exact fun e he => hfree e (mem_of_mem_tabDel _ l e he)
  have hparked : tabFind (liftTile l p (atTime now s)).tiles.parked l = some (getTile s p) := by
    simp [liftTile, tabFind_tabPut]
  simp [execTileMoveComplete, hmove, hlift, hstill, hparked]

end move

/-- Settles O31: each command's equation where it acts. The placed tile goes on as log 32 says of one that a map brings in. -/
theorem tickBoundaries : Obligations.TickBoundaries := by
  rintro s _ now rfl
  refine ⟨execMarkSend_sends now, execMarkSend_holds now, ?start, ?holdover, ?ninth, ?stretch, ?first, ?move⟩
  case start => exact fun m n hnext hdue hhalt hstate => ⟨_, execTickStart_starts now m hnext hdue hhalt hstate, rfl⟩
  case holdover =>
    exact fun m v hrunning hhalt hsource hnext hdue hless hv =>
      ⟨_, execHoldoverTick_starts now m hrunning hhalt hsource hnext hdue hless hv, rfl⟩
  case ninth => exact fun m => execHoldoverTick_halts now m
  case stretch =>
    rintro _ rfl hheld hhalt hlate hlimit
    exact execStretchLimit_halts now hheld hhalt hlate hlimit
  case first => exact execJobFirstTick_starts now
  case move =>
    exact fun l old new t hmove hfree => ⟨fun hlifted => execTileMoveComplete_places hmove hfree now hlifted t,
      fun p => execTileMoveComplete_lifts hmove hfree now⟩

end Sys2Proof.Machine
end

section
/-! Legs: what the commands that open, start, miss and complete a leg do where they act, and how units wake (R20, R35 to R40,
R103, R279, R353). -/

namespace Sys2Proof.Machine

variable {s : State}

@[simp] theorem legEntry_atTime (now tick leg : Nat) (s : State) : legEntry (atTime now s) tick leg = legEntry s tick leg := rfl

@[simp] theorem legOcc_atTime (now leg tick : Nat) (s : State) : legOcc (atTime now s) leg tick = legOcc s leg tick := rfl

/-! ### LEG_START and LEG_DEADLINE (R20, R36, R40) -/

theorem execLegStart_opens (now leg : Nat) {e : LegEnt} (he : legEntry s s.tk.tick leg = some e) (hrunning : running s = true)
    (hhalt : s.run.halting = false) (hnew : leg ∉ s.run.legsStarted)
    (hdue : s.run.tickStartAt + e.startNs ≤ (atTime now s).now) :
    execLegStart now leg s = .next (openLegAt leg e (atTime now s)) := by
  simp [execLegStart, he, hrunning, hhalt, hnew, hdue]

theorem execLegDeadline_late (now leg tick : Nat) {o : LegOcc} (ho : legOcc s leg tick = some o) (hlate : o.late = false)
    (hdue : o.deadline ≤ (atTime now s).now) (hhalt : s.run.halting = false) :
    execLegDeadline now tick leg s = .next (onMerged
      (let v := ackNow (modOcc leg tick (fun o => { o with late := true }) (atTime now s))
       if gateWaiting o || o.abandoned then v
       else overrunPolicy o (modOcc leg tick (fun o => { o with acted := true }) v))) := by
  simp [execLegDeadline, ho, hlate, hdue.not_gt, hhalt]

/-! ### APPLY_START (R37, R103) -/

@[simp] theorem unblockLeg_leg (now : Nat) (g : Gate) (o : LegOcc) : (unblockLeg now g o).leg = o.leg := by
  unfold unblockLeg; split <;> rfl

@[simp] theorem unblockLeg_tick (now : Nat) (g : Gate) (o : LegOcc) : (unblockLeg now g o).tick = o.tick := by
  unfold unblockLeg; split <;> rfl

@[simp] theorem unblockLeg_kind (now : Nat) (g : Gate) (o : LegOcc) : (unblockLeg now g o).kind = o.kind := by
  unfold unblockLeg; split <;> rfl

/-- A leg whose one gate opens ends its wait (R35). -/
theorem unblockLeg_waitNs_of_last (now : Nat) {g : Gate} {o : LegOcc} (h : o.gates = [g]) :
    (unblockLeg now g o).waitNs = o.waitNs + (now - o.blockedFrom) := by
  simp [unblockLeg, h]

/-- The APPLY leg `o` as its start leaves it; other legs stay. -/
def openApplyLeg (now : Nat) (o x : LegOcc) : LegOcc :=
  if x.leg = o.leg && x.tick = o.tick then { unblockLeg now .go x with opened := true } else x

/-- A SERVE leg overlaps an APPLY that starts (R214). -/
def overlapApply (x : LegOcc) : LegOcc := if x.kind = kServe then { x with overlap := true } else x

/-- The state that APPLY_START hands to the row units. -/
def applyStarted (o : LegOcc) (s : State) : State :=
  { s with run := { s.run with legs := (s.run.legs.map (openApplyLeg s.now o)).map overlapApply, goWait := false } }

theorem execApplyStart_starts (now : Nat) {o : LegOcc} (ho : applyReady (atTime now s) = some o)
    (hfree : s.commit.openStep = allOnes) (hhalt : s.run.halting = false) (hrunning : running s = true) :
    execApplyStart now s = .next (openApply o.step o.leg (applyStarted o (atTime now s))) := by
  simp only [execApplyStart, ho]
  exact congrArg Host.Outcome.next (if_pos (by simp [hfree, hhalt, hrunning]))

theorem overlapApply_overlap {x : LegOcc} (h : (overlapApply x).kind = kServe) : (overlapApply x).overlap = true := by
  unfold overlapApply at h ⊢
  split
  · rfl
  · next hx => rw [if_neg hx] at h; exact absurd h hx

/-- Each leg that APPLY_START leaves is one from before it, of the same number and tick. -/
theorem mem_applyStarted_legs {o x : LegOcc} (hx : x ∈ (applyStarted o s).run.legs) :
    ∃ y ∈ s.run.legs, x = overlapApply (openApplyLeg s.now o y) ∧ y.leg = x.leg ∧ y.tick = x.tick := by
  obtain ⟨z, hz, rfl⟩ := List.mem_map.mp hx
  obtain ⟨y, hy, rfl⟩ := List.mem_map.mp hz
  refine ⟨y, hy, rfl, ?_⟩
  unfold overlapApply openApplyLeg
  split <;> split <;> simp

/-- The leg that starts is open, and its wait for the gate is over (R35). -/
theorem applyStarted_opens {o x : LegOcc} (hx : x ∈ (applyStarted o s).run.legs) (hleg : x.leg = o.leg)
    (htick : x.tick = o.tick) :
    x.opened = true ∧ ∃ y ∈ s.run.legs, y.leg = o.leg ∧ y.tick = o.tick ∧ x.waitNs = (unblockLeg s.now .go y).waitNs ∧
      (y.gates = [.go] → x.waitNs = y.waitNs + (s.now - y.blockedFrom)) := by
  obtain ⟨y, hy, rfl, hl, ht⟩ := mem_applyStarted_legs hx
  rw [hleg] at hl
  rw [htick] at ht
  have hopen : openApplyLeg s.now o y = { unblockLeg s.now .go y with opened := true } := by simp [openApplyLeg, hl, ht]
  have hwait : (overlapApply (openApplyLeg s.now o y)).waitNs = (unblockLeg s.now .go y).waitNs := by
    rw [hopen]; unfold overlapApply; split <;> rfl
  have hopened : (overlapApply (openApplyLeg s.now o y)).opened = true := by
    rw [hopen]; unfold overlapApply; split <;> rfl
  exact ⟨hopened, y, hy, hl, ht, hwait, fun hgate => hwait.trans (unblockLeg_waitNs_of_last s.now hgate)⟩

/-! ### LEG_COMPLETE (R35, R36, R279) -/

theorem execLegComplete_closes (now leg tick : Nat) {o : LegOcc} (ho : legOcc s leg tick = some o)
    (hdone : legDone (atTime now s) o = true) : execLegComplete now tick leg o.kind o.step s =
      let v := settleLate o (waitOf (noteOverrun (atTime now s)) o) o.remote (noteOverrun (atTime now s))
      let t := afterLeg o (freeHeldLegs
        { v with run := { v.run with legs := v.run.legs.filter fun x => !(x.leg == leg && x.tick == tick) } })
      .next (idleAfter o.uset (onMerged (if o.late && !(t.run.legs.any (·.late)) then ackNow t else t))) := by
  simp [execLegComplete, ho, hdone]

/-! ### UNIT_WAKE and UNPLANNED_WAKE (R353) -/

theorem execUnitWake_wakes (now : Nat) {x : UnitId} {g : Nat} (hgap : gapOf (atTime now s) x = some g)
    (hdue : g ≤ wakeNs (idleOf (atTime now s) x)) : execUnitWake now x s = .next (wake x (atTime now s)) := by
  simp [execUnitWake, hgap, hdue]

theorem execUnplannedWake_unit (now : Nat) {x : UnitId} (hx : x ≠ uModule) :
    execUnplannedWake now x s = .next (wake x (atTime now s)) := by
  simp [execUnplannedWake, hx]

theorem execUnplannedWake_module (now : Nat) (s : State) :
    execUnplannedWake now uModule s = .next (rouse (atTime now s)) := by
  simp [execUnplannedWake]

/-- Waking from I4 leaves self-refresh and keeps what memory holds (R317, R352); in any other state nothing changes. -/
theorem rouse_of_idle (h : s.pw.moduleState = 4) :
    rouse s = { s with pw := { s.pw with moduleState := 0 }, mm := { s.mm with selfRefresh := false } } := by
  simp [rouse, h]

theorem rouse_of_awake (h : s.pw.moduleState ≠ 4) : rouse s = s := by simp [rouse, h]

/-- Settles O33: each command's equation where it acts; APPLY_START's legs are those before it, opened and overlapped. -/
theorem legs : Obligations.Legs := by
  rintro s _ now rfl
  refine ⟨fun leg e => execLegStart_opens now leg, ?apply, ?deadline, ?complete, fun x g => execUnitWake_wakes now,
    fun x => execUnplannedWake_unit now, _, execUnplannedWake_module now s, ?rouse⟩
  case apply =>
    intro o ho hfree hhalt hrunning
    refine ⟨_, execApplyStart_starts now ho hfree hhalt hrunning, rfl, fun x => applyStarted_opens, fun x hx hserve => ?_,
      rfl, rfl⟩
    obtain ⟨y, -, rfl, -, -⟩ := mem_applyStarted_legs hx
    exact overlapApply_overlap hserve
  case deadline =>
    exact fun leg tick o ho hlate hdue hhalt => ⟨_, rfl, execLegDeadline_late now leg tick ho hlate hdue hhalt⟩
  case complete => exact fun leg tick o ho hdone => ⟨_, _, rfl, rfl, execLegComplete_closes now leg tick ho hdone⟩
  case rouse =>
    by_cases h : s.pw.moduleState = 4
    · rw [rouse_of_idle (s := atTime now s) h, if_pos h]
      exact ⟨rfl, fun _ => rfl, rfl, rfl⟩
    · rw [rouse_of_awake (s := atTime now s) h, if_neg h]
      exact ⟨rfl, fun h4 => absurd h4 h, rfl, rfl⟩

end Sys2Proof.Machine
end

section
/-! Time sources and RDMA arrivals: what the commands of PTP, PPS_IN, TICK_IN and the queue pairs do where they act (R33, R312,
R341, R344, R345, R423, R424). -/

namespace Sys2Proof.Machine

variable {s : State}

/-! ### PTP (R345) -/

theorem execPtpMessage_announce (now f : Nat) (hen : s.hq.ptpEn = true) :
    execPtpMessage now s.hq.ptpPort true f s =
      .next { atTime now s with net := { s.net with ptpLast := some (atTime now s).now, ptpHold := false } } := by
  simp [execPtpMessage, hen]

theorem execPtpMessage_time (now f : Nat) (hen : s.hq.ptpEn = true) (hsrc : s.tk.timeSrc = 1) :
    execPtpMessage now s.hq.ptpPort false f s = .next (syncFacility f (atTime now s)) := by
  simp [execPtpMessage, hen, hsrc]

theorem execPtpAnnounceTimeout_holds (now : Nat) {l : Nat} (hen : s.hq.ptpEn = true) (hhold : s.net.ptpHold = false)
    (hlast : s.net.ptpLast = some l) (hdue : l + 3 * second ≤ (atTime now s).now) : execPtpAnnounceTimeout now s =
      .next (tally tlPtpHoldover { atTime now s with net := { s.net with ptpHold := true } }) := by
  simp [execPtpAnnounceTimeout, hen, hhold, hlast, hdue]

/-! ### PPS_IN (R424): an edge that counts (log 37) -/

section pps
variable (now : Nat) (haccept : ppsAccepted (atTime now s) = true)
include haccept

theorem execPpsIn_other_source (hsrc : s.tk.timeSrc ≠ 2) : execPpsIn now s =
    .next { atTime now s with net := { s.net with ppsLast := some (atTime now s).now, ppsHold := false } } := by
  simp [execPpsIn, haccept, hsrc]

theorem execPpsIn_source (hsrc : s.tk.timeSrc = 2) : execPpsIn now s =
    .next (syncFacility (ppsCount (atTime now s) * second) { atTime now s with net := { s.net with
      ppsLast := some (atTime now s).now, ppsHold := false, ppsFirst := false, ppsSeconds := ppsCount (atTime now s) } }) := by
  simp [execPpsIn, haccept, hsrc]

end pps

theorem execPpsTimeout_holds (now : Nat) {l : Nat} (hsrc : s.tk.timeSrc = 2) (hhold : s.net.ppsHold = false)
    (hlast : s.net.ppsLast = some l) (hdue : l + 3 * second ≤ (atTime now s).now) : execPpsTimeout now s =
      .next (tally tlPpsHoldover { atTime now s with net := { s.net with ppsHold := true } }) := by
  simp [execPpsTimeout, hsrc, hhold, hlast, hdue]

/-! ### TICK_IN (R423) -/

/-- An edge counts where the last, if any, lies 1 µs or more back. -/
theorem execTickIn_stamps (now : Nat) (hfar : ∀ l, s.tk.tickinLast = some l → l + 1000 ≤ (atTime now s).now) :
    execTickIn now s = .next { atTime now s with tk := { s.tk with
      tickinLast := some (atTime now s).now, tickinOffset := ((atTime now s).now - s.run.tickStartAt) % 2 ^ 32
      tickinTick := s.tk.tick % 2 ^ 32, tickinCount := min (s.tk.tickinCount + 1) (2 ^ 32 - 1) } } := by
  cases hlast : s.tk.tickinLast with
  | none => simp [execTickIn, hlast]
  | some l => simp [execTickIn, hlast, (hfar l hlast).not_gt]

/-! ### RDMA over a queue pair (R341, R344) -/

@[simp] theorem mrGrants_atTime (now key a n : Nat) (write : Bool) (s : State) :
    mrGrants (atTime now s) key a n write = mrGrants s key a n write := rfl

section queuePair
variable (now : Nat) {qp : Nat} {x : Qp} (hqp : tabFind s.net.qps qp = some x)
include hqp

theorem execRdmaWriteReceive_lands (key a : Nat) (bs : List Byte) (hgrant : mrGrants s key a bs.length true = true) :
    execRdmaWriteReceive now qp key a bs s = .next (emit (.rdmaAck qp) { atTime now s with mm := memWrite s.mm a bs }) := by
  simp [execRdmaWriteReceive, hqp, hgrant]

theorem execRdmaWriteReceive_refused (key a : Nat) (bs : List Byte) (hgrant : mrGrants s key a bs.length true = false) :
    execRdmaWriteReceive now qp key a bs s = .next (emit (.rdmaError qp) (atTime now s)) := by
  simp [execRdmaWriteReceive, hqp, hgrant]

theorem execRdmaReadReceive_returns (key a n : Nat) (hgrant : mrGrants s key a n false = true)
    (hclean : poisonIn s.mm a n = none) :
    execRdmaReadReceive now qp key a n s = .next (emit (.rdmaReadData qp (memRead s.mm a n)) (atTime now s)) := by
  simp [execRdmaReadReceive, hqp, hgrant, hclean]

/-- A read without a grant, and one of a poisoned line (R312), end alike. -/
theorem execRdmaReadReceive_refused (key a n : Nat) (h : mrGrants s key a n false = false ∨ (poisonIn s.mm a n).isSome = true) :
    execRdmaReadReceive now qp key a n s = .next (emit (.rdmaError qp) (atTime now s)) := by
  rcases h with hgrant | hpoison
  · simp [execRdmaReadReceive, hqp, hgrant]
  · obtain ⟨line, hline⟩ := Option.isSome_iff_exists.mp hpoison
    simp [execRdmaReadReceive, hqp, hline]

/-- A message stays for its consumer (log 44). -/
theorem execRdmaSendReceive_stores (bs : List Byte) : execRdmaSendReceive now qp bs s =
    .next (emit (.rdmaAck qp) { atTime now s with net := { s.net with received := s.net.received ++ [(qp, bs)] } }) := by
  simp [execRdmaSendReceive, hqp]

end queuePair

/-- Settles O55: each command's equation where it acts. Which PPS and TICK_IN edges count is log 37, and that a message's
payload stays in the state is log 44. -/
theorem timeAndRdma : Obligations.TimeAndRdma := by
  rintro s _ now rfl
  refine ⟨fun f hen => ⟨execPtpMessage_announce now f hen, execPtpMessage_time now f hen⟩,
    fun l => execPtpAnnounceTimeout_holds now,
    fun haccept => ⟨execPpsIn_other_source now haccept, execPpsIn_source now haccept⟩,
    fun l => execPpsTimeout_holds now, execTickIn_stamps now,
    fun qp x hqp => ⟨?write, ?read, execRdmaSendReceive_stores now hqp⟩⟩
  case write =>
    exact fun key a bs => ⟨execRdmaWriteReceive_lands now hqp key a bs, execRdmaWriteReceive_refused now hqp key a bs⟩
  case read =>
    exact fun key a n => ⟨execRdmaReadReceive_returns now hqp key a n, execRdmaReadReceive_refused now hqp key a n⟩

end Sys2Proof.Machine
end

section
/-! ADMIN commands on the job, its queues, timetables, bellwether and tile map (R23, R24, R34, R138, R260, R264, R330 to R333,
R408, R409): what each does where nothing rejects it. -/

namespace Sys2Proof.Machine

variable {s t : State} {e : AdminEntry}

/-! ### Waking from I4 (log 72) changes the power unit's state and self-refresh alone -/

@[simp] theorem rouse_tk (s : State) : (rouse s).tk = s.tk := by unfold rouse; split <;> rfl

@[simp] theorem rouse_job (s : State) : (rouse s).job = s.job := by unfold rouse; split <;> rfl

@[simp] theorem rouse_hq (s : State) : (rouse s).hq = s.hq := by unfold rouse; split <;> rfl

@[simp] theorem devOk_rouse (s : State) (a n : Nat) : devOk (rouse s).mm a n = devOk s.mm a n := by
  unfold rouse; split <;> rfl

@[simp] theorem startedOp_rouse (s : State) (opcode : Nat) : startedOp (rouse s) opcode = startedOp s opcode := by
  simp [startedOp]

@[simp] theorem startedOp_atTime (now opcode : Nat) (s : State) : startedOp (atTime now s) opcode = startedOp s opcode := rfl

@[simp] theorem slotTimetable_rouse (s : State) (n : Nat) : slotTimetable (rouse s) n = slotTimetable s n := by
  simp [slotTimetable]

theorem startedOp_isSome {opcode : Nat} : (startedOp s opcode).isSome = true ↔ ∃ c ∈ s.hq.started, c.opcode = opcode := by
  simp [startedOp]

theorem tooSoon_of_ahead {tick : Nat} (h : s.tk.tick + 2 ≤ tick) : tooSoon s tick = false := by simp [tooSoon, h]

/-! ### The shape of a command (R330, R331) -/

section shape
variable {opcode n st : Nat} {args : List (Nat × Nat)} {f : State → AdminOut × State}
  {g : List Byte → State → AdminOut × State}
  (hres : e.reserved = false)

include hres in
/-- A command whose work ends at its start completes. -/
theorem adminRun_done (hf : f (rouse s) = (.done st args, t)) :
    adminRun opcode e f s = .next (adminComplete e.slot e.tag opcode st args t) := by
  simp [adminRun, hres, hf]

include hres in
/-- A command whose work goes on is on the list of those started. -/
theorem adminRun_later (hf : f (rouse s) = (.later, t)) : adminRun opcode e f s =
    .next { t with hq := { t.hq with started := t.hq.started ++ [{ slot := e.slot, tag := e.tag, opcode }] } } := by
  simp [adminRun, hres, hf]

/-- A command that no check stops takes effect and has status 0. -/
theorem adminCheck_zero {h : State → State} (hst : st = 0) : adminCheck st h s = (.done 0 [], h s) := by
  simp [adminCheck, hst]

theorem withBlock_some {b : List Byte} (hb : paramBlock n e s = (some b, t)) : withBlock n e g s = g b t := by
  simp [withBlock, hb]

end shape

/-! ### PLAN_LOAD (R260) -/

/-- A container without fault is loaded, section by section. -/
theorem loadPlan_ok {bs : List Byte} {a : Nat} (hfault : containerFault bs = 0) (hsig : signatureBad s bs = false)
    (hload : loadSections bs a s = .ok t) : loadPlan bs a s = (0, t) := by
  simp [loadPlan, hfault, hsig, hload]

section admin
variable (hres : e.reserved = false)
include hres

theorem execPlanLoad_loads {st : Nat} (haddr : e.paramAddr ≠ 0) (halign : e.paramAddr % 64 = 0) (hphys : e.paramAddr < hostBit)
    (hbytes : e.paramBytes ≠ 0) (hdev : devOk s.mm e.paramAddr e.paramBytes = true) (hjob : s.job.state = 0)
    (hload : loadPlan (memRead (rouse s).mm e.paramAddr e.paramBytes) e.paramAddr (rouse s) = (st, t)) :
    execPlanLoad e s = .next (adminComplete e.slot e.tag 0x0001 st [] t) := by
  refine adminRun_done hres ?_
  simp [haddr, halign, hphys.not_ge, hbytes, hdev, hjob, hload]

/-! ### JOB_START and JOB_RESET (R138, R408) -/

theorem execJobStart_accepts (now : Nat) (hst : startStatus (rouse (atTime now s)) e = 0) :
    execJobStart now e s = .next (checkReports
      (let w := acceptStart e (rouse (atTime now s))
       { w with hq := { w.hq with started := w.hq.started ++ [{ slot := e.slot, tag := e.tag, opcode := 0x0002 }] } })) := by
  rw [execJobStart, adminRun_later hres (t := acceptStart e (rouse (atTime now s))) (by simp [hst])]

section reset
variable (now : Nat) (hstart : startedOp s 0x0002 = none) (hreset : startedOp s 0x0003 = none)
include hstart hreset

/-- On a running job the command goes on while the job halts. -/
theorem execJobReset_running (hjob : s.job.state = 2) :
    execJobReset now e s = .next (haltForReset
      (let v := rouse (atTime now s)
       { v with hq := { v.hq with started := v.hq.started ++ [{ slot := e.slot, tag := e.tag, opcode := 0x0003 }] } })) := by
  rw [execJobReset, adminRun_later hres (t := rouse (atTime now s)) (by simp [hjob, hstart, hreset])]
  refine congrArg Host.Outcome.next (if_pos (Bool.and_eq_true_iff.mpr ⟨by simp [hjob, hreset], startedOp_isSome.mpr ?_⟩))
  exact ⟨{ slot := e.slot, tag := e.tag, opcode := 0x0003 }, by simp, rfl⟩

/-- A job that is not running is reset at once (log 18). -/
theorem execJobReset_idle (hloaded : s.job.state ≠ 0) (hjob : s.job.state ≠ 2) :
    execJobReset now e s = .next (adminComplete e.slot e.tag 0x0003 0 [] (endJobReset (rouse (atTime now s)))) := by
  rw [execJobReset, adminRun_done hres (t := endJobReset (rouse (atTime now s))) (st := 0) (args := [])
    (by simp [hloaded, hjob, hstart, hreset])]
  simp [hjob]

end reset

/-! ### Queues (R332, R333) -/

theorem execQueueCreate_makes {b : List Byte} (hb : paramBlock 64 e (rouse s) = (some b, t)) (h6 : anySet b 6 2 = false)
    (h20 : anySet b 20 44 = false) (h5 : byteAt b 5 < 64) (hok : queueBad t b = false) :
    execQueueCreate e s = .next (adminComplete e.slot e.tag 0x0004 0 [] (makeQueue b t)) := by
  refine adminRun_done hres ?_
  rw [withBlock_some hb]
  exact adminCheck_zero (by simp [firstStatus, h6, h20, h5.not_ge, hok])

theorem execQueueDelete_removes (hqueue : (tabFind s.hq.queues e.arg0).isSome = true)
    (hfree : s.job.state ≠ 2 ∨ e.arg0 ∉ s.job.header.rings) : execQueueDelete e s =
      .next (adminComplete e.slot e.tag 0x0005 0 [] { rouse s with hq := { (rouse s).hq with
        queues := tabDel (rouse s).hq.queues e.arg0
        entries := (rouse s).hq.entries.filter fun x => x.queue != e.arg0 } }) := by
  refine adminRun_done hres (adminCheck_zero ?_)
  obtain ⟨q, hq⟩ := Option.isSome_iff_exists.mp hqueue
  rcases hfree with hjob | hring
  · simp [firstStatus, hq, hjob]
  · simp [firstStatus, hq, hring]

/-! ### Timetables, bellwether, tile map (R23, R24, R34, R264): changes wait for their tick -/

theorem execTimetableLoad_loads {b : List Byte} (hb : paramBlock ttBytes e (rouse s) = (some b, t)) (hjob : t.job.state ≠ 0)
    (hpend : ∀ n, t.tk.switch ≠ some (n, e.arg0)) (harg : e.arg0 ≤ 1) (hactive : e.arg0 ≠ t.tk.active)
    (hst : timetableStatus b t.tk.leadNs t.tiles.map = 0) : execTimetableLoad e s =
      .next (adminComplete e.slot e.tag 0x0010 0 [] (setSlot e.arg0 { status := 0, tt := some (parseTimetable b) } t)) := by
  refine adminRun_done hres ?_
  rw [withBlock_some hb]
  cases hswitch : t.tk.switch with
  | none => simp [firstStatus, loadSlot, hjob, harg.not_gt, hactive, hst]
  | some x =>
    have hslot : x.2 ≠ e.arg0 := fun hx => hpend x.1 (hx ▸ hswitch)
    simp [firstStatus, loadSlot, hjob, harg.not_gt, hactive, hst, hslot]

theorem execTimetableSwitch_waits (hahead : s.tk.tick + 2 ≤ e.arg0) (hnone : s.tk.switch = none) (harg : e.arg1 ≤ 1)
    (hloaded : (slotTimetable s e.arg1).isSome = true) : execTimetableSwitch e s =
      .next (adminComplete e.slot e.tag 0x0011 0 [] { rouse s with tk := { s.tk with switch := some (e.arg0, e.arg1) } }) := by
  obtain ⟨tt, htt⟩ := Option.isSome_iff_exists.mp hloaded
  have hsoon : tooSoon (rouse s) e.arg0 = false := tooSoon_of_ahead (by simpa using hahead)
  refine adminRun_done hres ((adminCheck_zero ?_).trans (by rw [rouse_tk]))
  simp [firstStatus, hsoon, hnone, harg.not_gt, htt]

theorem execBellwetherHandover_waits (hahead : s.tk.tick + 2 ≤ e.arg0) (hnone : s.tk.handover = none)
    (hcand : e.arg1 ∈ s.job.exchange.candidates) : execBellwetherHandover e s =
      .next (adminComplete e.slot e.tag 0x0012 0 [] { rouse s with tk := { s.tk with handover := some (e.arg0, e.arg1) } }) := by
  have hsoon : tooSoon (rouse s) e.arg0 = false := tooSoon_of_ahead (by simpa using hahead)
  refine adminRun_done hres ((adminCheck_zero ?_).trans (by rw [rouse_tk]))
  simp [firstStatus, hsoon, hnone, hcand]

theorem execTileMapSwitch_waits {b : List Byte} (hb : paramBlock mapBytes e (rouse s) = (some b, t)) (hjob : t.job.state ≠ 0)
    (hahead : t.tk.tick + 2 ≤ e.arg0) (hnone : t.tiles.pendMap = none) (hstill : t.tiles.moving = [])
    (hok : mapBad t.nor.quarTiles b = false) : execTileMapSwitch e s = .next (adminComplete e.slot e.tag 0x0013 0 []
      { t with tiles := { t.tiles with pendMap := some (e.arg0, parseMap b, false) } }) := by
  refine adminRun_done hres ?_
  rw [withBlock_some hb]
  exact adminCheck_zero (by simp [firstStatus, hjob, tooSoon_of_ahead hahead, hnone, hstill, hok])

end admin

/-- Settles O57: each command's equation where nothing rejects it. A command wakes the module from I4 (log 72); a reset of a job
that is not running acts at once, and a rejected plan leaves the slot's status (log 18). -/
theorem adminJob : Obligations.AdminJob := by
  rintro e s _ hres rfl
  refine ⟨fun st v => execPlanLoad_loads hres, fun bs a v => loadPlan_ok, ?start, ?reset, fun b v => execQueueCreate_makes hres,
    execQueueDelete_removes hres, fun b v => execTimetableLoad_loads hres, execTimetableSwitch_waits hres,
    execBellwetherHandover_waits hres, fun b v => execTileMapSwitch_waits hres⟩
  case start =>
    rintro now _ _ rfl hst rfl
    exact execJobStart_accepts hres now hst
  case reset =>
    rintro now _ rfl hstart hreset
    exact ⟨execJobReset_running hres now hstart hreset, execJobReset_idle hres now hstart hreset⟩

end Sys2Proof.Machine
end

section
/-! Registers at cold reset (R44, R115, R183, R304, R322, R350, R366, R384): the pages that repeat a register, by the register;
the others are read one by one. -/

namespace Sys2Proof.Machine

/-! ### Pages that repeat a register (R430) -/

/-- The route table's slots hold two entries each (R183). -/
theorem csrSlot_route (s : State) {c : Nat} (hc : c < 2048) :
    csrSlot s (0x16000 + 8 * c) = routeEntry s (2 * c) + 2 ^ 32 * routeEntry s (2 * c + 1) := by
  have hslot : (0x16000 + 8 * c) % 4096 / 8 = c % 512 := by omega
  have hentry : 512 * ((0x16000 + 8 * c) / 4096 - 0x16) + c % 512 = c := by omega
  simp (disch := omega) only [csrSlot, if_neg, if_pos, hslot, hentry]

/-- A link group's page begins with the status of its eight links (R183). -/
theorem csrSlot_link (s : State) {k i : Nat} (hk : k < 12) (hi : i < 8) :
    csrSlot s (0x1A000 + 0x1000 * k + 8 * i) = linkStatus (getLink s (8 * k + i)) := by
  have hpage : (0x1A000 + 0x1000 * k + 8 * i) / 4096 - 0x1A = k := by omega
  have hslot : (0x1A000 + 0x1000 * k + 8 * i) % 4096 / 8 = i := by omega
  simp (disch := omega) only [csrSlot, lgGroup, if_neg, if_pos, hpage, hslot]

/-- The power unit's page holds what it learned of each leg (R366). -/
theorem csrSlot_legPower (s : State) {l : Nat} (hl : l < 32) :
    csrSlot s (0xB100 + 8 * l) = (legPower s l).learned + 2 ^ 12 * (legPower s l).bubble := by
  have hslot : (0xB100 + 8 * l) % 4096 / 8 = 0x20 + l := by omega
  have hin : 0x20 ≤ 0x20 + l ∧ 0x20 + l < 0x40 := by omega
  have hleg : 0x20 + l - 0x20 = l := by omega
  simp (disch := omega) only [csrSlot, pwReg, if_neg, if_pos, hslot, hin, hleg, decide_true, Bool.and_self, if_true]

/-! ### Their values at cold reset -/

/-- No entry of the route table names a hop (R183). -/
theorem csrSlot_route_reset {c : Nat} (hc : c < 2048) : csrSlot State.reset (0x16000 + 8 * c) = 0x7F7F7F7F7F7F7F7F := by
  have hentry : ∀ n, routeEntry State.reset n = 0x7F7F7F7F := fun _ => rfl
  rw [csrSlot_route State.reset hc, hentry, hentry]
  norm_num

/-- No link has a peer (R183). -/
theorem csrSlot_link_reset {k i : Nat} (hk : k < 12) (hi : i < 8) :
    csrSlot State.reset (0x1A000 + 0x1000 * k + 8 * i) = 0x7F * 2 ^ 17 :=
  (csrSlot_link State.reset hk hi).trans (show linkStatus {} = 0x7F * 2 ^ 17 by decide)

/-- A leg's learned power is 3,000 W until it is measured (R366). -/
theorem csrSlot_legPower_reset {l : Nat} (hl : l < 32) : csrSlot State.reset (0xB100 + 8 * l) = 3000 := by
  have hleg : legPower State.reset l = {} := rfl
  rw [csrSlot_legPower State.reset hl, hleg]
  rfl

/-- Settles O60: single registers and the four dies' pages are read off the state that reset leaves. -/
theorem resetRegisters : Obligations.ResetRegisters := by
  refine ⟨?single, ?dies, fun l => csrSlot_legPower_reset, ?grazing, fun c => csrSlot_route_reset,
    fun k hk i => csrSlot_link_reset hk, rfl, rfl, rfl⟩
  case single => decide +kernel
  case dies => decide +kernel
  case grazing => decide +kernel

end Sys2Proof.Machine
end

section
/-! The embedding class (R74, R76, R79, R80, R215, R272 to R274, R280): look-ups, gradient hand-over and posts that issue on sound
operands, and their completions. -/

namespace Sys2Proof.Machine

variable {s t u v : State} {p i : Nat} {f : Fields} {g : LegTag}

theorem onUnit_tile (hp : p < 160) : onUnit (decide (p < 160)) s = .next s := by simp [onUnit, hp]

/-! ### Leg tags (R280) -/

section tag
variable {x : Tile} (htag : x.tag = some g)
include htag

theorem tagKind_of_tag : tagKind x = some g.kind := by simp [tagKind, htag]

theorem tagAbandoned_of_tag : tagAbandoned x = (g.abandoned || g.dropped) := by simp [tagAbandoned, htag]

theorem tagFields_of_tag : tagFields x = (g.tick, g.leg, g.step) := by simp [tagFields, htag]

end tag

/-! ### emb.look (R76, R79, R272) -/

section look
variable (h : Issues s p 0xC1 f (okLook f)) (hroom : embStall (getTile s p) f = false) (htag : (getTile s p).tag = some g)
include h hroom htag

theorem execEmbLook_abandoned (hkind : g.kind = 2) (hgone : g.abandoned = true ∨ g.dropped = true) :
    execEmbLook p f s = .next (advance p s) := by
  rw [execEmbLook, h.runs]
  simp [hroom, tagKind_of_tag htag, tagAbandoned_of_tag htag, hkind, kGather, hgone]

theorem execEmbLook_issues {bags iBase oBase lo : Nat} {tb : Table} {eo ei : End} {ob ib : List Byte} {offs : List Nat}
    (hbags : bags = (readS (getTile s p) f.d).toNat) (hibase : iBase = (readS (getTile s p) f.a).toNat)
    (hobase : oBase = (readS (getTile s p) f.b).toNat)
    (hkind : g.kind = 6 ∨
      (g.kind = 2 ∧ g.abandoned = false ∧ g.dropped = false ∧ tabFind (getTile s p).handles (immF f 11 4) = none))
    (hpos : 1 ≤ bags) (hmax : bags ≤ 65536) (htable : getTable s (immF f 20 12) = some tb)
    (heo : operandEnd s (immF f 2 1 == 1) oBase (4 * (bags + 1)) false = (none, eo))
    (hob : endFetch p eo (4 * (bags + 1)) s = (ob, none, u))
    (hoffs : offs = (List.range (bags + 1)).map (fun i => leAt ob (4 * i) 4)) (hok : offsetsOk offs = true)
    (hlo : lo = offs.headD 0)
    (hei : operandEnd u (immF f 3 1 == 1) (iBase + 8 * lo) (8 * (offs.getLastD 0 - lo)) false = (none, ei))
    (hib : endFetch p ei (8 * (offs.getLastD 0 - lo)) u = (ib, none, v)) (htable' : getTable v (immF f 20 12) = some tb) :
    execEmbLook p f s = .next (issueLook p (immF f 9 2) (immF f 20 12) bags (readS (getTile s p) f.c).toNat (immF f 11 4)
      (immF f 1 1 == 1) f tb.desc (offs.map (· - lo)) ((List.range (offs.getLastD 0 - lo)).map fun i => leAt ib (8 * i) 8) v) := by
  have hcount : (decide (bags = 0) || decide (65536 < bags)) = false := by simp; omega
  have hlive : (tagKind (getTile s p) == some kGather && tagAbandoned (getTile s p)) = false := by
    rcases hkind with hkind | ⟨-, hlive, hkept, -⟩
    · simp [tagKind_of_tag htag, hkind, kGather]
    · simp [tagAbandoned_of_tag htag, hlive, hkept]
  have hleg : (tagKind (getTile s p) == some kGather || tagKind (getTile s p) == some kServe) = true := by
    rcases hkind with hkind | ⟨hkind, -⟩ <;> simp [tagKind_of_tag htag, hkind, kGather, kServe]
  have hfree : (tagKind (getTile s p) == some kGather && (tabFind (getTile s p).handles (immF f 11 4)).isSome) = false := by
    rcases hkind with hkind | ⟨-, -, -, hfree⟩
    · simp [tagKind_of_tag htag, hkind, kGather]
    · simp [hfree]
  rw [execEmbLook, h.runs]
  simp only [hroom, hlive, hleg, hfree, ← hbags, ← hibase, ← hobase, hcount, heo, htable, hob, ← hoffs, hok, ← hlo, hei, hib,
    htable', firstTrap, Option.isNone_some, Bool.or_self, Bool.false_eq_true, if_false, if_true, Bool.not_true]

end look

/-- A batch whose rows have come writes its results (R79). -/
theorem execEmbLookComplete_writes {id : Nat} {b : Batch} {x : Table} (hp : p < 160)
    (hi : (getTile s p).embs.findIdx? (fun x => x.op == .look id) = some i)
    (hb : s.ex.batches.find? (fun b => b.id == id) = some b) (hx : getTable s b.table = some x) (hready : b.ready = true) :
    execEmbLookComplete p id s = .next (settleTile p (finishLook p i b x.desc s)) := by
  simp only [execEmbLookComplete, onUnit_tile hp, hi, hb, hx, hready, if_true]

/-! ### emb.grad (R80, R273) -/

section grad
variable (h : Issues s p 0xC2 f (okGrad f)) (hroom : embStall (getTile s p) f = false) (htag : (getTile s p).tag = some g)
  (hkind : g.kind = 4)
include h hroom htag hkind

theorem execEmbGrad_abandoned (hgone : g.abandoned = true ∨ g.dropped = true) : execEmbGrad p f s = .next (advance p s) := by
  rw [execEmbGrad, h.runs]
  simp [hroom, tagKind_of_tag htag, tagAbandoned_of_tag htag, hkind, kReturn, hgone]

/-- The queue entry of an emb.grad: its batch, source and format, under the tile's tag. -/
def gradEntry (t : Tile) (f : Fields) (g : LegTag) (id : Nat) (src : End) (n : Nat) : EmbEnt :=
  { order := 0, op := .grad id src (immF f 4 4), step := some g.step, tick := g.tick, tok := tokOf f, addr := t.pc, opcode := 0xC2
    reads := endRgns src n, writes := [] }

theorem execEmbGrad_queues {base n id : Nat} {b : Batch} {tb : Table} {src : End} (hbase : base = (readS (getTile s p) f.a).toNat)
    (hlive : g.abandoned = false) (hkept : g.dropped = false) (hhandle : tabFind (getTile s p).handles (immF f 11 4) = some id)
    (hb : s.ex.batches.find? (fun b => b.id == id) = some b) (hsame : b.step = g.step) (hunused : b.usedBy = false)
    (htb : getTable s b.table = some tb)
    (hn : n = gradBytes tb.desc (immF f 4 4) (resultCount tb.desc (b.offsets.length - 1) (batchSurvivors b)))
    (hsrc : operandEnd s (immF f 1 1 == 1) base n false = (none, src)) :
    execEmbGrad p f s = .next (advance p (queueEmb p (gradEntry (getTile s p) f g b.id src n) (bumpInFlight true src
      (modBatch b.id (fun b => { b with usedBy := true }) s)))) := by
  subst hbase hn
  rw [execEmbGrad, h.runs]
  simp [hroom, tagKind_of_tag htag, tagAbandoned_of_tag htag, tagFields_of_tag htag, htag, hkind, kReturn, hlive, hkept, hhandle,
    hb, hsame, hunused, htb, hsrc, firstTrap, gradEntry]

end grad

section gradComplete
variable {id n fmt : Nat} {src : End} {x : EmbEnt} {b : Batch} {tb : Table} {bytes : List Byte} (hp : p < 160)
  (hx : (getTile s p).embs[i]? = some x) (hop : x.op = .grad id src fmt) (hb : s.ex.batches.find? (fun b => b.id == id) = some b)
  (htb : getTable s b.table = some tb) (hwritten : b.written = true)
  (hn : n = gradBytes tb.desc fmt (resultCount tb.desc (b.offsets.length - 1) (batchSurvivors b)))
include hp hx hop hb htb hwritten hn

theorem execEmbGradComplete_sends (hread : gradRead p x src n s = (bytes, none, u)) : execEmbGradComplete p i s =
    .next (settleTile p (sendGradients b tb.desc fmt x.tick bytes (bumpInFlight false src (dropEmb p i u)))) := by
  subst hn
  simp [execEmbGradComplete, onUnit_tile hp, hx, hop, hb, htb, hwritten, hread]

/-- A poisoned line of the source traps (R312). -/
theorem execEmbGradComplete_traps {line : Nat} (hread : gradRead p x src n s = (bytes, some line, u)) : execEmbGradComplete p i s =
    .next (settleTile p (trapParity p 19 x.addr x.opcode line (bumpInFlight false src (dropEmb p i u)))) := by
  subst hn
  simp [execEmbGradComplete, onUnit_tile hp, hx, hop, hb, htb, hwritten, hread, enEmbed]

end gradComplete

/-! ### emb.post (R215, R274) -/

theorem Issues.atTime {op : Nat} {legal : Bool} (h : Issues s p op f legal) (now : Nat) :
    Issues (atTime now s) p op f legal := ⟨h.tile, h.can, h.pc, h.word, h.legal⟩

theorem execEmbPost_answers (now : Nat) {base n : Nat} {cl : ClaimList} {c : Claim} {e : RingEnt} {m : Model} {src : End}
    {bytes : List Byte} {own : ClaimList → Bool} (h : Issues s p 0xC3 f (okPost f)) (hroom : embStall (getTile s p) f = false)
    (htag : (getTile s p).tag = some g) (hkind : g.kind = 6) (hbase : base = (readS (getTile s p) f.b).toNat)
    (hown : own = fun l => l.leg == g.leg && l.tick == g.tick) (hcl : (getTile s p).claims.find? own = some cl)
    (hc : cl.claims.find? (fun c => c.position == (readS (getTile s p) f.a).toNat && !c.answered) = some c)
    (he : s.hq.entries.find? (fun e => e.queue == c.queue && e.slot == c.slot) = some e)
    (hm : ringModel s (byteAt e.hdr 2) = some m) (hn : n = elemBytes m.outFormat m.outCount)
    (hsrc : operandEnd s (immF f 1 1 == 1) base n false = (none, src))
    (hread : endFetch p src n (atTime now s) = (bytes, none, v)) :
    execEmbPost now p f s = .next (advance p (answer 0 bytes e (modTile p (markAnswered own c.position) v))) := by
  subst hown
  have hent : (atTime now s).hq.entries.find? (fun e => e.queue == c.queue && e.slot == c.slot) = some e := he
  have hmodel : ringModel (atTime now s) (byteAt e.hdr 2) = some m := hm
  have hplace : operandEnd (atTime now s) (immF f 1 1 == 1) base n false = (none, src) := hsrc
  rw [execEmbPost, (h.atTime now).runs]
  simp only [getTile_atTime, hroom, htag, hkind, kServe, beq_self_eq_true, Bool.true_and, hcl, Option.bind_some, hc, hent,
    hmodel, Option.map_some, ← hn, ← hbase, hplace, hread, Bool.false_eq_true, if_false]

/-- Settles O28: each command's equation on sound operands. An operand region is one access, resolved where the instruction issues
(log 62). -/
theorem embedding : Obligations.Embedding := by
  refine ⟨?look, ?lookComplete, ?grad, ?gradComplete, ?post⟩
  case look =>
    rintro s u v p bags iBase oBase _ lo f g tb eo ei ob ib offs h hroom htag hbags hibase hobase rfl
    exact ⟨execEmbLook_abandoned h hroom htag, execEmbLook_issues h hroom htag hbags hibase hobase⟩
  case lookComplete => exact fun s p id i b t => execEmbLookComplete_writes
  case grad =>
    rintro s p base n id f g b tb src h hroom htag hkind hbase
    refine ⟨execEmbGrad_abandoned h hroom htag hkind, fun hlive hkept hhandle hb hsame hunused htb hn hsrc => ?_⟩
    exact ⟨_, execEmbGrad_queues h hroom htag hkind hbase hlive hkept hhandle hb hsame hunused htb hn hsrc, rfl, rfl, rfl, rfl⟩
  case gradComplete =>
    rintro s u p i id n fmt src x b tb bytes bad hp hx hop hb htb hwritten hn hread
    refine ⟨?_, ?_⟩
    · rintro rfl
      exact execEmbGradComplete_sends hp hx hop hb htb hwritten hn hread
    · rintro line rfl
      exact execEmbGradComplete_traps hp hx hop hb htb hwritten hn hread
  case post =>
    rintro s _ v now p base n f g cl c e m src bytes own h hroom rfl
    exact execEmbPost_answers now h hroom

end Sys2Proof.Machine
end

section
/-! Operations of the row home queues (R81 to R91, R93, R99, R103, R105, R106, R205): the operation a command names starts on its
row, and each kind has its own effect. -/

namespace Sys2Proof.Machine

variable {s t : State} {now die q i : Nat} {o : RowOp} {d : Desc}

/-! ### Starting an operation (R86, R88) -/

theorem onUnit_die (hdie : die < 4) : onUnit (isDie die) s = .next s := by simp [onUnit, isDie, hdie]

/-- An operation that may start is the one a command of its kind names. -/
theorem opAt_of_startable {p : OpKind → Bool} (ho : startable s die q i = some o)
    (hd : (getTable s o.table).map (·.desc) = some d) (hp : p o.kind = true) : opAt s die q i p = some (o, d) := by
  obtain ⟨x, hx, rfl⟩ := Option.map_eq_some_iff.mp hd
  simp [opAt, ho, hp, hx]

section die
variable (hdie : die < 4)
include hdie

/-! ### Reads (R81, R85) -/

section read
variable {r : Option (List Byte)} (hread : readRow d die o (dropOp die q i (atTime now s)) = (r, t))
include hread

omit hdie in
/-- A read leaves the queue, reads its record and answers. -/
theorem runRead_completes {k : OpKind} (ho : opAt (atTime now s) die q i (· == k) = some (o, d)) :
    runRead die q i k (atTime now s) = completeRead o d r t := by
  simp only [runRead, ho, hread]

theorem execLookup_completes (ho : opAt (atTime now s) die q i (· == .lookup) = some (o, d)) :
    execLookup now die q i s = .next (completeRead o d r t) := by
  rw [execLookup, onUnit_die hdie, runRead_completes hread ho]

theorem execServeRead_completes (ho : opAt (atTime now s) die q i (· == .serveRead) = some (o, d)) :
    execServeRead now die q i s = .next (completeRead o d r t) := by
  rw [execServeRead, onUnit_die hdie, runRead_completes hread ho]

end read

section start
variable (ho : startable (atTime now s) die q i = some o) (hd : (getTable (atTime now s) o.table).map (·.desc) = some d)
include ho hd

/-! ### ACCUMULATE and APPLY (R93, R99, R103) -/

theorem execAccumulate_adds (hkind : o.kind = .accumulate) :
    execAccumulate now die q i s = .next (accumulateOp die o d (dropOp die q i (atTime now s))) := by
  simp [execAccumulate, onUnit_die hdie, opAt_of_startable ho hd, hkind]

theorem execApply_settles (hkind : o.kind = .apply ∨ ∃ a, o.kind = .repair a) :
    execApply now die q i s = .next (applyOp die q i o d (atTime now s)) := by
  obtain hkind | ⟨a, hkind⟩ := hkind <;> simp [execApply, onUnit_die hdie, opAt_of_startable ho hd, hkind]

/-! ### MIGRATE (R83, R84) -/

section migrate
variable {w : Nat} {next : Option (Nat × Nat)}

/-- A poisoned tag line of its set stops a migrate (R312). -/
theorem execMigrate_of_poison {line : Nat} (hpoison : tagPoison (dropOp die q i (atTime now s)) d die o.slot = some line)
    (hkind : o.kind = .promote w ∨ o.kind = .demote w next) :
    execMigrate now die q i s = .next (structPoison 3 line (dropOp die q i (atTime now s))) := by
  obtain hkind | hkind := hkind <;>
    simp [execMigrate, runMigrate, onUnit_die hdie, opAt_of_startable ho hd, hkind, hpoison]

variable (hclean : tagPoison (dropOp die q i (atTime now s)) d die o.slot = none)
include hclean

theorem execMigrate_promotes (hkind : o.kind = .promote w) :
    execMigrate now die q i s = .next (promoteRow d die w o (dropOp die q i (atTime now s))) := by
  simp [execMigrate, runMigrate, onUnit_die hdie, opAt_of_startable ho hd, hkind, hclean]

theorem execMigrate_demotes (hkind : o.kind = .demote w none) :
    execMigrate now die q i s = .next (demoteRow d die w o (dropOp die q i (atTime now s))) := by
  simp [execMigrate, runMigrate, onUnit_die hdie, opAt_of_startable ho hd, hkind, hclean]

/-- A demote that has freed its way issues the promote that waits for it (R83). -/
theorem execMigrate_makesRoom {row slot : Nat} (ht : t = demoteRow d die w o (dropOp die q i (atTime now s)))
    (hfree : tagValid (tagEntry t d die slot w) = false) (hkind : o.kind = .demote w (some (row, slot))) :
    execMigrate now die q i s = .next (issueMigrate die
      (promoteOp o.table row slot t.tk.tick ((getTable t o.table).elim 0 (·.current)) w) t) := by
  subst ht
  simp [execMigrate, runMigrate, onUnit_die hdie, opAt_of_startable ho hd, hkind, hclean, hfree]

end migrate

/-! ### EXPORT (R157, R205) -/

theorem execExportRow_captures (hkind : o.kind = .exportOp) :
    execExportRow now die q i s = .next (exportRow die o d (dropOp die q i (atTime now s))) := by
  simp [execExportRow, onUnit_die hdie, opAt_of_startable ho hd, hkind]

theorem execExportRow_copies (hkind : o.kind = .handoverCopy) :
    execExportRow now die q i s = .next (handoverRow die o d (dropOp die q i (atTime now s))) := by
  simp [execExportRow, onUnit_die hdie, opAt_of_startable ho hd, hkind]

end start

/-! ### The index block of the oldest batch (R105, R106) -/

theorem execRingIndexBlock_writes {b : RingBatch} {rest : List RingBatch} (hb : (getRu s die).batches = b :: rest)
    (hrows : b.rows.all (fun x => x.2.2.2.2) = true) :
    execRingIndexBlock die s = .next ((List.range b.rows.length).foldl (fun s k => finishEntry die (b.first + k) s)
      (modRu die (fun r => { r with
        batches := rest, wptr := (b.base + (64 + (b.rows.map fun x => x.2.2.1).sum)) % r.ringSize / 64 })
        (ringPut (getRu s die) b.base (indexBlock s.commit.openSeq b.rows) s))) := by
  simp only [execRingIndexBlock, onUnit_die hdie, hb, hrows, if_true]

end die

/-- Settles O36: each command's equation where the operation it names may start. -/
theorem rowOperations : Obligations.RowOperations := by
  refine ⟨?reads, ?starts, ?index⟩
  case reads =>
    rintro s _ now die q i o d r v rfl hdie hread
    exact ⟨execLookup_completes hdie hread, execServeRead_completes hdie hread⟩
  case starts =>
    rintro s _ now die q i o d rfl hdie ho hd
    refine ⟨execAccumulate_adds hdie ho hd, execApply_settles hdie ho hd, ?migrate, ?poison,
      execExportRow_captures hdie ho hd, execExportRow_copies hdie ho hd⟩
    case migrate =>
      rintro w _ rfl hclean
      exact ⟨execMigrate_promotes hdie ho hd hclean, execMigrate_demotes hdie ho hd hclean,
        fun row slot x => execMigrate_makesRoom hdie ho hd hclean⟩
    case poison =>
      rintro w next _ line rfl
      exact execMigrate_of_poison hdie ho hd
  case index =>
    rintro s die _ b rest hdie rfl hb hrows
    exact execRingIndexBlock_writes hdie hb hrows

end Sys2Proof.Machine
end

section
/-! ADMIN commands on tables, folds, repairs, rollback and handovers (R68, R70, R113, R129, R156 to R158, R198, R202, R203, R330,
R334): what each does where nothing rejects it. -/

namespace Sys2Proof.Machine

variable {s t : State} {e : AdminEntry} {b : List Byte}

/-- What a command does rests on what it finds once the module is awake. -/
theorem adminRun_congr {opcode : Nat} {f g : State → AdminOut × State} (h : f (rouse s) = g (rouse s)) :
    adminRun opcode e f s = adminRun opcode e g s := by
  simp only [adminRun, h]

/-! ### Commands with one check on their block (R330, R331) -/

/-- A command whose block is read and finds no fault takes effect and completes with status 0. -/
theorem adminRun_block {opcode n : Nat} {st : List Byte → State → Nat} {h : List Byte → State → State → State}
    (hres : e.reserved = false) (hb : paramBlock n e (rouse s) = (some b, t)) (hst : st b t = 0) :
    adminRun opcode e (withBlock n e fun b s => adminCheck (st b s) (h b s) s) s =
      .next (adminComplete e.slot e.tag opcode 0 [] (h b t t)) := by
  refine adminRun_done hres ?_
  rw [withBlock_some hb]
  exact adminCheck_zero hst

/-! ### Descriptors, programs, flocks (R68, R129) -/

section admin
variable (hres : e.reserved = false)
include hres

theorem execDescriptorLoad_puts (hb : paramBlock 256 e (rouse s) = (some b, t)) (harg : e.arg0 ≤ 4095)
    (hfree : getTable t e.arg0 = none) (hok : descStatus t e.arg0 b = 0) :
    execDescriptorLoad e s = .next (adminComplete e.slot e.tag 0x0020 0 [] (putDesc e.arg0 b t)) := by
  refine adminRun_block hres hb ?_
  simp [firstStatus, harg.not_gt, hfree, hok]

section version
variable {n : Nat} (hwhen : t.job.state < 2 ∧ n = 0 ∨ 2 ≤ t.job.state ∧ t.tk.tick + 2 ≤ e.arg1 ∧ n = e.arg1)
include hwhen

omit hres in
/-- A load applies at once before the job starts, and for its tick, two ahead or more, after (R129). -/
theorem loadTick_of_when : loadTick t e.arg1 = n ∧ (decide (2 ≤ t.job.state) && tooSoon t e.arg1) = false := by
  rcases hwhen with ⟨hbefore, rfl⟩ | ⟨hstarted, hahead, rfl⟩
  · simp [loadTick, hbefore]
  · simp [loadTick, hstarted.not_gt, tooSoon_of_ahead hahead]

theorem execProgramLoad_puts (hb : paramBlock 160 e (rouse s) = (some b, t)) (harg : e.arg0 ≤ 63)
    (hpend : changePending t t.tb.programs e.arg0 = false) (hok : programStatus t n e.arg0 b = 0) :
    execProgramLoad e s = .next (adminComplete e.slot e.tag 0x0021 0 [] (putProgram e.arg0 n b t)) := by
  obtain ⟨rfl, hsoon⟩ := loadTick_of_when hwhen
  refine adminRun_block (h := fun b s => putProgram e.arg0 (loadTick s e.arg1) b) hres hb ?_
  simp [firstStatus, hsoon, hpend, harg.not_gt, hok]

theorem execFlockLoad_puts (hb : paramBlock 128 e (rouse s) = (some b, t)) (harg : e.arg0 ≤ 255)
    (hpend : changePending t t.tb.flocks e.arg0 = false) (hok : flockStatus t n e.arg0 b = 0) :
    execFlockLoad e s = .next (adminComplete e.slot e.tag 0x0022 0 [] (putFlock e.arg0 n b t)) := by
  obtain ⟨rfl, hsoon⟩ := loadTick_of_when hwhen
  refine adminRun_block (h := fun b s => putFlock e.arg0 (loadTick s e.arg1) b) hres hb ?_
  simp [firstStatus, hsoon, hpend, harg.not_gt, hok]

end version

/-! ### Folds (R198, R202, R334) -/

theorem execFoldLoad_starts {num mask mode kind : Nat} {w : List Nat} (hb : paramBlock 64 e (rouse s) = (some b, t))
    (harg : e.arg0 = num + 2 ^ 12 * mask + 2 ^ 16 * mode + 2 ^ 18 * kind) (hnum : num < 4096) (hmask : mask < 16) (hmode : mode < 2)
    (hkind : kind < 3) (harg1 : e.arg1 = 0) (harg2 : e.arg2 = 0) (harg3 : e.arg3 = 0)
    (hw : w = (List.range 4).map (fun i => leAt b (8 * i) 8))
    (hwords : foldWordsReserved t kind num mask (mode == 1) w = false) (hrest : anySet b 32 32 = false)
    (hpend : foldLoadPending t { kind, num } = false) (hsnap : t.snap = none)
    (hok : foldLoadBad t kind num mask (mode == 1) w = false) :
    execFoldLoad e s = .next { t with
      folds := { t.folds with loading := t.folds.loading ++ [{
        slot := e.slot, tag := e.tag, target := { kind, num }, dieMask := BitVec.ofNat 4 mask, init := mode == 1, words := w }] }
      hq := { t.hq with started := t.hq.started ++ [{ slot := e.slot, tag := e.tag, opcode := 0x0023 }] } } := by
  subst hw
  have hfields : e.arg0 % 4096 = num ∧ e.arg0 / 2 ^ 12 % 16 = mask ∧ e.arg0 / 2 ^ 16 % 4 = mode ∧ e.arg0 / 2 ^ 18 % 4 = kind ∧
      e.arg0 < 1048576 := by omega
  obtain ⟨hnum', hmask', hmode', hkind', hfit⟩ := hfields
  unfold execFoldLoad
  rw [hnum', hmask', hmode', hkind']
  refine adminRun_later hres (t := { t with folds := { t.folds with loading := t.folds.loading ++ [_] } }) ?_
  rw [if_neg (by simp [hfit, hkind.ne, harg1, harg2, harg3]), withBlock_some hb]
  simp [firstStatus, hwords, hrest, hpend, hsnap, Nat.le_of_lt_succ hmode, hok]

theorem execFoldSwitch_waits (hpos : 0 < e.paramBytes) (hlen : e.paramBytes ≤ 256) (hword : e.paramBytes % 4 = 0)
    (hb : paramBlock e.paramBytes e (rouse s) = (some b, t)) (hwords : ∀ i < (parseTargets b).length, leAt b (4 * i) 4 < 2 ^ 14)
    (hahead : t.tk.tick + 2 ≤ e.arg0) (hnone : t.folds.switch = none)
    (hready : ∀ x ∈ parseTargets b, tableHandover t x = false ∧ notLoaded t x = false) (hsnap : t.snap = none) :
    execFoldSwitch e s = .next (adminComplete e.slot e.tag 0x0024 0 []
      { t with folds := { t.folds with switch := some (e.arg0, (parseTargets b).dedup) } }) := by
  have hreserved : (List.range (parseTargets b).length).any (fun i => decide (2 ^ 14 ≤ leAt b (4 * i) 4)) = false := by
    simpa using hwords
  have hhandover : (parseTargets b).any (tableHandover t) = false := by simpa using fun x hx => (hready x hx).1
  have hloaded : (parseTargets b).any (notLoaded t) = false := by simpa using fun x hx => (hready x hx).2
  refine adminRun_done hres ?_
  rw [if_neg (by simp [hpos.ne', hlen.not_gt, hword]), withBlock_some hb]
  refine adminCheck_zero ?_
  simp only [firstStatus, hreserved, tooSoon_of_ahead hahead, hnone, hhandover, hloaded, hsnap, Option.isSome_none,
    Bool.or_self, Bool.false_eq_true, if_false]

/-! ### Repair and rollback (R113, R203) -/

/-- A repair joins the list and its command completes (log 18). -/
theorem execRowRepair_joins {x : Table} (hsnap : (rouse s).snap = none) (htable : getTable (rouse s) e.arg0 = some x)
    (hown : notOwned (rouse s) e.arg0 e.arg1 = false) (hmem : inMemory (rouse s) e.arg2 (recordBytes x.desc) = true) :
    execRowRepair e s = .next (adminComplete e.slot e.tag 0x0025 0 []
      { rouse s with repairsDue := (rouse s).repairsDue ++ [(e.arg0, e.arg1, e.arg2)] }) := by
  refine adminRun_done hres (adminCheck_zero ?_)
  simp [firstStatus, hsnap, htable, hown, hmem]

theorem execCommitRollback_done (hjob : (rouse s).job.state = 3) (htk : (rouse s).tk.state = 4) (hsnap : (rouse s).snap = none)
    (hatomic : (rouse s).commit.tickAtomic = true) (hroll : (rouse s).commit.rollbackOk = true)
    (hstep : e.arg0 = (rouse s).commit.step) :
    execCommitRollback e s = .next (adminComplete e.slot e.tag 0x0026 0 [] (rollbackCommit (rouse s))) := by
  refine adminRun_done hres (adminCheck_zero ?_)
  generalize rouse s = u at *
  simp [firstStatus, hjob, htk, hsnap, hatomic, hroll, hstep]

/-! ### Handovers (R156 to R158) -/

theorem execHandoverSwitch_waits (hahead : (rouse s).tk.tick + 2 ≤ e.arg2)
    (hprep : ∃ h ∈ (rouse s).handovers, h.map = e.arg0 ∧ h.pos = e.arg1 ∧ h.released = false ∧ h.prepared = true)
    (hnone : ∀ h ∈ (rouse s).handovers, h.map = e.arg0 → h.pos = e.arg1 → h.released = false → h.switchTick = none) :
    execHandoverSwitch e s = .next (adminComplete e.slot e.tag 0x0031 0 []
      (modHandover e.arg0 e.arg1 (fun h => { h with switchTick := some e.arg2 }) (rouse s))) := by
  refine adminRun_done hres (adminCheck_zero ?_)
  generalize rouse s = u at *
  have hwaiting : (u.handovers.any fun h => (h.map == e.arg0 && h.pos == e.arg1 && !h.released) && h.switchTick.isSome) = false := by
    rw [List.any_eq_false]
    rintro h hh hmine
    simp only [Bool.and_eq_true, beq_iff_eq, Bool.not_eq_true'] at hmine
    obtain ⟨⟨⟨hmap, hpos⟩, hrel⟩, hsome⟩ := hmine
    simp [hnone h hh hmap hpos hrel] at hsome
  have hprepared : (u.handovers.any fun h => (h.map == e.arg0 && h.pos == e.arg1 && !h.released) && h.prepared) = true := by
    obtain ⟨h, hh, hmap, hpos, hrel, hdone⟩ := hprep
    exact List.any_eq_true.mpr ⟨h, hh, by simp [hmap, hpos, hrel, hdone]⟩
  simp only [firstStatus, tooSoon_of_ahead hahead, hwaiting, hprepared, Bool.not_true, Bool.false_eq_true, if_false]

end admin

/-- The handover that HANDOVER_PREPARE adds for a position that stands at `q`: the old owner copies, and others are prepared at
once. -/
def newHandover (e : AdminEntry) (own chip die : Nat) (q : Pos) : Handover :=
  { map := e.arg0, pos := e.arg1, newChip := chip, newDie := die, newBase := e.arg3, oldChip := q.chip, oldDie := q.die
    oldBase := q.slotBase, entry := if q.chip = own then some (e.slot, e.tag) else none, copying := q.chip == own
    prepared := !(q.chip == own) }

/-- What an allowed HANDOVER_PREPARE does: on the old owner it goes on with the first copy, elsewhere it is done. -/
def startHandover (e : AdminEntry) (chip die : Nat) (p : Pos) (s : State) : AdminOut × State :=
  let q := posAt s e.arg0 e.arg1 s.tk.tick p
  let h := newHandover e s.lg.chip chip die q
  let v := { s with handovers := s.handovers ++ [h] }
  if q.chip = s.lg.chip then (.later, copyNext h v) else (.done 0 [], v)

theorem execHandoverPrepare_starts {om : OwnerMap} {p : Pos} {chip die : Nat}
    (hmap : (rouse s).job.exchange.maps[e.arg0]? = some om) (hp : om.pos[e.arg1]? = some p) (harg : e.arg2 = chip + 2 ^ 12 * die)
    (hchip : chip < (rouse s).job.exchange.chips) (hfit : chip < 4096) (hdie : die < 4) (hjob : (rouse s).job.state ≠ 0)
    (hsnap : (rouse s).snap = none) (hpend : handoverPending (rouse s) e.arg0 = false)
    (hfold : mapFoldLoaded (rouse s) e.arg0 = false) (hplace : newPlaceBad (rouse s) e.arg0 e.arg1 chip die e.arg3 = false) :
    execHandoverPrepare e s = adminRun 0x0030 e (startHandover e chip die p) s := by
  have hfields : e.arg2 % 4096 = chip ∧ e.arg2 / 4096 = die ∧ e.arg2 < 16384 := by omega
  obtain ⟨hchip', hdie', hfit'⟩ := hfields
  unfold execHandoverPrepare
  refine adminRun_congr ?_
  generalize rouse s = u at *
  simp [hmap, hp, hchip', hdie', hfit', firstStatus, hchip.not_ge, hjob, hsnap, hpend, hfold, hplace, startHandover, newHandover]

/-- The old owner's HANDOVER_PREPARE completes once every row has been copied (R157). -/
theorem execHandoverCopyDone_completes {map slot tag : Nat} {h : Handover} {c : Started}
    (hh : s.handovers.find? (fun h => h.map == map && h.copying && !h.prepared && (nextCopy s h).isNone) = some h)
    (hentry : h.entry = some (slot, tag))
    (hc : s.hq.started.find? (fun c => c.opcode == 0x0030 && c.slot == slot && c.tag == tag) = some c) :
    execHandoverCopyDone map s =
      .next (finishStarted c 0 [] (modHandover h.map h.pos (fun h => { h with prepared := true }) s)) := by
  simp only [execHandoverCopyDone, hh, hentry, Option.bind_some, modHandover_hq, hc]

/-- Settles O58: each command's equation where nothing rejects it. A command wakes the module from I4 (log 72); a repair completes
when it joins the list, and loads need no job (log 18). -/
theorem adminTables : Obligations.AdminTables := by
  refine ⟨?commands, fun s map slot tag h c => execHandoverCopyDone_completes⟩
  rintro e s _ hres rfl
  refine ⟨fun b v => execDescriptorLoad_puts hres,
    fun b v n hb harg hpend hwhen => execProgramLoad_puts hres hwhen hb harg hpend,
    fun b v n hb harg hpend hwhen => execFlockLoad_puts hres hwhen hb harg hpend,
    fun b v num mask mode kind w => execFoldLoad_starts hres, ?switch, fun x => execRowRepair_joins hres,
    execCommitRollback_done hres, ?prepare, fun hprep hnone hahead => execHandoverSwitch_waits hres hahead hprep hnone⟩
  case switch =>
    rintro b v _ hpos hlen hword hb rfl
    exact execFoldSwitch_waits hres hpos hlen hword hb
  case prepare =>
    rintro om p _ chip die _ hmap hp rfl harg hchip hfit hdie hjob hsnap hpend hfold hplace rfl
    have hstarts := execHandoverPrepare_starts hmap hp harg hchip hfit hdie hjob hsnap hpend hfold hplace
    refine ⟨fun hq => hstarts.trans (adminRun_done hres (if_neg hq)), ?_⟩
    rintro hq v rfl
    exact hstarts.trans (adminRun_later hres (if_pos hq))

end Sys2Proof.Machine
end

section
/-! The commit record with the tick it would name. COMMIT writes the record once; what it sets going after that (held promotions,
releases, dense work, acknowledgements, a halt) leaves both alone. -/

namespace Sys2Proof.Machine

/-- The commit record, and the tick that a COMMIT now would write into it. -/
structure Ledger where
  commit : Commit
  tick : Nat

def ledger (s : State) : Ledger := ⟨s.commit, s.tk.tick⟩

@[simp] theorem ledger_mk {now : Nat} {boot : Boot} {nor : Nor} {sc : Sc} {mm : Mm} {hq : Hq} {net : Net} {tk : Tk}
    {run : TkRun} {start : StartCheck} {job : Job} {record : JobRecord} {tb : Tables} {folds : Folds} {ru : Tab RowUnit} {commit : Commit}
    {ex : Ex} {handovers : List Handover} {bulk : Bulk} {lg : Lg} {digest : Digest} {snap : Option Snapshot}
    {repairsDue : List (Nat × Nat × Nat)} {tiles : Tiles} {pw : Pw} {gz : Gz} {tallies : Tallies} {out : List Out}
    {freeCtr : Nat} {pending : List Instr} :
    ledger (State.mk now boot nor sc mm hq net tk run start job record tb folds ru commit ex handovers bulk lg digest snap
      repairsDue tiles pw gz tallies out freeCtr pending) = ⟨commit, tk.tick⟩ := rfl

/-- The fields of one state fold back. -/
@[simp] theorem ledger_eta (s : State) : Ledger.mk s.commit s.tk.tick = ledger s := rfl

@[simp] theorem ledger_ite (c : Prop) [Decidable c] (s t : State) :
    ledger (if c then s else t) = if c then ledger s else ledger t := apply_ite ..

@[simp] theorem ledger_foldl {α : Type} {f : State → α → State} (h : ∀ t x, ledger (f t x) = ledger t) (l : List α)
    (s : State) : ledger (l.foldl f s) = ledger s := by
  induction l generalizing s with
  | nil => rfl
  | cons x l ih => rw [List.foldl_cons, ih, h]

theorem Soft.ledger_eq {s t : State} (h : Soft s t) : ledger t = ledger s := by
  rw [ledger, h.commit, h.tk, ledger_eta]

variable (s : State)

/-! ### Signalling -/

@[simp] theorem ledger_tally (off) : ledger (tally off s) = ledger s := rfl

@[simp] theorem ledger_freeWord : ledger (freeWord s).2 = ledger s := rfl

@[simp] theorem ledger_raise (code sev u detail) : ledger (raise code sev u detail s) = ledger s :=
  (raise_soft .refl).ledger_eq

@[simp] theorem ledger_route (c holds) : ledger (route c holds s) = ledger s := (route_soft .refl).ledger_eq

@[simp] theorem ledger_sendDown (m dueAt) : ledger (sendDown m dueAt s) = ledger s := (sendDown_soft .refl).ledger_eq

@[simp] theorem ledger_sendAck (tick step f) : ledger (sendAck tick step f s) = ledger s := (sendAck_soft .refl).ledger_eq

@[simp] theorem ledger_finishStarted (c status args) : ledger (finishStarted c status args s) = ledger s :=
  (finishStarted_soft .refl).ledger_eq

@[simp] theorem ledger_writeReply (hdr bytes) : ledger (writeReply hdr bytes s) = ledger s :=
  (writeReply_soft .refl).ledger_eq

@[simp] theorem ledger_freeSlot (queue slot) : ledger (freeSlot queue slot s) = ledger s := (freeSlot_soft .refl).ledger_eq

@[simp] theorem ledger_returnSamples (p count) : ledger (returnSamples p count s) = ledger s :=
  (returnSamples_soft .refl).ledger_eq

@[simp] theorem ledger_freeSamples (step) : ledger (freeSamples step s) = ledger s := (freeSamples_soft .refl).ledger_eq

@[simp] theorem ledger_closeEmb (x) : ledger (closeEmb s x) = ledger s := (closeEmb_soft .refl).ledger_eq

@[simp] theorem ledger_closeMove (m) : ledger (closeMove s m) = ledger s := (closeMove_soft .refl).ledger_eq

/-! ### Halting -/

@[simp] theorem ledger_dropEntry (queue slot) : ledger (dropEntry queue slot s) = ledger s := rfl

@[simp] theorem ledger_modOcc (leg tick f) : ledger (modOcc leg tick f s) = ledger s := rfl

@[simp] theorem ledger_serveLate (e o due) : ledger (serveLate e o due s) = ledger s := by simp [serveLate]

@[simp] theorem ledger_answer (status vals e) : ledger (answer status vals e s) = ledger s := by
  unfold answer
  (repeat' split) <;> simp

@[simp] theorem ledger_modTile (p f) : ledger (modTile p f s) = ledger s := rfl

@[simp] theorem ledger_dropBatches (p) : ledger (dropBatches p s) = ledger s := rfl

@[simp] theorem ledger_resetTile (p) : ledger (resetTile p s) = ledger s := by simp [resetTile]

@[simp] theorem ledger_resetTiles : ledger (resetTiles s) = ledger s := by simp [resetTiles]

@[simp] theorem ledger_endJobReset : ledger (endJobReset s) = ledger s := by simp [endJobReset, enterI4]

@[simp] theorem ledger_finishJobReset : ledger (finishJobReset s) = ledger s := by
  unfold finishJobReset
  split <;> simp

@[simp] theorem ledger_emptyGens (p) : ledger (emptyGens p s) = ledger s := rfl

@[simp] theorem ledger_discardDense (mine) : ledger (discardDense mine s) = ledger s := rfl

@[simp] theorem ledger_dropQuarantined : ledger (dropQuarantined s) = ledger s := rfl

/-- A halt stops the tick's numbers where they are, and keeps the last commit for JOB_START and COMMIT_ROLLBACK (R408). -/
@[simp] theorem ledger_finishHalt : ledger (finishHalt s) = ledger s := by simp [finishHalt]

@[simp] theorem ledger_noteOverrun : ledger (noteOverrun s) = ledger s := by
  unfold noteOverrun
  (repeat' split) <;> simp

@[simp] theorem ledger_beginHalt : ledger (beginHalt s) = ledger s := by simp [beginHalt]

@[simp] theorem ledger_haltTree : ledger (haltTree s) = ledger s := by simp [haltTree]

@[simp] theorem ledger_requestHalt : ledger (requestHalt s) = ledger s := by simp [requestHalt]

/-! ### Memory -/

@[simp] theorem ledger_putMem (a bs) : ledger (putMem a bs s) = ledger s := by simp [putMem]

@[simp] theorem ledger_setTag (d die slot way e) : ledger (setTag d die slot way e s) = ledger s := by simp [setTag]

@[simp] theorem ledger_noteLastErr (d addr mem source pc) : ledger (noteLastErr d addr mem source pc s) = ledger s := rfl

@[simp] theorem ledger_structPoison (content line) : ledger (structPoison content line s) = ledger s := by
  simp [structPoison]

/-! ### Row units and held promotions -/

@[simp] theorem ledger_modRu (d f) : ledger (modRu d f s) = ledger s := rfl

@[simp] theorem ledger_acceptGrad (o) : ledger (acceptGrad o s) = ledger s := by simp [acceptGrad]

@[simp] theorem ledger_enqueueOp (d o) : ledger (enqueueOp d o s) = ledger s := by simp [enqueueOp, intoQueue]

@[simp] theorem ledger_setRefOff (d die slot way) : ledger (setRefOff d die slot way s) = ledger s := by simp [setRefOff]

@[simp] theorem ledger_clockHand (d die table slot fold n w) :
    ledger (clockHand d die table slot fold n w s).2 = ledger s := by
  induction n generalizing w s with
  | zero => rfl
  | succ n ih =>
    unfold clockHand
    dsimp only
    (repeat' split) <;> simp [ih]

@[simp] theorem ledger_choosePromote (d die o) : ledger (choosePromote d die o s) = ledger s := by
  have hhand := ledger_clockHand s d die o.table o.slot ((getTable s o.table).elim 0 (·.current)) 16
    (memByte s.mm (tagLine d die o.slot + 64)).toNat
  unfold choosePromote
  dsimp only
  split
  case h_1 t e => simpa [e] using hhand
  case h_2 w t e => simpa [e] using hhand

@[simp] theorem ledger_tryPromote (d die o) : ledger (tryPromote d die o s) = ledger s := by simp [tryPromote]

@[simp] theorem ledger_resumePromotions (d) : ledger (resumePromotions d s) = ledger s := by
  unfold resumePromotions
  refine (ledger_foldl (fun t o => ?_) _ _).trans (ledger_modRu ..)
  split <;> simp

/-! ### Releases after a commit -/

@[simp] theorem ledger_saveRecord : ledger (saveRecord s) = ledger s := by simp [saveRecord]

@[simp] theorem ledger_releaseWays (d die base count) : ledger (releaseWays d die base count s) = ledger s := by
  simp [releaseWays]

@[simp] theorem ledger_releasePosition (h) : ledger (releasePosition h s) = ledger s := by simp [releasePosition]

@[simp] theorem ledger_releaseHandovers : ledger (releaseHandovers s) = ledger s := by simp [releaseHandovers]

/-! ### Dense work -/

@[simp] theorem ledger_sendWindowed (c) : ledger (sendWindowed c s) = ledger s := by
  unfold sendWindowed
  split <;> simp [launch]

@[simp] theorem ledger_sliceWrite (fmt total addr first n from_ bs) :
    ledger (sliceWrite fmt total addr first n from_ bs s) = ledger s := by simp [sliceWrite]

@[simp] theorem ledger_sendDense (dest lg tick step tensor group kind fmt shear stage bs) :
    ledger (sendDense dest lg tick step tensor group kind fmt shear stage bs s) = ledger s := by simp [sendDense]

@[simp] theorem ledger_stageOwn (c) : ledger (stageOwn c s) = ledger s := by simp [stageOwn]

@[simp] theorem ledger_modReturn (tick step f) : ledger (modReturn tick step f s) = ledger s := rfl

@[simp] theorem ledger_toNode (ts node child tick step tensor group kind fmt shear stage bs) :
    ledger (toNode ts node child tick step tensor group kind fmt shear stage bs s) = ledger s := by simp [toNode]

@[simp] theorem ledger_writeGather (t tick step group part bs) :
    ledger (writeGather t tick step group part bs s) = ledger s := by simp [writeGather]

@[simp] theorem ledger_gatherDown (t ts tick step group part bs fuel node) :
    ledger (gatherDown t ts tick step group part bs fuel node s) = ledger s := by
  induction fuel generalizing node s with
  | zero => rfl
  | succ fuel ih =>
    unfold gatherDown
    refine ledger_foldl (fun t c => ?_) _ _
    dsimp only
    split <;> simp [ih]

@[simp] theorem ledger_gatherRoot (t ts tick step group node bs) :
    ledger (gatherRoot t ts tick step group node bs s) = ledger s := by simp [gatherRoot]

@[simp] theorem ledger_markNanSeen (lg) : ledger (markNanSeen lg s) = ledger s := rfl

@[simp] theorem ledger_denseNans (t f lg group nans) : ledger (denseNans t f lg group nans s) = ledger s := by
  simp [denseNans, siteNan]

@[simp] theorem ledger_updateGroup (t ts lg tick step group g) :
    ledger (updateGroup t ts lg tick step group g s).2 = ledger s := by
  unfold updateGroup
  dsimp only
  (repeat' split) <;> simp

@[simp] theorem ledger_nodeWork (t ts tick group node) : ledger (nodeWork t ts tick group node s) = ledger s := by
  unfold nodeWork
  dsimp only
  (repeat' split) <;> simp

@[simp] theorem ledger_denseRounds (n) : ledger (denseRounds n s) = ledger s := by
  induction n generalizing s with
  | zero => rfl
  | succ n ih =>
    unfold denseRounds
    simp only [ledger_ite, ih]
    rw [ite_self]
    refine ledger_foldl (fun t k => ?_) _ _
    (repeat' split) <;> simp

@[simp] theorem ledger_acceptDense (src m) : ledger (acceptDense src m s) = ledger s := by simp [acceptDense]

@[simp] theorem ledger_stagePart (t lg node child m) : ledger (stagePart t lg node child m s) = ledger s := by
  unfold stagePart
  dsimp only
  (repeat' split) <;> rfl

@[simp] theorem ledger_takeDense (src lg m) : ledger (takeDense src lg m s) = ledger s := by
  unfold takeDense
  (repeat' split) <;> simp

@[simp] theorem ledger_pumpDense : ledger (pumpDense s) = ledger s := by
  unfold pumpDense
  refine (ledger_foldl (fun t h => ?_) _ _).trans ?_
  · split <;> simp
  · simp

/-! ### The end of the APPLY -/

@[simp] theorem ledger_commitDie (d) : ledger (commitDie d s) = ledger s := by simp [commitDie]

@[simp] theorem ledger_flipImages (l) : ledger (flipImages l s) = ledger s := rfl

@[simp] theorem ledger_advanceCounters : ledger (advanceCounters s) = ledger s := by simp [advanceCounters]

@[simp] theorem ledger_recordApplyEnd (step) : ledger (recordApplyEnd step s) = ledger s := by simp [recordApplyEnd]

@[simp] theorem ledger_checkCommitted (step) : ledger (checkCommitted step s) = ledger s := by simp [checkCommitted]

end Sys2Proof.Machine
end

section
/-! O39. COMMIT and the commit record (R104, R107). -/

namespace Sys2Proof.Machine

variable {now : Nat} {s : State}

/-- The record of the open step, which `marks` and `flips` complete: where each die's ring stands and the images flipped. -/
def closedCommit (tick : Nat) (marks flips : List Nat) (c : Commit) : Commit :=
  { c with
    step := c.openStep, tick, seq := c.openSeq, openStep := allOnes, ringMark := marks, prevMark := c.ringMark
    rollbackOk := c.tickAtomic, valid := true, count := c.count + 1, flipped := flips }

/-- The record is written once, from what stood before the commit; the rest of the commit leaves it and the tick alone. -/
theorem ledger_commitStep (s : State) :
    ∃ marks flips, ledger (commitStep s) = ⟨closedCommit s.tk.tick marks flips s.commit, s.tk.tick⟩ := by
  unfold commitStep
  dsimp only
  generalize hdies : (List.range 4).foldl (fun s d => commitDie d s) s = u
  have hbefore : ledger u = ledger s := by rw [← hdies]; simp
  have hcommit : u.commit = s.commit := congrArg Ledger.commit hbefore
  have htick : u.tk.tick = s.tk.tick := congrArg Ledger.tick hbefore
  have hhalt (v : State) :
      ledger (if v.run.halting then finishHalt (recordApplyEnd s.commit.openStep v) else v) = ledger v := by simp
  refine ⟨?marks, ?flips, (hhalt _).trans ?record⟩
  case record =>
    simp only [ledger_checkCommitted, ledger_pumpDense, ledger_saveRecord, ledger_releaseHandovers, ledger_foldl,
      ledger_resumePromotions, ledger_freeSamples, ledger_advanceCounters, ledger_mk, implies_true, flipImages, hcommit, htick]
    rfl

theorem execCommit_commits (hopen : s.commit.openStep ≠ allOnes) (hdone : diesDone s = true) :
    execCommit now s = .next (commitStep (atTime now s)) := by
  have hdone' : diesDone (atTime now s) = true := hdone
  simp [execCommit, hopen, hdone']

theorem execCommit_waits (h : s.commit.openStep = allOnes ∨ diesDone s = false) :
    execCommit now s = .next (atTime now s) := by
  rcases h with hclosed | hbusy
  · simp [execCommit, hclosed]
  · have hbusy' : diesDone (atTime now s) = false := hbusy
    simp [execCommit, hbusy']

/-- Settles O39: COMMIT answers `commitStep`, whose ledger holds the closed record, or does nothing. -/
theorem commitRecord : Obligations.CommitRecord := by
  intro s now
  refine ⟨fun hopen hdone => ⟨_, execCommit_commits hopen hdone, ?_⟩, execCommit_waits⟩
  obtain ⟨marks, flips, hledger⟩ := ledger_commitStep (atTime now s)
  have hcommit := congrArg Ledger.commit hledger
  have htick := congrArg Ledger.tick hledger
  simp only [ledger, atTime_commit, atTime_tk] at hcommit htick
  rw [hcommit, htick]
  exact ⟨rfl, rfl, rfl, rfl, rfl, rfl, rfl, rfl, rfl⟩

end Sys2Proof.Machine
end

section
/-! O38. The rows of an owner map's position have distinct slots (R139). -/

namespace Sys2Proof.Machine

/-- A row's slot lies as far above its position's first as the row's stripe and its place in it say (R139). -/
theorem ownerAt_slot {s : State} {m tick r c d slot k : Nat} (h : ownerAt s m tick r = some (c, d, slot, k)) :
    ∃ om p, s.job.exchange.maps[m]? = some om ∧ om.pos[k]? = some p ∧ r / 2 ^ om.stripeLog2 % om.pos.length = k ∧
      slot = (posAt s m k tick p).slotBase +
        (r / 2 ^ om.stripeLog2 / om.pos.length * 2 ^ om.stripeLog2 + r % 2 ^ om.stripeLog2) := by
  unfold ownerAt at h
  split at h
  case h_1 => cases h
  case h_2 om hom =>
    dsimp only at h
    split at h
    case h_1 => cases h
    case h_2 p hp =>
      cases h
      exact ⟨om, p, hom, hp, rfl, Nat.add_assoc ..⟩

/-- The place in a position, of stripes of `st` rows over `n` positions, and the position give the row. -/
theorem row_eq_of_place {st n r q : Nat} (hst : 0 < st) (hpos : r / st % n = q / st % n)
    (hplace : r / st / n * st + r % st = q / st / n * st + q % st) : r = q := by
  have hin : r % st = q % st := by simpa using congrArg (· % st) hplace
  have hround : r / st / n = q / st / n := Nat.eq_of_mul_eq_mul_right hst (by omega)
  exact Nat.ext_div_mod (Nat.ext_div_mod hround hpos) hin

/-- Settles O38: both rows' slots count from the same first slot, so the rows have one place in the position. -/
theorem ownersDistinct : Obligations.OwnersDistinct := by
  intro s m tick r q c d c' d' slot k hr hq
  obtain ⟨om, p, hom, hp, hkr, hr⟩ := ownerAt_slot hr
  obtain ⟨om', p', hom', hp', hkq, hq⟩ := ownerAt_slot hq
  obtain rfl : om = om' := Option.some.inj (hom.symm.trans hom')
  obtain rfl : p = p' := Option.some.inj (hp.symm.trans hp')
  exact row_eq_of_place (Nat.two_pow_pos _) (hkr.trans hkq.symm) (Nat.add_left_cancel (hr.symm.trans hq))

end Sys2Proof.Machine
end

section
/-! O34. The plan check: digest reports, the bellwether's verdict and the two time limits (R138, R409, R410). -/

namespace Sys2Proof.Machine

variable {s : State} {now : Nat} {rx : Rx} {m : PlanDigestMsg}

theorem chip_received {b : Body} : (received now rx b s).lg.chip = s.lg.chip :=
  (chip_eq_of_bearings bearings_received).trans (by rw [atTime_lg])

theorem Soft.bellChip_eq {t : State} (h : Soft s t) : bellChip t = bellChip s := by rw [bellChip, h.job, bellChip]

@[simp] theorem bellChip_atTime (now : Nat) (s : State) : bellChip (atTime now s) = bellChip s := rfl

/-! ### PLAN_DIGEST, with a job loaded -/

section digest
variable (h : InOrder s rx) (hjob : s.job.state ≠ 0)
include h hjob

theorem execPlanDigest_report (hkind : m.kind = 0) (hbell : bellChip s = s.lg.chip) :
    execPlanDigest now rx m s = .next (pump rx.li (checkReports { received now rx (.planDigest m) s with
      start := { s.start with reports := tabPut s.start.reports rx.src m.digest } })) := by
  have hsoft : Soft s (received now rx (.planDigest m) s) := received_soft
  have hhere : bellChip (received now rx (.planDigest m) s) = (received now rx (.planDigest m) s).lg.chip :=
    hsoft.bellChip_eq.trans (hbell.trans chip_received.symm)
  rw [execPlanDigest, onUnit_deliverRx h, if_neg (hsoft.job ▸ hjob), if_pos hkind, if_pos hhere, hsoft.start]

theorem execPlanDigest_verdict (hkind : m.kind ≠ 0) (hsrc : rx.src = bellChip s) (hopen : s.start.matched = false) :
    execPlanDigest now rx m s = .next (pump rx.li (takeVerdict (m.verdict == 0) (received now rx (.planDigest m) s))) := by
  have hsoft : Soft s (received now rx (.planDigest m) s) := received_soft
  rw [execPlanDigest, onUnit_deliverRx h, if_neg (hsoft.job ▸ hjob), if_neg hkind,
    if_pos (by simp [hsoft.bellChip_eq, hsoft.start, hsrc, hopen])]

end digest

/-! ### The time limits of a pending JOB_START -/

section pending
variable {a : Nat} {c : Started} (hstarted : startedOp s 0x0002 = some c) (hat : s.start.startedAt = some a)
include hstarted

/-- The bellwether's verdict of mismatch, or the end of the wait for it, fails the JOB_START. -/
theorem takeVerdict_false : takeVerdict false s = failStart c s := by simp [takeVerdict, hstarted]

include hat

theorem startAged_of_le {n : Nat} (hdue : a + n ≤ s.now) : startAged s n = true := by simp [startAged, hstarted, hat, hdue]

theorem execPlanDigestTimeout_sends (hbell : bellChip s = s.lg.chip) (hdue : a + reportLimit ≤ (atTime now s).now) :
    execPlanDigestTimeout now s = .next (sendVerdict (atTime now s)) := by
  have haged := startAged_of_le (s := atTime now s) hstarted hat hdue
  simp [execPlanDigestTimeout, collecting, hstarted, hbell, haged]

theorem execPlanVerdictTimeout_fails (hdue : a + verdictLimit ≤ (atTime now s).now) :
    execPlanVerdictTimeout now s = .next (failStart c (atTime now s)) := by
  have haged := startAged_of_le (s := atTime now s) hstarted hat hdue
  simp only [execPlanVerdictTimeout, haged, if_true, takeVerdict_false (s := atTime now s) hstarted]

end pending

/-- Settles O34: each command's equation where it acts, the limits being 100 ms and 200 ms (R138). -/
theorem planCheck : Obligations.PlanCheck := by
  refine ⟨?digest, ?limits⟩
  case digest =>
    rintro s _ now rx m h rfl hjob
    exact ⟨execPlanDigest_report h hjob, execPlanDigest_verdict h hjob⟩
  case limits =>
    rintro s _ now a c rfl hstarted hat
    exact ⟨execPlanDigestTimeout_sends hstarted hat, execPlanVerdictTimeout_fails hstarted hat⟩

end Sys2Proof.Machine
end

section
/-! O35. Carriages of the exchange received in order, those in transit, and what is sent when its time has come (R142 to R159,
R168, R174, R175). -/

namespace Sys2Proof.Machine

variable {s t : State} {now : Nat} {rx : Rx}

theorem Soft.legOcc_eq (h : Soft s t) (leg tick : Nat) : legOcc t leg tick = legOcc s leg tick := by
  rw [legOcc, h.run, legOcc]

theorem Soft.expandTick_eq (h : Soft s t) (t16 : Nat) : expandTick t t16 = expandTick s t16 := by
  rw [expandTick, h.tk, expandTick]

/-! ### IDX_RECEIVE (R144, R159): a carriage falls into runs of one duty and counts once (log 29) -/

theorem execIdxReceive_takes (h : InOrder s rx) {m : IdxMsg} {u : State} (hu : u = received now rx (.idx m) s) :
    execIdxReceive now rx m s = .next (pump rx.li
      ((dutyRuns u (expandTick u m.tick16) m.firstSeq m.entries).foldl (takeRun rx m (expandTick u m.tick16))
        (countDuties ((dutyRuns u (expandTick u m.tick16) m.firstSeq m.entries).map (·.1)) u))) := by
  rw [execIdxReceive, onUnit_deliverRx h, ← hu]

/-! ### ROW_SEND (R145) -/

section rowSend
variable {dest cls : Nat}

/-- Sending a carriage leaves the others that are open. -/
theorem flushRow_openRows (dest cls : Nat) (s : State) :
    (flushRow dest cls s).ex.openRows = s.ex.openRows.filter fun r => !isOpenFor dest cls r := by
  unfold flushRow
  split
  case h_1 r _ =>
    have hsoft : Soft (dropOpenRow dest cls s) (sendOpenRow r (dropOpenRow dest cls s)) := sendOpenRow_soft .refl
    rw [hsoft.ex, dropOpenRow]
  case h_2 hnone =>
    refine (List.filter_eq_self.mpr fun r hr => ?_).symm
    simpa using List.find?_eq_none.mp hnone r hr

theorem find?_flushRow_of_none {other : Nat} (hnone : s.ex.openRows.find? (isOpenFor dest other) = none) :
    (flushRow dest cls s).ex.openRows.find? (isOpenFor dest other) = none := by
  rw [flushRow_openRows, List.find?_eq_none]
  exact fun r hr => List.find?_eq_none.mp hnone r (List.mem_of_mem_filter hr)

theorem execRowSend_flushes (hcls : cls < 2) {r : OpenRow} (hr : s.ex.openRows.find? (isOpenFor dest cls) = some r)
    (hover : windowOver (atTime now s).now r.startNs = true)
    (hother : s.ex.openRows.find? (isOpenFor dest (1 - cls)) = none) :
    execRowSend now dest s = .next (flushRow dest cls (atTime now s)) := by
  obtain rfl | rfl : cls = 0 ∨ cls = 1 := by omega
  · have hleft : (flushRow dest 0 (atTime now s)).ex.openRows.find? (isOpenFor dest 1) = none :=
      find?_flushRow_of_none hother
    simp only [execRowSend, List.foldl_cons, List.foldl_nil, atTime_ex, hr, hover, if_true, hleft]
  · simp only [execRowSend, List.foldl_cons, List.foldl_nil, atTime_ex, hr, hover, if_true, hother]

end rowSend

/-! ### ROW_RECEIVE (R145) -/

section row
variable (h : InOrder s rx) {m : RowMsg}
include h

/-- No open leg awaits the carriage: it is stale. On a halted module the look-ups go on (R408). -/
theorem execRowReceive_closed (hclosed : legOcc s m.leg (expandTick s m.tick16) = none) (hlive : s.tk.state ≠ 4) :
    execRowReceive now rx m s = .next (pump rx.li
      (releaseWindows (dropReplies rx.src m (tally tlRowStale (received now rx (.row m) s))))) := by
  have hsoft : Soft s (received now rx (.row m) s) := received_soft
  rw [execRowReceive, onUnit_deliverRx h]
  simp [hsoft.legOcc_eq, hsoft.expandTick_eq, hsoft.tk, hclosed, hlive]

/-- The one row of a carriage is taken where it is awaited, and else makes the carriage stale. -/
theorem execRowReceive_single (hopen : legOcc s m.leg (expandTick s m.tick16) ≠ none ∨ s.tk.state = 4) (hone : m.rows = 1)
    {awaited : Bool} {v : State} (htake : takeRow rx.src m 0
      (noteRemote m.leg (expandTick s m.tick16) rx.src (received now rx (.row m) s)) = (awaited, v)) :
    execRowReceive now rx m s = .next (pump rx.li (releaseWindows (if awaited then v else tally tlRowStale v))) := by
  have hsoft : Soft s (received now rx (.row m) s) := received_soft
  have hwanted : ((legOcc s m.leg (expandTick s m.tick16)).isNone && s.tk.state != 4) = false := by
    rcases hopen with hleg | hhalted
    · simp [Option.isNone_eq_false_iff.mpr (Option.isSome_iff_ne_none.mpr hleg)]
    · simp [hhalted]
  rw [execRowReceive, onUnit_deliverRx h]
  simp only [hsoft.legOcc_eq, hsoft.expandTick_eq, hsoft.tk, hwanted, Bool.false_eq_true, if_false, hone, List.range_one,
    List.foldl_cons, List.foldl_nil, htake]
  cases awaited <;> rfl

end row

/-! ### GRAD_RECEIVE (R149, R159) -/

section grad
variable (h : InOrder s rx) {m : GradMsg} {u : State} (hu : u = received now rx (.grad m) s)
include h hu

theorem execGradReceive_here {die slot : Nat} {tb : Table} (hduty : dutyOf u m.table m.row (expandTick u m.tick16) = .here die slot)
    (htb : getTable u m.table = some tb) : execGradReceive now rx m s = .next (pump rx.li (enqueueOp die
      (accOp rx.src (expandStep u m.step32) (expandTick u m.tick16) m.table m.row slot (gradPartLen m.bf16 * m.part)
        ((decodeElems m.bf16 m.payload).take (tb.desc.width - gradPartLen m.bf16 * m.part))) u)) := by
  rw [execGradReceive, onUnit_deliverRx h, ← hu]
  simp only [hduty, htb, Option.elim_some]

theorem execGradReceive_forwards {chip : Nat} (hduty : dutyOf u m.table m.row (expandTick u m.tick16) = .forward chip) :
    execGradReceive now rx m s = .next (pump rx.li (forwardOn rx chip (.grad m) (tally tlExchForwarded u))) := by
  rw [execGradReceive, onUnit_deliverRx h, ← hu]
  simp only [hduty]

theorem execGradReceive_misrouted (hduty : dutyOf u m.table m.row (expandTick u m.tick16) = .misrouted) :
    execGradReceive now rx m s = .next (pump rx.li (tally tlExchMisrouted u)) := by
  rw [execGradReceive, onUnit_deliverRx h, ← hu]
  simp only [hduty]

end grad

/-! ### DENSE_RECEIVE (R150, R151) -/

theorem execDenseReceive_takes (h : InOrder s rx) {lg : Nat} (hlg : lg < 12) {m : DenseMsg} {u v : State}
    (hu : u = received now rx (.dense m) s)
    (hv : v = noteRemote (returnLeg u (expandTick u m.tick16)) (expandTick u m.tick16) rx.src u) :
    execDenseReceive now rx lg m s =
      .next (pump rx.li (pumpDense (if m.kind = 2 then takeGather rx.src lg m v else takeDense rx.src lg m v))) := by
  subst hv
  rw [execDenseReceive, decide_eq_true hlg, Bool.and_true, onUnit_deliverRx h, ← hu]

/-! ### ACCEPT_SEND and ACCEPT (R147, R149) -/

theorem execAcceptSend_tells {chip tick16 n : Nat} (hgot : s.ex.gotCnt = [(chip, tick16, n)])
    (hgrown : countOf s.ex.toldCnt chip tick16 < n) :
    execAcceptSend now s = .next (originate 3 chip 0
      (.accept tick16 (returnLeg (atTime now s) (expandTick (atTime now s) tick16)) n)
      { atTime now s with ex := { s.ex with toldCnt := countSet s.ex.toldCnt chip tick16 n } }) := by
  simp only [execAcceptSend, atTime_ex, hgot, List.filter_cons, List.filter_nil, hgrown, decide_true, if_true,
    List.foldl_cons, List.foldl_nil]

theorem execAccept_raises (h : InOrder s rx) {tick16 leg n : Nat} {u : State} (hu : u = received now rx (.accept tick16 leg n) s) :
    execAccept now rx tick16 leg n s = .next (pump rx.li (releaseWindows { u with
      ex := { u.ex with accCnt := countSet u.ex.accCnt rx.src tick16 (max n (countOf u.ex.accCnt rx.src tick16)) } })) := by
  rw [execAccept, onUnit_deliverRx h, ← hu]

/-! ### BULK_RECEIVE (R157, R168), with no chunk waiting -/

section bulk
variable (h : InOrder s rx) {m : BulkMsg} (hearly : s.bulk.early = [])
include h hearly

theorem execBulkReceive_tries : execBulkReceive now rx m s = .next (pump rx.li (bulkFuel rx.src 1
    { received now rx (.bulk m) s with bulk := { s.bulk with early := [(rx.src, m)] } })) := by
  have hsoft : Soft s (received now rx (.bulk m) s) := received_soft
  rw [execBulkReceive, onUnit_deliverRx h]
  simp only [hsoft.bulk, hearly, List.nil_append, List.length_singleton]

theorem execBulkReceive_writes (hnext : tabGet 0 s.bulk.nextIn rx.src = m.bseq) :
    execBulkReceive now rx m s = .next (pump rx.li (writeChunk rx.src m { received now rx (.bulk m) s with
      bulk := { s.bulk with nextIn := tabSet 0 s.bulk.nextIn rx.src (m.bseq + 1), early := [] } })) := by
  rw [execBulkReceive_tries h hearly]
  simp [bulkFuel, hnext]

theorem execBulkReceive_waits (hgap : tabGet 0 s.bulk.nextIn rx.src ≠ m.bseq) :
    execBulkReceive now rx m s =
      .next (pump rx.li { received now rx (.bulk m) s with bulk := { s.bulk with early := [(rx.src, m)] } }) := by
  rw [execBulkReceive_tries h hearly]
  simp [bulkFuel, hgap.symm]

end bulk

/-! ### TRANSIT_CARRIAGE (R174): a carriage for another chip whose crossing is clean -/

section transit
variable (h : InOrder s rx) {dest : Nat} (lg : Nat) {body : Body} (hdest : dest ≠ s.lg.chip) (hbody : bodySpecial body = false)
include h hdest hbody

theorem execTransitCarriage_clean : execTransitCarriage now rx dest lg body .clean s =
    .next (pump rx.li (passOn rx (Carriage.mk rx.cls (rx.hops + 1) false dest lg rx.src body 0)
      (poolOf body rx.cls rx.hops) .clean (rxHeader rx (atTime now s)).2)) := by
  simp [execTransitCarriage, onUnit, h.li, hdest, hbody, h.header]

theorem execTransitCarriage_routes (hhops : rx.hops < 2) : execTransitCarriage now rx dest lg body .clean s =
    .next (pump rx.li (route (Carriage.mk rx.cls (rx.hops + 1) false dest lg rx.src body 0)
      (some (rx.li, poolOf body rx.cls rx.hops)) (rxHeader rx (atTime now s)).2)) := by
  simp only [execTransitCarriage_clean h lg hdest hbody, passOn, hhops.not_ge, if_false]

/-- A fourth link drops the carriage (R174). -/
theorem execTransitCarriage_drops (hhops : 2 ≤ rx.hops) : execTransitCarriage now rx dest lg body .clean s =
    .next (pump rx.li (freeBuffer rx.li (poolOf body rx.cls rx.hops) (tally tlRouteHops (rxHeader rx (atTime now s)).2))) := by
  simp only [execTransitCarriage_clean h lg hdest hbody, passOn, hhops, if_true]

end transit

/-- Settles O35: each command's equation where it acts. An IDX carriage with entries of several owners counts once (log 29). -/
theorem exchangeCarriages : Obligations.ExchangeCarriages := by
  refine ⟨fun s u now rx m h => execIdxReceive_takes h, ?rowSend, ?row, ?grad, ?dense, ?acceptSend,
    fun s u now tick16 leg n rx h => execAccept_raises h, ?bulk, ?transit⟩
  case rowSend =>
    rintro s _ now dest cls r rfl hcls hr
    exact execRowSend_flushes hcls hr
  case row =>
    rintro s _ now rx m h rfl
    exact ⟨execRowReceive_closed h,
      fun hopen hone v => ⟨execRowReceive_single h hopen hone, execRowReceive_single h hopen hone⟩⟩
  case grad =>
    rintro s u now _ rx m h hu rfl
    exact ⟨fun die slot tb => execGradReceive_here h hu, fun chip => execGradReceive_forwards h hu,
      execGradReceive_misrouted h hu⟩
  case dense =>
    rintro s u v now lg _ rx m h hu hlg rfl
    exact execDenseReceive_takes h hlg hu
  case acceptSend =>
    rintro s _ now chip tick16 n rfl
    exact execAcceptSend_tells
  case bulk =>
    rintro s _ now rx m h rfl hearly
    exact ⟨execBulkReceive_writes h hearly, execBulkReceive_waits h hearly⟩
  case transit =>
    rintro s _ now dest lg _ rx body h rfl hdest hbody rfl
    exact ⟨execTransitCarriage_routes h lg hdest hbody, execTransitCarriage_drops h lg hdest hbody⟩

end Sys2Proof.Machine
end

section
/-! Retry on a link (R169, R171): a carriage whose CRC is bad, NAK, LINK, and the acknowledgement owed. -/

namespace Sys2Proof.Machine

variable {s : State} {now li : Nat} {rx : Rx}

/-! ### What the instant and the tallies leave of the links -/

@[simp] theorem getLink_atTime (now li : Nat) (s : State) : getLink (atTime now s) li = getLink s li := rfl

@[simp] theorem getLink_tally (off li : Nat) (s : State) : getLink (tally off s) li = getLink s li := rfl

theorem onUnit_link (hli : li < 96) : onUnit (isLi li) s = .next s := by simp [onUnit, isLi, hli]

/-! ### The operations -/

/-- A bad CRC counts, and asks for the carriage again unless that has been asked already. -/
theorem crcError_of_up_or_training (hstate : (getLink s li).state = 1 ∨ (getLink s li).state = 2) :
    crcError li s = if (getLink s li).nakWait = true then tally tlCrcError s else sendNak li (tally tlCrcError s) := by
  rcases hstate with htrains | hup
  · simp [crcError, htrains]
  · simp [crcError, hup]

/-- Short of the eighth NAK for one SEQ the link stays up and resends (R171, R172). -/
theorem onNak_resends {seq n : Nat}
    (hn : n = if (getLink s li).nakSeq = seq ∧ 0 < (getLink s li).nakCount then (getLink s li).nakCount else 0) (hlimit : n < 7) : onNak li seq s =
      resendAll li (setLink li { getLink s li with nakSeq := seq, nakCount := n + 1 } (tally tlLinkRetry s)) := by
  simp only [onNak]
  rw [getLink_tally]
  by_cases hsame : (getLink s li).nakSeq = seq ∧ 0 < (getLink s li).nakCount
  · have hshort : (getLink s li).nakCount < 7 := by rwa [hn, if_pos hsame] at hlimit
    simp [hn, hsame, hshort]
  · simp [hn, hsame]

/-! ### The commands -/

/-- A carriage in order is in order with NAK set, too. -/
theorem InOrder.withNak (h : InOrder s rx) : InOrder s { rx with nak := true } := ⟨h.li, h.up, h.seq⟩

theorem execNak_inOrder (h : InOrder s rx) :
    execNak now rx s = .next (pump rx.li (received now { rx with nak := true } (.link .none) s)) := by
  simp [execNak, onUnit_link h.li, h.up, h.withNak.delivers]

theorem execLink_acknowledges (h : InOrder s rx) :
    execLink now rx .none s = .next (pump rx.li (received now rx (.link .none) s)) :=
  onUnit_deliverRx h _

theorem execLink_drops (h : InOrder s rx) (n : Nat) :
    execLink now rx (.drop n) s = .next (pump rx.li (dropLane rx.li 0 n 3 0 (received now rx (.link (.drop n)) s))) :=
  onUnit_deliverRx h _

theorem execLink_restores (h : InOrder s rx) (n : Nat) :
    execLink now rx (.restore n) s = .next (pump rx.li (restoreLane rx.li 0 n (received now rx (.link (.restore n)) s))) :=
  onUnit_deliverRx h _

section link
variable (hli : li < 96)
include hli

theorem execCarriageCrcError_stomped : execCarriageCrcError now li true s = .next (atTime now s) := by
  simp [execCarriageCrcError, onUnit_link hli]

theorem execCarriageCrcError_bad : execCarriageCrcError now li false s = .next (crcError li (atTime now s)) := by
  simp [execCarriageCrcError, onUnit_link hli]

theorem execNakRepeat_repeats (hup : (getLink s li).state = 2) (hwait : (getLink s li).nakWait = true) :
    execNakRepeat now li s = .next (sendNak li (atTime now s)) := by
  simp [execNakRepeat, onUnit_link hli, hup, hwait]

theorem execLinkAckTimeout_acknowledges (hup : (getLink s li).state = 2) (howed : (getLink s li).ackOwed = true) :
    execLinkAckTimeout now li s = .next (sendLocal li (.link .none) (atTime now s)) := by
  simp [execLinkAckTimeout, onUnit_link hli, hup, howed]

end link

/-- A NAK while the link trains has the LINK_ID exchange resent (log 40). -/
theorem execNak_training (hli : rx.li < 96) (htrains : (getLink s rx.li).state = 1) :
    execNak now rx s = .next (idleFill rx.li (resendAll rx.li (tally tlLinkRetry (atTime now s)))) := by
  simp [execNak, onUnit_link hli, htrains]

/-- Settles O45: each command's equation where it acts. That a NAK in training resends the LINK_ID exchange is log 40. -/
theorem linkRetry : Obligations.LinkRetry := by
  refine ⟨?timers, fun s now rx h => execNak_inOrder h, fun s li seq n hn hlimit => onNak_resends hn hlimit, ?training, ?link⟩
  case timers =>
    rintro s _ now li hli rfl
    refine ⟨execCarriageCrcError_stomped hli, fun hstate => ?_, execNakRepeat_repeats hli, execLinkAckTimeout_acknowledges hli⟩
    exact (execCarriageCrcError_bad hli).trans (congrArg _ (crcError_of_up_or_training hstate))
  case training =>
    rintro s _ now rx hli htrains rfl
    exact execNak_training hli htrains
  case link =>
    rintro s _ now rx lane h rfl
    refine ⟨?_, ?_, ?_⟩
    · rintro rfl
      exact execLink_acknowledges h
    · rintro n rfl
      exact execLink_drops h n
    · rintro n rfl
      exact execLink_restores h n

end Sys2Proof.Machine
end

section
/-! Training of a link (R177), RETRAIN and the handoff of its replay buffer (R172, R179), and LG_LINK_CTL (R183). -/

namespace Sys2Proof.Machine

variable {s : State} {now li : Nat} {rx : Rx}

/-! ### The operations -/

theorem enterRetrain_of_up (hup : (getLink s li).state = 2) (cause : Nat) : enterRetrain li cause s = leaveLive li cause 0 s := by
  simp [enterRetrain, hup]

/-! ### The commands -/

section link
variable (hli : li < 96)
include hli

theorem execRetrainTimeout_retrains (hup : (getLink s li).state = 2) (hheld : (getLink s li).replay.isEmpty = false) :
    execRetrainTimeout now li s = .next (leaveLive li 1 0 (atTime now s)) := by
  have hup' : (getLink (atTime now s) li).state = 2 := hup
  simp [execRetrainTimeout, onUnit_link hli, hheld, enterRetrain_of_up hup']

theorem execRetrainComplete_serves {t : Training} (hretrains : (getLink s li).state = 3) (ht : trained t = true) :
    execRetrainComplete now li t s =
      .next (linkService li t.txMask t.rxMask (dropHolds li (modLink li restartSeq (atTime now s)))) := by
  simp [execRetrainComplete, onUnit_link hli, hretrains, ht]

theorem execRetrainComplete_fails {t : Training} (hretrains : (getLink s li).state = 3) (ht : trained t = false) :
    execRetrainComplete now li t s = .next (goDown li 2 (atTime now s)) := by
  simp [execRetrainComplete, onUnit_link hli, hretrains, ht]

theorem execLinkStateTimeout_drops : execLinkStateTimeout now li s = .next (dropHandoff li (atTime now s)) := onUnit_link hli

theorem execLinkTrainComplete_sendsId {t : Training} (htrains : (getLink s li).state = 1) (hfirst : (getLink s li).admitTx = 0)
    (ht : trained t = true) : execLinkTrainComplete now li t s = .next (tryUp li (sendLinkId li
      (setLink li { getLink s li with admitTx := t.txMask, admitRx := t.rxMask, idAt := (atTime now s).now } (atTime now s)))) := by
  simp [execLinkTrainComplete, onUnit_link hli, htrains, hfirst, ht]

theorem execLinkTrainComplete_fails {t : Training} (htrains : (getLink s li).state = 1) (hfirst : (getLink s li).admitTx = 0)
    (ht : trained t = false) : execLinkTrainComplete now li t s = .next (goDown li 2 (atTime now s)) := by
  simp [execLinkTrainComplete, onUnit_link hli, htrains, hfirst, ht]

theorem execPeerRetrain_of_up (hfree : (getLink s li).held = false) (hup : (getLink s li).state = 2) :
    execPeerRetrain now li s = .next (startTraining li (leaveLive li 0 1 (atTime now s))) := by
  simp [execPeerRetrain, onUnit_link hli, hfree, hup]

theorem execPeerRetrain_of_idle (hfree : (getLink s li).held = false) (h1 : (getLink s li).state ≠ 1)
    (h2 : (getLink s li).state ≠ 2) (h3 : (getLink s li).state ≠ 3) :
    execPeerRetrain now li s = .next (startTraining li (atTime now s)) := by
  simp [execPeerRetrain, onUnit_link hli, hfree, h1, h2, h3]

theorem execLinkCtlRetrain_of_up (hup : (getLink s li).state = 2) :
    execLinkCtlRetrain now li s = .next (leaveLive li 5 0 (atTime now s)) := by
  have hup' : (getLink (atTime now s) li).state = 2 := hup
  simp [execLinkCtlRetrain, onUnit_link hli, enterRetrain_of_up hup']

theorem execLinkCtlTakeDown_holds (h0 : (getLink s li).state ≠ 0) (h5 : (getLink s li).state ≠ 5) :
    execLinkCtlTakeDown now li s = .next (modLink li (fun l => { l with held := true }) (goDown li 5 (atTime now s))) := by
  simp [execLinkCtlTakeDown, onUnit_link hli, h0, h5]

theorem execLinkCtlBringUp_trains (hidle : (getLink s li).state = 0 ∨ 3 < (getLink s li).state) :
    execLinkCtlBringUp now li s = .next (startTraining li (atTime now s)) := by
  have hout : ¬ (1 ≤ (getLink (atTime now s) li).state ∧ (getLink (atTime now s) li).state ≤ 3) := by
    rw [getLink_atTime]
    omega
  simp only [execLinkCtlBringUp, onUnit_link hli, Bool.and_eq_true, decide_eq_true_eq, hout, if_false]

end link

/-- The peer's LINK_STATE for a link whose handoff is open places its replay entries (R179). -/
theorem execLinkState_places (h : InOrder s rx) {peerLi seq : Nat}
    (hlink : linkOfPeer (received now rx (.linkState peerLi seq) s) rx.src peerLi = some li)
    (hopen : (getLink (received now rx (.linkState peerLi seq) s) li).handoff.isSome = true) : execLinkState now rx peerLi seq s =
      .next (pump rx.li (placeEntries li seq (received now rx (.linkState peerLi seq) s))) := by
  refine (onUnit_deliverRx h _).trans ?_
  simp only [hlink, hopen, if_true]

theorem execLinkId_records (hli : rx.li < 96) (htrains : (getLink s rx.li).state = 1) (chip peerLi : Nat) (digest : List Byte) :
    execLinkId now rx chip peerLi digest s = .next (tryUp rx.li (freeBuffer rx.li 0 (setLink rx.li { getLink s rx.li with
      peerId := some (chip, peerLi, digest), rxLast := rx.seq, ackOwed := true } (atTime now s)))) := by
  simp [execLinkId, onUnit_link hli, htrains, modLink]

/-- Settles O46: each command's equation where it acts. That a retraining restarts SEQ and frees the buffers that carriages in
transit held of the link (`restartSeq`, `dropHolds`) is log 39; the corners in `tryUp` and `linkService` are log 40. -/
theorem linkTraining : Obligations.LinkTraining := by
  refine ⟨?link, ?linkState, fun s now chip peerLi rx digest hli htrains => execLinkId_records hli htrains chip peerLi digest⟩
  case link =>
    rintro s _ now li _ hli rfl rfl
    refine ⟨execRetrainTimeout_retrains hli, ?retrain, execLinkStateTimeout_drops hli, ?train, ?peer,
      execLinkCtlRetrain_of_up hli, execLinkCtlTakeDown_holds hli, execLinkCtlBringUp_trains hli⟩
    case retrain => exact fun t h3 => ⟨execRetrainComplete_serves hli h3, execRetrainComplete_fails hli h3⟩
    case train => exact fun t h1 h0 => ⟨execLinkTrainComplete_sendsId hli h1 h0, execLinkTrainComplete_fails hli h1 h0⟩
    case peer => exact fun hfree => ⟨execPeerRetrain_of_up hli hfree, execPeerRetrain_of_idle hli hfree⟩
  case linkState =>
    rintro s _ now peerLi seq li rx h rfl
    exact execLinkState_places h

end Sys2Proof.Machine
end

section
/-! Lanes that drop and rejoin (R178), and the lasers of a module: ageing and failure (R180), removal, insertion and drain (R181). -/

namespace Sys2Proof.Machine

variable {s : State} {now li lane lm laser : Nat}

@[simp] theorem getLaser_atTime (now lm : Nat) (s : State) : getLaser (atTime now s) lm = getLaser s lm := rfl

/-! ### Lanes -/

theorem onUnit_lane (hli : li < 96) (hlane : lane < 4) : onUnit (isLi li && decide (lane < 4)) s = .next s := by
  simp [onUnit, isLi, hli, hlane]

section lane
variable (hli : li < 96) (hlane : lane < 4)
include hli hlane

section drop
variable (hup : (getLink s li).state = 2) (cause : LaneCause) (ser : Nat)
include hup

theorem execLaneDrop_transmit : execLaneDrop now li lane true cause ser s =
    .next (dropLane li 0 lane (laneCauseCode cause) ser (atTime now s)) := by
  simp [execLaneDrop, onUnit_lane hli hlane, hup]

/-- A receive lane drops, and the peer's transmitter is told (R178). -/
theorem execLaneDrop_receive {v : State} (hv : v = dropLane li 1 lane (laneCauseCode cause) ser (atTime now s)) :
    execLaneDrop now li lane false cause ser s = .next (sendOn li (localCarriage v (.link (.drop lane))) v) := by
  simp [execLaneDrop, onUnit_lane hli hlane, hup, hv]

end drop

variable {sers : List (Nat × Nat)} {u : State} (hu : u = taskRan 5 0 (sers.foldl (fun s x => setSer x.1 x.2 s) (atTime now s)))
include hu

/-- A dropped lane that passes its retest rejoins, and the peer's transmitter is told (R178). -/
theorem execCdrTrim_restores (hdropped : (getLink u li).dropped.getLsbD lane = true) : execCdrTrim now [(li, lane)] sers s =
    .next (sendOn li (localCarriage u (.link (.restore lane))) (restoreLane li 1 lane u)) := by
  subst hu
  simp only [execCdrTrim, List.foldl_cons, List.foldl_nil, isLi, hli, hlane, hdropped, decide_true, Bool.and_self, if_true]

end lane

/-! ### Ageing and failure of a laser -/

theorem onUnit_laser (hlm : lm < 6) (hlaser : laser < 8) : onUnit (decide (lm < 6) && decide (laser < 8)) s = .next s := by
  simp [onUnit, hlm, hlaser]

section laser
variable (hlm : lm < 6) (hlaser : laser < 8) (bias power : Nat)
include hlm hlaser

theorem execLaserEol_reports (hfitted : (getLaser s lm).state ≠ 0) (hfirst : (getLaser s lm).eol.getLsbD laser = false) :
    execLaserEol now lm laser bias power s = .next (laserFault lm laser 0 bias power sevWarn
      (setLaser lm { getLaser s lm with eol := (getLaser s lm).eol ||| laserBit laser } (atTime now s))) := by
  simp only [execLaserEol, onUnit_laser hlm hlaser, getLaser_atTime, hfitted, hfirst, decide_false, Bool.or_self,
    Bool.false_eq_true, if_false]

theorem execLaserFailure_dropsLanes (hot : Bool) (hworks : (getLaser s lm).ok.getLsbD laser = true) :
    execLaserFailure now lm laser bias power hot s =
      .next ((laserLinks lm laser).foldl (fun t li => dropLane li 0 (laser % 4) 2 0 t)
        (laserFault lm laser (if hot = true then 2 else 1) bias power sevDegrade (setLaser lm { getLaser s lm with
          ok := (getLaser s lm).ok &&& ~~~(laserBit laser), state := 3, fault := true } (atTime now s)))) := by
  simp only [execLaserFailure, onUnit_laser hlm hlaser, getLaser_atTime, hworks, Bool.not_true, Bool.false_eq_true, if_false]

end laser

/-! ### A module leaves and comes back -/

theorem onUnit_module (hlm : lm < 6) : onUnit (decide (lm < 6)) s = .next s := by simp [onUnit, hlm]

theorem drained_iff (l : Link) : drained l = true ↔ l.state ≠ 2 ∨ l.replay = [] := by simp [drained]

section bay
variable (hlm : lm < 6)
include hlm

section removed
variable {u : State} (hu : u = { atTime now s with boot := { s.boot with bays := s.boot.bays &&& ~~~((1 : BitVec 6) <<< lm) } })
include hu

theorem execLaserModuleRemoved_absent (habsent : (getLaser s lm).state = 0) : execLaserModuleRemoved now lm s = .next u := by
  simp [execLaserModuleRemoved, onUnit_module hlm, hu, habsent]

theorem execLaserModuleRemoved_drained (hdrained : (getLaser s lm).state = 2) : execLaserModuleRemoved now lm s =
    .next (setLaser lm { getLaser s lm with state := 0, ok := 0, eol := 0, bias := [] } u) := by
  simp [execLaserModuleRemoved, onUnit_module hlm, hu, hdrained]

/-- Without a drain its links go DOWN with it (R181). -/
theorem execLaserModuleRemoved_undrained (h0 : (getLaser s lm).state ≠ 0) (h2 : (getLaser s lm).state ≠ 2) :
    execLaserModuleRemoved now lm s =
      .next ((moduleLinks lm).foldl (fun t li => if (getLink t li).state = 0 ∨ (getLink t li).state = 5 then t else goDown li 0 t)
        (laserFault lm 0xFF 3 0 0 sevDegrade (setLaser lm { state := 0, fault := true } u))) := by
  simp [execLaserModuleRemoved, onUnit_module hlm, hu, h0, h2]

end removed

/-- Into an empty bay a supported module comes with its links trained; an unsupported one is reported (R181). -/
theorem execLaserModuleInserted_absent {u : State} (habsent : (getLaser s lm).state = 0)
    (hu : u = { atTime now s with boot := { s.boot with bays := s.boot.bays ||| ((1 : BitVec 6) <<< lm) } }) (supported : Bool) :
    execLaserModuleInserted now lm supported s = .next (if supported = true then
      (moduleLinks lm).foldl (fun t li => startTraining li t) (setLaser lm { state := 1, ok := 0xFF } u)
      else laserFault lm 0xFF 4 0 0 sevDegrade (setLaser lm { state := 3, fault := true } u)) := by
  subst hu
  rw [execLaserModuleInserted, onUnit_module hlm]
  exact congrArg _ (if_neg (not_not_intro habsent))

/-! ### A drain -/

theorem execLaserDrain_reroutes (hidle : (getLaser s lm).draining = false) (h0 : (getLaser s lm).state ≠ 0)
    (h2 : (getLaser s lm).state ≠ 2) : execLaserDrain now lm s =
      .next ((moduleLinks lm).foldl (fun t li => rerouteQueue li t)
        ((moduleLinks lm).foldl (fun t li => modLink li (fun l => { l with held := true }) t)
          (setLaser lm { getLaser s lm with draining := true } (atTime now s)))) := by
  simp [execLaserDrain, onUnit_module hlm, hidle, h0, h2]

theorem execLaserDrainComplete_drains (hdraining : (getLaser s lm).draining = true)
    (hdone : ∀ li ∈ moduleLinks lm, (getLink s li).state ≠ 2 ∨ (getLink s li).replay = []) : execLaserDrainComplete lm s =
      .next (setLaser lm { getLaser s lm with state := 2, ok := 0, draining := false, fault := false }
        ((moduleLinks lm).foldl (fun t li => drainLink li t) s)) := by
  have hall : ((moduleLinks lm).all fun li => drained (getLink s li)) = true :=
    List.all_eq_true.mpr fun li hmem => (drained_iff _).mpr (hdone li hmem)
  simp [execLaserDrainComplete, onUnit_module hlm, hdraining, hall]

end bay

/-- Settles O47: each command's equation where it acts. That a trim and a compensation count as a pass of their free task
(`taskRan`) is log 49. -/
theorem lanesAndLasers : Obligations.LanesAndLasers := by
  refine ⟨?drop, ?trim, ?laser, ?removed, ?inserted, ?drain, fun s lm => execLaserDrainComplete_drains, fun s now bias => rfl⟩
  case drop =>
    rintro s _ v now li lane ser cause hli hlane hup rfl
    exact ⟨execLaneDrop_transmit hli hlane hup cause ser, execLaneDrop_receive hli hlane hup cause ser⟩
  case trim =>
    intro s u now li lane sers hu
    exact ⟨congrArg _ hu.symm, fun hli hlane => execCdrTrim_restores hli hlane hu⟩
  case laser =>
    rintro s _ now lm laser bias power hlm hlaser rfl
    exact ⟨execLaserEol_reports hlm hlaser bias power, execLaserFailure_dropsLanes hlm hlaser bias power⟩
  case removed =>
    intro s u now lm hlm hu
    exact ⟨execLaserModuleRemoved_absent hlm hu, execLaserModuleRemoved_drained hlm hu, execLaserModuleRemoved_undrained hlm hu⟩
  case inserted =>
    intro s u now lm hlm habsent hu
    exact ⟨execLaserModuleInserted_absent hlm habsent hu true, execLaserModuleInserted_absent hlm habsent hu false⟩
  case drain =>
    rintro s _ now lm hlm rfl
    exact execLaserDrain_reroutes hlm

end Sys2Proof.Machine
end

section
/-! O41. The digest tree of a region and the module root (R189). -/

namespace Sys2Proof.Machine

/-! ### Leaves -/

@[simp] theorem length_leavesOf (ls : List (Nat × Nat × Word64)) (s : State) (r : Nat) :
    (leavesOf ls s r).length = regionBlocks s r := by simp [leavesOf]

theorem getElem?_leavesOf {ls : List (Nat × Nat × Word64)} {s : State} {r b : Nat} {d : Word64} (hb : b < regionBlocks s r)
    (hd : ls.find? (fun x => x.1 == r && x.2.1 == b) = some (r, b, d)) : (leavesOf ls s r)[b]? = some d := by
  simp [leavesOf, hb, hd]

/-! ### A level from the one below -/

/-- The digest of a node over its children's. -/
def nodeDigest (kids : List Word64) : Word64 := crc64 (kids.flatMap fun d => leBytes 8 d.toNat)

theorem parentsFuel_succ_of_ne_nil (n : Nat) {ds : List Word64} (hds : ds ≠ []) :
    parentsFuel (n + 1) ds = nodeDigest (ds.take 16) :: parentsFuel n (ds.drop 16) := by
  simp [parentsFuel, hds, nodeDigest]

theorem getElem?_parentsFuel {n : Nat} {ds : List Word64} (hfuel : ds.length ≤ n) (i : Nat) :
    (parentsFuel n ds)[i]? = if 16 * i < ds.length then some (nodeDigest ((ds.drop (16 * i)).take 16)) else none := by
  induction n generalizing ds i with
  | zero => simp [parentsFuel, Nat.le_zero.mp hfuel]
  | succ n ih =>
    by_cases hds : ds = []
    · simp [parentsFuel, hds]
    rw [parentsFuel_succ_of_ne_nil n hds]
    have hpos := List.length_pos_iff.mpr hds
    cases i with
    | zero => simp [hpos]
    | succ i =>
      rw [List.getElem?_cons_succ, ih (by simp; omega), List.drop_drop, List.length_drop]
      exact ite_congr (by simp; omega) (fun _ => by rw [Nat.mul_succ, Nat.add_comm]) fun _ => rfl

theorem length_parentsFuel {n : Nat} {ds : List Word64} (hfuel : ds.length ≤ n) :
    (parentsFuel n ds).length = (ds.length + 15) / 16 := by
  induction n generalizing ds with
  | zero => simp [parentsFuel, Nat.le_zero.mp hfuel]
  | succ n ih =>
    by_cases hds : ds = []
    · simp [parentsFuel, hds]
    have hpos := List.length_pos_iff.mpr hds
    rw [parentsFuel_succ_of_ne_nil n hds, List.length_cons, ih (by simp; omega), List.length_drop]
    omega

/-! ### The levels' sizes -/

/-- A level has at most `m` nodes when there are at most `m * 16 ^ k` leaves under it. -/
theorem length_treeLevel_le_iff (ds : List Word64) (k m : Nat) : (treeLevel ds k).length ≤ m ↔ ds.length ≤ m * 16 ^ k := by
  induction k generalizing m with
  | zero => simp [treeLevel]
  | succ k ih =>
    have hparents : (treeLevel ds (k + 1)).length = ((treeLevel ds k).length + 15) / 16 := length_parentsFuel le_rfl
    calc (treeLevel ds (k + 1)).length ≤ m ↔ (treeLevel ds k).length ≤ m * 16 := by omega
      _ ↔ ds.length ≤ m * 16 ^ (k + 1) := by rw [ih, Nat.pow_succ', Nat.mul_assoc]

/-- `topLevel` is the first level on which one node covers all leaves. -/
theorem topLevel_le_iff (n k : Nat) : topLevel n ≤ k ↔ n ≤ 16 ^ k := by
  have hpos : 0 < 16 ^ k := by positivity
  unfold topLevel
  split
  next hone => omega
  next hmany =>
    have hlog : (n - 1).log2 < 4 * k ↔ n - 1 < 16 ^ k := by
      rw [Nat.log2_lt (by omega), Nat.pow_mul]
    omega

theorem length_treeLevel_le_one_iff (ds : List Word64) (k : Nat) : (treeLevel ds k).length ≤ 1 ↔ topLevel ds.length ≤ k := by
  rw [length_treeLevel_le_iff, topLevel_le_iff, Nat.one_mul]

theorem treeLevel_ne_nil {ds : List Word64} (hds : ds ≠ []) (k : Nat) : treeLevel ds k ≠ [] := by
  have hzero := length_treeLevel_le_iff ds k 0
  simpa [hds] using hzero

theorem treeLevel_topLevel {ds : List Word64} (hds : ds ≠ []) : treeLevel ds (topLevel ds.length) = [regionRoot ds] := by
  have hone := (length_treeLevel_le_one_iff ds _).mpr le_rfl
  have hroot := treeLevel_ne_nil hds (topLevel ds.length)
  unfold regionRoot
  match treeLevel ds (topLevel ds.length), hone, hroot with
  | [x], _, _ => rfl

/-! ### The module root -/

theorem mem_presentRegions {s : State} {r : Nat} : r ∈ presentRegions s ↔ ∃ e, (r, e) ∈ s.folds.eff ∧ e.present = true := by
  simp [presentRegions]

theorem presentRegions_pairwise {s : State} (hrises : (s.folds.eff.map (·.1)).Pairwise (· < ·)) :
    (presentRegions s).Pairwise (· < ·) :=
  hrises.sublist (List.filter_sublist.map _)

/-- Settles O41: a level's nodes come from the one below by fuel, its size is the leaves' over 16 ^ k rounded up, and the top level
is the first of one node. -/
theorem digestTree : Obligations.DigestTree := by
  refine ⟨fun ls s r _ _ hb hd => ⟨getElem?_leavesOf hb hd, length_leavesOf ls s r⟩,
    fun _ _ i => getElem?_parentsFuel le_rfl i, fun ds hds => ⟨treeLevel_topLevel hds, fun j hj hone => ?below⟩,
    fun s hrises => ⟨presentRegions s, presentRegions_pairwise hrises, fun _ => mem_presentRegions, rfl⟩⟩
  case below => exact hj.not_ge ((length_treeLevel_le_one_iff ds j).mp hone.le)

end Sys2Proof.Machine
end

section
/-! O40. Completion of a fold load, and the release of the old fold (R197, R200, R202). -/

namespace Sys2Proof.Machine

variable {s v : State} {kind num : Nat}

theorem execFoldLoadComplete_completes {n bad : Nat} {j : FoldJob}
    (hj : s.folds.loading.find? (fun j => j.target.kind == kind && j.target.num == num) = some j)
    (hrun : runFoldLoad j { s with folds := { s.folds with loading := s.folds.loading.erase j } } = ((n, bad), v)) :
    execFoldLoadComplete kind num s =
      .next (finishStarted { slot := j.slot, tag := j.tag, opcode := 0x0023 } 0 [(0, n), (1, bad)] v) := by
  simp only [execFoldLoadComplete, hj, hrun]

theorem execFoldRelease_releases {tick : Nat} {t : FoldTarget} {x : Table}
    (hrel : s.folds.releases.find? (fun r => r.1.kind == kind && r.1.num == num) = some (t, tick)) (hx : getTable s num = some x)
    (hnamed : foldUnnamed s num (1 - x.current) = true) (happly : noApplyBefore s tick = true) (hleg : noLegBefore s tick = true)
    (hv : v = releaseFold num x { s with folds := { s.folds with releases := s.folds.releases.erase (t, tick) } }) :
    execFoldRelease kind num s =
      .next (raise evFoldSwitched sevInfo uModule (foldDetail t x.current tick (v.tk.tick - tick)) v) := by
  simp only [execFoldRelease, hrel, hx, hnamed, happly, hleg, Bool.and_self, if_true, hv]

/-- Settles O40: each command's equation where it acts. -/
theorem foldCompletions : Obligations.FoldCompletions :=
  ⟨fun _ _ _ _ _ _ _ => execFoldLoadComplete_completes,
    fun _ _ _ _ _ _ hrel hx hnamed happly hleg => ⟨_, execFoldRelease_releases hrel hx hnamed happly hleg rfl, rfl⟩⟩

end Sys2Proof.Machine
end

section
/-! O42. Digest rounds: their start, slices and roots, the comparison at the bellwether, queries and replies (R190 to R192, R194). -/

namespace Sys2Proof.Machine

variable {s t : State} {now : Nat} {rx : Rx}

/-! ### The module's part in a round (R190) -/

theorem execDigestRoundStart_starts (hrunning : running s = true) (hchips : 1 < s.job.exchange.chips)
    (hdue : s.tk.tick % s.job.header.digestInterval = 0) (hnew : s.digest.round ≠ some s.tk.tick) :
    execDigestRoundStart s = .next { s with digest := { s.digest with
      round := some s.tk.tick, void := false, slices := 0, leaves := [], prevRound := s.digest.round, prevLeaves := s.digest.leaves
      roots := [], compared := false, located := [] } } := by
  simp [execDigestRoundStart, hrunning, hchips, hdue, hnew]

/-- A slice is in time or voids the round; either way it ends. -/
theorem execDigestSlice_ends {v : State} {j c : Nat} {inTime : Bool} (hround : s.digest.round = some c)
    (htick : s.tk.tick = c + j) (hslices : s.digest.slices = j) (hj : j < digestSpan s)
    (hv : v = if inTime = true then (sliceBlocks (atTime now s) j).foldl digestBlock (atTime now s)
      else tally tlDigestLate { atTime now s with digest := { s.digest with void := true } }) :
    execDigestSlice now j inTime s = .next (endSlice c v) := by
  have hspan : j < digestSpan (atTime now s) := hj
  subst hv
  cases inTime with
  | false => simp [execDigestSlice, hround, htick, hslices, hspan.not_ge, missSlice]
  | true => simp [execDigestSlice, hround, htick, hslices, hspan.not_ge]

theorem execDigestAbort_leaves {round : Nat} (h : InOrder s rx) (hround : s.digest.round = some round) :
    execDigestAbort now rx round s = .next (pump rx.li (pumpDense { received now rx (.digestAbort round) s with digest :=
      { s.digest with round := none, leaves := [], slices := 0, sliceImages := [], roots := [] } })) := by
  have hsoft : Soft s (received now rx (.digestAbort round) s) := received_soft
  rw [execDigestAbort, onUnit_deliverRx h, if_pos (hsoft.digest ▸ hround), hsoft.digest]

theorem execDigestRoot_notes {round : Nat} {root : Word64} {void : Bool} (h : InOrder s rx) (hbell : s.tk.bellwether = true) :
    execDigestRoot now rx round root void s = .next (pump rx.li (noteRoot rx.src round (if void = true then none else some root)
      (received now rx (.digestRoot round root void) s))) := by
  have hsoft : Soft s (received now rx (.digestRoot round root void) s) := received_soft
  rw [execDigestRoot, onUnit_deliverRx h, if_pos (hsoft.tk ▸ hbell)]

/-! ### The comparison (R191) -/

/-- The roots received that are not void, by chip. -/
def soundRoots (s : State) : List (Nat × Word64) := s.digest.roots.filterMap fun x => x.2.map fun r => (x.1, r)

/-- The job halts on roots without a majority; what names a block is then free (log 38). -/
def haltDiverged (s : State) : State :=
  haltTree (raise evReplicaDiverged sevFault uModule (divergedDetail ((freeWord s).1.toNat % 65536)
    ((freeWord s).1.toNat / 2 ^ 16 % 2 ^ 32) 0xFFFF 0xFFFF 3 0 0 ((freeWord s).1.toNat / 2 ^ 48)) (freeWord s).2)

/-- What the bellwether makes of the sound roots, the first of which is `r`. -/
def judgeRoots (c : Nat) (rs : List (Nat × Word64)) (r : Word64) (s : State) : State :=
  if rs.all fun x => x.2 == r then tally tlDigestRounds s
  else (referenceRoot s rs).elim (haltDiverged s) fun root => startDescents c root rs s

theorem execDigestCompare_judges {c : Nat} {x : Nat × Word64} (hround : s.digest.round = some c) (hbell : s.tk.bellwether = true)
    (hcompared : s.digest.compared = false) (htick : s.tk.tick = c + digestSpan s) (hx : (soundRoots s).head? = some x) :
    execDigestCompare now s =
      .next (judgeRoots c (soundRoots s) x.2 { atTime now s with digest := { s.digest with compared := true } }) := by
  obtain ⟨rest, hrs⟩ := List.head?_eq_some_iff.mp hx
  have hdue : s.tk.tick = c + digestSpan (atTime now s) := htick
  unfold soundRoots at hrs
  simp only [execDigestCompare, atTime_digest, atTime_tk, hround, hbell, hcompared, Bool.not_true, ← hdue, ne_eq, not_true,
    decide_false, Bool.or_self, Bool.false_eq_true, if_false, soundRoots, hrs, judgeRoots]
  split
  · rfl
  · split
    next root href => rw [href, Option.elim_some]
    next href => rw [href, Option.elim_none, haltDiverged]

section judge
variable {c : Nat} {rs : List (Nat × Word64)} {r : Word64}

theorem judgeRoots_equal (heq : ∀ y ∈ rs, y.2 = r) : judgeRoots c rs r s = tally tlDigestRounds s :=
  if_pos (by simpa using heq)

theorem judgeRoots_differ (hne : ∃ y ∈ rs, y.2 ≠ r) :
    judgeRoots c rs r s = (referenceRoot s rs).elim (haltDiverged s) fun root => startDescents c root rs s :=
  if_neg (by simpa using hne)

end judge

/-! ### Queries, replies and the end of descents (R192, R194) -/

theorem Soft.answerQuery_eq (h : Soft s t) (n : DigestNode) : answerQuery t n = answerQuery s n := by
  simp only [answerQuery, heldLeaves, presentRegions, leavesOf, regionBlocks, regionBytes, tensorOf, h.digest, h.folds, h.job]

theorem execDigestQuery_answers {n : DigestNode} {ds : List (Nat × Word64)} (h : InOrder s rx) (hds : answerQuery s n = some ds) :
    execDigestQuery now rx n s =
      .next (pump rx.li (originate 3 rx.src 0 (.digestReply n ds) (received now rx (.digestQuery n) s))) := by
  have hsoft : Soft s (received now rx (.digestQuery n) s) := received_soft
  rw [execDigestQuery, onUnit_deliverRx h, hsoft.answerQuery_eq, hds]

theorem execDigestReply_descends {n : DigestNode} {ds : List (Nat × Word64)} (h : InOrder s rx) :
    execDigestReply now rx n ds s = .next (pump rx.li (descendReady { received now rx (.digestReply n ds) s with
      digest := { s.digest with queries := fillReply rx.src n ds s.digest.queries } })) := by
  have hsoft : Soft s (received now rx (.digestReply n ds) s) := received_soft
  rw [execDigestReply, onUnit_deliverRx h, hsoft.digest]

/-- A descent of a round one interval old has elapsed. -/
def elapsed (s : State) (q : Query) : Bool := decide (q.round + s.job.header.digestInterval ≤ s.tk.tick)

/-- Descents of elapsed rounds are dropped, and each outlier that has one counts one. -/
def dropElapsed (s : State) : State :=
  tallyBy tlDigestLate (((s.digest.queries.filter (elapsed s)).map (·.outlier)).dedup.length)
    { s with digest := { s.digest with queries := s.digest.queries.filter fun q => !elapsed s q } }

theorem execDescentTimeout_drops (now : Nat) (s : State) : execDescentTimeout now s = .next (dropElapsed (atTime now s)) := by
  unfold execDescentTimeout
  generalize atTime now s = u
  have hkept : (u.digest.queries.filter fun q => !(u.digest.queries.filter (elapsed u)).contains q) =
      u.digest.queries.filter fun q => !elapsed u q :=
    List.filter_congr fun q hq => by simp [hq]
  rw [dropElapsed, ← hkept]
  rfl

theorem mem_queries_dropElapsed {q : Query} : q ∈ (dropElapsed s).digest.queries ↔
    q ∈ s.digest.queries ∧ s.tk.tick < q.round + s.job.header.digestInterval := by
  simp [dropElapsed, elapsed]

theorem dropElapsed_eq (s : State) : dropElapsed s = tallyBy tlDigestLate
    (((s.digest.queries.filter (elapsed s)).map (·.outlier)).dedup.length) { s with digest := (dropElapsed s).digest } := by
  rw [show (dropElapsed s).digest = { s.digest with queries := s.digest.queries.filter fun q => !elapsed s q } from rfl, dropElapsed]

/-- Settles O42: each command's equation where it acts. With no majority the fields that name a block are free (log 38). -/
theorem digestRounds : Obligations.DigestRounds := by
  refine ⟨fun s => execDigestRoundStart_starts, ?slice, ?root, ?compare, ?query, ?reply, ?timeout, ?abort⟩
  case slice =>
    rintro s _ v now j c inTime rfl
    exact execDigestSlice_ends
  case root =>
    rintro s _ now round rx root void h rfl
    exact execDigestRoot_notes h
  case compare =>
    rintro s _ _ now c _ x rfl hround hbell hcompared htick rfl hx rfl
    have hjudge := execDigestCompare_judges (now := now) hround hbell hcompared htick hx
    refine ⟨fun heq => ?equal, fun hne root hroot => ?differ, fun hne hroot => ?halt⟩
    case equal => exact hjudge.trans (congrArg _ (judgeRoots_equal heq))
    case differ => exact hjudge.trans (congrArg _ ((judgeRoots_differ hne).trans (congrArg (Option.elim · _ _) hroot)))
    case halt => exact ⟨_, _, rfl, hjudge.trans (congrArg _ ((judgeRoots_differ hne).trans (congrArg (Option.elim · _ _) hroot)))⟩
  case query =>
    rintro s _ now rx n ds h rfl
    exact execDigestQuery_answers h
  case reply =>
    rintro s _ now rx n ds h rfl
    exact execDigestReply_descends h
  case timeout =>
    exact fun s now => ⟨_, execDescentTimeout_drops now s, fun _ => mem_queries_dropElapsed, dropElapsed_eq _⟩
  case abort =>
    rintro s _ now round rx h rfl
    exact execDigestAbort_leaves h

end Sys2Proof.Machine
end

section
/-! O43. Repair of a diverged block (R193, R196): its order, the tick of the reference and the outlier, data, end and deadline. -/

namespace Sys2Proof.Machine

variable {s t v : State} {now : Nat} {rx : Rx} {r : Repair} {bs : List Byte}

/-! ### What a repair's size and places depend on -/

theorem Soft.effOf_eq (h : Soft s t) (region : Nat) : effOf t region = effOf s region := by simp only [effOf, h.folds]

theorem Soft.chunkCount_eq (h : Soft s t) (r : Repair) : chunkCount t r = chunkCount s r := by
  simp only [chunkCount, blockLen, regionBytes, tensorOf, h.job]

theorem Soft.find?_isRepair (h : Soft s t) {region block outlier : Nat}
    (hr : s.digest.repairs.find? (isRepair region block outlier) = some r) :
    t.digest.repairs.find? (isRepair region block outlier) = some r := by rw [h.digest, hr]

/-! ### The order -/

theorem execRepairOrder_adds {m : RepairOrderMsg} (h : InOrder s rx) (hmine : m.outlier = s.lg.chip ∨ m.reference = s.lg.chip) :
    execRepairOrder now rx m s = .next (pump rx.li (addRepair
      { tick := m.tick, region := m.region, block := m.block, outlier := m.outlier, reference := m.reference }
      (received now rx (.repairOrder m) s))) := by
  rw [execRepairOrder, onUnit_deliverRx h, if_pos (by simpa [chip_received] using hmine)]

/-! ### The tick of the reference and the outlier -/

/-- A module that is not the bellwether asks for a halt, which leaves the tick unit's registers. -/
theorem requestHalt_tk (hbell : s.tk.bellwether = false) : (requestHalt s).tk = s.tk := by
  unfold requestHalt
  simp only [hbell, Bool.false_eq_true, if_false]
  split
  · split
    · rfl
    · exact (sendAck_soft .refl).tk
  · rfl

theorem structPoison_tk (content line : Nat) (hbell : s.tk.bellwether = false) : (structPoison content line s).tk = s.tk := by
  have hsoft {code sev u detail d mem source pc} : Soft s (raise code sev u detail (noteLastErr d line mem source pc s)) :=
    raise_soft (noteLastErr_soft .refl)
  exact (requestHalt_tk ((congrArg Tk.bellwether hsoft.tk).trans hbell)).trans hsoft.tk

theorem readBlock_tk (region image block : Nat) (hbell : s.tk.bellwether = false) :
    (readBlock region image block s).2.tk = s.tk := by
  rw [readBlock]
  cases poisonIn s.mm (blockAddr s region image block) (blockLen s region block) with
  | none => rfl
  | some line => exact structPoison_tk 2 line hbell

theorem sendBlock_tk (r : Repair) (hbell : s.tk.bellwether = false) : (sendBlock r s).tk = s.tk := by
  have hread := readBlock_tk r.region (boundaryImage s r.region) r.block hbell
  rw [sendBlock]
  generalize readBlock r.region (boundaryImage s r.region) r.block s = x at hread ⊢
  obtain ⟨bs, v⟩ := x
  exact (Soft.foldl .refl fun _ _ => originate_soft).tk.trans hread

section tick
variable (hrepairs : s.digest.repairs = [r]) (htick : r.tick = s.tk.tick) (hnew : r.started = false)
include hrepairs htick hnew

theorem execRepairTick_reference (href : r.reference = s.lg.chip) (hbell : s.tk.bellwether = false) :
    execRepairTick now s = .next (dropRepair r (sendBlock r (atTime now s))) := by
  have hafter : (sendBlock r (atTime now s)).tk.bellwether = false := by
    rw [sendBlock_tk (s := atTime now s) r hbell, atTime_tk, hbell]
  simp [execRepairTick, hrepairs, htick, hnew, href, hafter]

theorem execRepairTick_outlier (href : r.reference ≠ s.lg.chip) (hout : r.outlier = s.lg.chip) :
    execRepairTick now s = .next (digestBefore r (atTime now s)) := by
  simp [execRepairTick, hrepairs, htick, hnew, href, hout]

end tick

/-! ### Data, end and deadline -/

theorem digestBefore_of_isSome (hbefore : r.before.isSome = true) : digestBefore r s = s := if_pos hbefore

section data
variable {m : RepairDataMsg} (h : InOrder s rx) (hr : s.digest.repairs.find? (isRepair m.region m.block s.lg.chip) = some r)
  (hnew : m.chunk ∉ r.chunks) (hchunk : m.chunk < chunkCount s r)
include h hr hnew hchunk

theorem execRepairData_takes (htick : r.tick = s.tk.tick) (hbefore : r.before.isSome = true) :
    execRepairData now rx m s = .next (pump rx.li (takeChunk r m (received now rx (.repairData m) s))) := by
  have hsoft : Soft s (received now rx (.repairData m) s) := received_soft
  rw [execRepairData, onUnit_deliverRx h]
  simp [chip_received, hsoft.find?_isRepair hr, hsoft.chunkCount_eq, hsoft.tk, hnew, hchunk.not_ge, htick,
    digestBefore_of_isSome hbefore]

/-- After the repair's tick its block stays as it is, and it ends as failed. -/
theorem execRepairData_late (htick : r.tick < s.tk.tick)
    (hread : readBlock r.region (effOf s r.region).image r.block (received now rx (.repairData m) s) = (bs, v)) :
    execRepairData now rx m s = .next (pump rx.li (endRepair r 2 (crc64 bs) v)) := by
  have hsoft : Soft s (received now rx (.repairData m) s) := received_soft
  have hopen : ¬(r.chunks.contains m.chunk || decide (chunkCount (received now rx (.repairData m) s) r ≤ m.chunk) ||
      decide ((received now rx (.repairData m) s).tk.tick < r.tick)) = true := by
    simp [hnew, hsoft.chunkCount_eq, hchunk, hsoft.tk, htick.le]
  rw [execRepairData, onUnit_deliverRx h, chip_received, hsoft.find?_isRepair hr]
  refine congrArg (Host.Outcome.next <| pump rx.li ·) ((if_neg hopen).trans ((if_pos (hsoft.tk ▸ htick)).trans ?_))
  rw [hsoft.effOf_eq, hread]

end data

theorem execRepairDone_raises {m : RepairDoneMsg} (h : InOrder s rx)
    (hr : s.digest.repairs.find? (isRepair m.region m.block rx.src) = some r) (hbell : s.tk.bellwether = true) :
    execRepairDone now rx m s =
      .next (pump rx.li (raiseDiverged r m.result (dropRepair r (received now rx (.repairDone m) s)))) := by
  have hsoft : Soft s (received now rx (.repairDone m) s) := received_soft
  rw [execRepairDone, onUnit_deliverRx h]
  simp [hsoft.find?_isRepair hr, hsoft.tk, hbell]

section deadline
variable {region block outlier : Nat} (hr : s.digest.repairs.find? (isRepair region block outlier) = some r)
  (htick : r.tick < s.tk.tick)
include hr htick

theorem execRepairDeadline_outlier (hout : outlier = s.lg.chip)
    (hread : readBlock r.region (effOf s r.region).image r.block (atTime now s) = (bs, v)) :
    execRepairDeadline now region block outlier s = .next (endRepair r 2 (crc64 bs) v) := by
  rw [execRepairDeadline, atTime_digest, hr]
  refine congrArg _ ((if_neg htick.not_ge).trans ((if_pos hout).trans ?_))
  rw [effOf, atTime_folds, ← effOf, hread]

theorem execRepairDeadline_bellwether (hout : outlier ≠ s.lg.chip) (hbell : s.tk.bellwether = true) :
    execRepairDeadline now region block outlier s = .next (raiseDiverged r 2 (dropRepair r (atTime now s))) := by
  simp [execRepairDeadline, hr, htick.not_ge, hout, hbell]

end deadline

/-- Settles O43: each command's equation where it acts. Sending the block leaves the tick unit of a reference that is not the
bellwether as it is, even where a poisoned line has it ask for a halt. -/
theorem repairs : Obligations.Repairs := by
  refine ⟨?order, ?tick, ?data, ?done, ?deadline⟩
  case order =>
    rintro s _ now rx m h rfl
    exact execRepairOrder_adds h
  case tick =>
    rintro s _ now r rfl hrepairs htick hnew
    exact ⟨execRepairTick_reference hrepairs htick hnew, execRepairTick_outlier hrepairs htick hnew⟩
  case data =>
    rintro s _ now rx m r h rfl hr hnew hchunk
    exact ⟨execRepairData_takes h hr hnew hchunk, fun htick bs v => execRepairData_late h hr hnew hchunk htick⟩
  case done =>
    rintro s _ now rx m r h rfl
    exact execRepairDone_raises h
  case deadline =>
    rintro s _ now region block outlier r rfl hr htick
    exact ⟨fun hout bs v => execRepairDeadline_outlier hr htick hout, execRepairDeadline_bellwether hr htick⟩

end Sys2Proof.Machine
end

section
/-! O44. A snapshot's copies, its completed writes and manifest, and errors of its targets (R204, R206, R208, R209, R312). -/

namespace Sys2Proof.Machine

variable {s : State} {now : Nat} {n : Snapshot}

/-! ### The tick of the copies (R206, R312) -/

section instant
variable (now : Nat) (s : State)

@[simp] theorem snapCopies_atTime (bell : Bool) (images : List (Nat × Nat)) (tick count : Nat) :
    snapCopies (atTime now s) bell images tick count = snapCopies s bell images tick count := rfl

@[simp] theorem snapSections_atTime (bell : Bool) (images : List (Nat × Nat)) (tick count : Nat) :
    snapSections (atTime now s) bell images tick count = snapSections s bell images tick count := rfl

@[simp] theorem tableSections_atTime (tick : Nat) : tableSections (atTime now s) tick = tableSections s tick := rfl

@[simp] theorem recordSections_atTime : recordSections (atTime now s) = recordSections s := rfl

@[simp] theorem copyPlaces_atTime (base : Nat) (cs : List CopyOf) : copyPlaces (atTime now s) base cs = copyPlaces s base cs := rfl

@[simp] theorem copyBytes_atTime (c : CopyOf) : copyBytes (atTime now s) c = copyBytes s c := rfl

@[simp] theorem copyPoison_atTime : copyPoison (atTime now s) = copyPoison s := rfl

end instant

section tick
variable {cs : List CopyOf} (hsnap : s.snap = some n) (hstarted : n.started = true) (hcopied : n.copied = false)
  (hcs : cs = snapCopies s n.bellwether n.images n.tick n.count)
include hsnap hstarted hcopied hcs

theorem execSnapshotTick_poisoned (hbad : cs.any (copyPoison s) = true) :
    execSnapshotTick now s = .next (voidSnapshot 1 0xFF (atTime now s)) := by
  simp only [execSnapshotTick, takeSnapshot, atTime_snap, hsnap, hstarted, hcopied, Bool.not_true, Bool.or_self, Bool.false_eq_true,
    if_false, snapCopies_atTime, ← hcs, copyPoison_atTime, hbad, if_true]

/-- The places of the copies in the work area are log 34. -/
theorem execSnapshotTick_copies (hsound : cs.any (copyPoison s) = false) {v w : State}
    (hv : v = { atTime now s with snap := some { n with
      copied := true
      sections := snapSections s n.bellwether n.images n.tick n.count
      tables := (tableSections s n.tick).zipIdx.map fun x => (x.2, x.1.2)
      copies := (cs.zip (copyPlaces s n.workBase cs)).zipIdx.map fun x => (3 + (recordSections s).length + x.2, x.1.2, copyLen x.1.1) } })
    (hw : w = (cs.zip (copyPlaces s n.workBase cs)).foldl (fun t x => putMem x.2 (copyBytes s x.1) t) v) :
    execSnapshotTick now s =
      .next (pumpDense (pumpStream ((List.range 4).foldl (fun t d => walkTo d (walkStart t d) t) w))) := by
  rw [hw, hv]
  simp only [execSnapshotTick, takeSnapshot, atTime_snap, hsnap, hstarted, hcopied, Bool.not_true, Bool.or_self, Bool.false_eq_true,
    if_false, snapCopies_atTime, ← hcs, copyPoison_atTime, hsound, snapSections_atTime, tableSections_atTime, recordSections_atTime,
    copyPlaces_atTime, copyBytes_atTime, List.foldl_map]

end tick

/-! ### Completed writes and the manifest (R208) -/

theorem mibDone_notes {extent mib k : Nat} (hsnap : s.snap = some n) (hk : k = mibOf n extent mib) (hissued : k ∈ n.issued)
    (hopen : k ∉ n.doneMib) : mibDone extent mib s = pumpStream { s with snap := some { n with
      doneMib := k :: n.doneMib
      cursors := (List.range 4).map fun d => donePrefix (k :: n.doneMib) (dieUnits { n with doneMib := k :: n.doneMib } d) } } := by
  simp [mibDone, hsnap, ← hk, hissued, hopen]

theorem snapshotDone_completes {c : Started} (hsnap : s.snap = some n)
    (hc : s.hq.started.find? (fun c => c.opcode == 0x0040 && c.slot == n.slot && c.tag == n.tag) = some c) :
    snapshotDone s = finishStarted c 0 [] { s with snap := none } := by
  simp only [snapshotDone, hsnap, hc]

theorem execSnapshotWriteComplete_stream {extent mib : Nat} (hsnap : s.snap = some n) (hextent : extent < n.extents.length)
    (hmib : mib ≠ 0) : execSnapshotWriteComplete now extent mib s = .next (mibDone extent mib (atTime now s)) := by
  simp [execSnapshotWriteComplete, hsnap, hextent.not_ge, hmib]

theorem execSnapshotWriteComplete_manifest (hsnap : s.snap = some n) (hextent : 0 < n.extents.length)
    (hout : n.manifestOut = true) : execSnapshotWriteComplete now 0 0 s = .next (snapshotDone (atTime now s)) := by
  simp [execSnapshotWriteComplete, hsnap, hextent.ne', hout]

/-- Settles O44: each command's equation where it acts. The copies' places in the work area are log 34. -/
theorem snapshots : Obligations.Snapshots := by
  rintro s _ now n rfl hsnap
  refine ⟨?tick, ?stream, ?manifest, fun extent => rfl⟩
  case tick =>
    intro cs hstarted hcopied hcs
    exact ⟨execSnapshotTick_poisoned hsnap hstarted hcopied hcs,
      fun hsound v w => execSnapshotTick_copies hsnap hstarted hcopied hcs hsound⟩
  case stream =>
    intro extent mib k hextent hmib hk hissued hopen
    exact (execSnapshotWriteComplete_stream hsnap hextent hmib).trans
      (congrArg _ (mibDone_notes (s := atTime now s) hsnap hk hissued hopen))
  case manifest =>
    intro c hextent hout hc
    exact (execSnapshotWriteComplete_manifest hsnap hextent hout).trans
      (congrArg _ (snapshotDone_completes (s := atTime now s) hsnap hc))

end Sys2Proof.Machine
end

section
/-! O59. ADMIN commands on snapshots, map-out, the memory configuration, RDMA and NVMe (R204, R209, R309, R321, R330, R332, R344,
R406): what each does where nothing rejects it. -/

namespace Sys2Proof.Machine

variable {s t : State} {e : AdminEntry} {b : List Byte}

section admin
variable (hres : e.reserved = false)
include hres

/-! ### Snapshots (R204, R209) -/

theorem execSnapshotStart_goesOn {n : Nat} (hb : paramBlock e.paramBytes e (rouse s) = (some b, t)) (hn : n = byteAt b 32)
    (hbytes : e.paramBytes = 64 + 32 * n) (hrest : anySet b 33 31 = false)
    (hextents : ∀ i < n, anySet b (64 + 32 * i + 1) 1 = false ∧ anySet b (64 + 32 * i + 24) 8 = false) (hjob : t.job.state ≠ 0)
    (hahead : t.tk.tick + 2 ≤ leAt b 8 8) (hconflict : snapConflict t = false) (hok : snapshotBad t b = false) :
    execSnapshotStart e s = .next { t with
      snap := some {
        id := leAt b 0 8, tick := leAt b 8 8, slot := e.slot, tag := e.tag, extents := (List.range n).map (parseExtent b)
        workBase := leAt b 16 8, workSize := leAt b 24 8 }
      hq := { t.hq with started := t.hq.started ++ [{ slot := e.slot, tag := e.tag, opcode := 0x0040 }] } } := by
  subst hn
  have hcount : byteAt b 32 < 256 := (b.getD 32 0).isLt
  have hreserved : ((List.range (byteAt b 32)).any fun i => anySet b (64 + 32 * i + 1) 1 || anySet b (64 + 32 * i + 24) 8) = false := by
    simpa using hextents
  refine adminRun_later hres (t := { t with snap := some _ }) ?_
  rw [if_neg (by simp; omega), withBlock_some hb]
  simp [firstStatus, hrest, hreserved, hbytes, hjob, tooSoon_of_ahead hahead, hconflict, hok]

theorem execSnapshotAbort_voids {n : Snapshot} (hsnap : (rouse s).snap = some n) (hid : n.id = e.arg0) :
    execSnapshotAbort e s = .next (adminComplete e.slot e.tag 0x0041 0 [] (voidSnapshot 2 0xFF (rouse s))) := by
  refine adminRun_done hres (adminCheck_zero ?_)
  simp [firstStatus, hsnap, hid]

/-! ### Map-out and configuration (R309, R321) -/

section mapout
variable (hdie : e.arg0 < 4) (hpc : e.arg1 < 128)
include hdie hpc

/-- An entry that is listed stays as it is, and its command completes all the same (log 18). -/
theorem execMapoutAdd_listed (hlisted : (e.arg0, e.arg1) ∈ (rouse s).nor.mapout) :
    execMapoutAdd e s = .next (adminComplete e.slot e.tag 0x0050 0 [] (rouse s)) := by
  refine adminRun_done hres ((adminCheck_zero ?_).trans ?_)
  · simp [firstStatus, Nat.le_of_lt_succ hdie, Nat.le_of_lt_succ hpc, hlisted]
  · simp [hlisted]

theorem execMapoutAdd_joins (hnew : (e.arg0, e.arg1) ∉ (rouse s).nor.mapout) (hroom : (rouse s).nor.mapout.length < 32) :
    execMapoutAdd e s = .next (adminComplete e.slot e.tag 0x0050 0 []
      { rouse s with nor := { (rouse s).nor with mapout := (rouse s).nor.mapout ++ [(e.arg0, e.arg1)] } }) := by
  refine adminRun_done hres ((adminCheck_zero ?_).trans ?_)
  · simp [firstStatus, Nat.le_of_lt_succ hdie, Nat.le_of_lt_succ hpc, hroom]
  · simp [hnew]

end mapout

theorem execMapoutRemove_leaves (hlisted : (e.arg0, e.arg1) ∈ (rouse s).nor.mapout) :
    execMapoutRemove e s = .next (adminComplete e.slot e.tag 0x0051 0 []
      { rouse s with nor := { (rouse s).nor with mapout := (rouse s).nor.mapout.filter fun y => y != (e.arg0, e.arg1) } }) := by
  refine adminRun_done hres (adminCheck_zero ?_)
  simp [firstStatus, hlisted]

theorem execMemReconfigure_goesOn (hjob : (rouse s).job.state = 0) (hnone : (rouse s).mm.reconfig = none)
    (hfits : e.arg0 ≤ maxSpread (rouse s)) : execMemReconfigure e s = .next { rouse s with
      mm := { (rouse s).mm with reconfig := some (e.slot, e.tag, e.arg0) }
      hq := { (rouse s).hq with started := (rouse s).hq.started ++ [{ slot := e.slot, tag := e.tag, opcode := 0x0052 }] } } := by
  refine adminRun_later hres (t := { rouse s with mm := { (rouse s).mm with reconfig := some (e.slot, e.tag, e.arg0) } }) ?_
  generalize rouse s = u at *
  rw [if_neg (by simp [firstStatus, hjob, hnone, hfits])]

theorem execBootConfig_sets (hpos : 0 < e.arg0) (hmost : e.arg0 ≤ 64) : execBootConfig e s =
    .next (adminComplete e.slot e.tag 0x0053 0 [] { rouse s with nor := { (rouse s).nor with bootConfig := some e.arg0 } }) := by
  refine adminRun_done hres (adminCheck_zero ?_)
  simp [firstStatus, hpos.ne', hmost]

/-! ### RDMA and NVMe (R332, R344, R406) -/

/-- The key returned is the model's for the region's number (log 8). -/
theorem execRdmaMrRegister_registers {n : Nat} (hn : n = (rouse s).net.nextMr) (hflags : e.arg2 < 4) (hbytes : e.arg1 ≠ 0)
    (hdev : devOk (rouse s).mm e.arg0 e.arg1 = true) (hroom : (rouse s).net.mrs.length < 1024) :
    execRdmaMrRegister e s = .next (adminComplete e.slot e.tag 0x0060 0 [(0, keyOf n)] { rouse s with net := { (rouse s).net with
      nextMr := n + 1
      mrs := tabPut (rouse s).net.mrs n
        { base := e.arg0, bytes := e.arg1, read := e.arg2.testBit 0, write := e.arg2.testBit 1 } } }) := by
  subst hn
  refine adminRun_done hres ?_
  generalize rouse s = u at *
  rw [if_neg (by simp [firstStatus, hflags.not_ge, hbytes, hroom.not_ge, hdev])]

theorem execRdmaMrDeregister_removes {n : Nat} {r : Mr} (hr : findMr (rouse s) e.arg0 = some (n, r)) : execRdmaMrDeregister e s =
    .next (adminComplete e.slot e.tag 0x0061 0 []
      { rouse s with net := { (rouse s).net with mrs := tabDel (rouse s).net.mrs n } }) := by
  refine adminRun_done hres ((adminCheck_zero ?_).trans ?_)
  · simp [firstStatus, hr]
  · rw [hr]

/-- A pair that its block does not make ready is free again (log 18). -/
theorem execRdmaQpSet_sets (hb : paramBlock 64 e (rouse s) = (some b, t)) (h5 : anySet b 5 3 = false) (h39 : anySet b 39 25 = false)
    (hok : qpBad t b = false) : execRdmaQpSet e s = .next (adminComplete e.slot e.tag 0x0062 0 [] { t with net := { t.net with
      qps := if (parseQp b).ready = true then tabPut t.net.qps (leAt b 0 4) (parseQp b) else tabDel t.net.qps (leAt b 0 4) } }) := by
  refine adminRun_done hres ?_
  rw [withBlock_some hb]
  exact adminCheck_zero (by simp [firstStatus, h5, h39, hok])

theorem execNvmfAttach_binds {x : Qp} {h : Nat} (hx : tabFind (rouse s).net.qps e.arg0 = some x) (hns : e.arg1 ≠ 0)
    (hh : h = (rouse s).net.nextHandle) (hroom : h ≤ 65535) : execNvmfAttach e s =
      .next (adminComplete e.slot e.tag 0x0063 0 [(0, h)] (rebindExtent h { rouse s with net := { (rouse s).net with
        nextHandle := h + 1, handles := tabPut (rouse s).net.handles h (e.arg0, e.arg1) } })) := by
  subst hh
  refine adminRun_done hres ?_
  rw [if_neg (by simp [hx, hns, hroom])]

end admin

/-- Settles O59: each command's equation where nothing rejects it. A command wakes the module from I4 (log 72); an entry already
listed and a reset queue pair are log 18, and the remote key is log 8. -/
theorem adminDevice : Obligations.AdminDevice := by
  rintro e s _ hres rfl
  exact ⟨fun b v n => execSnapshotStart_goesOn hres, fun n => execSnapshotAbort_voids hres,
    fun hdie hpc => ⟨execMapoutAdd_listed hres hdie hpc, execMapoutAdd_joins hres hdie hpc⟩, execMapoutRemove_leaves hres,
    execMemReconfigure_goesOn hres, execBootConfig_sets hres, fun n => execRdmaMrRegister_registers hres,
    fun n r => execRdmaMrDeregister_removes hres, fun b v => execRdmaQpSet_sets hres, fun x h => execNvmfAttach_binds hres⟩

end Sys2Proof.Machine
end

section
/-! Issue of the matrix class (R226, R228, R265, R296 to R298): mma and drain enter their engine's queue, stall or trap. -/

namespace Sys2Proof.Machine

variable {s : State} {p : Nat} {f : Fields}

/-! ### mma (R297) -/

section mma
variable {zero : Bool} (h : Issues s p (if zero then 0x82 else 0x81) f (okMma f))
include h

theorem execMma_stalls (hfull : engineStall (getTile s p) f = true) : execMma p zero f s = .next s := by
  rw [execMma, h.runs]
  simp [hfull]

/-- The queue entry of an mma: the operands stored in `n` and `m` bytes a row. -/
def mmaEntry (t : Tile) (zero : Bool) (f : Fields) (n m : Nat) : EngEnt :=
  { order := 0, acc := mAcc f
    op := .mma zero (immF f 4 4) (immF f 0 4) (immF f 8 7 + 1) (descBase (readS t f.a)) (descStride (readS t f.a))
      (descBase (readS t f.b)) (descStride (readS t f.b))
    tok := tokOf f, addr := t.pc, opcode := if zero then 0x82 else 0x81
    reads := [descRgn (readS t f.a) n, descRgn (readS t f.b) m], writes := [] }

variable {k n m : Nat} (hk : k = 32 * (immF f 8 7 + 1)) (hn : n = storedBytes (immF f 4 4) k)
  (hm : m = storedBytes (immF f 0 4) k) (hroom : engineStall (getTile s p) f = false)
include hk hn hm hroom

theorem execMma_queues (ha : descFault (readS (getTile s p) f.a) n = none) (hb : descFault (readS (getTile s p) f.b) m = none) :
    execMma p zero f s = .next (advance p (queueEngine p (mEngine f) (mmaEntry (getTile s p) zero f n m) s)) := by
  subst hk hn hm
  rw [execMma, h.runs]
  simp [hroom, ha, hb, mmaEntry]

theorem execMma_traps {c a : Nat} (ha : descFault (readS (getTile s p) f.a) n = some (c, a))
    (hb : descFault (readS (getTile s p) f.b) m = none) : execMma p zero f s = .next (trapHere p c (mEngine f) a [] s) := by
  subst hk hn hm
  rw [execMma, h.runs]
  simp [hroom, ha, hb]

end mma

/-! ### drain (R298) -/

section drain
variable (h : Issues s p 0x83 f (okDrain f))
include h

theorem execDrain_stalls (hfull : engineStall (getTile s p) f = true) : execDrain p f s = .next s := by
  rw [execDrain, h.runs]
  simp [hfull]

/-- The queue entry of a drain: the destination stored in `n` bytes a row, the fused operand in `m`. -/
def drainEntry (t : Tile) (f : Fields) (n m : Nat) : EngEnt :=
  { order := 0, acc := mAcc f
    op := .drain (descBase (readS t f.a)) (descStride (readS t f.a)) (immF f 13 2) (descBase (readS t f.b))
      (descStride (readS t f.b)) (immF f 11 2) (immF f 9 2) (immF f 8 1 == 1) (immF f 4 4) (readS t f.c)
    tok := tokOf f, addr := t.pc, opcode := 0x83
    reads := if immF f 13 2 = 0 then [] else [descRgn (readS t f.b) m], writes := [descRgn (readS t f.a) n] }

variable {n m : Nat} (hn : n = storedBytes (immF f 4 4) 32) (hm : m = storedBytes (immF f 11 2) 32)
  (hroom : engineStall (getTile s p) f = false)
include hn hm hroom

/-- The descriptor of the fused operand counts where there is one. -/
theorem execDrain_queues (ha : descFault (readS (getTile s p) f.a) n = none)
    (hb : immF f 13 2 = 0 ∨ descFault (readS (getTile s p) f.b) m = none) :
    execDrain p f s = .next (advance p (queueEngine p (mEngine f) (drainEntry (getTile s p) f n m) s)) := by
  subst hn hm
  have hfused : (if immF f 13 2 = 0 then none else descFault (readS (getTile s p) f.b) (storedBytes (immF f 11 2) 32)) = none :=
    ite_eq_left_iff.mpr fun hfuse => hb.resolve_left hfuse
  rw [execDrain, h.runs]
  simp [hroom, ha, hfused, drainEntry]

omit hm in
theorem execDrain_traps {c a : Nat} (ha : descFault (readS (getTile s p) f.a) n = some (c, a)) (hfuse : immF f 13 2 = 0) :
    execDrain p f s = .next (trapHere p c (mEngine f) a [] s) := by
  subst hn
  rw [execDrain, h.runs]
  simp [hroom, ha, hfuse]

end drain

/-- Settles O25: each instruction's equation where it issues, the entry it queues being `mmaEntry` or `drainEntry`. -/
theorem matrixIssue : Obligations.MatrixIssue := by
  rintro s p f _ rfl
  refine ⟨fun zero k n m hk hn hm h => ⟨execMma_stalls h, fun hroom ha hb => ?queues, fun hroom c a => ?traps⟩,
    fun n m hn hm h => ⟨execDrain_stalls h, fun hroom ha hb => ?drainQueues, fun hroom c a => execDrain_traps h hn hroom⟩⟩
  case queues => exact ⟨_, execMma_queues h hk hn hm hroom ha hb, rfl, rfl, rfl, rfl, rfl, rfl⟩
  case traps => exact execMma_traps h hk hn hm hroom
  case drainQueues => exact ⟨_, execDrain_queues h hn hm hroom ha hb, rfl, rfl, rfl, rfl, rfl, rfl⟩

end Sys2Proof.Machine
end

section
/-! Trelet instructions that wait, and what ends the wait (R244, R267, R268, R276, R278). A release point changes staggers alone of
its tile, and a full hurdle no tile. -/

namespace Sys2Proof.Machine

variable {s : State} {p : Nat} {f : Fields}

@[simp] theorem isMoving_atTime (now l : Nat) (s : State) : isMoving (atTime now s) l = isMoving s l := rfl

/-! ### wait.tok (R267, R268) -/

/-- What the tokens of a mask leave unseen: the results of the other tokens and those of none. -/
def unseenAfter (f : Fields) (t : Tile) : List Unseen := t.unseen.filter fun u => match u.tok with
  | some k => !(maskTokens f).contains k
  | none => true

theorem mem_unseenAfter (t : Tile) (x : Unseen) :
    x ∈ unseenAfter f t ↔ x ∈ t.unseen ∧ ∀ k ∈ maskTokens f, x.tok ≠ some k := by
  rw [unseenAfter, List.mem_filter]
  cases htok : x.tok with
  | none => simp
  | some n =>
    refine and_congr_right fun _ => ⟨fun hn k hk e => ?_, fun hn => ?_⟩
    · obtain rfl := Option.some.inj e
      simp [hk] at hn
    · simpa using fun hmem => hn n hmem rfl

section waitTok
variable (h : Issues s p 0x2A f (okWaitTok f))
include h

theorem execWaitTok_stalls (hbusy : (maskTokens f).any (tokBusy (getTile s p)) = true) : execWaitTok p f s = .next s := by
  rw [execWaitTok, h.runs]
  simp [hbusy]

theorem execWaitTok_goesOn (hfree : (maskTokens f).any (tokBusy (getTile s p)) = false) (hon : GoesOn s p) :
    execWaitTok p f s = .next (tileNext p { getTile s p with unseen := unseenAfter f (getTile s p) } s) := by
  have hgo : advance p (setTile p { getTile s p with unseen := unseenAfter f (getTile s p) } s) = _ :=
    advance_setTile hon h.untrapped h.issuing rfl rfl
  rw [execWaitTok, h.runs, ← hgo]
  simp only [hfree, Bool.false_eq_true, if_false]
  rfl

end waitTok

/-! ### Release points (R244) -/

theorem noteStagger_tiles (e : Nat) (s : State) : (noteStagger p e s).tiles = s.tiles := by
  unfold noteStagger
  dsimp only
  (repeat' split) <;> rfl

theorem foldl_tiles {α : Type} {g : State → α → State} (h : ∀ t x, (g t x).tiles = t.tiles) (l : List α) (s : State) :
    (l.foldl g s).tiles = s.tiles := by
  induction l generalizing s with
  | nil => rfl
  | cons x l ih => rw [List.foldl_cons, ih, h]

theorem getTile_of_tiles {t : State} (h : t.tiles = s.tiles) (p : Nat) : getTile t p = getTile s p := by rw [getTile, h, getTile]

/-- A release point sets the staggers of its tile's idle engines alone. -/
theorem releasePoint_tile (p : Nat) (s : State) :
    getTile (releasePoint p s) p = { getTile s p with stagger := (getTile (releasePoint p s) p).stagger } := by
  have htiles : getTile (releasePoint p s) p = _ := getTile_of_tiles (foldl_tiles (fun t e => noteStagger_tiles e t) _ _) p
  rw [htiles, modTile_eq, getTile_setTile, if_pos rfl]

/-! ### wait.leg (R278) -/

/-- The tile as it leaves a wait.leg, but for the staggers. -/
def tagged (t : Tile) (f : Fields) (o : LegOcc) : Tile :=
  writeS f.d (tagWord o) { t with tag := some (tagOf o), blocked := .no }

theorem tagged_stagger (t : Tile) (f : Fields) (o : LegOcc) (m : Tab Nat) : { tagged t f o with stagger := m } =
    writeS f.d (tagWord o) { t with tag := some (tagOf o), blocked := .no, stagger := m } := by
  unfold tagged writeS
  split <;> rfl

theorem releasePoint_tagged {x : Tile} {o : LegOcc} {u v : State} (hv : v = releasePoint p (setTile p (tagged x f o) u)) :
    getTile v p = { tagged x f o with stagger := (getTile v p).stagger } := by
  rw [hv, releasePoint_tile, getTile_setTile, if_pos rfl]

section waitLeg
variable {now l : Nat} (h : Issues s p 0x2B f (okWaitLeg f)) (hl : l = immF f 0 5)
  {logical tick : Nat} (hlogical : logical = (logicalOf s p).getD 0xFF) (htick : tick = targetTick (atTime now s) (getTile s p) l)
include h hl hlogical htick

theorem execWaitLeg_blocks (hwait : s.tk.tick < tick ∨ isMoving s logical = true) : execWaitLeg now p f s =
    .next (settleTile p (setTile p { getTile s p with blocked := .leg l f.d.toNat tick } (atTime now s))) := by
  subst hl
  have hmust : (decide (s.tk.tick < tick) || isMoving (atTime now s) logical) = true := by
    simpa using hwait
  rw [execWaitLeg, (h.atTime now).runs]
  simp only [seekLeg, getTile_atTime, logicalOf_atTime, atTime_tk, ← hlogical, ← htick, hmust, if_true]
  rfl

section come
variable (hcome : tick ≤ s.tk.tick) (hstill : isMoving s logical = false) {o : LegOcc} (ho : legOcc s l tick = some o)
include hcome hstill ho

/-- Once its tick has come, a wait.leg asks whether the occurrence holds the tile. -/
theorem execWaitLeg_comes : execWaitLeg now p f s = .next (settleTile p (if o.uset.tiles.getLsbD logical then
    wakeLeg p f.d.toNat o (atTime now s) else trapLegWait p (atTime now s))) := by
  subst hl
  have hmay : (decide (s.tk.tick < tick) || isMoving (atTime now s) logical) = false := by
    simpa [hstill] using hcome
  rw [execWaitLeg, (h.atTime now).runs]
  simp only [seekLeg, getTile_atTime, logicalOf_atTime, atTime_tk, legOcc_atTime, ← hlogical, ← htick, hmay, ho,
    Bool.false_eq_true, if_false]

theorem execWaitLeg_traps (hout : o.uset.tiles.getLsbD logical = false) :
    execWaitLeg now p f s = .next (settleTile p (trapHere p 7 20 0 [] (atTime now s))) := by
  rw [execWaitLeg_comes h hl hlogical htick hcome hstill ho, hout]
  rfl

theorem execWaitLeg_returns (hin : o.uset.tiles.getLsbD logical = true) (hon : GoesOn s p) {v : State}
    (hv : v = releasePoint p (setTile p (tagged (getTile s p) f o) (atTime now s))) :
    execWaitLeg now p f s = .next (settleTile p (tileNext p (getTile v p) v)) := by
  have htile := releasePoint_tagged hv
  have hgo : GoesOn v p := by
    rw [GoesOn, ListedAt, htile]
    simpa [tagged, GoesOn, ListedAt] using hon
  have hnext := advance_same hgo (by rw [htile]; simpa [tagged] using h.untrapped) (by rw [htile]; simpa [tagged] using h.issuing)
  rw [execWaitLeg_comes h hl hlogical htick hcome hstill ho, hin, if_pos rfl, wakeLeg, BitVec.ofNat_toNat, BitVec.setWidth_eq,
    ← hnext, hv]
  rfl

end come
end waitLeg

/-! ### hurdle (R276) -/

@[simp] theorem getHurdle_setHurdle (h die : Nat) (i : HurdleInst) (s : State) : getHurdle (setHurdle h die i s) h die = i := by
  simp [getHurdle, setHurdle, tabGet_tabPut]

/-- What a full hurdle sets going: at most a time of release or a note of what went up, and a message. -/
theorem hurdleFull_cases (h die : Nat) (e : HurdleEnt) (s : State) : hurdleFull h die e s = s ∨
    ∃ i : HurdleInst, i.arrived = (getHurdle s h die).arrived ∧ Soft (setHurdle h die i s) (hurdleFull h die e s) := by
  unfold hurdleFull
  dsimp only
  split
  · exact .inl rfl
  · split
    · split
      · exact .inl rfl
      · split
        · exact .inr ⟨{ getHurdle s h die with releaseAt := some _ }, rfl, sendDown_soft .refl⟩
        · exact .inr ⟨{ getHurdle s h die with sentUp := true }, rfl, sendUp_soft .refl⟩
    · exact .inr ⟨{ getHurdle s h die with releaseAt := some _ }, rfl, .refl⟩

theorem hurdleFull_arrived (h die : Nat) (e : HurdleEnt) (s : State) :
    (getHurdle (hurdleFull h die e s) h die).arrived = (getHurdle s h die).arrived := by
  obtain hsame | ⟨i, hi, hsoft⟩ := hurdleFull_cases h die e s
  · rw [hsame]
  · rw [getHurdle, hsoft.tiles, ← getHurdle, getHurdle_setHurdle, hi]

theorem getTile_hurdleFull (h die p : Nat) (e : HurdleEnt) (s : State) : getTile (hurdleFull h die e s) p = getTile s p := by
  obtain hsame | ⟨i, -, hsoft⟩ := hurdleFull_cases h die e s
  · rw [hsame]
  · exact getTile_of_tiles (s := setHurdle h die i s) hsoft.tiles p

@[simp] theorem getTile_setHurdle (h die : Nat) (i : HurdleInst) (s : State) (p : Nat) :
    getTile (setHurdle h die i s) p = getTile s p := rfl

section arrive
variable {k l die : Nat} {e : HurdleEnt} (he : e = hurdleEnt s k) (hdie : die = hurdleDie e p)
  (hl : l = (logicalOf s p).getD 0xFF)
include he hdie hl

theorem arriveHurdle_traps (hnot : l ∉ participants s e die) : arriveHurdle p k s = trapHere p 8 20 0 [] s := by
  subst he hdie hl
  exact if_pos (by simpa using hnot)

/-- An arrival blocks the tile, and what the hurdle makes visible is seen (R268). -/
theorem arriveHurdle_arrives (hin : l ∈ participants s e die) : l ∈ (getHurdle (arriveHurdle p k s) k die).arrived ∧
    getTile (arriveHurdle p k s) p = { getTile s p with blocked := .hurdle k, unseen := [] } := by
  subst he hdie hl
  unfold arriveHurdle
  dsimp only
  rw [if_neg (by simpa using hin), hurdleFull_arrived, getHurdle_setHurdle, getTile_hurdleFull, getTile_setHurdle]
  refine ⟨(mem_insertSorted ..).mpr (.inl rfl), ?_⟩
  have hblocked : getTile (modTile p (fun t => { t with blocked := .hurdle k, unseen := [] }) s) p =
      { getTile s p with blocked := .hurdle k, unseen := [] } := by rw [modTile_eq, getTile_setTile, if_pos rfl]
  split
  · split <;> exact hblocked
  · exact hblocked

end arrive

section hurdle
variable {now k : Nat} (h : Issues s p 0x2C f (okHurdle f)) (hk : k = immF f 0 6)
include h

theorem execHurdle_waits (hbusy : outstanding (getTile s p) = true) : execHurdle now p f s = .next (atTime now s) := by
  rw [execHurdle, (h.atTime now).runs]
  simp [hbusy]

include hk

theorem execHurdle_arrives (hfree : outstanding (getTile s p) = false) :
    execHurdle now p f s = .next (arriveHurdle p k (atTime now s)) := by
  subst hk
  rw [execHurdle, (h.atTime now).runs]
  simp [hfree]

end hurdle

/-! ### HURDLE_RELEASE and ENGINE_STAGGER_START (R244, R276) -/

theorem execHurdleRelease_releases {now h die r : Nat} (hset : (getHurdle s h die).releaseAt = some r) (hdue : r ≤ max s.now now) :
    execHurdleRelease now h die s = .next (releaseHurdle h die (atTime now s)) := by
  have hset' : (getHurdle (atTime now s) h die).releaseAt = some r := hset
  simp only [execHurdleRelease, hset', if_pos (show r ≤ (atTime now s).now from hdue)]

theorem execEngineStaggerStart_starts {now e r : Nat} (hp : p < 160) (he : e < 16)
    (hheld : tabFind (getTile s p).stagger e = some r) (hdue : r ≤ 13 * max s.now now)
    (hqueue : (tabGet [] (getTile s p).engines e).isEmpty = false) : execEngineStaggerStart now p e s = .next (openGate
      (staggerGate p e) (setTile p { getTile s p with stagger := tabDel (getTile s p).stagger e } (atTime now s))) := by
  have hover : r ≤ ticks13 (atTime now s).now := hdue
  simp [execEngineStaggerStart, onUnit, hp, he, hheld, hover, hqueue, modTile_eq]

/-- Settles O24: each command's equation where it acts. A wait.leg that returns makes a release point of its tile, which sets the
staggers of its engines; a full hurdle sends or sets its release, and leaves the tiles and who has arrived. -/
theorem waits : Obligations.Waits := by
  refine ⟨fun s p f h => ⟨execWaitTok_stalls h, fun hfree hon => ⟨_, execWaitTok_goesOn h hfree hon, mem_unseenAfter _⟩⟩,
    ?leg, ?hurdle, fun s now h die r => execHurdleRelease_releases, fun s now p e r => execEngineStaggerStart_starts⟩
  case leg =>
    rintro s _ now p l logical tick f h rfl hl hlogical htick
    refine ⟨execWaitLeg_blocks h hl hlogical htick, fun hcome hstill o ho => ⟨fun hin hon v hv => ⟨?returns, ?tile⟩, ?traps⟩⟩
    case returns => exact execWaitLeg_returns h hl hlogical htick hcome hstill ho hin hon hv
    case tile => rw [← tagged_stagger]; exact releasePoint_tagged hv
    case traps => exact execWaitLeg_traps h hl hlogical htick hcome hstill ho
  case hurdle =>
    rintro s _ now p k l _ f hk h rfl rfl hl
    refine ⟨execHurdle_waits h, fun hfree hnot => ?traps, fun hfree hin => ?arrives⟩
    case traps =>
      exact (execHurdle_arrives h hk hfree).trans
        (congrArg Host.Outcome.next (arriveHurdle_traps (s := atTime now s) rfl rfl hl hnot))
    case arrives =>
      exact ⟨_, execHurdle_arrives h hk hfree, arriveHurdle_arrives (s := atTime now s) rfl rfl hl hin⟩

end Sys2Proof.Machine
end

section
/-! The output tiles of the matrix engines (R240), with the JOB_RESETs that wait for a halt (R408). When a NaN result traps its
tile, such a JOB_RESET alone clears output tiles: every other operation that a trap or a halt is made of leaves both alone. -/

namespace Sys2Proof.Machine

/-- Each tile's output tiles, and the JOB_RESETs that have started. -/
structure OutTiles where
  acc : Nat → Tab Word32
  resets : List Started

/-- The output tiles of a tile, out of the table of tiles. -/
def accOf (t : Tab Tile) (p : Nat) : Tab Word32 := (tabGet {} t p).acc

/-- The JOB_RESETs among the commands that have started. -/
def resetsOf (l : List Started) : List Started := l.filter fun c => c.opcode == 0x0003

def outTiles (s : State) : OutTiles := ⟨accOf s.tiles.tile, resetsOf s.hq.started⟩

@[simp] theorem outTiles_mk {now : Nat} {boot : Boot} {nor : Nor} {sc : Sc} {mm : Mm} {hq : Hq} {net : Net} {tk : Tk}
    {run : TkRun} {start : StartCheck} {job : Job} {record : JobRecord} {tb : Tables} {folds : Folds} {ru : Tab RowUnit} {commit : Commit}
    {ex : Ex} {handovers : List Handover} {bulk : Bulk} {lg : Lg} {digest : Digest} {snap : Option Snapshot}
    {repairsDue : List (Nat × Nat × Nat)} {tiles : Tiles} {pw : Pw} {gz : Gz} {tallies : Tallies} {out : List Out}
    {freeCtr : Nat} {pending : List Instr} :
    outTiles (State.mk now boot nor sc mm hq net tk run start job record tb folds ru commit ex handovers bulk lg digest snap
      repairsDue tiles pw gz tallies out freeCtr pending) =
        ⟨accOf tiles.tile, resetsOf hq.started⟩ := rfl

/-- The fields of one state fold back. -/
@[simp] theorem outTiles_eta (s : State) : OutTiles.mk (accOf s.tiles.tile) (resetsOf s.hq.started) = outTiles s := rfl

@[simp] theorem outTiles_ite (c : Prop) [Decidable c] (s t : State) :
    outTiles (if c then s else t) = if c then outTiles s else outTiles t := apply_ite ..

theorem outTiles_foldl_mem {α : Type} {f : State → α → State} {l : List α} (h : ∀ t, ∀ x ∈ l, outTiles (f t x) = outTiles t)
    (s : State) : outTiles (l.foldl f s) = outTiles s := by
  induction l generalizing s with
  | nil => rfl
  | cons x l ih =>
    rw [List.foldl_cons, ih (fun t y hy => h t y (List.mem_cons_of_mem x hy)), h s x List.mem_cons_self]

@[simp] theorem outTiles_foldl {α : Type} {f : State → α → State} (h : ∀ t x, outTiles (f t x) = outTiles t) (l : List α)
    (s : State) : outTiles (l.foldl f s) = outTiles s := outTiles_foldl_mem (fun t x _ => h t x) s

theorem startedOp_reset_eq_none {s : State} : startedOp s 0x0003 = none ↔ (outTiles s).resets = [] := by
  simp [startedOp, outTiles, resetsOf]

theorem acc_of_outTiles {s t : State} (h : outTiles t = outTiles s) (p : Nat) : (getTile t p).acc = (getTile s p).acc :=
  congrFun (congrArg OutTiles.acc h) p

variable (s : State)

/-! ### Counters, free values, events -/

@[simp] theorem outTiles_emit (o) : outTiles (emit o s) = outTiles s := rfl

@[simp] theorem outTiles_tallyBy (off by_) : outTiles (tallyBy off by_ s) = outTiles s := rfl

@[simp] theorem outTiles_tally (off) : outTiles (tally off s) = outTiles s := rfl

@[simp] theorem outTiles_trapTag (t) : outTiles (trapTag t s).2 = outTiles s := by
  unfold trapTag
  split <;> rfl

@[simp] theorem outTiles_stampEvent (code sev u detail) : outTiles (stampEvent code sev u detail s).2 = outTiles s := by
  unfold stampEvent platformEvent
  dsimp only
  split <;> rfl

@[simp] theorem outTiles_pushOvf (e) : outTiles (pushOvf e s) = outTiles s := by simp [pushOvf]

@[simp] theorem outTiles_rawRead (addr n) : outTiles (rawRead addr n s).2 = outTiles s := by
  unfold rawRead
  split
  · rfl
  · split <;> rfl

@[simp] theorem outTiles_rawWrite (addr bs) : outTiles (rawWrite addr bs s) = outTiles s := by
  unfold rawWrite
  (repeat' split) <;> rfl

@[simp] theorem outTiles_deliver (e) : outTiles (deliver e s) = outTiles s := by
  unfold deliver
  (repeat' split) <;> simp [violationIntoOvf, readOwn, writeEventSlot]

@[simp] theorem outTiles_raise (code sev u detail) : outTiles (raise code sev u detail s) = outTiles s := by simp [raise]

@[simp] theorem outTiles_hqWrite (queue addr bs) : outTiles (hqWrite queue addr bs s) = outTiles s := by
  simp [hqWrite, securityViolation]

/-! ### Links -/

@[simp] theorem outTiles_setLink (li l) : outTiles (setLink li l s) = outTiles s := rfl

@[simp] theorem outTiles_putOnWire (li seq resent c) : outTiles (putOnWire li seq resent c s) = outTiles s := by
  unfold putOnWire sendBytes feedLink
  dsimp only
  split <;> rfl

@[simp] theorem outTiles_fillLink (li l) : outTiles (fillLink li l s).2 = outTiles s := by
  unfold fillLink
  split <;> rfl

@[simp] theorem outTiles_idleFill (li) : outTiles (idleFill li s) = outTiles s := by simp [idleFill]

@[simp] theorem outTiles_transmit (li w) : outTiles (transmit li w s) = outTiles s := by
  unfold transmit freeHeld
  dsimp only
  split <;> simp [freeBuffer, modLink]

@[simp] theorem outTiles_pumpFuel (li n) : outTiles (pumpFuel li n s) = outTiles s := by
  induction n generalizing s with
  | zero => rfl
  | succ n ih =>
    unfold pumpFuel
    dsimp only
    (repeat' split) <;> simp [ih]

@[simp] theorem outTiles_sendOn (li c) : outTiles (sendOn li c s) = outTiles s := by simp [sendOn, enqueue, pump, modLink]

@[simp] theorem outTiles_sendDown (m dueAt) : outTiles (sendDown m dueAt s) = outTiles s := by simp [sendDown]

@[simp] theorem outTiles_sendAck (tick step f) : outTiles (sendAck tick step f s) = outTiles s := by
  unfold sendAck sendUp
  split <;> simp

/-! ### Answers -/

@[simp] theorem outTiles_modOcc (leg tick f) : outTiles (modOcc leg tick f s) = outTiles s := rfl

@[simp] theorem outTiles_writeReply (hdr bytes) : outTiles (writeReply hdr bytes s) = outTiles s := by
  unfold writeReply
  split <;> rfl

@[simp] theorem outTiles_freeSlot (queue slot) : outTiles (freeSlot queue slot s) = outTiles s := by
  unfold freeSlot
  split <;> simp

@[simp] theorem outTiles_answer (status vals e) : outTiles (answer status vals e s) = outTiles s := by
  unfold answer serveLate dropEntry
  (repeat' split) <;> simp

/-- A change of one tile that leaves its output tiles. -/
@[simp] theorem outTiles_modTile (p) {f : Tile → Tile} (hf : ∀ t, (f t).acc = t.acc) : outTiles (modTile p f s) = outTiles s := by
  refine congrArg (OutTiles.mk · _) (funext fun q => ?_)
  have hread : getTile (modTile p f s) q = if q = p then f (getTile s p) else getTile s q := getTile_setTile ..
  refine (congrArg Tile.acc hread).trans ?_
  split
  · subst q; exact hf _
  · rfl

@[simp] theorem outTiles_answerClaims (p status count which) : outTiles (answerClaims p status count which s) = outTiles s := by
  unfold answerClaims
  dsimp only
  rw [outTiles_modTile]
  case hf => exact fun _ => rfl
  refine outTiles_foldl (fun t c => ?_) _ _
  split <;> simp

@[simp] theorem outTiles_adminComplete (slot tag opcode status args) :
    outTiles (adminComplete slot tag opcode status args s) = outTiles s := by
  have hlog : outTiles (logAdmin tag opcode status s) = outTiles s := rfl
  simp [adminComplete, hlog]

/-- Completing another command leaves the JOB_RESETs. -/
theorem outTiles_finishStarted {c : Started} (hc : c.opcode ≠ 0x0003) (status args) :
    outTiles (finishStarted c status args s) = outTiles s := by
  have herase : resetsOf (s.hq.started.erase c) = resetsOf s.hq.started := by
    rw [resetsOf, ← List.erase_filter, List.erase_of_not_mem (by simp [hc]), resetsOf]
  simp [finishStarted, herase]

/-! ### Halts -/

@[simp] theorem outTiles_emptyGens (p) : outTiles (emptyGens p s) = outTiles s := rfl

@[simp] theorem outTiles_discardDense (mine) : outTiles (discardDense mine s) = outTiles s := rfl

@[simp] theorem outTiles_dropQuarantined : outTiles (dropQuarantined s) = outTiles s := rfl

@[simp] theorem outTiles_returnSamples (p count) : outTiles (returnSamples p count s) = outTiles s := by
  unfold returnSamples
  split <;> rfl

@[simp] theorem outTiles_noteOverrun : outTiles (noteOverrun s) = outTiles s := by
  unfold noteOverrun
  (repeat' split) <;> simp

/-- The tiles of a halted job issue no more (R408) and keep their output tiles. -/
theorem accOf_stopped (t : Tab Tile) : accOf (t.map fun e => (e.1, { e.2 with issuing := false })) = accOf t := by
  funext p
  induction t with
  | nil => rfl
  | cons e t ih =>
    obtain ⟨k, x⟩ := e
    unfold accOf at ih ⊢
    by_cases hk : p = k <;> simp only [List.map_cons, tabGet, hk, ih, if_true, if_false]

section
variable {s : State} (hs : (outTiles s).resets = [])
include hs

theorem outTiles_finishJobReset : outTiles (finishJobReset s) = outTiles s := by
  rw [finishJobReset, startedOp_reset_eq_none.mpr hs]

/-- A halt cancels the handovers that are being prepared and stops the tiles. -/
theorem outTiles_finishHalt : outTiles (finishHalt s) = outTiles s := by
  have hkeep {t : State} (ht : outTiles t = outTiles s) : outTiles (finishJobReset t) = outTiles s :=
    (outTiles_finishJobReset (ht ▸ hs)).trans ht
  refine hkeep ?_
  simp only [outTiles_mk, accOf_stopped, outTiles_eta, outTiles_dropQuarantined]
  refine (outTiles_foldl_mem (fun t c hc => ?_) _).trans ?_
  · have hop : c.opcode ≠ 0x0003 := by
      obtain ⟨-, hop⟩ := List.mem_filter.mp hc
      simp [eq_of_beq hop]
    exact outTiles_finishStarted _ hop _ _
  · simp

theorem outTiles_beginHalt : outTiles (beginHalt s) = outTiles s := by
  simp [beginHalt, outTiles_finishHalt, hs]

theorem outTiles_requestHalt : outTiles (requestHalt s) = outTiles s := by
  simp [requestHalt, haltTree, outTiles_beginHalt, hs]

theorem outTiles_trapAs (p cause engine instr opcode addr detail) :
    outTiles (trapAs p cause engine instr opcode addr detail s) = outTiles s := by
  simp [trapAs, outTiles_requestHalt, hs]

/-- A NaN result traps its tile and answers its requests; with no JOB_RESET waiting for the halt, no output tile changes. -/
theorem outTiles_noteNans (p engine instr opcode fmt acc nans) :
    outTiles (noteNans p engine instr opcode fmt acc nans s) = outTiles s := by
  unfold noteNans
  split
  · rfl
  · simp [outTiles_trapAs, hs]

end

end Sys2Proof.Machine
end

section
/-! Completion of the matrix class (R227, R231, R232, R241). -/

namespace Sys2Proof.Machine

variable {s : State} {p e : Nat} {x : EngEnt}

/-! ### The head of an engine's queue (R227, R241) -/

section head
variable (hp : p < 160) (he : e < 16) (hx : engineHead s p e = some x)
include hp he hx

theorem execMmaComplete_runs {zero : Bool} {fa fb kg a sa b sb : Nat} (hop : x.op = .mma zero fa fb kg a sa b sb) :
    execMmaComplete p e s = .next (settleTile p (runMma p e x zero fa fb kg a sa b sb (popEngine p e s))) := by
  simp [execMmaComplete, onUnit, hp, he, hx, hop]

theorem execDrainComplete_runs {d sd fuse t st tf rm target : Nat} {clear : Bool} {key : Word64}
    (hop : x.op = .drain d sd fuse t st tf rm clear target key) : execDrainComplete p e s =
      .next (settleTile p (runDrain p e x d sd fuse t st tf rm clear target key (popEngine p e s))) := by
  simp [execDrainComplete, onUnit, hp, he, hx, hop]

end head

/-! ### The elements of an output tile (R231, R240) -/

/-- An element whose entries in a list of writes agree reads as they do. -/
theorem tabGet_accSet {n i : Nat} {v : Word32} {l : List (Nat × Word32)} (hall : ∀ w, (i, w) ∈ l → w = v) (m : Tab Word32)
    (hsome : (i, v) ∈ l ∨ tabGet 0 m (1024 * n + i) = v) : tabGet 0 (accSet n l m) (1024 * n + i) = v := by
  induction l generalizing m with
  | nil => simpa [accSet] using hsome
  | cons y l ih =>
    obtain ⟨j, w⟩ := y
    refine ih (fun w hw => hall w (List.mem_cons_of_mem _ hw)) _ ?_
    by_cases hj : j = i
    · subst hj
      exact .inr (by simp [tabGet_tabSet, hall w List.mem_cons_self])
    · refine hsome.imp (fun hmem => ?_) fun hold => ?_
      · simpa [Ne.symm hj] using hmem
      · rw [tabGet_tabSet, if_neg (by omega), hold]

/-- One element of the output tile as an mma leaves it, with its flags and its NaN. -/
def mmaAt (t : Tile) (n : Nat) (zero : Bool) (fa fb kg a sa b sb i j : Nat) : Word32 × FpFlags × Option Bool :=
  mmaElem (narrowPath fa fb)
    (opRow fa (32 * kg) (tmemBytesAt t (a + i * sa) (storedBytes fa (32 * kg))))
    (opRow fb (32 * kg) (tmemBytesAt t (b + j * sb) (storedBytes fb (32 * kg)))) kg 0
    (if zero then 0 else accGet t n (32 * i + j))

/-- A list over numbered rows and numbered columns has one entry for each pair. -/
theorem mem_rowsByColumns {α β γ : Type} {n : Nat} (r : Nat → α) (c : Nat → β) (g : α × Nat → β × Nat → γ) (y : γ) :
    y ∈ (((List.range n).map r).zipIdx.map fun a => ((List.range n).map c).zipIdx.map fun b => g a b).flatten ↔
      ∃ i < n, ∃ j < n, g (r i, i) (c j, j) = y := by
  have hmem {δ : Type} (q : Nat → δ) (z : δ × Nat) : z ∈ ((List.range n).map q).zipIdx ↔ ∃ i < n, (q i, i) = z := by
    rw [List.mem_zipIdx_iff_getElem?]
    obtain ⟨d, i⟩ := z
    by_cases hi : i < n <;> simp [hi]
  simp only [List.mem_flatten, List.mem_map, hmem]
  constructor
  · rintro ⟨_, ⟨_, ⟨i, hi, rfl⟩, rfl⟩, hy⟩
    obtain ⟨b, hb, rfl⟩ := List.mem_map.mp hy
    obtain ⟨j, hj, rfl⟩ := (hmem c b).mp hb
    exact ⟨i, hi, j, hj, rfl⟩
  · rintro ⟨i, hi, j, hj, rfl⟩
    exact ⟨_, ⟨_, ⟨i, hi, rfl⟩, rfl⟩, List.mem_map.mpr ⟨_, (hmem c _).mpr ⟨j, hj, rfl⟩, rfl⟩⟩

theorem acc_noteNans_modTile (hreset : startedOp s 0x0003 = none) (F : Tile → Tile) (engine instr opcode fmt acc nans) :
    (getTile (noteNans p engine instr opcode fmt acc nans (modTile p F s)) p).acc = (F (getTile s p)).acc := by
  have hs : (outTiles (modTile p F s)).resets = [] := startedOp_reset_eq_none.mp hreset
  rw [acc_of_outTiles (outTiles_noteNans hs ..), modTile_eq, getTile_setTile, if_pos rfl]

theorem runMma_element {zero : Bool} {fa fb kg a sa b sb i j : Nat} (hclean : x.dirty = false) (hi : i < 32) (hj : j < 32)
    (hreset : startedOp s 0x0003 = none) :
    accGet (getTile (runMma p e x zero fa fb kg a sa b sb s) p) x.acc (32 * i + j) =
      (mmaAt (getTile s p) x.acc zero fa fb kg a sa b sb i j).1 := by
  rw [runMma, if_neg (by simp [hclean])]
  dsimp only
  rw [accGet, acc_noteNans_modTile hreset]
  dsimp only
  refine tabGet_accSet (fun w hw => ?_) _ (.inl ?_)
  · obtain ⟨y, hy, hyw⟩ := List.mem_map.mp hw
    obtain ⟨i', hi', j', hj', rfl⟩ := (mem_rowsByColumns _ _ _ y).mp hy
    obtain ⟨hk, rfl⟩ := Prod.mk.inj hyw
    obtain rfl : i' = i := by omega
    obtain rfl : j' = j := by omega
    rfl
  · exact List.mem_map.mpr ⟨_, (mem_rowsByColumns _ _ _ _).mpr ⟨i, hi, j, hj, rfl⟩, rfl⟩

/-- Settles O26: the head's completion takes it from the queue and runs it; an element of the output tile is the one entry that the
instruction writes at its position, and its NaN trap clears none unless a JOB_RESET waits for the halt (R408). -/
theorem matrixCompletes : Obligations.MatrixCompletes := by
  refine ⟨fun s p e x hp he hx => ⟨fun zero fa fb kg a sa b sb => execMmaComplete_runs hp he hx,
    fun d sd fuse t st tf rm clear target key => execDrainComplete_runs hp he hx⟩, ?_⟩
  exact fun s p e i j x zero fa fb kg a sa b sb => runMma_element

end Sys2Proof.Machine
end

section
/-! The instructions that change registers of their tile alone (R253, R256, R289, R293, R301): one lemma per operand form. -/

namespace Sys2Proof.Machine

/-! ### What writing a mask register leaves of the tile -/

@[simp] theorem writeMask_pc (m : Nat) (v : BitVec 256) (t : Tile) : (writeMask m v t).pc = t.pc := rfl
@[simp] theorem writeMask_imem (m : Nat) (v : BitVec 256) (t : Tile) : (writeMask m v t).imem = t.imem := rfl
@[simp] theorem writeMask_trap (m : Nat) (v : BitVec 256) (t : Tile) : (writeMask m v t).trap = t.trap := rfl
@[simp] theorem writeMask_issuing (m : Nat) (v : BitVec 256) (t : Tile) : (writeMask m v t).issuing = t.issuing := rfl

/-! ### Operand forms -/

/-- Where the instruction issues and the tile goes on, its command changes the tile as `run` says and nothing else. -/
def RegOp.Runs (e : RegOp) : Prop :=
  ∀ (s : State) (p : Nat) (f : Fields), Issues s p e.code f (e.legal f) → GoesOn s p →
    exec (e.cmd p f) s = .next (tileNext p (e.run f (getTile s p)) s)

section forms
variable {cmd : Nat → Fields → Instr} {code : Nat}

/-- An effect on the tile that leaves its program and whether it issues. -/
theorem runs_of_modTile {legal : Fields → Bool} {run : Fields → Tile → Tile}
    (hcmd : ∀ p f s, exec (cmd p f) s = issueNext p code f (legal f) (modTile p (run f)) s := by intros; rfl)
    (hpc : ∀ f t, (run f t).pc = t.pc := by simp) (himem : ∀ f t, (run f t).imem = t.imem := by simp)
    (htrap : ∀ f t, (run f t).trap = t.trap := by simp) (hissuing : ∀ f t, (run f t).issuing = t.issuing := by simp) :
    RegOp.Runs { cmd, code, legal, run } :=
  fun s p f h hgo => (hcmd p f s).trans (h.tileOnly hgo _ (hpc f _) (himem f _) (htrap f _) (hissuing f _))

/-- The model computes `g`, the statement's table says `k`: one function, written in two ways for some of the instructions. -/
theorem rr_runs {g k : Word64 → Word64 → Word64} (hval : ∀ a b, g a b = k a b := by intros; rfl)
    (hcmd : ∀ p f s, exec (cmd p f) s = scalarRR p code f g s := by intros; rfl) : (rr cmd code k).Runs := by
  obtain rfl : g = k := funext₂ hval
  exact runs_of_modTile hcmd

theorem ri_runs {g k : Word64 → Word64 → Word64} (hval : ∀ a i, g a i = k a i := by intros; rfl)
    (hcmd : ∀ p f s, exec (cmd p f) s = scalarRI p code f (okRRI f) g s := by intros; rfl) : (ri cmd code k).Runs := by
  obtain rfl : g = k := funext₂ hval
  exact runs_of_modTile hcmd

/-- A shift by an immediate takes the count modulo 64, which is IMM[5:0]. -/
theorem sh_runs {g : Word64 → Nat → Word64}
    (hcmd : ∀ p f s, exec (cmd p f) s = scalarRI p code f (okShiftI f) (fun a i => g a (shiftCount i)) s := by intros; rfl) :
    (sh cmd code g).Runs := by
  refine runs_of_modTile fun p f s => ?_
  rw [hcmd, scalarRI]
  simp only [shiftCount, immS, shiftImm]

theorem mm2_runs {g : BitVec 256 → BitVec 256 → BitVec 256}
    (hcmd : ∀ p f s, exec (cmd p f) s = maskOp p code f g s := by intros; rfl) : (mm2 cmd code g).Runs :=
  runs_of_modTile hcmd

end forms

theorem nop_runs : RegOp.Runs { cmd := .nop, code := 0xE1, legal := okNop, run := fun _ t => t } :=
  fun _ _ _ h hgo => (h.runsNext id).trans (congrArg _ (advance_same hgo h.untrapped h.issuing))

/-! ### The lists of instructions -/

/-- slt and slti: the signed order of two words is that of the integers they stand for. -/
theorem boolWord_slt (a b : Word64) : boolWord (a.slt b) = if a.toInt < b.toInt then 1 else 0 := by
  simp [boolWord, BitVec.slt]

/-- sltu and sltiu. -/
theorem boolWord_ult (a b : Word64) : boolWord (a.ult b) = if a.toNat < b.toNat then 1 else 0 := by
  simp [boolWord, BitVec.ult]

/-- lih keeps the low half of its operand. -/
theorem setWidth_low_eq_and (a : Word64) : (a.setWidth 32).setWidth 64 = a &&& 0xFFFFFFFF := by
  have hmask : (0xFFFFFFFF : Word64).toNat = 2 ^ 32 - 1 := rfl
  apply BitVec.eq_of_toNat_eq
  rw [BitVec.toNat_and, hmask, Nat.and_two_pow_sub_one_eq_mod]
  simp only [BitVec.toNat_setWidth]
  omega

theorem scalarOps_run : ∀ e ∈ scalarOps, e.Runs := by
  simp only [scalarOps, List.forall_mem_cons]
  exact ⟨rr_runs, rr_runs, rr_runs, rr_runs, rr_runs, rr_runs, rr_runs, rr_runs, rr_runs, rr_runs boolWord_slt,
    rr_runs boolWord_ult, ri_runs, ri_runs, ri_runs, ri_runs, ri_runs, sh_runs, sh_runs, sh_runs, ri_runs boolWord_slt,
    ri_runs boolWord_ult, ri_runs fun a i => congrArg (i <<< 32 ||| ·) (setWidth_low_eq_and a), List.forall_mem_nil _⟩

theorem registerOps_run : ∀ e ∈ registerOps, e.Runs := by
  simp only [registerOps, List.forall_mem_cons]
  exact ⟨mm2_runs, mm2_runs, mm2_runs, runs_of_modTile, runs_of_modTile, runs_of_modTile, nop_runs, List.forall_mem_nil _⟩

/-- Settles O11: the lemma of its operand form, for each instruction of the two lists. -/
theorem registerOperations : Obligations.RegisterOperations := fun e he =>
  (List.mem_append.mp he).elim (scalarOps_run e) (registerOps_run e)

end Sys2Proof.Machine
end

section
/-! Bytes of tile memory, lanes of vector registers and the lane-end tree: what is read back of what was written (R245, R247),
and how the tree divides (R252). -/

namespace Sys2Proof.Machine

/-! ### Tile memory -/

theorem tabGet_putTmem (m : Tab Byte) (a : Nat) (bs : List Byte) (b : Nat) :
    tabGet 0 (putTmem m a bs) b = if a ≤ b ∧ b < a + bs.length then bs.getD (b - a) 0 else tabGet 0 m b := by
  induction bs generalizing m a with
  | nil => rw [putTmem, List.length_nil, Nat.add_zero, if_neg (by omega)]
  | cons x bs ih =>
    rw [putTmem, ih, tabGet_tabSet, List.length_cons]
    rcases Nat.lt_trichotomy b a with hlt | rfl | hgt
    · rw [if_neg (by omega), if_neg (by omega), if_neg (by omega)]
    · rw [if_neg (by omega), if_pos rfl, if_pos (by omega), Nat.sub_self, List.getD_cons_zero]
    · obtain ⟨k, rfl⟩ := Nat.exists_eq_add_of_lt hgt
      have hidx : a + k + 1 - (a + 1) = k := by omega
      have hidx' : a + k + 1 - a = k + 1 := by omega
      rw [hidx, hidx', List.getD_cons_succ, if_neg (show a + k + 1 ≠ a by omega)]
      exact if_congr (by omega) rfl rfl

/-- Settles O14, by induction on the bytes put. -/
theorem tileMemoryBytes : Obligations.TileMemoryBytes := tabGet_putTmem

/-! ### Lanes -/

/-- The lanes of a view fill the register. -/
theorem viewBits_mul_viewLanes (v : Nat) : viewBits v * viewLanes v = 2048 := by
  unfold viewLanes viewBits
  split <;> rfl

theorem toNat_ofLanes {v : Nat} {cs : List Nat} (hlen : cs.length = viewLanes v) (hfit : ∀ c ∈ cs, c < 2 ^ viewBits v) :
    (ofLanes v cs).toNat = packBits (viewBits v) cs := by
  rw [ofLanes, BitVec.toNat_ofNat, ← viewBits_mul_viewLanes v, ← hlen]
  exact Nat.mod_eq_of_lt (packBits_lt _ cs hfit)

theorem lanesOf_ofLanes {v : Nat} {cs : List Nat} (hlen : cs.length = viewLanes v) (hfit : ∀ c ∈ cs, c < 2 ^ viewBits v) :
    lanesOf v (ofLanes v cs) = cs := by
  apply List.ext_getElem
  · simp [lanesOf, hlen]
  · intro l hl hl'
    simp [lanesOf, toNat_ofLanes hlen hfit, packBits_get _ _ hfit, hl']

/-- Settles O19: the register packs its codes, and each is read at its place. -/
theorem lanesRead : Obligations.LanesRead := fun _ _ _ => lanesOf_ofLanes

/-! ### The lane-end tree -/

variable (g : Nat → Nat → Nat × FpFlags)

theorem length_levelUp : ∀ xs, (levelUp g xs).1.length = (xs.length + 1) / 2
  | [] => rfl
  | [_] => by simp [levelUp]
  | a :: b :: t => by
    simp only [levelUp, List.length_cons, length_levelUp t]
    omega

/-- A level combines neighbours, so it works apart on two parts of which the first has an even number of values. -/
theorem levelUp_append (ys : List Nat) : ∀ xs : List Nat, 2 ∣ xs.length →
    levelUp g (xs ++ ys) = ((levelUp g xs).1 ++ (levelUp g ys).1, (levelUp g xs).2 ||| (levelUp g ys).2)
  | [], _ => by simp [levelUp]
  | [_], heven => absurd heven (by simp)
  | a :: b :: t, heven => by
    have ht := levelUp_append ys t ((Nat.dvd_add_left (Nat.dvd_refl 2)).mp heven)
    simp only [List.cons_append, levelUp, ht, BitVec.or_assoc]

theorem treeUp_succ_fst (n : Nat) (xs : List Nat) : (treeUp g (n + 1) xs).1 = (treeUp g n (levelUp g xs).1).1 := rfl

theorem treeUp_succ_snd (n : Nat) (xs : List Nat) :
    (treeUp g (n + 1) xs).2 = (levelUp g xs).2 ||| (treeUp g n (levelUp g xs).1).2 := rfl

/-- The tree over two halves, by induction on the levels: the lowest level is taken in each half apart, and the top one combines
their two roots. -/
theorem treeUp_append (n : Nat) (xs ys : List Nat) (hx : xs.length = 2 ^ n) (hy : ys.length = 2 ^ n) :
    ∃ a b, (treeUp g n xs).1 = [a] ∧ (treeUp g n ys).1 = [b] ∧ (treeUp g (n + 1) (xs ++ ys)).1 = [(g a b).1] ∧
      (treeUp g (n + 1) (xs ++ ys)).2 = (treeUp g n xs).2 ||| (treeUp g n ys).2 ||| (g a b).2 := by
  induction n generalizing xs ys with
  | zero =>
    obtain ⟨a, rfl⟩ := List.length_eq_one_iff.mp hx
    obtain ⟨b, rfl⟩ := List.length_eq_one_iff.mp hy
    exact ⟨a, b, rfl, rfl, rfl, by simp [treeUp, levelUp]⟩
  | succ n ih =>
    rw [Nat.pow_succ] at hx hy
    obtain ⟨a, b, ha, hb, hroot, hflags⟩ := ih (levelUp g xs).1 (levelUp g ys).1
      (by rw [length_levelUp]; omega) (by rw [length_levelUp]; omega)
    have hsplit := levelUp_append g ys xs (hx ▸ Nat.dvd_mul_left 2 (2 ^ n))
    refine ⟨a, b, ha, hb, ?_, ?_⟩
    · rw [treeUp_succ_fst, hsplit, hroot]
    · simp only [treeUp_succ_snd g (n + 1), hsplit, hflags, treeUp_succ_snd g n xs, treeUp_succ_snd g n ys]
      ac_rfl

/-- Settles O23: the tree's value over both lists, and its flags, level by level. -/
theorem treeIsBalanced : Obligations.TreeIsBalanced := treeUp_append

end Sys2Proof.Machine
end

section
/-! The element-wise vector instructions (R246, R250, R293): one lemma per operand form, and what retiring writes (R256). -/

namespace Sys2Proof.Machine

/-! ### Operand forms -/

/-- Where the instruction issues, its command retires the results of its lanes for those that its mask governs. -/
def VecOp.Runs (e : VecOp) : Prop :=
  ∀ (s : State) (p : Nat) (f : Fields), Issues s p e.code f (e.legal f) →
    exec (e.cmd p f) s = .next (advance p (retireVec p f (governed f (getTile s p) (e.lanes f (getTile s p))) s))

section forms
variable {cmd : Nat → Fields → Instr} {code : Nat} {legal : Fields → Bool}

theorem runs_of_vecOp {lanes : Fields → Tile → List LaneRes}
    (hcmd : ∀ p f s, exec (cmd p f) s =
      issueNext p code f (legal f) (fun s => vecOp p f (lanes f (getTile s p)) s) s := by intros; rfl) :
    VecOp.Runs { cmd, code, legal, lanes } := fun s p f h => (hcmd p f s).trans (h.runsNext _)

theorem fp1_runs {g : FpFmt → Nat → Nat × FpFlags}
    (hcmd : ∀ p f s, exec (cmd p f) s = float1 p code f (legal f) g s := by intros; rfl) : (fp1 cmd code legal g).Runs :=
  runs_of_vecOp hcmd

theorem fp2_runs {g : FpFmt → Nat → Nat → Nat × FpFlags}
    (hcmd : ∀ p f s, exec (cmd p f) s = float2 p code f (legal f) g s := by intros; rfl) : (fp2 cmd code legal g).Runs :=
  runs_of_vecOp hcmd

/-- The lanes of an integer operation: the list of its codes, taken as results without flags. -/
theorem int2_eq (cmd code legal) (p : Nat) (f : Fields) (k : Bool) (h : Nat → Nat → Nat → Nat) (s : State) :
    int2 p code f k h s = issueNext p code f k (fun s => vecOp p f ((in2 cmd code legal h).lanes f (getTile s p)) s) s := by
  simp only [int2, plainRes, List.map_map]
  rfl

theorem in2_runs {h : Nat → Nat → Nat → Nat}
    (hcmd : ∀ p f s, exec (cmd p f) s = int2 p code f (legal f) h s := by intros; rfl) : (in2 cmd code legal h).Runs :=
  runs_of_vecOp fun p f s => (hcmd p f s).trans (int2_eq cmd code legal ..)

/-- Floating in a float view, integer in an integer view. -/
theorem fi2_runs {g : FpFmt → Nat → Nat → Nat × FpFlags} {h : Nat → Nat → Nat → Nat}
    (hcmd : ∀ p f s, exec (cmd p f) s = addSub p code f g h s := by intros; rfl) : (fi2 cmd code g h).Runs := by
  refine runs_of_vecOp fun p f s => (hcmd p f s).trans ?_
  by_cases hint : isInt (vView f) = true
  · simp only [addSub, hint, if_true]
    exact int2_eq cmd code _ ..
  · simp only [addSub, hint]
    rfl

end forms

/-- vsel: the lanes carry their number through the choice. -/
theorem execVsel_eq (p : Nat) (f : Fields) (s : State) : execVsel p f s =
    issueNext p 0x54 f (okVsel f) (fun s => vecOp p f (((viewOf f (getTile s p) f.a).zip (viewOf f (getTile s p) f.b)).zipIdx.map
      fun x => { code := if (readMask (getTile s p) (f.c.toNat - 32)).getLsbD x.2 then x.1.1 else x.1.2 }) s) s := by
  simp only [execVsel, plainRes, List.map_map]
  rfl

theorem vecOps_run : ∀ e ∈ vecOps, e.Runs := by
  simp only [vecOps, List.forall_mem_cons]
  exact ⟨fi2_runs, fi2_runs, fp2_runs, runs_of_vecOp, fp2_runs, fp2_runs, fp1_runs, fp1_runs, fp2_runs, fp1_runs, fp1_runs,
    fp1_runs, fp1_runs, runs_of_vecOp execVsel_eq, in2_runs, in2_runs, in2_runs, in2_runs, in2_runs, in2_runs, runs_of_vecOp,
    List.forall_mem_nil _⟩

/-- Settles O17: the lemma of its operand form, for each instruction. vsel copies a NaN lane bit for bit (log 67), vabs and vneg
give the canonical NaN, and vexp2 and vlog2 are opaque within their bounds (log 4): choices of the model. -/
theorem vectorElementwise : Obligations.VectorElementwise := vecOps_run

/-! ### Retiring -/

/-- An instruction that is not tapped feeds no channel, and notes the NaN results of its lanes alone. -/
theorem retireVec_untapped {s : State} {p : Nat} {f : Fields} {act : List (Nat × LaneRes)} (htap : vTap f = false) :
    retireVec p f act s = noteNans p 16 (getTile s p).pc (opcodeOf (fetchWord (getTile s p))) (vView f) 0 (nansOf act)
      (setTile p { writeV f.d (ofLanes (vView f) (mergeLanes (vLanes (getTile s p) (vView f) f.d) act)) (getTile s p) with
        vflags := (getTile s p).vflags ||| orAll act } s) := by
  simp only [retireVec, htap, Bool.false_eq_true, if_false, tapAll, BitVec.ofNat_eq_ofNat, BitVec.or_zero]
  rfl

/-- Settles O18: with no tap no channel is fed, and with no NaN result none is noted. -/
theorem vectorRetires : Obligations.VectorRetires := by
  intro s p f act htap hnan
  rw [retireVec_untapped htap, hnan, noteNans]

end Sys2Proof.Machine
end

section
/-! The vector compares (R246, R250). -/

namespace Sys2Proof.Machine

/-- Flags ORed after a change of the tile are ORed in that change. -/
theorem orFlags_modTile (p : Nat) (fl : FpFlags) (F : Tile → Tile) (s : State) : orFlags p fl (modTile p F s) =
    setTile p { F (getTile s p) with vflags := (F (getTile s p)).vflags ||| fl } s := by
  simp only [orFlags, modTile_eq, getTile_setTile, if_true, setTile_setTile]

@[simp] theorem length_vLanes (t : Tile) (v : Nat) (r : BitVec 6) : (vLanes t v r).length = viewLanes v := by
  simp [vLanes, lanesOf]

/-- A mask register has a bit for every lane of every view. -/
theorem viewLanes_le (v : Nat) : viewLanes v ≤ 256 := by
  unfold viewLanes viewBits
  split <;> decide

/-! ### What a compare computes -/

/-- The two sources' lanes, with their numbers. -/
def comparedLanes (f : Fields) (t : Tile) : List ((Nat × Nat) × Nat) := ((viewOf f t f.a).zip (viewOf f t f.b)).zipIdx

/-- The bit of a pair of lanes: the comparison where the mask governs the lane, the old bit elsewhere. -/
def pairBit (e : CompareOp) (f : Fields) (t : Tile) (x : (Nat × Nat) × Nat) : Bool :=
  if (readMask t (vMask f)).getLsbD x.2 then
    (if isFloat (vView f) then e.fp (fpDecode (viewFmt (vView f)) x.1.1) (fpDecode (viewFmt (vView f)) x.1.2)
      else e.int (laneInt (viewBits (vView f)) x.1.1) (laneInt (viewBits (vView f)) x.1.2))
  else (readMask t (f.d.toNat - 32)).getLsbD x.2

/-- The destination mask. -/
def compareMask (e : CompareOp) (f : Fields) (t : Tile) : BitVec 256 :=
  BitVec.ofNat 256 (packBits 1 ((comparedLanes f t).map fun x => if pairBit e f t x then 1 else 0))

/-- An active signalling operand raises INVALID. -/
def compareFlags (f : Fields) (t : Tile) : FpFlags :=
  if isFloat (vView f) && (comparedLanes f t).any fun x => (readMask t (vMask f)).getLsbD x.2 &&
    (fpSignalling (viewFmt (vView f)) x.1.1 || fpSignalling (viewFmt (vView f)) x.1.2) then flInvalid else 0

theorem compare_goesOn {s : State} {p code : Nat} {f : Fields} (e : CompareOp) (h : Issues s p code f (okVcmp f))
    (hgo : GoesOn s p) : compare p code f e.fp e.int s =
      .next (tileNext p { writeMask (f.d.toNat - 32) (compareMask e f (getTile s p)) (getTile s p) with
        vflags := (getTile s p).vflags ||| compareFlags f (getTile s p) } s) := by
  refine (h.runsNext _).trans (congrArg _ ?_)
  rw [orFlags_modTile]
  exact advance_setTile hgo h.untrapped h.issuing rfl rfl

theorem compareMask_getLsbD (e : CompareOp) (f : Fields) (t : Tile) (l : Nat) :
    (compareMask e f t).getLsbD l = compareBit e f t l := by
  have hbit : (compareMask e f t).getLsbD l = (decide (l < 256) && ((comparedLanes f t).map (pairBit e f t)).getD l false) := by
    rw [compareMask, BitVec.getLsbD_ofNat, ← packBits_testBit, List.map_map]
    rfl
  have hle := viewLanes_le (vView f)
  rw [hbit, compareBit]
  by_cases hl : l < viewLanes (vView f)
  · have hl' : l < 256 := by omega
    simp [hl, hl', comparedLanes, viewOf, pairBit]
  · simp [hl, comparedLanes, viewOf]

theorem compareFlags_invalid (f : Fields) (t : Tile) : compareFlags f t &&& ~~~flInvalid = 0 := by
  unfold compareFlags
  split <;> decide

theorem exec_compareOps {e : CompareOp} (he : e ∈ compareOps) (s : State) (p : Nat) (f : Fields) :
    exec (e.cmd p f) s = compare p e.code f e.fp e.int s := by
  simp only [compareOps, List.mem_cons, List.not_mem_nil, or_false] at he
  rcases he with rfl | rfl | rfl | rfl <;> rfl

/-- Settles O20: the compare's one equation, its mask bit by bit, and its flags. Integer lanes are compared as signed, the
model's reading of R250. -/
theorem compares : Obligations.Compares := by
  intro e he s p f h hgo
  exact ⟨_, _, (exec_compareOps he s p f).trans (compare_goesOn e h hgo), compareMask_getLsbD e f _, compareFlags_invalid f _⟩

end Sys2Proof.Machine
end

section
/-! Reductions over the lanes of a register and over a channel's state lanes (R252, R255, R257). -/

namespace Sys2Proof.Machine

@[simp] theorem writeV_vflags (r : BitVec 6) (v : BitVec 2048) (t : Tile) : (writeV r v t).vflags = t.vflags := rfl

/-- The value is written, its flags are ORed and a NaN is noted, one after another. -/
theorem broadcastNan_eq (p engine code c : Nat) (src : Bool) (f : Fields) (fl : FpFlags) (s : State) :
    broadcastNan p engine code c src f fl s =
      noteNans p engine (getTile s p).pc code 0 0 (if fpIsNan (fpDecode fmtFp32 c) then [(0, src)] else [])
        (orFlags p fl (modTile p (writeV f.d (broadcast c)) s)) := by
  rw [broadcastNan, orFlags_modTile, writeV_vflags]

/-- A lane-end reduction where it issues: the tree's root, its flags, and whether a source was a NaN. -/
theorem laneTree_broadcasts {s : State} {p code : Nat} {f : Fields} (h : Issues s p code f (okVred f)) (unit : Nat)
    (g : Nat → Nat → Nat × FpFlags) : laneTree p code f unit g s =
      .next (advance p (broadcastNan p 16 code ((treeUp g 6 (treeInputs unit f (getTile s p))).1.headD 0)
        ((treeInputs unit f (getTile s p)).any fun x => fpIsNan (fpDecode fmtFp32 x)) f
        (treeUp g 6 (treeInputs unit f (getTile s p))).2 s)) := by
  refine (h.runsNext _).trans (congrArg (fun u => Host.Outcome.next (advance p u)) ?_)
  rw [broadcastNan_eq]
  rfl

theorem execRread_broadcasts {s : State} {p : Nat} {f : Fields} (h : Issues s p 0x65 f (okRread f)) :
    execRread p f s = .next (advance p (broadcastNan p 17 0x65 (channelStat f (getTile s p)).1
      ((chanLanes f (getTile s p)).any fun l => isNan32 l.mean || isNan32 l.m2 || isNan32 l.sum || isNan32 l.sq)
      f (channelStat f (getTile s p)).2 s)) := by
  refine (h.runsNext _).trans (congrArg (fun u => Host.Outcome.next (advance p u)) ?_)
  rw [broadcastNan_eq]
  rfl

theorem exec_laneTrees {e : LaneTree} (he : e ∈ laneTrees) (s : State) (p : Nat) (f : Fields) :
    exec (e.cmd p f) s = laneTree p e.code f e.unit e.op s := by
  simp only [laneTrees, List.mem_cons, List.not_mem_nil, or_false] at he
  rcases he with rfl | rfl | rfl <;> rfl

/-- Settles O22: the equation of each reduction where it issues. -/
theorem reductions : Obligations.Reductions := by
  refine fun s p f => ⟨?trees, execRread_broadcasts⟩
  rintro e he _ rfl h
  exact (exec_laneTrees he s p f).trans (laneTree_broadcasts h e.unit e.op)

end Sys2Proof.Machine
end

section
/-! A tile that has trapped goes on no more (R281 to R283). The halt that its trap requests may complete a JOB_RESET, which clears
the trap record (R408); but a halt stops every tile, so the tile does not issue then either. -/

namespace Sys2Proof.Machine

/-- The tile has trapped, or it does not issue: in both cases it does not go on. -/
def Stopped (p : Nat) (s : State) : Prop := (getTile s p).trap.isSome = true ∨ (getTile s p).issuing = false

variable {s t : State} {p : Nat}

theorem advance_of_stopped (h : Stopped p s) : advance p s = s := by
  have hstop : ((getTile s p).trap.isSome || !(getTile s p).issuing) = true := by
    rcases h with h | h <;> simp [h]
  simp only [advance, hstop, if_true]

theorem Stopped.of_tiles (h : Stopped p s) (htiles : t.tiles = s.tiles) : Stopped p t := by
  rwa [Stopped, getTile_of_tiles htiles]

/-! ### A halt stops every tile -/

theorem getTile_resetTile (p q : Nat) (s : State) :
    getTile (resetTile q s) p = if p = q then clearTile (getTile s q) else getTile s p := by
  have hsoft : Soft s ((getTile s q).embs.foldl closeEmb ((getTile s q).moves.foldl closeMove s)) :=
    (Soft.refl.foldl fun _ _ => closeMove_soft).foldl fun _ _ => closeEmb_soft
  have hread (r : Nat) : getTile (dropBatches q ((getTile s q).embs.foldl closeEmb ((getTile s q).moves.foldl closeMove s))) r =
      getTile s r := getTile_of_tiles hsoft.tiles r
  rw [resetTile, modTile_eq, getTile_setTile, hread, hread]

theorem issuing_resetTiles (h : (getTile s p).issuing = false) : (getTile (resetTiles s) p).issuing = false := by
  refine List.foldlRecOn (motive := fun t => (getTile t p).issuing = false) _ _ h fun t ht q _ => ?_
  rw [getTile_resetTile]
  split
  · rfl
  · exact ht

theorem issuing_finishJobReset (h : (getTile s p).issuing = false) : (getTile (finishJobReset s) p).issuing = false := by
  unfold finishJobReset
  split
  · rw [getTile_of_tiles (finishStarted_soft .refl).tiles]
    exact issuing_resetTiles (s := { s with job := { s.job with needReset := false } }) h
  · exact h

theorem issuing_haltedTiles (t : Tab Tile) (p : Nat) :
    (tabGet ({} : Tile) (t.map fun e : Nat × Tile => (e.1, { e.2 with issuing := false })) p).issuing = false := by
  induction t with
  | nil => rfl
  | cons e t ih =>
    rw [List.map_cons, tabGet]
    split
    · rfl
    · exact ih

theorem issuing_finishHalt (p : Nat) (s : State) : (getTile (finishHalt s) p).issuing = false :=
  issuing_finishJobReset (issuing_haltedTiles _ p)

theorem noteOverrun_tiles (s : State) : (noteOverrun s).tiles = s.tiles := by
  unfold noteOverrun
  split
  · rfl
  · split
    · rfl
    · exact (raise_soft .refl).tiles

theorem Stopped.beginHalt (h : Stopped p s) : Stopped p (beginHalt s) := by
  unfold Machine.beginHalt
  dsimp only
  split
  · split
    · exact .inr (issuing_finishHalt p _)
    · exact h.of_tiles (noteOverrun_tiles s)
  · exact h

theorem Stopped.requestHalt (h : Stopped p s) : Stopped p (requestHalt s) := by
  unfold Machine.requestHalt haltTree
  dsimp only
  split
  · split
    · split
      · exact h
      · exact (h.of_tiles (sendDown_soft .refl).tiles).beginHalt
    · split
      · exact h
      · exact h.of_tiles (sendAck_soft .refl).tiles
  · exact h

/-! ### Traps -/

theorem trapAs_stopped (p cause engine instr opcode addr : Nat) (detail : List Byte) (s : State) :
    Stopped p (trapAs p cause engine instr opcode addr detail s) := by
  unfold trapAs
  dsimp only
  split
  · exact .inl ‹_›
  · refine Stopped.requestHalt (.inl ?_)
    rw [modTile_eq, getTile_setTile, if_pos rfl]
    rfl

theorem trapHere_stopped (p cause engine addr : Nat) (detail : List Byte) (s : State) :
    Stopped p (trapHere p cause engine addr detail s) := by
  unfold trapHere
  dsimp only
  split
  · exact (trapAs_stopped ..).of_tiles (securityViolation_soft .refl).tiles
  · exact trapAs_stopped ..

/-- An instruction that traps is not followed by the next one. -/
theorem advance_trapHere (p cause engine addr : Nat) (detail : List Byte) (s : State) :
    advance p (trapHere p cause engine addr detail s) = trapHere p cause engine addr detail s :=
  advance_of_stopped (trapHere_stopped ..)

end Sys2Proof.Machine
end

section
/-! Vector loads, stores and conversions (R246 to R248, R251, R292). -/

namespace Sys2Proof.Machine

variable {s : State} {p : Nat} {f : Fields}

section load
variable (h : Issues s p 0x41 f (okVld f))
include h

theorem execVld_traps {c a : Nat} (hfault : vecFault (getTile s p) f = some (c, a)) :
    execVld p f s = .next (trapHere p c 16 a [] s) := by
  rw [execVld, h.runsNext]
  simp only [hfault, advance_trapHere, enVector]

theorem execVld_loads (hsound : vecFault (getTile s p) f = none) {rs : List LaneRes} {u : State}
    (hload : loadedLanes p f s = (rs, u)) : execVld p f s = .next (advance p (vecOp p f rs u)) := by
  rw [loadedLanes] at hload
  rw [execVld, h.runsNext]
  simp only [hsound, hload]

end load

/-- The active lanes whose stored code is a NaN. -/
def storedNans (t : Tile) (f : Fields) (cs : List Nat) : List Nat :=
  (activeOf t f).filter fun l => fpIsNan (elemValue (vMfmt f) (cs.getD l 0))

section store
variable (h : Issues s p 0x42 f (okVst f))
include h

theorem execVst_traps {c a : Nat} (hfault : vecFault (getTile s p) f = some (c, a)) :
    execVst p f s = .next (trapHere p c 16 a [] s) := by
  rw [execVst, h.runsNext]
  simp only [hfault, advance_trapHere, enVector]

/-- In the view's own format a store writes the lanes' codes as they are. -/
theorem execVst_copies (hsound : vecFault (getTile s p) f = none) (hown : ownFormat (vView f) (vMfmt f) = true) :
    execVst p f s = .next (advance p
      (tileWrites p (storePieces (getTile s p) f (vLanes (getTile s p) (vView f) f.d) []) s)) := by
  rw [execVst, h.runsNext]
  simp only [hsound, hown, if_true]

theorem execVst_converts (hsound : vecFault (getTile s p) f = none) (hown : ownFormat (vView f) (vMfmt f) = false)
    {cs scales : List Nat} {fl : FpFlags} (hcodes : storeCodes s.tk.step (getTile s p) f = (cs, scales, fl)) :
    execVst p f s = .next (advance p
      (noteNans p 16 (getTile s p).pc 0x42 (vMfmt f) 0 ((storedNans (getTile s p) f cs).map fun l => (l, true))
        (orFlags p fl (tileWrites p (storePieces (getTile s p) f cs scales) s)))) := by
  rw [execVst, h.runsNext]
  simp only [hsound, hown, hcodes, Bool.false_eq_true, if_false]
  rfl

end store

/-- A widening takes half of its source's lanes, a narrowing writes half of its destination's. -/
theorem execVcvt_converts (h : Issues s p 0x55 f (okVcvt f)) :
    execVcvt p f s = .next (advance p (retireVec p f (convertedLanes s.tk.step f (getTile s p)) s)) := by
  rw [execVcvt, h.runsNext, convertedLanes]
  by_cases hwiden : vView f = 0
  · simp only [hwiden, if_true]
  · simp only [hwiden, if_false]

/-- Settles O21: each instruction's equation where it issues. The NaN results of a converting store are those of its active lanes;
that mask and key of a narrowing go by the destination lane is log 68. -/
theorem vectorMemory : Obligations.VectorMemory := fun _ _ _ =>
  ⟨fun h => ⟨fun _ _ => execVld_traps h, fun hsound _ _ => execVld_loads h hsound⟩,
    fun h => ⟨fun _ _ => execVst_traps h, execVst_copies h,
      fun hsound hown _ _ _ hcodes => ⟨_, execVst_converts h hsound hown hcodes⟩⟩,
    execVcvt_converts⟩

end Sys2Proof.Machine
end

section
/-! Reserved encodings (R281, R287): every Trelet command issues its opcode's word, and one that the encoding reserves traps. -/

namespace Sys2Proof.Machine

/-- A word whose fields are reserved traps ENCODING, whatever the instruction does (R287). -/
theorem Issues.reserved_traps {s : State} {p op : Nat} {f : Fields} {legal : Bool} (h : Issues s p op f (!legal))
    (run : State → State) : issue p op f legal run s = .next (trapHere p 2 20 0 [] s) := by
  have hreserved : legal = false := by simpa using h.legal
  have hword : (canIssue s p && decide ((getTile s p).pc < imemBytes) && fetchWord (getTile s p) == encodeWord op f) = true := by
    simp [h.can, h.pc, h.word]
  simp only [issue, onUnit, h.tile, hreserved, hword, decide_true, if_true, Bool.false_eq_true, if_false, tcEncoding, enSequencer]

theorem atTime_of_le {now : Nat} {s : State} (hpast : now ≤ s.now) : atTime now s = s := by
  rw [atTime, Nat.max_eq_left hpast]

/-- The command issues the instruction of its opcode with its legal encodings, at its instant where it names one. -/
def TreletOp.Issued (e : TreletOp) : Prop :=
  ∀ (now p : Nat) (f : Fields) (s : State), ∃ run : State → State,
    exec (e.cmd now p f) s = issue p e.code f (e.legal f) run (if e.timed = true then atTime now s else s)

theorem TreletOp.Issued.reserved_traps {e : TreletOp} (he : e.Issued) {now p : Nat} {f : Fields} {s : State}
    (h : Issues s p e.code f (!e.legal f)) (hpast : e.timed = false ∨ now ≤ s.now) :
    exec (e.cmd now p f) s = .next (trapHere p 2 20 0 [] s) := by
  obtain ⟨run, hrun⟩ := he now p f s
  have hstate : (if e.timed = true then atTime now s else s) = s := by
    obtain huntimed | hpast := hpast
    · rw [huntimed, if_neg Bool.false_ne_true]
    · rw [atTime_of_le hpast, ite_self]
  rw [hrun, hstate, h.reserved_traps run]

/-! Each command unfolds to `issue`, its effect apart. -/

theorem treletScalar_issued : ∀ e ∈ treletScalar, e.Issued := by
  simp only [treletScalar, List.forall_mem_cons, List.not_mem_nil, false_implies, implies_true, and_true, TreletOp.Issued]
  and_intros
  all_goals intro now p f s
  all_goals simp only [exec, execAdd, execSub, execMul, execAnd, execOr, execXor, execShl, execShr, execSra, execSlt, execSltu,
    execAddi, execMuli, execAndi, execOri, execXori, execShli, execShri, execSrai, execSlti, execSltiu, execLih, execLd, execSt,
    scalarRR, scalarRI, issueNext]
  all_goals exact ⟨_, rfl⟩

theorem treletBranch_issued : ∀ e ∈ treletBranch, e.Issued := by
  simp only [treletBranch, List.forall_mem_cons, List.not_mem_nil, false_implies, implies_true, and_true, TreletOp.Issued]
  and_intros
  all_goals intro now p f s
  all_goals simp only [exec, execJmp, execBeq, execBne, execBlt, execBge, execBltu, execBgeu, execJal, execJr, execWaitTok,
    execWaitLeg, execHurdle, branchIf]
  all_goals exact ⟨_, rfl⟩

/-- A sum or difference issues alike in a float view and in an integer view. -/
theorem addSub_issues (p op : Nat) (f : Fields) (g : FpFmt → Nat → Nat → Nat × FpFlags) (h : Nat → Nat → Nat → Nat)
    (s : State) : ∃ run : State → State, addSub p op f g h s = issue p op f (okV3 isAnyView true f) run s := by
  simp only [addSub, int2, float2, issueNext]
  split
  · exact ⟨_, rfl⟩
  · exact ⟨_, rfl⟩

theorem treletVector_issued : ∀ e ∈ treletVector, e.Issued := by
  simp only [treletVector, List.forall_mem_cons, List.not_mem_nil, false_implies, implies_true, and_true, TreletOp.Issued]
  and_intros
  all_goals intro now p f s
  all_goals simp only [exec, execVld, execVst, execVadd, execVsub, execVmul, execVfma, execVmin, execVmax, execVabs, execVneg,
    execVdiv, execVsqrt, execVrsqrt, execVexp2, execVlog2, execVcmpEq, execVcmpNe, execVcmpLt, execVcmpLe, execVsel, execVcvt,
    execVand, execVor, execVxor, execVshl, execVshr, execVsra, execVmov, execMand, execMor, execMxor, float1, float2, int2,
    compare, maskOp, issueNext, addSub_issues, Bool.false_eq_true, if_false]
  all_goals exact ⟨_, rfl⟩

theorem treletReduce_issued : ∀ e ∈ treletReduce, e.Issued := by
  simp only [treletReduce, List.forall_mem_cons, List.not_mem_nil, false_implies, implies_true, and_true, TreletOp.Issued]
  and_intros
  all_goals intro now p f s
  all_goals simp only [exec, execVrsum, execVrmax, execVrmin, execRclr, execRread, execVfrd, execVfclr, laneTree,
    issueNext]
  all_goals exact ⟨_, rfl⟩

theorem treletUnit_issued : ∀ e ∈ treletUnit, e.Issued := by
  simp only [treletUnit, List.forall_mem_cons, List.not_mem_nil, false_implies, implies_true, and_true, TreletOp.Issued]
  and_intros
  all_goals intro now p f s
  all_goals simp only [exec, execMma, execDrain, execDmv, execDmvDense, execEmbLook, execEmbGrad, execEmbPost,
    execNop, execSysrd, execTrap, issueNext]
  all_goals exact ⟨_, rfl⟩

theorem treletOps_issued : ∀ e ∈ treletOps, e.Issued := by
  simp only [treletOps, List.forall_mem_append]
  exact ⟨⟨⟨⟨treletScalar_issued, treletBranch_issued⟩, treletVector_issued⟩, treletReduce_issued⟩, treletUnit_issued⟩

/-- Settles O7: each command issues its opcode's word, class by class, and a word that issues with reserved fields traps. -/
theorem reservedEncodingsTrap : Obligations.ReservedEncodingsTrap :=
  fun e he _ _ _ _ => (treletOps_issued e he).reserved_traps

end Sys2Proof.Machine
end

section
/-! Scalar loads and stores, branches, scalar register 0, and the frame of an instruction of the tile alone (R263, R265,
R266, R268, R289, R290). -/

namespace Sys2Proof.Machine

variable {s : State} {p : Nat} {f : Fields}

/-! ### The tile alone -/

/-- Settles O9: a tile is a place of the table of tiles, and memory is not in that table. -/
theorem tileStepFrame : Obligations.TileStepFrame := by
  intro s p a x
  refine ⟨fun b => rfl, fun q hq => ?other, ?self, rfl⟩
  case other => rw [tileAt, getTile_setTile, if_neg hq]
  case self => rw [tileAt, getTile_setTile, if_pos rfl]

/-- Settles O10: s0 is neither written nor read from the register file. -/
theorem scalarZeroRegister : Obligations.ScalarZeroRegister :=
  fun t r q v => ⟨readS_writeS r q v t, if_pos rfl⟩

/-! ### ld and st (R268, R289) -/

theorem scalarFault_aligned {a : Nat} (halign : a % 8 = 0) (hin : a < 0x200000) : scalarFault a = none := by
  simp [scalarFault, halign, tmemBytes, Nat.not_le.mpr hin]

theorem scalarFault_align {a : Nat} (hodd : a % 8 ≠ 0) : scalarFault a = some 3 := if_pos hodd

theorem scalarFault_address {a : Nat} (halign : a % 8 = 0) (hout : 0x200000 ≤ a) : scalarFault a = some 4 := by
  simp [scalarFault, halign, tmemBytes, hout, tcAddress]

theorem tileRead_of_seen {a n : Nat} (hseen : rgnUnseen (getTile s p) (rgnOne a n) = false) :
    tileRead p a n s = (tmemBytesAt (getTile s p) a n, s) := by
  simp [tileRead, hseen]

section access
variable {a : Nat} (ha : a = scalarAddr (getTile s p) f)
include ha

section ld
variable (h : Issues s p 0x1D f (okRRI f))
include h

theorem execLd_loads (hsound : scalarFault a = none) (hon : GoesOn s p)
    (hseen : rgnUnseen (getTile s p) (rgnOne a 8) = false) : execLd p f s =
      .next (tileNext p (writeS f.d (BitVec.ofNat 64 (leNat (tmemBytesAt (getTile s p) a 8))) (getTile s p)) s) := by
  subst ha
  rw [execLd, h.runsNext]
  simp only [hsound, tileRead_of_seen hseen, modTile_eq]
  rw [advance_setTile hon (by simpa using h.untrapped) (by simpa using h.issuing) (by simp) (by simp)]

theorem execLd_traps {c : Nat} (hfault : scalarFault a = some c) : execLd p f s = .next (trapHere p c 20 a [] s) := by
  subst ha
  rw [execLd, h.runsNext]
  simp only [hfault, advance_trapHere, enSequencer]

end ld

section st
variable (h : Issues s p 0x1E f (okStore f))
include h

theorem execSt_stores (hsound : scalarFault a = none) (hon : GoesOn s p) : execSt p f s =
    .next (tileNext p { soil [rgnOne a 8] (getTile s p) with
      tmem := putTmem (getTile s p).tmem a (leBytes 8 (readS (getTile s p) f.b).toNat) } s) := by
  subst ha
  rw [execSt, h.runsNext]
  simp only [hsound, tileWrite, modTile_eq]
  rw [advance_setTile hon (t := tileFill _ _ (getTile s p)) h.untrapped h.issuing rfl rfl, tileFill, length_leBytes]

theorem execSt_traps {c : Nat} (hfault : scalarFault a = some c) : execSt p f s = .next (trapHere p c 20 a [] s) := by
  subst ha
  rw [execSt, h.runsNext]
  simp only [hfault, advance_trapHere, enSequencer]

end st
end access

/-- Settles O12: both commands' equations at an address without a fault. -/
theorem scalarLoadStore : Obligations.ScalarLoadStore := by
  intro s p f a ha halign hin hon
  have hsound := scalarFault_aligned halign hin
  exact ⟨fun h => execLd_loads ha h hsound hon, fun h => execSt_stores ha h hsound hon⟩

/-- Settles O13: both commands' equations at an address with a fault, which is ALIGN or ADDRESS. -/
theorem scalarAddressTraps : Obligations.ScalarAddressTraps := fun _ _ _ _ ha =>
  ⟨fun hodd h => execLd_traps ha h (scalarFault_align hodd), fun hodd h => execSt_traps ha h (scalarFault_align hodd),
    fun halign hout h => execLd_traps ha h (scalarFault_address halign hout),
    fun halign hout h => execSt_traps ha h (scalarFault_address halign hout)⟩

/-! ### Branches (R290) -/

theorem takeBranch_setTile {t : Tile} {a : Nat} (hlisted : ListedAt s p a) (himem : t.imem = (getTile s p).imem) :
    takeBranch p a (setTile p t s) = tileAt p a t s := by
  obtain ⟨hin, -⟩ := id hlisted
  rw [takeBranch, if_neg (Nat.not_le.mpr hin), jump_setTile hlisted himem]

theorem takeBranch_listed {a : Nat} (hlisted : ListedAt s p a) : takeBranch p a s = tileAt p a (getTile s p) s := by
  obtain ⟨hin, hop⟩ := hlisted
  simp only [takeBranch, jumpTo, modTile_eq, checkPc, fetchWord, getTile_setTile, if_true, Nat.not_le.mpr hin, if_false, hop,
    tileAt]

/-- A conditional branch, by the model's condition. -/
theorem branchIf_goes {op : Nat} {c : Word64 → Word64 → Bool} (h : Issues s p op f (okBranch f))
    (hlisted : ListedAt s p f.imm.toNat) (hon : GoesOn s p) : branchIf p op f c s =
      .next (if c (readS (getTile s p) f.a) (readS (getTile s p) f.b) = true then tileAt p f.imm.toNat (getTile s p) s
        else tileNext p (getTile s p) s) := by
  rw [branchIf, h.runs]
  dsimp only
  rw [takeBranch_listed hlisted, advance_same hon h.untrapped h.issuing]

/-- Where the branch issues, its target is an instruction and the tile can go on, its command does as the condition says. -/
def BranchOp.Branches (e : BranchOp) : Prop :=
  ∀ (s : State) (p : Nat) (f : Fields), ListedAt s p f.imm.toNat → GoesOn s p → Issues s p e.code f (okBranch f) →
    exec (e.cmd p f) s = .next
      (if e.taken (readS (getTile s p) f.a) (readS (getTile s p) f.b) = true then tileAt p f.imm.toNat (getTile s p) s
        else tileNext p (getTile s p) s)

/-- The model's condition `c` is the one that R290 names. -/
theorem branches_of_cond {cmd : Nat → Fields → Instr} {code : Nat} {taken c : Word64 → Word64 → Bool}
    (hcond : ∀ a b, c a b = taken a b) (hcmd : ∀ p f s, exec (cmd p f) s = branchIf p code f c s := by intros; rfl) :
    BranchOp.Branches { cmd, code, taken } := by
  obtain rfl : c = taken := funext₂ hcond
  intro s p f hlisted hon h
  exact (hcmd p f s).trans (branchIf_goes h hlisted hon)

theorem branchOps_branch : ∀ e ∈ branchOps, e.Branches := by
  simp only [branchOps, List.forall_mem_cons]
  exact ⟨branches_of_cond (c := fun a b => a == b) beq_eq_decide,
    branches_of_cond (c := fun a b => a != b) fun a b => by rw [bne, beq_eq_decide, decide_not],
    branches_of_cond fun a b => rfl,
    branches_of_cond (c := fun a b => !a.slt b) fun a b => by rw [BitVec.slt, ← decide_not, decide_eq_decide, not_lt],
    branches_of_cond fun a b => rfl,
    branches_of_cond (c := fun a b => !a.ult b) fun a b => by rw [BitVec.ult, ← decide_not, decide_eq_decide, not_lt],
    List.forall_mem_nil _⟩

theorem execJmp_goes (h : Issues s p 0x21 f (okJmp f)) (hlisted : ListedAt s p f.imm.toNat) :
    execJmp p f s = .next (tileAt p f.imm.toNat (getTile s p) s) := by
  rw [execJmp, h.runs, takeBranch_listed hlisted]

theorem execJal_goes (h : Issues s p 0x28 f (okJal f)) (hlisted : ListedAt s p f.imm.toNat) : execJal p f s =
    .next (tileAt p f.imm.toNat (writeS f.d (BitVec.ofNat 64 ((getTile s p).pc + 8)) (getTile s p)) s) := by
  obtain ⟨hin, -⟩ := id hlisted
  rw [execJal, h.runs]
  dsimp only
  rw [if_neg (Nat.not_le.mpr hin), modTile_eq, takeBranch_setTile hlisted (writeS_imem ..)]

section jr
variable {a : Nat} (ha : a = (readS (getTile s p) f.a).toNat) (h : Issues s p 0x29 f (okJr f))
include ha h

theorem execJr_goes (halign : a % 8 = 0) (hlisted : ListedAt s p a) : execJr p f s = .next (tileAt p a (getTile s p) s) := by
  subst ha
  rw [execJr, h.runs]
  dsimp only
  rw [if_neg (not_not_intro halign), takeBranch_listed hlisted]

theorem execJr_traps (hodd : a % 8 ≠ 0) : execJr p f s = .next (trapHere p 3 20 a [] s) := by
  subst ha
  rw [execJr, h.runs]
  dsimp only
  rw [if_pos hodd, tcAlign, enSequencer]

end jr

/-- Settles O15: each branch's equation; the conditions of `branchOps` are those that the model computes. -/
theorem branches : Obligations.Branches := by
  refine ⟨fun s p f hlisted hon => ⟨fun e he h => branchOps_branch e he s p f hlisted hon h, fun h => execJmp_goes h hlisted,
    fun h => execJal_goes h hlisted⟩, fun s p f a ha h => ⟨execJr_goes ha h, execJr_traps ha h⟩⟩

end Sys2Proof.Machine
end

section
/-! What a trap leaves (R281 to R283): the record of the first trap stands, since a halt stops the tiles and clears no record
unless a JOB_RESET waits for it (R408). -/

namespace Sys2Proof.Machine

variable {s : State}

/-! ### A halt leaves the trap records -/

theorem serveLate_tiles (e : RingEnt) (o : LegOcc) (due : Nat) (s : State) : (serveLate e o due s).tiles = s.tiles := by
  unfold serveLate
  dsimp only
  split
  · rfl
  · rw [(raise_soft .refl).tiles]
    rfl

theorem answer_tiles (status : Nat) (vals : List Byte) (e : RingEnt) (s : State) : (answer status vals e s).tiles = s.tiles := by
  have hsoft (h : List Byte) : Soft s (dropEntry e.queue e.slot (freeSlot e.queue e.slot (writeReply e.hdr h s))) :=
    dropEntry_soft (freeSlot_soft (writeReply_soft .refl))
  unfold answer
  dsimp only
  split
  · rfl
  · split
    · rfl
    · split <;> split <;> simp only [serveLate_tiles, (hsoft _).tiles]

/-- Completing commands other than JOB_RESETs leaves the JOB_RESETs that wait. -/
theorem outTiles_cancelled {l : List Started} (hother : ∀ c ∈ l, c.opcode ≠ 0x0003) (status : State → Nat) (s : State) :
    outTiles (l.foldl (fun t c => finishStarted c (status t) [] (freeWord t).2) s) = outTiles s :=
  outTiles_foldl_mem (fun t c hc => (outTiles_finishStarted (freeWord t).2 (hother c hc) (status t) []).trans rfl) s

/-- A halt ends as a JOB_RESET that waits for it does; before that it has stopped every tile, and changed nothing else in it. -/
theorem finishHalt_beforeReset (s : State) : ∃ u : State, finishHalt s = finishJobReset u ∧
    (outTiles u).resets = (outTiles s).resets ∧
    u.tiles.tile = s.tiles.tile.map fun e => (e.1, { e.2 with issuing := false }) := by
  refine ⟨_, rfl, ?resets, ?tiles⟩
  case resets =>
    show (outTiles (List.foldl _ _ _)).resets = _
    rw [outTiles_cancelled fun c hc => ?_]
    · simp
    · obtain ⟨-, hop⟩ := List.mem_filter.mp hc
      simp [eq_of_beq hop]
  case tiles =>
    show (State.tiles (List.foldl _ _ _)).tile.map _ = _
    rw [foldl_tiles fun _ _ => (finishStarted_soft (freeWord_soft .refl)).tiles, (returnSamples_soft .refl).tiles,
      foldl_tiles fun _ _ => answer_tiles ..]
    rfl

theorem tabGet_stopped (t : Tab Tile) (p : Nat) :
    tabGet ({} : Tile) (t.map fun e => (e.1, { e.2 with issuing := false })) p = { tabGet {} t p with issuing := false } := by
  induction t with
  | nil => rfl
  | cons e t ih =>
    rw [List.map_cons, tabGet, tabGet]
    split
    · rfl
    · exact ih

section noReset
variable (hreset : startedOp s 0x0003 = none) (p : Nat)
include hreset

theorem getTile_finishHalt : getTile (finishHalt s) p = { getTile s p with issuing := false } := by
  obtain ⟨u, hu, hresets, htile⟩ := finishHalt_beforeReset s
  rw [startedOp_reset_eq_none, ← hresets, ← startedOp_reset_eq_none] at hreset
  rw [hu, finishJobReset, hreset, getTile, htile, tabGet_stopped, getTile]

theorem trap_beginHalt : (getTile (beginHalt s) p).trap = (getTile s p).trap := by
  have hover : (getTile (noteOverrun s) p).trap = (getTile s p).trap := by rw [getTile_of_tiles (noteOverrun_tiles s)]
  unfold beginHalt
  dsimp only
  split
  · split
    · rw [getTile_finishHalt]
      · exact hover
      · rw [startedOp_reset_eq_none] at hreset ⊢
        exact (congrArg OutTiles.resets (outTiles_noteOverrun s)).trans hreset
    · exact hover
  · rfl

theorem trap_haltTree : (getTile (haltTree s) p).trap = (getTile s p).trap := by
  unfold haltTree
  split
  · rfl
  · rw [trap_beginHalt, getTile_of_tiles (sendDown_soft .refl).tiles]
    rw [startedOp_reset_eq_none] at hreset ⊢
    exact (congrArg OutTiles.resets (outTiles_sendDown ..)).trans hreset

theorem trap_requestHalt : (getTile (requestHalt s) p).trap = (getTile s p).trap := by
  unfold requestHalt
  dsimp only
  split
  · split
    · exact trap_haltTree hreset p
    · split
      · rfl
      · rw [getTile_of_tiles (sendAck_soft .refl).tiles]
        rfl
  · rfl

end noReset

/-! ### Traps -/

variable {p cause engine instr opcode addr : Nat} {detail : List Byte}

theorem trapTag_tagged {t : Tile} {g : LegTag} (hg : t.tag = some g) : trapTag t s = ((g.tick, g.leg + 32 * g.kind), s) := by
  rw [trapTag, hg]

theorem trapTag_hq (t : Tile) (s : State) : (trapTag t s).2.hq = s.hq := by
  unfold trapTag
  split
  · rfl
  · rfl

/-- A tile that has a record keeps it: the trap is counted alone. -/
theorem trapAs_of_trapped (htrap : (getTile s p).trap.isSome = true) :
    trapAs p cause engine instr opcode addr detail s = tally tlTileTrap s := if_pos htrap

/-- The record that a first trap leaves, with the tick and leg `g`. -/
def firstTrapRec (s : State) (p cause engine instr opcode addr : Nat) (detail : List Byte) (g : Nat × Nat) : TrapRec :=
  { cause, engine, logical := (logicalOf s p).getD 0xFF, physical := p, instrAddr := instr, tick := g.1, leg := g.2, opcode, addr,
    detail }

/-- The first trap of a tile leaves its record, which the halt that it requests does not clear. -/
theorem trap_trapAs_first (hnone : (getTile s p).trap = none) (hreset : startedOp s 0x0003 = none) :
    (getTile (trapAs p cause engine instr opcode addr detail s) p).trap =
      some (firstTrapRec s p cause engine instr opcode addr detail (trapTag (getTile s p) (tally tlTileTrap s)).1) := by
  have htiles : (trapTag (getTile s p) (tally tlTileTrap s)).2.tiles = s.tiles := (trapTag_soft .refl).tiles
  have hkept : getTile (tally tlTileTrap s) p = getTile s p := rfl
  unfold trapAs
  dsimp only
  rw [hkept, if_neg (by simp [hnone]), trap_requestHalt, modTile_eq, getTile_setTile, if_pos rfl]
  · simp only [firstTrapRec, logicalOf, htiles]
  · rw [startedOp, modTile, setTile]
    dsimp only
    rw [trapTag_hq]
    exact hreset

/-- Settles O8: a first trap's record is the one that `trapAs` writes, and a later trap counts alone; the tile cannot issue,
since it has a record or the halt has stopped it. -/
theorem trapStopsTheTile : Obligations.TrapStopsTheTile := by
  intro s p cause engine instr opcode addr detail
  refine ⟨fun hnone hreset => ⟨_, trap_trapAs_first hnone hreset, rfl, rfl, rfl, rfl, rfl, rfl, rfl, ?tag⟩, ?kept, ?stopped⟩
  case tag =>
    intro g hg
    simp only [firstTrapRec, trapTag_tagged hg, and_self]
  case kept =>
    intro r hr hreset
    rw [trapAs_of_trapped (by simp [hr])]
    exact hr
  case stopped =>
    rcases trapAs_stopped p cause engine instr opcode addr detail s with h | h
    · simp [canIssue, Option.isSome_iff_ne_none.mp h]
    · simp [canIssue, h]

end Sys2Proof.Machine
end

section
/-! Carriages of a job-scope hurdle (R277): ARRIVE from a child and RELEASE from the parent. -/

namespace Sys2Proof.Machine

variable {s : State} {rx : Rx} {now : Nat} {m : MarkMsg}

theorem Soft.getHurdle_eq {t : State} (h : Soft s t) (n die : Nat) : getHurdle t n die = getHurdle s n die := by
  rw [getHurdle, h.tiles, getHurdle]

theorem Soft.hurdleEnt_eq {t : State} (h : Soft s t) (n : Nat) : hurdleEnt t n = hurdleEnt s n := by
  rw [hurdleEnt, h.job, hurdleEnt]

section carriage
variable (h : InOrder s rx)
include h

theorem execArrive_marks (hgen : (getHurdle s m.hurdle 4).gen = m.tickNum) (hchild : m.sourceChip ∈ childChips s) :
    execArrive now rx m s = .next (pump rx.li
      (hurdleFull m.hurdle 4 (hurdleEnt s m.hurdle) (setHurdle m.hurdle 4 { getHurdle s m.hurdle 4 with
        childArrived := insertSorted m.sourceChip (getHurdle s m.hurdle 4).childArrived } (received now rx (.mark m) s)))) := by
  rw [execArrive, onUnit_deliverRx h]
  simp only [received_soft.getHurdle_eq, received_soft.childChips_eq, received_soft.hurdleEnt_eq, hgen, List.contains_eq_mem,
    hchild, decide_true, Bool.and_self, if_true]

theorem execArrive_ignores (hgen : (getHurdle s m.hurdle 4).gen ≠ m.tickNum) :
    execArrive now rx m s = .next (pump rx.li (received now rx (.mark m) s)) := by
  rw [execArrive, onUnit_deliverRx h]
  simp [received_soft.getHurdle_eq, hgen]

theorem execRelease_releases (hgen : (getHurdle s m.hurdle 4).gen = m.tickNum) {u : State} (hu : u = received now rx (.mark m) s) :
    ∃ t, execRelease now rx m s = .next t ∧ Soft (setHurdle m.hurdle 4 { getHurdle s m.hurdle 4 with
      releaseAt := some (u.now + (m.countdownNs - s.tk.latencyNs)) } u) t := by
  subst hu
  refine ⟨_, onUnit_deliverRx h _, ?_⟩
  simp only [received_soft.getHurdle_eq, received_soft.tk, hgen, if_true]
  exact pump_soft (sendDown_soft .refl)

theorem execRelease_ignores (hgen : (getHurdle s m.hurdle 4).gen ≠ m.tickNum) :
    execRelease now rx m s = .next (pump rx.li (received now rx (.mark m) s)) := by
  rw [execRelease, onUnit_deliverRx h]
  simp [received_soft.getHurdle_eq, hgen]

end carriage

/-- Settles O30: each carriage's equation. A full hurdle's 16 or 64 clocks are in ns (log 17). -/
theorem hurdleCarriages : Obligations.HurdleCarriages := by
  rintro s _ now rx m _ h rfl rfl
  have hignored : (pump rx.li (received now rx (.mark m) s)).tiles = s.tiles := (pump_soft received_soft).tiles
  refine ⟨fun hgen hchild => execArrive_marks h hgen hchild, fun hgen => ?release, fun hgen => ?other⟩
  case release =>
    obtain ⟨t, ht, hsoft⟩ := execRelease_releases (now := now) h hgen rfl
    exact ⟨t, ht, by rw [hsoft.getHurdle_eq, getHurdle_setHurdle], hsoft.run.trans (received_soft (b := .mark m)).run⟩
  case other => exact ⟨_, _, execArrive_ignores h hgen, execRelease_ignores h hgen, hignored, hignored⟩

end Sys2Proof.Machine
end

section
/-! The drover class (R267, R269 to R271, R280, R299): dmv and dmv.dense enter the drover's queue, and a completion copies the
rows or hands over the groups. -/

namespace Sys2Proof.Machine

variable {s : State} {p : Nat} {f : Fields}

/-! ### dmv (R269, R299) -/

theorem dmvLegal_iff (d : DmvArgs) : dmvLegal d = true ↔ 4 ≤ d.bytes ∧ d.bytes ≤ 2 ^ 20 ∧ d.bytes % 4 = 0 ∧
    d.shape / 2 ^ 21 % 2 ^ 11 = 0 ∧ d.shape / 2 ^ 48 = 0 ∧ d.src % 4 = 0 ∧ d.dst % 4 = 0 ∧ d.srcStride % 4 = 0 ∧
    d.dstStride % 4 = 0 := by
  simp only [dmvLegal, Bool.and_eq_true, decide_eq_true_eq, beq_iff_eq, and_assoc]

/-- What a dmv queues under the tick, leg and step of its tile's tag. -/
def dmvEntry (t : Tile) (f : Fields) (es ed : End) (tick leg step : Nat) : MoveEnt :=
  let d := dmvArgs t f
  { order := 0, op := .copy es ed d.rows d.bytes d.srcStride d.dstStride, tok := tokOf f, addr := t.pc, opcode := 0xA1
    tick, leg, step, reads := ownRgns es d.rows d.bytes d.srcStride
    writes := ownRgns ed d.rows d.bytes d.dstStride }

theorem execDmv_queues {tick leg step : Nat} {d : DmvArgs} {es ed : End} (hd : d = dmvArgs (getTile s p) f)
    (htag : tagFields (getTile s p) = (tick, leg, step)) (h : Issues s p 0xA1 f (okDmv f))
    (hfree : moveStall (getTile s p) f = false) (hlegal : dmvLegal d = true)
    (hsrc : endOf s (immF f 30 2) (immF f 20 8) d.src d.srcStride d.rows d.bytes false = (none, es))
    (hdst : endOf s (immF f 28 2) (immF f 20 8) d.dst d.dstStride d.rows d.bytes true = (none, ed)) : execDmv p f s =
      .next (advance p (queueMove p (dmvEntry (getTile s p) f es ed tick leg step) (bumpInFlight true es (bumpInFlight true ed
        (noteMoving es leg tick (noteMoving ed leg tick s)))))) := by
  subst hd
  obtain ⟨hleast, hmost, hwords, hlow, hhigh, hsrc4, hdst4, hsrcStride, hdstStride⟩ := (dmvLegal_iff _).mp hlegal
  simp only [dmvArgs] at hsrc hdst hleast hmost hwords hlow hhigh hsrc4 hdst4 hsrcStride hdstStride
  rw [execDmv, h.runs]
  simp only [hfree, Nat.not_lt.mpr hleast, Nat.not_lt.mpr hmost, hwords, hlow, hhigh, hsrc4, hdst4, hsrcStride, hdstStride,
    hsrc, hdst, htag, firstTrap, ne_eq, not_true_eq_false, decide_false, Bool.or_self, Bool.false_eq_true, if_false]
  rfl

/-! ### dmv.dense (R270, R280) -/

section dense
variable {g : LegTag} (h : Issues s p 0xA2 f (okDense f)) (hfree : moveStall (getTile s p) f = false)
  (hg : (getTile s p).tag = some g) (hkind : g.kind = 4)
include h hfree hg hkind

/-- Under the tag of an abandoned step nothing is handed over (R280). -/
theorem execDmvDense_abandoned (hgone : g.abandoned = true ∨ g.dropped = true) : execDmvDense p f s = .next (advance p s) := by
  have hgone' : (g.abandoned || g.dropped) = true := by simpa using hgone
  rw [execDmvDense, h.runs]
  simp only [hfree, hg, hkind, hgone', kReturn, Bool.false_eq_true, if_false, beq_self_eq_true, Bool.and_self, if_true]

/-- A RETURN run to which a tensor's groups from `first` on, `count` of them, have been handed. -/
def sendGroups (num first count : Nat) (r : ReturnRun) : ReturnRun :=
  { r with sent := (List.range count).map (fun i => (num, first + i)) ++ r.sent }

/-- What a dmv.dense queues: `bytes` of the tile's memory from `base` on. -/
def denseEntry (t : Tile) (f : Fields) (g : LegTag) (first count base bytes : Nat) : MoveEnt :=
  { order := 0, op := .dense (immF f 20 12) first count base, tok := tokOf f, addr := t.pc, opcode := 0xA2
    tick := g.tick, leg := g.leg, step := g.step, reads := [rgnOne base bytes], writes := [] }

theorem execDmvDense_queues {x : Tensor} {base first count : Nat} (hx : tensorOf s (immF f 20 12) = some x)
    (hbase : base = (readS (getTile s p) f.a).toNat) (hfirst : first = (readS (getTile s p) f.b).toNat)
    (hcount : count = (readS (getTile s p) f.c).toNat) (hkept : g.abandoned = false) (hstays : g.dropped = false)
    (hsome : 0 < count) (hmost : count ≤ 2 ^ 30) (hgroups : first + count ≤ groupCount x)
    (hin : base + 4096 * (count - 1) + 4 * groupLen x (first + count - 1) ≤ 0x200000)
    (hnew : ∀ i < count, (immF f 20 12, first + i) ∉ (returnRun s g.tick).sent) : execDmvDense p f s =
      .next (advance p (queueMove p
        (denseEntry (getTile s p) f g first count base (4096 * (count - 1) + 4 * groupLen x (first + count - 1)))
        (modReturn g.tick g.step (sendGroups (immF f 20 12) first count) s))) := by
  have hunsent : (((List.range count).map (first + ·)).any fun n =>
      (returnRun s g.tick).sent.contains (immF f 20 12, n)) = false := by
    simpa using hnew
  have hbytes : ¬ tmemBytes < base + (4096 * (count - 1) + 4 * groupLen x (first + count - 1)) := by
    rw [tmemBytes]
    omega
  subst hbase hfirst hcount
  rw [execDmvDense, h.runs]
  simp only [hfree, tagFields, hg, hkind, kReturn, hx, hkept, hstays, hsome.ne', Nat.not_lt.mpr hmost, Nat.not_lt.mpr hgroups,
    hbytes, hunsent, firstTrap, beq_self_eq_true, decide_false, Bool.or_self, Bool.and_false, Bool.false_eq_true, if_true, if_false,
    List.map_map]
  rfl

end dense

/-! ### Completion (R267, R271) -/

section complete
variable (hp : p < 160) {i : Nat} {x : MoveEnt} (hx : (getTile s p).moves[i]? = some x)
include hp hx

theorem execDmvComplete_copies {es ed : End} {rows n : Nat} {ss ds : Int} (hop : x.op = .copy es ed rows n ss ds)
    (hes : endReady s es = true) (hed : endReady s ed = true) :
    execDmvComplete p i s = .next (settleTile p (finishCopy p i x es ed rows n ss ds s)) := by
  simp [execDmvComplete, onUnit, hp, hx, hop, hes, hed]

/-- A tensor that is sheared waits until its step's image is free. -/
theorem execDmvComplete_handsOver {num first count base : Nat} {t : Tensor} {ts : TreeSet}
    (hop : x.op = .dense num first count base) (ht : tensorOf s num = some t) (hts : treeSetOf s t = some ts)
    (hfree : t.shear = 0 ∨ denseFree s t x.step = true) :
    execDmvComplete p i s = .next (settleTile p (finishDense p i x t ts first count base s)) := by
  have hgoes : (decide (t.shear ≠ 0) && !denseFree s t x.step) = false := by
    obtain h0 | hdone := hfree
    · simp [h0]
    · simp [hdone]
  simp only [execDmvComplete, onUnit, hp, decide_true, if_true, hx, hop, ht, hts, hgoes, Bool.false_eq_true, if_false]

end complete

/-- Settles O27: each command's equation where it acts, the entries queued being `dmvEntry` and `denseEntry`. -/
theorem droverMoves : Obligations.DroverMoves := by
  refine ⟨?dmv, ?dense, ?complete⟩
  case dmv =>
    intro s p tick leg step f d es ed hd htag h hfree hlegal hsrc hdst
    refine ⟨_, execDmv_queues hd htag h hfree hlegal hsrc hdst, ?_, rfl, rfl⟩
    rw [hd]
    rfl
  case dense =>
    intro s p base first count f g x h hfree hg hkind hx hbase hfirst hcount
    refine ⟨execDmvDense_abandoned h hfree hg hkind, fun hkept hstays hsome hmost hgroups hin hnew => ?_⟩
    exact ⟨_, _, execDmvDense_queues h hfree hg hkind hx hbase hfirst hcount hkept hstays hsome hmost hgroups hin hnew,
      rfl, rfl, rfl, rfl⟩
  case complete =>
    intro s p i x hp hx
    exact ⟨fun es ed rows n ss ds => execDmvComplete_copies hp hx,
      fun num first count base t ts => execDmvComplete_handsOver hp hx⟩

end Sys2Proof.Machine
end

section
/-! Grazing (R264, R367 to R374, R376, R377, R380): slices and periods of the leg-bound tasks, self-test and requalification,
free tasks, tile rotation and privileged tests. -/

namespace Sys2Proof.Machine

variable {s : State} {now task unit kind index : Nat}

/-! ### Slices and periods of the leg-bound tasks (R368 to R370) -/

@[simp] theorem getTask_atTime : getTask (atTime now s) task unit = getTask s task unit := rfl
@[simp] theorem taskActive_atTime : taskActive (atTime now s) task unit = taskActive s task unit := rfl
@[simp] theorem taskPeriod_atTime : taskPeriod (atTime now s) task unit = taskPeriod s task unit := rfl
@[simp] theorem passSteps_atTime : passSteps (atTime now s) task unit = passSteps s task unit := rfl
@[simp] theorem sliceReaches_atTime (amount : Nat) :
    sliceReaches (atTime now s) task unit amount = sliceReaches s task unit amount := rfl
@[simp] theorem drainOpen_atTime (o : LegOcc) : drainOpen (atTime now s) task unit o = drainOpen s task unit o := rfl
@[simp] theorem queuedFor_atTime : queuedFor (atTime now s) task unit = queuedFor s task unit := rfl

section legBound
variable (hbound : legBound task = true) (hunit : unit < taskUnits task)
include hbound hunit

theorem onUnit_task : onUnit (legBound task && decide (unit < taskUnits task)) s = .next s := by simp [onUnit, hbound, hunit]

section slice
variable {work : SliceWork} {o : LegOcc} (hopen : sliceOpen (atTime now s) task unit = some o)
  (hdrain : drainOpen s task unit o = true)
include hopen hdrain

theorem execGrazeSlice_advances (hactive : taskActive s task unit = true)
    (hmay : mayReach (atTime now s) task unit (sliceReaches s task unit work.amount) (passSteps s task unit) = true) :
    execGrazeSlice now task unit work s = .next (advanceTask o task unit work.amount work.bad (atTime now s)) := by
  simp [execGrazeSlice, onUnit_task hbound hunit, hopen, hactive, hdrain, hmay]

theorem execForcedSlice_advances {ns : Nat} (hdue : isBehind (atTime now s) task unit = true ∨ queuedFor s task unit = true)
    (hfirst : (getTask s task unit).forcedIn ≠ some (o.tick, o.leg)) : execForcedSlice now task unit work ns s =
      .next (advanceTask o task unit work.amount work.bad (tally tlGrazeForced
        (setTask task unit { getTask s task unit with forcedNs := ns, forcedIn := some (o.tick, o.leg) } (atTime now s)))) := by
  have hdue' : (isBehind (atTime now s) task unit || queuedFor s task unit) = true := by simpa using hdue
  simp [execForcedSlice, onUnit_task hbound hunit, hopen, hdrain, hdue', hfirst]

end slice

theorem execTaskPeriodEnd_starves (hactive : taskActive s task unit = true)
    (hover : (getTask s task unit).startAt + taskPeriod s task unit ≤ (atTime now s).now) {v : State}
    (hv : v = raise evGrazeStarved sevDegrade uModule (starvedDetail (atTime now s) task unit 1)
      (tally tlGrazeMissed (atTime now s))) :
    execTaskPeriodEnd now task unit s =
      .next (setTask task unit { getTask s task unit with startAt := v.now, starved := false } v) := by
  subst hv
  simp only [execTaskPeriodEnd, onUnit_task hbound hunit, getTask_atTime, taskActive_atTime, taskPeriod_atTime, hactive, hover,
    decide_true, Bool.and_self, if_true]

end legBound

/-! ### Self-test and requalification (R371 to R374, R376) -/

section test
variable {o : BistOutcome} (hexists : testExists kind index = true)
include hexists

theorem execBistSlice_ends (hopen : testOpen (atTime now s) kind index = true) (hleast : 1 ≤ o.us) (hmost : o.us ≤ 40) :
    execBistSlice now kind index o s = .next (sliceEnd kind index o
      (failUnit kind index o.test o.step o.logicCov (testOrigin s kind index)) (atTime now s)) := by
  simp only [execBistSlice, onUnit, hexists, hopen, hleast, hmost, decide_true, Bool.and_self, if_true]
  rfl

theorem execBistQueuePass_queues (hsound : unitQuarantined s kind index = false) :
    execBistQueuePass kind index s = .next (queueTest kind index 3 s) := by
  simp [execBistQueuePass, hexists, hsound]

section requalify
variable (hjob : s.job.state = 0) (hkind : kind < 2) (hquar : unitQuarantined s kind index = true)
include hjob hkind hquar

/-- A pass on a quarantined unit is a whole one at once; where its rerun fails, `requalFail` reports it (R374). -/
theorem execRequalify_runs {v : State} (hv : v = sliceEnd kind index { o with passEnds := true } (requalFail kind index o) s) :
    execRequalify kind index o s = .next (if o.rerunFail = true then v else { v with nor :=
      if kind = 0 then { v.nor with quarTiles := v.nor.quarTiles &&& ~~~(tileBit index) }
      else { v.nor with quarEngines := v.nor.quarEngines &&& ~~~(engineBit index) } }) := by
  have hruns : (decide (s.job.state ≠ 0) || decide (1 < kind) || !testExists kind index ||
      !unitQuarantined s kind index) = false := by
    simp [hjob, hexists, hquar, Nat.not_lt.mpr (Nat.le_of_lt_succ hkind)]
  subst hv
  simp only [execRequalify, hruns, Bool.false_eq_true, if_false]
  split
  · rfl
  · split
    · rfl
    · rfl

end requalify
end test

/-! ### Free tasks and tile rotation (R264, R367, R380) -/

theorem execSensorCalibration_runs {die : Nat} (hdie : die < 9) :
    execSensorCalibration now die s = .next (taskRan 7 die (atTime now s)) := by
  simp [execSensorCalibration, onUnit, hdie]

theorem execTileRotation_schedules (hrotate : s.gz.rotateEn = true) (hrunning : running s = true) (hfree : s.tiles.pendMap = none)
    (hstill : s.tiles.moving = []) (hbright : s.gz.blackout = false)
    (hdue : (getTask s 10 0).startAt + 24 * hourNs ≤ (atTime now s).now) : execTileRotation now s =
      .next (taskRan 10 0 { atTime now s with
        tiles := { s.tiles with pendMap := some (s.tk.tick + 2, rotatedMap s, true) } }) := by
  have hrunning' : running (atTime now s) = true := hrunning
  simp only [execTileRotation, atTime_gz, atTime_tiles, getTask_atTime, hrotate, hrunning', hfree, hstill, hbright, hdue,
    Option.isNone_none, List.isEmpty_nil, Bool.not_false, decide_true, Bool.and_self, if_true]
  rfl

/-! ### Privileged tests (R377) -/

section privileged
variable {pass : BitVec 3} {drivers : BitVec 12}

theorem execPrivTest_loaded (hjob : s.job.state ≠ 0) (inWindow : Bool) :
    execPrivTest inWindow pass drivers s = .next { s with gz := { s.gz with privStatus := 2 } } := by
  simp [execPrivTest, hjob]

theorem execPrivTest_outside (hjob : s.job.state = 0) :
    execPrivTest false pass drivers s = .next { s with gz := { s.gz with privStatus := 1 } } := by
  simp [execPrivTest, hjob]

theorem execPrivTest_tests (hjob : s.job.state = 0) {v : State} (hv : v = { s with gz := { s.gz with
    privStatus := 3, privPass := BitVec.ofNat 4 (pass.toNat + if drivers = 0xFFF then 8 else 0) } }) :
    execPrivTest true pass drivers s = .next (testDrivers drivers 3
      (((List.range 3).filter fun i => !pass.getLsbD i).foldl (fun t i => privFail i 3 0 t) v)) := by
  subst hv
  simp only [execPrivTest, hjob, ne_eq, not_true_eq_false, Bool.not_true, Bool.false_eq_true, if_false]

end privileged

/-- Settles O49: each command's equation where it may run. How a slice's amount is told is log 49. -/
theorem grazingSlices : Obligations.GrazingSlices := by
  refine ⟨?legBound, ?test, ?free, fun s v pass drivers => ⟨fun w hjob => execPrivTest_loaded hjob w, execPrivTest_outside,
    fun hjob hv => execPrivTest_tests hjob hv⟩⟩
  case legBound =>
    rintro s _ now task unit work rfl hbound hunit
    refine ⟨fun o hopen hdrain => ⟨execGrazeSlice_advances hbound hunit hopen hdrain, fun ns => ?forced⟩,
      fun hactive hover v => ?period⟩
    case forced => exact execForcedSlice_advances hbound hunit hopen hdrain
    case period => exact execTaskPeriodEnd_starves hbound hunit hactive hover
  case test =>
    rintro s _ now kind index o rfl hexists
    refine ⟨execBistSlice_ends hexists, execBistQueuePass_queues hexists, fun hjob hkind hquar v hv => ?requalify⟩
    have hruns := execRequalify_runs hexists hjob hkind hquar hv
    exact ⟨fun hfail => hruns.trans (congrArg _ (if_pos hfail)),
      fun hpass => hruns.trans (congrArg _ (if_neg (by simp [hpass])))⟩
  case free =>
    rintro s _ now rfl
    exact ⟨fun die => execSensorCalibration_runs, rfl, execTileRotation_schedules⟩

end Sys2Proof.Machine
end

section
/-! One step of the queue: the command at the front is run with the rest waiting, and what every step keeps (R303, R312, R374,
R389 to R391). -/

namespace Sys2Proof.Machine

variable {s t : State} {c : Instr} {r : List Instr}

/-- Settles O1: the two cases of `step`. -/
theorem stepRunsTheFront : Obligations.StepRunsTheFront :=
  ⟨fun c r s hfront => by rw [step, hfront], fun s hidle => by rw [step, hidle]⟩

theorem step_front (hfront : s.pending = c :: r) : step s = exec c { s with pending := r } :=
  stepRunsTheFront.1 c r s hfront

theorem step_idle (hidle : s.pending = []) : step s = .next s := stepRunsTheFront.2 s hidle

/-- Settles O2: the state at reset lists no byte and no poisoned line. -/
theorem resetMemory : Obligations.ResetMemory := ⟨reset_memory_wf, rfl, fun _ => rfl, rfl⟩

/-- Whether a command asks a requalification does not depend on what waits behind it. -/
theorem asksRequalify_pending (c : Instr) (r : List Instr) (s : State) :
    asksRequalify { s with pending := r } c = asksRequalify s c := rfl

/-- A command at the front keeps what `Keeps` says of the state with the rest of the queue. -/
theorem step_keeps {q : Bool} (hfront : s.pending = c :: r) (hstep : step s = .next t)
    (hask : q = true → asksRequalify s c = false) : Keeps q { s with pending := r } t :=
  exec_keeps hask (step_front hfront ▸ hstep)

theorem SafeStep.refl : SafeStep s s :=
  ⟨id, Nat.le_refl _, Nat.le_refl _, fun _ h => h, fun _ _ h => h, Nat.le_refl _⟩

/-- Every step is safe. A command that asks no requalification keeps the quarantine list too. -/
theorem step_safe (hstep : step s = .next t) : SafeStep s t := by
  cases hfront : s.pending with
  | nil =>
    obtain rfl : s = t := by simpa [step_idle hfront] using hstep
    exact SafeStep.refl
  | cons c r =>
    have hkeeps := step_keeps (q := false) hfront hstep (fun e => by cases e)
    have hquar (hask : asksRequalify s c = false) := (step_keeps hfront hstep fun _ => hask).quar rfl
    exact ⟨hkeeps.mem, hkeeps.svn, hkeeps.ctr, hkeeps.owner, fun hasks => hquar (hasks c r hfront), hkeeps.free⟩

/-- Settles O3. -/
theorem stepKeepsMemoryForm : Obligations.StepKeepsMemoryForm := fun _ _ hwf hstep => (step_safe hstep).mem hwf

/-- Settles O4. -/
theorem stepNeverUnfuses : Obligations.StepNeverUnfuses := fun _ _ hstep =>
  ⟨(step_safe hstep).svn, (step_safe hstep).counter, (step_safe hstep).owner⟩

/-- Settles O5. -/
theorem quarantineStays : Obligations.QuarantineStays := fun _ _ hasks hstep => (step_safe hstep).quarantine hasks

/-- Settles O6: a command's meaning neither reads nor changes the queue, and its sends go in front of what was sent. -/
theorem stepTakesOneCommand : Obligations.StepTakesOneCommand := by
  intro c r s t hfront hstep
  have hkeeps := step_keeps (q := false) hfront hstep (fun e => by cases e)
  exact ⟨hkeeps.queue, hkeeps.sent, hkeeps.free⟩

end Sys2Proof.Machine
end

section
/-! The system class (R266, R301). -/

namespace Sys2Proof.Machine

variable {s : State} {p now : Nat} {f : Fields}

theorem execNop_goesOn (h : Issues s p 0xE1 f (okNop f)) (hon : GoesOn s p) :
    execNop p f s = .next (tileNext p (getTile s p) s) := by
  rw [execNop, h.runsNext, id, advance_same hon h.untrapped h.issuing]

/-- The value that sysrd copies is the one R266 selects; a field of a leg tag that the tile does not have is the next free
word (log 3). -/
theorem sysValue_eq (p code : Nat) (s : State) :
    sysValue p code s = (systemValue s p code).elim (freeWord s) fun v => (v, s) := by
  match code with
  | 0 | 1 | 2 | _ + 6 => rfl
  | 3 | 4 | 5 => cases htag : (getTile s p).tag <;> simp [sysValue, systemValue, htag]

section sysrd
variable (hpast : now ≤ s.now) (h : Issues s p 0xE2 f (okSysrd f)) (hon : GoesOn s p)
include hpast h hon

/-- sysrd writes the value it reads, in the state that reading it leaves. -/
theorem execSysrd_writes {v : Word64} {u : State} (hv : sysValue p f.imm.toNat s = (v, u)) (htiles : u.tiles = s.tiles) :
    execSysrd now p f s = .next (tileNext p (writeS f.d v (getTile s p)) u) := by
  have hsame : getTile u p = getTile s p := by rw [getTile, htiles, getTile]
  have hon' : GoesOn u p := by rw [GoesOn, ListedAt, hsame]; exact hon
  rw [execSysrd, atTime_of_le hpast, h.runsNext]
  simp only [hv, modTile_eq, hsame]
  rw [advance_setTile hon' (by simp [h.untrapped]) (by simp [h.issuing]) (by simp [hsame]) (by simp [hsame])]

theorem execSysrd_reads {v : Word64} (hv : systemValue s p f.imm.toNat = some v) :
    execSysrd now p f s = .next (tileNext p (writeS f.d v (getTile s p)) s) :=
  execSysrd_writes hpast h hon (by rw [sysValue_eq, hv, Option.elim_some]) rfl

theorem execSysrd_untagged (hv : systemValue s p f.imm.toNat = none) : execSysrd now p f s =
    .next (tileNext p (writeS f.d (Config.freeWord s.freeCtr) (getTile s p)) { s with freeCtr := s.freeCtr + 1 }) :=
  execSysrd_writes hpast h hon (by rw [sysValue_eq, hv, Option.elim_none, freeWord]) rfl

end sysrd

/-- A code above 6 is reserved (R266). -/
theorem okSysrd_of_reserved (hcode : 7 ≤ f.imm.toNat) : okSysrd f = false := by
  rw [okSysrd, Bool.and_eq_false_iff, decide_eq_false_iff_not, Nat.not_le]
  exact .inr hcode

theorem execSysrd_traps (hpast : now ≤ s.now) (h : Issues s p 0xE2 f true) (hcode : 7 ≤ f.imm.toNat) :
    execSysrd now p f s = .next (trapHere p 2 20 0 [] s) := by
  have hreserved : Issues s p 0xE2 f (!okSysrd f) := { h with legal := by rw [okSysrd_of_reserved hcode, Bool.not_false] }
  rw [execSysrd, atTime_of_le hpast, issueNext, hreserved.reserved_traps]

theorem execTrap_traps (hpast : now ≤ s.now) (h : Issues s p 0xE3 f (okTrap f)) :
    execTrap now p f s = .next (trapHere p 11 20 0 (leBytes 4 f.imm.toNat) s) := by
  rw [execTrap, atTime_of_le hpast, h.runs, tcSoftware, enSequencer]

/-- Settles O16: each instruction's equation. A field of a leg tag that the tile does not have is a free value (log 3). -/
theorem systemInstructions : Obligations.SystemInstructions := fun _ _ _ _ hpast =>
  ⟨execNop_goesOn, fun h hon => ⟨fun _ => execSysrd_reads hpast h hon, execSysrd_untagged hpast h hon⟩,
    execSysrd_traps hpast, execTrap_traps hpast⟩

end Sys2Proof.Machine
end

section
/-! Power and heat: what the commands of the cap, the over-current and droop protection, the temperatures and the PLDM power
effecter do where they act (R316, R354, R355, R357 to R359, R361, R362, R398). -/

namespace Sys2Proof.Machine

variable {s v : State} {now w n die ep : Nat}

/-! ### The cap (R354, R355, R398) -/

theorem execIdleMeasure_notes (hjob : s.job.state ≠ 0) (hlegs : s.run.legs = []) : execIdleMeasure now w s =
    .next { atTime now s with pw := { s.pw with idleW := min w 4095 } } := by
  simp [execIdleMeasure, hjob, hlegs]

theorem capLegal_of_le (hleast : 1400 ≤ w) (hmost : w ≤ 3000) : capLegal w = true := by simp [capLegal, hleast, hmost]

theorem capLegal_of_outside (hout : w < 1400 ∨ 3000 < w) : capLegal w = false := by
  simp only [capLegal, Bool.and_eq_false_iff, decide_eq_false_iff_not]
  omega

theorem execPwCapWrite_takes (hlegal : capLegal w = true) (htie : s.pw.pldmAt ≠ some (atTime now s).now) :
    execPwCapWrite now w s =
      .next { atTime now s with pw := { s.pw with cap := w, capSrc := 0, capWritten := true } } := by
  simp [execPwCapWrite, hlegal, htie]

theorem execPwCapWrite_ignores (hout : capLegal w = false) : execPwCapWrite now w s = .next (atTime now s) := by
  simp [execPwCapWrite, hout]

section pldm
variable (hon : s.boot.powered = true)
include hon

theorem execPldmSetCap_takes (hlegal : capLegal w = true) : execPldmSetCap now ep w s =
    .next (emit (.pldm ep pldmOk w) { atTime now s with
      pw := { s.pw with cap := w, capSrc := 1, capWritten := true, pldmAt := some (atTime now s).now } }) := by
  simp [execPldmSetCap, hon, hlegal]

theorem execPldmSetCap_refuses (hout : capLegal w = false) :
    execPldmSetCap now ep w s = .next (emit (.pldm ep pldmInvalidData 0) (atTime now s)) := by
  simp [execPldmSetCap, hon, hout]

theorem execPldmSensorRead_answers {x : Int} (hx : sensorValue s n = some x) :
    execPldmSensorRead ep n s = .next (emit (.pldm ep pldmOk x) s) := by
  simp [execPldmSensorRead, hon, hx]

end pldm

/-! ### The cap's loop (R357, R382) -/

/-- What the loop's step does once P10 is noted. -/
def capLoop (v : State) : State :=
  if v.gz.blackout || v.pw.ocpTrip then v
  else
    let t := if v.pw.capUnmet && v.pw.p10 < v.pw.cap then
        { v with pw := { v.pw with capUnmet := false, unmetSince := none } }
      else v
    if t.pw.capUnmet then noteCause 4 t
    else checkUnmet (openLeg v) (match openLeg v with
      | some o => capStep o t
      | none => t)

theorem execCapLoopUpdate_eq (now p10 : Nat) (s : State) :
    execCapLoopUpdate now p10 s = .next (capLoop { atTime now s with pw := { s.pw with p10 := min p10 4095 } }) := by
  rfl

theorem capLoop_holds (hheld : v.gz.blackout = true ∨ v.pw.ocpTrip = true) : capLoop v = v := by
  have hheld' : (v.gz.blackout || v.pw.ocpTrip) = true := by simpa using hheld
  rw [capLoop, if_pos hheld']

section loop
variable (hbright : v.gz.blackout = false) (hrun : v.pw.ocpTrip = false)
include hbright hrun

theorem capLoop_unmet (hunmet : v.pw.capUnmet = true) (habove : v.pw.cap ≤ v.pw.p10) : capLoop v = noteCause 4 v := by
  simp [capLoop, hbright, hrun, hunmet, Nat.not_lt.mpr habove]

theorem capLoop_steps (hmet : v.pw.capUnmet = false) :
    capLoop v = checkUnmet (openLeg v) ((openLeg v).elim v fun o => capStep o v) := by
  cases hleg : openLeg v <;> simp [capLoop, hbright, hrun, hmet, hleg]

end loop

/-! ### Over-current (R358) -/

theorem execOcpTrip_trips (hrun : s.pw.ocpTrip = false) (hv : v = { atTime now s with pw := { s.pw with
    ocpTrip := true, ocpSince := (atTime now s).now, bNum := 1, bDen := 2, capRatio := 32 } }) :
    execOcpTrip now s = .next (raiseCap 3 sevDegrade (openLeg v) (noteCause 3 v)) := by
  subst hv
  simp [execOcpTrip, hrun]

section tripped
variable (htrip : s.pw.ocpTrip = true)
include htrip

theorem execOcpRecover_resumes : execOcpRecover now s =
    .next { atTime now s with pw := { s.pw with ocpTrip := false, bNum := 1, bDen := 2, capRatio := 32 } } := by
  simp [execOcpRecover, htrip]

theorem execOcpShutdown_turnsOff (hdue : s.pw.ocpSince + 10000000 ≤ (atTime now s).now)
    (hv : v = raiseCap 4 sevFatal (openLeg (atTime now s)) (atTime now s)) :
    execOcpShutdown now s = .next (powerOff 2 { v with boot := { v.boot with alertN := false } }) := by
  subst hv
  simp [execOcpShutdown, htrip, hdue]

end tripped

/-! ### Droop (R359) -/

@[simp] theorem getDroop_atTime (now die : Nat) (s : State) : getDroop (atTime now s) die = getDroop s die := rfl

section droop
variable (hdie : die < 9)
include hdie

theorem onUnit_clockedDie : onUnit (decide (die < 9)) s = .next s := by simp [onUnit, hdie]

theorem execDroopDetect_stretches {mv : Nat} (hlow : mv < 713) :
    execDroopDetect now die mv n s = .next (stretchDie die mv n true (atTime now s)) := by
  simp [execDroopDetect, onUnit_clockedDie hdie, hlow]

theorem execDroopEnd_ends (hactive : (getDroop s die).active = true) :
    execDroopEnd now die n s = .next (stretchDie die 0 n false (atTime now s)) := by
  simp [execDroopEnd, onUnit_clockedDie hdie, hactive]

/-! ### Temperatures (R316, R361, R362) -/

theorem execThermalTrip_turnsOff {t : Int} (hon : s.boot.powered = true) (hhot : 115 ≤ t) : execThermalTrip now die t s =
    .next (powerOff 1 { atTime now s with
      nor := { s.nor with trip := some (die, t, s.tk.tick) }, boot := { s.boot with thermtripN := false } }) := by
  simp [execThermalTrip, onUnit_clockedDie hdie, hon, hhot]

end droop

/-- As many readings as units are taken as they come. -/
theorem map_range_getD {n : Nat} {l : List Int} (hlength : l.length = n) : (List.range n).map (fun i => l.getD i 0) = l := by
  subst hlength
  exact List.ext_getElem (by simp) fun i hi _ => by simpa using List.getD_eq_getElem _ 0 (by simpa using hi)

section sample
variable {ds ks : List Int} {e i : Int} (hds : ds.length = 9) (hks : ks.length = 12) (hv : v = { atTime now s with
  pw := { s.pw with temps := ds ++ [maxInt ks, e, i] ++ List.replicate 4 0, stackTemps := ks }
  mm := { s.mm with doubleRefresh := BitVec.ofNat 12 ((ks.zipIdx.map fun x => if 85 < x.1 then 2 ^ x.2 else 0).sum) } })
include hds hks hv

theorem execThermalSample_holds (hdark : s.gz.blackout = true) : execThermalSample now ds ks e i s = .next v := by
  subst hv
  rw [execThermalSample]
  simp only [map_range_getD hds, map_range_getD hks]
  exact congrArg _ (if_pos hdark)

theorem execThermalSample_throttles {t : State} (hbright : s.gz.blackout = false)
    (ht : t = ks.zipIdx.foldl (fun t x => throttle (16 + x.2) 95 x.1 t) (ds.zipIdx.foldl (fun t x => throttle x.2 105 x.1 t) v)) :
    execThermalSample now ds ks e i s = .next (if t.pw.thermal.isEmpty = true then t else noteCause 1 t) := by
  subst hv ht
  rw [execThermalSample]
  simp only [map_range_getD hds, map_range_getD hks]
  exact congrArg _ (if_neg (by simp [hbright]))

end sample

/-- Settles O48: each command's equation where it acts. A driver's write in the clock of a PLDM write loses (log 45); PLDM codes
and sensor numbers are log 46. -/
theorem powerAndHeat : Obligations.PowerAndHeat := by
  rintro s _ now rfl
  refine ⟨fun w => execIdleMeasure_notes,
    fun w => ⟨fun hleast hmost => execPwCapWrite_takes (capLegal_of_le hleast hmost),
      fun hout => execPwCapWrite_ignores (capLegal_of_outside hout)⟩,
    fun ep w hon => ⟨fun hleast hmost => execPldmSetCap_takes hon (capLegal_of_le hleast hmost),
      fun hout => execPldmSetCap_refuses hon (capLegal_of_outside hout)⟩,
    fun ep n v hon => execPldmSensorRead_answers hon, fun p v hv => ?loop, fun v => execOcpTrip_trips, execOcpRecover_resumes,
    fun v => execOcpShutdown_turnsOff, fun die mv n hdie => execDroopDetect_stretches hdie,
    fun die n hdie => execDroopEnd_ends hdie,
    fun ds ks e i v w hds hks hv hw => ⟨execThermalSample_holds hds hks hv,
      fun hbright => execThermalSample_throttles hds hks hv hbright hw⟩,
    fun die t hdie => execThermalTrip_turnsOff hdie⟩
  case loop =>
    subst hv
    have hloop := execCapLoopUpdate_eq now p s
    exact ⟨fun hheld => hloop.trans (congrArg _ (capLoop_holds hheld)),
      fun hbright hrun hunmet habove => hloop.trans (congrArg _ (capLoop_unmet hbright hrun hunmet habove)),
      fun hbright hrun hmet => hloop.trans (congrArg _ (capLoop_steps hbright hrun hmet))⟩

end Sys2Proof.Machine
end

section
/-! Pseudo-channels, MEM_RECONFIGURE's end and the outcomes of a parity remedy (R309, R311, R316, R319 to R321). -/

namespace Sys2Proof.Machine

variable {s : State} {now : Nat}

/-! ### Pseudo-channels (R319, R320) -/

section channel
variable {d p : Nat} {x : PcState} (hd : d < 4) (hp : p < 128) (hx : x = mmPc s.mm d p)
include hd hp

theorem onUnit_channel {t : State} : onUnit (isPc d p) t = .next t := by simp [onUnit, isPc, hd, hp]

include hx

theorem execPcDrain_drains (hactive : x.state = 0) : execPcDrain d p s = .next (setPc d p { x with state := 1 } s) := by
  subst hx
  simp only [execPcDrain, onUnit_channel hd hp, hactive, if_true]

theorem execPcDrainComplete_returns (hdrained : x.state = 1) :
    execPcDrainComplete d p true s = .next (setPc d p { x with state := 0, retrainFails := 0 } s) := by
  subst hx
  simp only [execPcDrainComplete, onUnit_channel hd hp, hdrained, ne_eq, not_true_eq_false, if_false, if_true]

/-- The second failed retraining in a row fences (R319). -/
theorem execPcDrainComplete_fails {v : State} (hdrained : x.state = 1)
    (hv : v = setPc d p { x with state := 0, retrainFails := x.retrainFails + 1 } s) :
    execPcDrainComplete d p false s = .next (if 1 ≤ x.retrainFails then fence d p 2 v else v) := by
  subst hx hv
  simp only [execPcDrainComplete, onUnit_channel hd hp, hdrained, ne_eq, not_true_eq_false, if_false, Bool.false_eq_true]

theorem execPcFence_fences (hopen : x.state < 2) : execPcFence d p s =
    .next (requestHalt (raise evChannelMappedOut sevFault (uMd d) (mappedDetail (setPc d p { x with state := 2 } s) d p 3)
      (setPc d p { x with state := 2 } s))) := by
  subst hx
  rw [execPcFence, onUnit_channel hd hp, fence]
  exact congrArg _ (if_neg (Nat.not_le.mpr hopen))

end channel

theorem execRefresh_keeps_contents {d : Nat} (hd : d < 4) : execRefresh now d s = .next (atTime now s) := by
  simp [execRefresh, onUnit, hd]

/-! ### MEM_RECONFIGURE_COMPLETE (R309, R321) -/

theorem execMemReconfigureComplete_completes {u v w : State} {slot tag spread : Nat}
    (hasked : s.mm.reconfig = some (slot, tag, spread)) (hu : u = dropOvf (drainOvf s))
    (hv : v = applyMapouts 0 96 { u with mm := { u.mm with reconfig := none, spread } })
    (hw : w = { v with mm := zeroHbm v.mm }) : execMemReconfigureComplete s =
      .next (finishStarted { slot, tag, opcode := 0x0052 } 0 [] { w with hq := { w.hq with ovfBase := ovfRing w.mm } }) := by
  rw [execMemReconfigureComplete, hasked, hw, hv, hu]

/-! ### Parity (R311) -/

section parity
variable {x sender : UnitId} (hx : unitExists x = true) {point addr n : Nat} (content source : Nat)
include hx

theorem onUnit_known {t : State} : onUnit (unitExists x) t = .next t := by simp [onUnit, hx]

theorem execParityRetry_none : execParityRetry now point x addr 0 content source sender s = .next (atTime now s) := by
  simp only [execParityRetry, onUnit_known hx, if_true]

theorem execParityRetry_passes (hpos : 0 < n) (hfew : n < 3) : execParityRetry now point x addr n content source sender s =
    .next (parityPassed x sender addr point n (atTime now s)) := by
  simp only [execParityRetry, onUnit_known hx, hpos.ne', hfew, if_true, if_false]

/-- What a mismatch that no attempt cures does, by its point. -/
def parityFailed (x : UnitId) (sender : UnitId) (point addr content source : Nat) (s : State) : State :=
  match point with
  | 1 => memError addr source content s
  | 2 => memError addr 1 content s
  | 3 => recordError x sender addr s
  | 4 => if x.kind = 1 then sramTrap x.index addr (sramError x source s) else sramError x source s
  | 6 => coreFault x.index addr (sramError x source s)
  | _ => parityPathFault x sender addr point s

theorem execParityRetry_fails : execParityRetry now point x addr 3 content source sender s =
    .next (parityFailed x sender point addr content source (atTime now s)) := by
  unfold execParityRetry
  rw [onUnit_known hx]
  rfl

end parity

/-- Settles O53: each command's equation where it acts. Which instruction a parity trap of POINT 4 names is free (log 70). -/
theorem pseudoChannels : Obligations.PseudoChannels := by
  refine ⟨?channel, fun s now d => execRefresh_keeps_contents,
    fun s u v w slot tag spread => execMemReconfigureComplete_completes, ?parity⟩
  case channel =>
    intro s v d p x hd hp hx
    exact ⟨execPcDrain_drains hd hp hx, execPcDrainComplete_returns hd hp hx, execPcDrainComplete_fails hd hp hx,
      execPcFence_fences hd hp hx⟩
  case parity =>
    rintro s _ now point addr n content source x sender hx rfl
    have hfails (point : Nat) := execParityRetry_fails (s := s) (now := now) (sender := sender) (point := point)
      (addr := addr) hx content source
    refine ⟨execParityRetry_none hx content source, execParityRetry_passes hx content source, hfails 1, hfails 2, hfails 3,
      fun htile => (hfails 4).trans (congrArg _ (if_pos htile)), hfails 6, ?_⟩
    rintro (rfl | rfl | rfl)
    · exact hfails 0
    · exact hfails 5
    · exact hfails 7

end Sys2Proof.Machine
end

section
/-! The security mailbox (R389 to R391, R397): what each command answers and leaves, from where the mailbox is free. -/

namespace Sys2Proof.Machine

variable {s : State} {now : Nat} {r : MboxReq}

@[simp] theorem mboxPayload_atTime (n : Nat) (r : MboxReq) : mboxPayload n r (atTime now s) = mboxPayload n r s := rfl

/-- A command runs on its payload and answers where it came from. -/
theorem mboxRun_runs (hon : s.boot.powered = true) (hfree : s.sc.mboxState ≠ 1) {n code : Nat} {data : List Byte} {t : State}
    {f : Option (List Byte) → State → Nat × List Byte × State} (hf : f (mboxPayload n r s) s = (code, data, t)) :
    mboxRun n r f s = .next (mboxReply r code data t) := by
  simp only [mboxRun, hon, hfree, hf, Bool.not_true, Bool.false_eq_true, if_false]

/-! ### NONCE_EXPIRY (R391) -/

theorem liveNonce_of_expired {b : List Byte} {t : Nat} (hnonce : s.sc.nonce = some (b, t)) (hdue : t + 60000000000 ≤ s.now) :
    liveNonce s = none := by
  simp only [liveNonce, hnonce, nonceLife, Nat.not_lt.mpr hdue, if_false]

theorem execNonceExpiry_ends {b : List Byte} {t : Nat} (hnonce : s.sc.nonce = some (b, t))
    (hdue : t + 60000000000 ≤ (atTime now s).now) :
    execNonceExpiry now s = .next { atTime now s with sc := { s.sc with nonce := none } } := by
  simp [execNonceExpiry, liveNonce_of_expired (s := atTime now s) hnonce hdue]

section free
variable (hon : s.boot.powered = true) (hfree : s.sc.mboxState ≠ 1) {b p : List Byte}
include hon hfree

/-! ### NONCE and UNLOCK (R391, R397) -/

theorem execNonce_issues (hp : mboxPayload 0 r s = some p)
    (hb : b = (List.range 4).flatMap fun w => leBytes 8 (Config.nonceWord s.sc.nonceCount w).toNat) : execNonce now r s =
      .next (mboxReply r mbOk b { atTime now s with sc := { s.sc with
        nonce := some (b, (atTime now s).now), nonceCount := s.sc.nonceCount + 1 } }) := by
  subst hb
  exact mboxRun_runs (s := atTime now s) hon hfree (by rw [mboxPayload_atTime, hp]; rfl)

theorem execUnlock_locked (hlocked : s.sc.lockout = true) :
    execUnlock now r s = .next (mboxReply r mbLocked [] (securityViolation 6 mbLocked 0 0 (atTime now s))) :=
  mboxRun_runs (s := atTime now s) hon hfree (if_pos hlocked)

/-- An UNLOCK that is not locked out uses the nonce up, and its token's code decides (log 41). -/
theorem execUnlock_judges (hopen : s.sc.lockout = false) (hb : mboxPayload 832 r s = some b) {u : State} (hu : u = atTime now s) :
    execUnlock now r s = .next (if unlockCode u b = mbOk then mboxReply r mbOk [] (securityViolation 7 0 0 0
        { u with sc := { s.sc with nonce := none, debug := true, debugAuth := byteAt b 2, failures := 0 } })
      else mboxReply r (unlockCode u b) [] (unlockFailed (unlockCode u b) { u with sc := { s.sc with nonce := none } })) := by
  subst hu
  by_cases hok : unlockCode (atTime now s) b = mbOk
  · rw [if_pos hok]
    exact mboxRun_runs (s := atTime now s) hon hfree (by simp [hopen, hb, hok])
  · rw [if_neg hok]
    exact mboxRun_runs (s := atTime now s) hon hfree (by simp [hopen, hb, hok])

/-! ### KEY, CLAIM and RAISE_SVN (R389 to R391) -/

theorem execKey_judges (hb : mboxPayload 1216 r s = some b) :
    execKey r s = .next (if keyCode s b = mbOk then mboxReply r mbOk [] { s with nor := { s.nor with
        slots := tabSet {} s.nor.slots (byteAt b 3) (keySlotAfter s b), enrollCtr := leAt b 16 8 } }
      else mboxReply r (keyCode s b) [] (authFailure (keyCode s b) s)) := by
  by_cases hok : keyCode s b = mbOk
  · rw [if_pos hok]
    exact mboxRun_runs hon hfree (by simp [hb, hok])
  · rw [if_neg hok]
    exact mboxRun_runs hon hfree (by simp [hb, hok])

section claim
variable (hb : mboxPayload 384 r s = some b)
include hb

theorem execClaim_fuses (howner : s.nor.ownerHash = none) (hjob : s.job.state = 0) : execClaim r s =
    .next (mboxReply r mbOk [] { s with nor := { s.nor with ownerHash := some (sha256 b) } }) :=
  mboxRun_runs hon hfree (by simp [hb, howner, hjob])

theorem execClaim_refuses (howned : s.nor.ownerHash.isSome = true ∨ s.job.state ≠ 0) :
    execClaim r s = .next (mboxReply r mbState [] s) :=
  mboxRun_runs hon hfree (by rw [hb]; exact if_pos (by simpa using howned))

end claim

theorem execRaiseSvn_fuses (hb : mboxPayload 1 r s = some b) (hjob : s.job.state = 0) (hhigher : s.nor.svn < byteAt b 0)
    (himages : ∀ c < 4, byteAt b 0 ≤ imageSvn (runningBytes s c)) : execRaiseSvn r s =
      .next (mboxReply r mbOk [] { s with nor := { s.nor with svn := byteAt b 0 } }) := by
  have hrunning : ((List.range 4).any fun c => decide (imageSvn (runningBytes s c) < byteAt b 0)) = false := by
    simpa using himages
  exact mboxRun_runs hon hfree (by simp [hb, hjob, Nat.not_le.mpr hhigher, hrunning])

end free

/-- Settles O51: each command's equation where the mailbox is free. The order of the token's and the record's checks, within
`unlockCode` and `keyCode`, is log 41. -/
theorem securityMailbox : Obligations.SecurityMailbox := by
  refine ⟨?timed, ?expiry, ?fused⟩
  case timed =>
    rintro s u now r hu hon hfree
    refine ⟨?_, ?_, fun b hopen hb => execUnlock_judges hon hfree hopen hb hu⟩
    · subst hu
      exact fun p b => execNonce_issues hon hfree
    · subst hu
      exact execUnlock_locked hon hfree
  case expiry =>
    rintro s _ now t b rfl hnonce hdue
    exact execNonceExpiry_ends hnonce hdue
  case fused =>
    intro s r hon hfree
    exact ⟨fun b => execKey_judges hon hfree, fun b hb => ⟨execClaim_fuses hon hfree hb, execClaim_refuses hon hfree hb⟩,
      fun b => execRaiseSvn_fuses hon hfree⟩

end Sys2Proof.Machine
end

section
/-! The management protocols (R388, R393 to R396, R398, R399, R427): SPDM requests in and out of their order, PLDM firmware
updates, ports and the management address. -/

namespace Sys2Proof.Machine

variable {s : State} {now ep : Nat}

@[simp] theorem imageOk_atTime (now comp img : Nat) (s : State) : imageOk (atTime now s) comp img = imageOk s comp img := rfl
@[simp] theorem newImage_atTime (now comp : Nat) (s : State) : newImage (atTime now s) comp = newImage s comp := rfl

/-! ### SPDM (R394) -/

section powered
variable (hon : s.boot.powered = true)
include hon

theorem spdmRun_answers {need : Nat} {reply : SpdmReply} {t : State} {f : State → SpdmReply × State}
    (hturn : need ≤ spdmAt s ep) (hf : f s = (reply, t)) : spdmRun ep need f s = .next (emit (.spdm ep reply) t) := by
  simp only [spdmRun, hon, Nat.not_lt.mpr hturn, hf, Bool.not_true, Bool.false_eq_true, if_false]

theorem spdmRun_early {need : Nat} (f : State → SpdmReply × State) (hearly : spdmAt s ep < need) :
    spdmRun ep need f s = .next (emit (.spdm ep .errorUnexpected) s) := by
  simp only [spdmRun, hon, hearly, Bool.not_true, Bool.false_eq_true, if_false, if_true]

theorem execGetVersion_answers : execGetVersion ep s = .next (emit (.spdm ep (.version 0x13)) (setSpdm ep 1 s)) :=
  spdmRun_answers hon (Nat.zero_le _) rfl

theorem execGetCapabilities_answers (hturn : 1 ≤ spdmAt s ep) : execGetCapabilities ep s =
    .next (emit (.spdm ep (.capabilities true true true 17)) (setSpdm ep (max 2 (spdmAt s ep)) s)) :=
  spdmRun_answers hon hturn rfl

theorem execNegotiateAlgorithms_answers (hturn : 2 ≤ spdmAt s ep) :
    execNegotiateAlgorithms ep s = .next (emit (.spdm ep (.algorithms 8 1 2 1)) (setSpdm ep 3 s)) :=
  spdmRun_answers hon hturn rfl

theorem execSpdmUnsupportedRequest_answers (code : Nat) :
    execSpdmUnsupportedRequest ep code s = .next (emit (.spdm ep (.errorUnsupported code)) s) := by
  rw [execSpdmUnsupportedRequest, if_pos hon]

theorem execGetDigests_early (hearly : spdmAt s ep < 3) : execGetDigests ep s = .next (emit (.spdm ep .errorUnexpected) s) :=
  spdmRun_early hon _ hearly

section negotiated
variable (hturn : 3 ≤ spdmAt s ep)
include hturn

theorem execGetDigests_answers : execGetDigests ep s = .next (emit (.spdm ep (.digests 1 (sha256 Config.certChain))) s) :=
  spdmRun_answers hon hturn rfl

theorem execGetCertificate_answers {off n : Nat} {p : List Byte} (hoff : off ≤ Config.certChain.length)
    (hp : p = cut Config.certChain off n) : execGetCertificate ep 0 off n s =
      .next (emit (.spdm ep (.certificate p (Config.certChain.length - off - p.length))) s) := by
  subst hp
  exact spdmRun_answers hon hturn (if_neg (by simpa using hoff))

theorem execChallenge_signs {nonce sig : List Byte} {v : State} (hkeys : s.sc.zeroized = false)
    (hsig : identitySignature (sha256 Config.certChain ++ nonce) s = (sig, v)) : execChallenge ep 0 nonce s =
      .next (emit (.spdm ep (.challengeAuth 0 (sha256 Config.certChain) sig)) v) :=
  spdmRun_answers hon hturn (by simp [hkeys, hsig])

theorem execGetMeasurements_answers (nonce : List Byte) :
    execGetMeasurements ep false nonce s = .next (emit (.spdm ep (.measurements (measurements s) none)) s) :=
  spdmRun_answers hon hturn rfl

theorem execGetMeasurements_signs {nonce sig : List Byte} {v : State} (hkeys : s.sc.zeroized = false)
    (hsig : identitySignature ((measurements s).flatMap (·.2) ++ nonce) s = (sig, v)) : execGetMeasurements ep true nonce s =
      .next (emit (.spdm ep (.measurements (measurements s) (some sig))) v) :=
  spdmRun_answers hon hturn (by simp [hkeys, hsig])

end negotiated

/-! ### PLDM firmware update (R388, R398) -/

theorem execRequestUpdate_starts (hnone : s.gz.fwPending = none) (hbright : s.gz.blackout = false) :
    execRequestUpdate ep s = .next (emit (.pldm ep pldmOk 0) { s with sc := { s.sc with updating := some ep } }) := by
  simp [execRequestUpdate, hon, hnone, hbright]

theorem execRequestUpdate_retries (hbusy : s.gz.fwPending.isSome = true ∨ s.gz.blackout = true) :
    execRequestUpdate ep s = .next (emit (.pldm ep pldmRetry 0) s) := by
  have hbusy' : (s.gz.fwPending.isSome || s.gz.blackout) = true := by simpa using hbusy
  simp only [execRequestUpdate, hon, hbusy', Bool.not_true, Bool.false_eq_true, if_false, if_true]

section update
variable (hep : s.sc.updating = some ep)
include hep

/-- A component that the update accepts is written to the image that is not running, and verified. -/
theorem execFirmwareImageTransfer_writes {c i : Nat} {image : List Byte} {v : State} (hc : componentOk s c = true)
    (hi : i = 1 - runningImage s c % 2) (hv : v = setImageOk c i (verifyImage s c image) { s with nor := { s.nor with
      images := tabPut s.nor.images (2 * c + i) image } }) : execFirmwareImageTransfer c image s =
      .next (if verifyImage s c image = true then
          (if s.boot.recovery = true then coldBoot 4 (setBootImage c i (emit (.pldm ep pldmOk 0) v))
            else emit (.pldm ep pldmOk 0) v)
        else emit (.pldm ep pldmVerifyFailed 0) (securityViolation 4 c 0 0 v)) := by
  subst hi hv
  cases hok : verifyImage s c image <;> simp [execFirmwareImageTransfer, hep, hon, hc, hok, setImageOk]

theorem execActivateFirmware_acts {c : Nat} {v : State} (hnone : s.gz.fwPending = none) (hc : c < 4)
    (hok : imageOk s c (newImage s c) = true)
    (hv : v = emit (.pldm ep pldmOk 0) { atTime now s with sc := { s.sc with updating := none } }) :
    execActivateFirmware now c s = .next (if jobLive s = true then v else activateNow c v) := by
  subst hv
  simp only [execActivateFirmware, atTime_sc, atTime_boot, atTime_gz, newImage_atTime, imageOk_atTime, hep, hon, hnone, hok,
    Nat.not_lt.mpr (Nat.le_of_lt_succ hc), Bool.not_true, decide_false, Bool.or_self, Option.isSome_none, Bool.false_eq_true,
    if_false]
  rfl

end update

end powered

/-! ### Ports and the management address (R399, R427) -/

theorem execPluggableInsertion_notes {port w : Nat} (hport : port < 4) : execPluggableInsertion port w s =
    .next { s with net := { s.net with cages := tabPut s.net.cages port (true, decide (16 < w)) } } := by
  simp [execPluggableInsertion, onUnit, hport]

/-- Settles O52: each command's equation where it acts. The protocols' codes are log 46. -/
theorem management : Obligations.Management := by
  refine ⟨fun s ep hon => ⟨execGetVersion_answers hon, execGetCapabilities_answers hon, execNegotiateAlgorithms_answers hon,
    execGetDigests_early hon, fun hturn => ⟨execGetDigests_answers hon hturn, fun off n p => execGetCertificate_answers hon hturn,
      fun nonce sig v => execChallenge_signs hon hturn, execGetMeasurements_answers hon hturn,
      fun nonce sig v => execGetMeasurements_signs hon hturn⟩,
    execSpdmUnsupportedRequest_answers hon, execRequestUpdate_starts hon, execRequestUpdate_retries hon⟩,
    ?transfer, ?activate, fun s port w => execPluggableInsertion_notes, fun s a daa => rfl⟩
  case transfer =>
    intro s v ep c i image hon hep hc hi hv
    have hwrites (hok : componentOk s c = true) := execFirmwareImageTransfer_writes hon hep hok hi hv
    refine ⟨fun hrec => (hwrites ?_).trans ?_, fun hrec hcomp => (hwrites ?_).trans ?_⟩
    · simp [componentOk, hc, hrec]
    · simp [hrec]
    · simpa [componentOk, hc, hrec] using hcomp
    · simp [hrec]
  case activate =>
    rintro s _ v now ep c rfl hon hep hnone hc hok hv
    have hacts := execActivateFirmware_acts hon hep hnone hc hok hv
    exact ⟨fun hlive => hacts.trans (congrArg _ (if_pos hlive)),
      fun hidle => hacts.trans (congrArg _ (if_neg (by simp [hidle])))⟩

end Sys2Proof.Machine
end

section
/-! Power-up, the phases of a cold boot, warm reset, scan, the host complex and firmware activation: what each command does where
it acts (R379, R382, R383, R388, R402, R403, R405, R413, R418 to R421). -/

namespace Sys2Proof.Machine

variable {s : State} {now : Nat}

/-! ### The phases of a cold boot (R388, R403) -/

/-- The work with which a phase of a cold boot ends. -/
def phaseEnd (phase : Nat) (failed : List UnitId) (images : BitVec 8) (t : State) : State :=
  match phase with
  | 0 => endPower t
  | 1 => endRom images t
  | 2 => endPriv failed t
  | 3 => endXd t
  | 4 => endMemory failed t
  | 5 => endFill failed t
  | 6 => endColdBist failed t
  | _ => t

/-- A cold boot is in progress: nothing stops its phases. -/
structure ColdBooting (b : Boot) : Prop where
  powered : b.powered = true
  recovery : b.recovery = false
  warm : b.warm = false
  scan : b.scan = false

theorem ColdBooting.goesOn {b : Boot} (h : ColdBooting b) : (!b.powered || b.recovery || b.warm || b.scan) = false := by
  simp [h.powered, h.recovery, h.warm, h.scan]

section boot
variable (h : ColdBooting s.boot)
include h

theorem execBootPhaseComplete_ends (failed : List UnitId) (images : BitVec 8) : execBootPhaseComplete now failed images s =
    .next (phaseEnd s.boot.phase failed images (atTime now s)) :=
  congrArg _ (if_neg (by simp [h.goesOn]))

/-- Past three times its time a phase fails with code 4 (R403). -/
theorem execBootPhaseTimeout_fails (hphase : s.boot.phase ≤ 6)
    (hlate : s.boot.phaseAt + 3 * phaseMs s.boot.phase * 1000000 ≤ (atTime now s).now) : execBootPhaseTimeout now s =
      .next (endBoot 9 { atTime now s with boot := { s.boot with failCode := 4 } }) :=
  congrArg _ (if_neg (by simp [h.goesOn, Nat.not_lt.mpr hphase, Nat.not_lt.mpr hlate]))

end boot

/-! ### Warm reset, recovery and the watchdog (R402, R405) -/

section ready
variable (hon : s.boot.powered = true) (hready : s.boot.phase = 7)
include hon hready

theorem execModRstNFall_resets :
    execModRstNFall now s = .next (warmReset 8 { atTime now s with boot := { s.boot with modRstN := false } }) :=
  congrArg _ (if_pos (by simp [hon, hready]))

theorem execWatchdog_resets (images : BitVec 8) : execWatchdog now images s = .next
    (if (warmReset 9 (atTime now s)).boot.modRstN = true then warmRecover images (warmReset 9 (atTime now s))
      else warmReset 9 (atTime now s)) :=
  congrArg _ (if_pos (by simp [hon, hready]))

end ready

theorem execModRstNRise_recovers (images : BitVec 8) (hwarm : s.boot.warm = true) : execModRstNRise now images s =
    .next (warmRecover images { atTime now s with boot := { s.boot with modRstN := true } }) :=
  congrArg _ (if_pos hwarm)

/-- A cold boot that waits after PHASE 0 goes on (R420). -/
theorem execModRstNRise_goesOn (images : BitVec 8) (hwarm : s.boot.warm = false) (hon : s.boot.powered = true)
    (hphase : s.boot.phase = 0) (hgood : s.boot.pgood = true) (hscan : s.boot.scan = false) : execModRstNRise now images s =
      .next (enterPhase 1 { atTime now s with boot := { s.boot with modRstN := true } }) := by
  simp [execModRstNRise, hwarm, hon, hphase, hgood, hscan]

/-! ### Scan (R379) -/

/-- What EXTEST leaves of an unlocked module (R379, log 42). -/
def scanState (t : State) : State :=
  let d := darkState t
  { d with
    now := t.now
    sc := { t.sc with zeroized := true }
    lg := { lasers := t.lg.lasers }
    boot := { d.boot with
      powered := true, pgood := t.boot.pgood, scan := true, cause := t.boot.cause, warmCount := t.boot.warmCount } }

section scan
variable (hon : s.boot.powered = true)
include hon

theorem execJtagExtestEntry_refuses (hlocked : s.sc.debug = false) :
    execJtagExtestEntry now s = .next (securityViolation 2 0 0 0 (atTime now s)) := by
  simp [execJtagExtestEntry, hon, hlocked]

theorem execJtagExtestEntry_scans (hopen : s.sc.debug = true) : execJtagExtestEntry now s = .next (scanState (atTime now s)) :=
  congrArg _ ((if_neg (by simp [hon])).trans (if_neg (by simp [hopen])))

end scan

theorem execJtagScanExit_boots (hscan : s.boot.scan = true) : execJtagScanExit now s = .next (coldBoot 3 (atTime now s)) :=
  congrArg _ (if_pos hscan)

/-! ### The host complex (R413, R421) -/

theorem execHostRstN_boots (hready : s.boot.phase = 7) :
    execHostRstN now true s = .next (bootHost { atTime now s with boot := { s.boot with hostRstN := true } }) :=
  congrArg _ (if_pos hready)

/-! ### Firmware activation (R382, R383) -/

section go
variable {t i : Nat} (ht : t < 2) (hi : i < 2) (hok : imageOk s t i = true) (hnone : s.gz.fwPending = none)
include ht hi hok hnone

theorem execFwGo_waits (hlive : jobLive s = true) (hfar : s.tk.tick + 2 ≤ s.gz.fwTick) : execFwGo t i s =
    .next { s with gz := { s.gz with fwPending := some (t, i, s.gz.fwTick), fwState := 1, fwCode := 0 } } := by
  simp only [execFwGo, Nat.mod_eq_of_lt ht, Nat.mod_eq_of_lt hi, hok, hnone, hlive, Nat.not_lt.mpr hfar, decide_false,
    Bool.and_false, Bool.not_true, Option.isSome_none, Bool.false_eq_true, if_false, if_true]

theorem execFwGo_activates (hidle : jobLive s = false) :
    execFwGo t i s = .next (activate t i s.tk.tick { s with gz := { s.gz with fwCode := 0 } }) := by
  simp only [execFwGo, Nat.mod_eq_of_lt ht, Nat.mod_eq_of_lt hi, hok, hnone, hidle, Bool.false_and, Bool.not_true,
    Option.isSome_none, Bool.false_eq_true, if_false, refuseFw]

end go

section activation
variable {t i n : Nat} (hpending : s.gz.fwPending = some (t, i, n))
include hpending

theorem execFwActivation_ends (hdark : s.gz.blackout = true) (hin : (atTime now s).now ≤ s.gz.fwSince + 200000) :
    execFwActivation now s = .next (fwRunning i n (atTime now s)) := by
  simp only [execFwActivation, atTime_gz, hpending, hdark, blackoutLimit, hin, if_true]

theorem execFwActivation_begins (hbright : s.gz.blackout = false) (hdue : n ≤ s.tk.tick) :
    execFwActivation now s = .next (activate t i n (atTime now s)) := by
  simp only [execFwActivation, atTime_gz, atTime_tk, hpending, hbright, hdue, Bool.false_eq_true, if_false, decide_true,
    Bool.true_or, if_true]

theorem execFwRevert_reverts {us : Nat} {v : State} (hdark : s.gz.blackout = true)
    (hlate : s.gz.fwSince + 200000 ≤ (atTime now s).now)
    (hv : v = flushBuffer { atTime now s with gz := { s.gz with fwPending := none, fwState := 0, fwCode := 4 } }) :
    execFwRevert now us s = .next (raise evFirmwareActivated sevWarn uModule
      (fwDetail 0 v.gz.shImage 1 (imageVersion (imageBytes v 0 v.gz.shImage)) us n) v) := by
  simp only [execFwRevert, atTime_gz, hpending, hdark, blackoutLimit, hlate, decide_true, Bool.and_self, if_true, hv]

end activation

/-- Settles O50: each command's equation where it acts. Recovery to READY in one command and the state that EXTEST leaves are
log 42, and that a second FW_ACTIVATION ends the blackout is log 43. -/
theorem firmwareAndBoot : Obligations.FirmwareAndBoot := by
  rintro s _ now rfl
  refine ⟨rfl, rfl, fun v hv => hv ▸ rfl, fun v hv => hv ▸ rfl, fun hon hrec hwarm hscan => ?cold,
    fun hon hready => ⟨execModRstNFall_resets hon hready, execWatchdog_resets hon hready⟩, fun images v hv => ?rise,
    fun hon => ⟨execJtagExtestEntry_refuses hon, fun hopen =>
      ⟨_, execJtagExtestEntry_scans hon hopen, rfl, rfl, rfl, rfl, rfl, rfl, rfl, rfl⟩⟩,
    execJtagScanExit_boots, rfl, execHostRstN_boots,
    fun t i ht hi hok hnone => ⟨execFwGo_waits ht hi hok hnone, execFwGo_activates ht hi hok hnone⟩,
    fun t i n hpending => ⟨execFwActivation_ends hpending, execFwActivation_begins hpending,
      fun us v => execFwRevert_reverts hpending⟩⟩
  case cold =>
    have hboot : ColdBooting s.boot := ⟨hon, hrec, hwarm, hscan⟩
    refine ⟨fun failed images => ?_, execBootPhaseTimeout_fails hboot⟩
    have hends {n : Nat} (hphase : s.boot.phase = n) :
        exec (.bootPhaseComplete now failed images) s = .next (phaseEnd n failed images (atTime now s)) :=
      hphase ▸ execBootPhaseComplete_ends hboot failed images
    exact ⟨hends, hends, hends, hends, hends, hends, hends⟩
  case rise =>
    subst hv
    exact ⟨execModRstNRise_recovers images, execModRstNRise_goesOn images⟩

end Sys2Proof.Machine
end

section
/-! Hosts and their queues: attach, heartbeat, loss, the ADMIN ring's poll and doorbell, the overflow ring, and stale entries
(R326 to R328, R336, R346 to R349, R421). -/

namespace Sys2Proof.Machine

variable {s : State} {now : Nat}

/-! ### Attach and loss (R346 to R349) -/

section attach
variable {path : Nat} {v : State} (hready : s.boot.phase = 7) (hapart : s.hq.attach.state ≠ 1) (hv : v = { atTime now s with
  hq := { s.hq with
    attach := { s.hq.attach with state := 1, generation := (s.hq.attach.generation + 1) % 2 ^ 32, path := path % 2 }
    beatAt := (atTime now s).now, attachSent := 0 } })
include hready hapart hv

theorem execHqAttach_announces (hnone : s.hq.ovf = []) : execHqAttach now path s =
    .next (deliver (hostAttached v.hq.nextSeq v) { v with hq := { v.hq with nextSeq := v.hq.nextSeq + 1 } }) := by
  subst hv
  exact congrArg _ ((if_neg (by simp [hready, hapart])).trans (if_pos (by simp [hnone])))

/-- HOST_ATTACHED waits behind the records of the overflow ring (log 36). -/
theorem execHqAttach_drains (hsome : s.hq.ovf ≠ []) : execHqAttach now path s = .next (drainOvf { v with hq := { v.hq with
    attachLeft := some (v.hq.ovf.length, v.hq.nextSeq), nextSeq := v.hq.nextSeq + 1 } }) := by
  subst hv
  exact congrArg _ ((if_neg (by simp [hready, hapart])).trans (if_neg (by simp [hsome])))

end attach

theorem execHeartbeatTimeout_loses (hset : s.hq.hbMs ≠ 0) (hlate : s.hq.beatAt + s.hq.hbMs * 1000000 ≤ (atTime now s).now) :
    execHeartbeatTimeout now s = .next (hostLost 0 sevDegrade (atTime now s)) :=
  congrArg _ (if_pos (by simp [hset, hlate]))

/-! ### The ADMIN ring (R326, R327) -/

@[simp] theorem adminOn_atTime (now : Nat) (s : State) : adminOn (atTime now s) = adminOn s := rfl
@[simp] theorem adminSlot_atTime (now n : Nat) (s : State) : adminSlot (atTime now s) n = adminSlot s n := rfl

theorem execAdminPoll_drains (hbright : s.gz.blackout = false) : execAdminPoll now s = .next (drainAdmin now (atTime now s)) :=
  congrArg _ (if_neg (by simp [hbright]))

section admin
variable (hadmin : adminOn s = true) {v : State}
include hadmin

section found
variable {b : List Byte} (hhead : adminHead (atTime now s) = (some b, v))
include hhead

theorem execDoorbell_starts (hquiet : s.hq.rereads = 0) : execDoorbell now 0 s = .next (drainAdmin now (atTime now s)) := by
  simp [execDoorbell, adminDoorbell, hadmin, hquiet, hhead]

theorem execDoorbellReread_starts (hleft : s.hq.rereads ≠ 0) : execDoorbellReread now s =
    .next (drainAdmin now { atTime now s with hq := { s.hq with rereads := 0 } }) := by
  simp [execDoorbellReread, hadmin, hleft, hhead]

end found

variable (hhead : adminHead (atTime now s) = (none, v))
include hhead

theorem execDoorbell_early (hquiet : s.hq.rereads = 0) :
    execDoorbell now 0 s = .next { v with hq := { v.hq with rereads := 16 } } := by
  simp [execDoorbell, adminDoorbell, hadmin, hquiet, hhead, rereadCount]

/-- The last of the re-reads in vain counts an early doorbell. -/
theorem execDoorbellReread_inVain {w : State} (hleft : s.hq.rereads ≠ 0)
    (hw : w = { v with hq := { v.hq with rereads := v.hq.rereads - 1 } }) :
    execDoorbellReread now s = .next (if w.hq.rereads = 0 then tally tlEarlyDoorbell w else w) := by
  subst hw
  simp [execDoorbellReread, hadmin, hleft, hhead]

end admin

/-! ### The other queues (R326, R328) -/

section queue
variable {q : Nat} {x : Queue} (hq : q ≠ 0) (hx : tabFind s.hq.queues q = some x)
include hq hx

theorem execDoorbell_drains (hevents : x.kind = 1) (hsome : s.hq.ovf ≠ []) :
    execDoorbell now q s = .next (drainOvf (atTime now s)) := by
  simp [execDoorbell, hq, hx, hevents, hsome]

theorem execDoorbell_rereads (hkind : x.kind = 1 ∧ s.hq.ovf = [] ∨ x.kind = 2) :
    execDoorbell now q s = .next (rereadSlot q x (atTime now s)) := by
  obtain ⟨hevents, hnone⟩ | htelemetry := hkind
  · simp [execDoorbell, hq, hx, hevents, hnone]
  · simp [execDoorbell, hq, hx, htelemetry]

theorem execDoorbell_ring (hkind : 2 < x.kind) : execDoorbell now q s = .next (atTime now s) := by
  simp [execDoorbell, hq, hx, (Nat.lt_trans Nat.one_lt_two hkind).ne', hkind.ne']

end queue

theorem execStaleDescriptorTimeout_reports {ms : Nat} {b : Option (List Byte)} {v : State} (hms : 10 ≤ ms)
    (hadmin : adminOn s = true) (hfirst : s.hq.adminStale = false)
    (hread : hqRead 0 (adminSlot s s.hq.adminPos + 63) 1 (atTime now s) = (b, v))
    (hown : hostOwned b = true) : execStaleDescriptorTimeout now 0 ms s = .next (raise evStaleDescriptor sevWarn uHq
      (staleDetail 0 v.hq.adminPos ms) { v with hq := { v.hq with adminStale := true } }) := by
  simp [execStaleDescriptorTimeout, Nat.not_lt.mpr hms, hadmin, hfirst, hread, hown]

/-- Settles O54: each command's equation where it acts. One poll starts every device-owned entry (log 14), and HOST_ATTACHED
keeps its place behind the records that wait (log 36). -/
theorem hostQueues : Obligations.HostQueues := by
  rintro s _ now rfl
  refine ⟨fun path v hready hapart hv => ⟨execHqAttach_announces hready hapart hv, execHqAttach_drains hready hapart hv⟩,
    rfl, fun beat => rfl, execHeartbeatTimeout_loses, rfl, execAdminPoll_drains, fun hadmin => ⟨?found, ?early⟩,
    fun q x hq hx => ⟨execDoorbell_drains hq hx, execDoorbell_rereads hq hx, execDoorbell_ring hq hx⟩,
    fun ms b v => execStaleDescriptorTimeout_reports, rfl, rfl, rfl⟩
  case found => exact fun b v hhead => ⟨execDoorbell_starts hadmin hhead, execDoorbellReread_starts hadmin hhead⟩
  case early => exact fun v hhead => ⟨execDoorbell_early hadmin hhead, fun w => execDoorbellReread_inVain hadmin hhead⟩

end Sys2Proof.Machine
end
